-- ==== Sys2Proof/Word.lean ====
section
/-! DEFINITION. The word types of the KV8 and the closed sets of names that its instructions and events carry as
operands: rounding modes (R41, R161), element types and widths (R164), scopes (R26), atomic operations (R285),
access sizes (R283), resource classes (R139), the units that hold a translation cache (R276), and the targets of a
Kenval register write. -/

namespace Sys2Proof

/-- A scalar register, an address register or a Y-register (R173). -/
abbrev Word := BitVec 64

/-- One byte of any memory (R3). -/
abbrev Byte := BitVec 8

/-- One 40-bit lane of a vector register (R173). -/
abbrev Lane := BitVec 40

/-- A tile's index within the package: die in [7], cluster in [6:4], tile in [3:0] (R13). -/
abbrev TileId := BitVec 8

/-- A context ID (R19). -/
abbrev CtxId := BitVec 6

/-- Rounding index r of R161. -/
inductive RMode where
  | rne | rz | rd | ru
  deriving DecidableEq, Repr, Inhabited

/-- Integer element types t of R164, in index order. -/
inductive ITy where
  | i32 | i16 | i8 | i4 | n32 | n16 | n8 | n4
  deriving DecidableEq, Repr, Inhabited

/-- Width forms w of R164. -/
inductive IWidth where
  | w32 | w16 | w8 | w4
  deriving DecidableEq, Repr, Inhabited

/-- Float element types f of R164. -/
inductive FTy where
  | f32 | bf16
  deriving DecidableEq, Repr, Inhabited

/-- Conversion-only types e of R164. -/
inductive ETy where
  | fp16 | e4m3 | e5m2
  deriving DecidableEq, Repr, Inhabited

/-- Scopes of R26 and R304, in code order. -/
inductive Scope where
  | tile | clus | die | pkg | sys | fab
  deriving DecidableEq, Repr, Inhabited

/-- Operations of `AMO.G` in index order (R285). -/
inductive AmoOp where
  | add | and | or | xor | min | max | swap | cas
  deriving DecidableEq, Repr, Inhabited

/-- Access sizes of the scalar loads and stores (R283). -/
inductive MemSize where
  | b | h | w | d
  deriving DecidableEq, Repr, Inhabited

/-- Resource classes of R139. -/
inductive ResClass where
  | core | vector | matrix | transpose | spill | half
  deriving DecidableEq, Repr, Inhabited

/-- The units with a timebase (R276, R279): those that keep leased translations, a tile's memory unit, a cluster's gather
engine and a port's fabric engine (R326, R328); and the targets of stamped requests, a die's HBM4 controller, a Sward bank
and the host-link egress. -/
inductive XUnit where
  | tile (t : TileId)
  | gather (cluster : BitVec 4)
  | fabric (port : BitVec 5)
  | hbm (die : BitVec 1)
  | bank (bank : BitVec 11)
  | hostLink
  deriving DecidableEq, Repr, Inhabited

/-- Kind of access of a page walk (R275). -/
inductive AccessKind where
  | read | write | atomic
  deriving DecidableEq, Repr, Inhabited

/-- Which of a tile's scalar accesses an event serves: the first of a queue (R284), an access to class 1 or 2 at a later place of
a queue, which may go before earlier ones (R306), or the completion of a class 1 or 2 write that the host-link egress has
accepted, the oldest or another (R305, R306). -/
inductive QueueSel where
  | load | store | host
  | loadAt (i : Nat) | storeAt (i : Nat) | hostAt (i : Nat)
  deriving DecidableEq, Repr, Inhabited

/-- Where a dump goes (R369): a host buffer at a host-physical address, or frames on a port. -/
inductive DumpDest where
  | host (pa : BitVec 64)
  | port (p : BitVec 5)
  deriving DecidableEq, Repr, Inhabited

/-- The registers and tables that Kenval writes and that have no row of their own in the opcode table
(KENVAL_REGISTER_WRITE), each with the value written. -/
inductive KReg where
  /-- Bytes of a Sward system bank: templates (R23) and set-up data (R171). -/
  | sward (sga : BitVec 29) (bytes : List Byte)
  /-- Bytes of HBM4 through Kenval's window (R409): page tables, member lists, buffers. -/
  | hbm (pa : BitVec 52) (bytes : List Byte)
  /-- Entry of the remote-window table (R321). -/
  | remoteWindow (i : BitVec 16) (v : BitVec 256)
  /-- Place of the grant table in HBM4: address bits [51:5] (R323, R419). -/
  | grantTable (base : BitVec 47)
  /-- Entry of the grant table (R323). -/
  | grantEntry (i : BitVec 16) (v : BitVec 256)
  /-- Grant key of a context (R324). -/
  | grantKey (ctx : CtxId) (k : BitVec 256)
  /-- Port mask of a packet multicast group (R93). -/
  | packetGroup (g : BitVec 10) (mask : BitVec 32)
  /-- Descriptor of a fabric multicast group (R329). -/
  | fabricGroup (g : BitVec 10) (v : BitVec 128)
  /-- Monitor route mask of a die (R340). -/
  | monitorRoute (die : BitVec 1) (v : BitVec 256)
  /-- Bytes of a tile's monitor region (R146, MEAS2 of R378). -/
  | monitorImage (t : TileId) (off : BitVec 13) (bytes : List Byte)
  /-- Registration of a tile image (R26, MEAS6 of R378). -/
  | image (ctx : CtxId) (id : BitVec 32) (bytes : List Byte)
  /-- Trace control word (R359). -/
  | traceControl (die : BitVec 1) (v : BitVec 64)
  /-- Trace context mask (R359). -/
  | traceContexts (die : BitVec 1) (v : BitVec 64)
  /-- Trace unit filter (R359). -/
  | traceFilter (die : BitVec 1) (value mask : BitVec 16)
  /-- Trace read pointer (R360). -/
  | traceRptr (die : BitVec 1) (v : BitVec 64)
  /-- Record and replay enables of a context (R371, R372). -/
  | replayControl (ctx : CtxId) (record replay : Bool)
  /-- Replay log of a context in HBM4: address bits [51:12] and LOGSZ (R371, R419). -/
  | replayLog (ctx : CtxId) (base : BitVec 40) (logsz : BitVec 5)
  /-- Write and read pointers of a context's replay log, as Kenval sets them for a replay or reads the log out (R371, R372). -/
  | replayPointers (ctx : CtxId) (wptr rptr : BitVec 64)
  /-- Where a die's dumps go: a host buffer, or a port that Kenval names (R369). -/
  | dumpTarget (die : BitVec 1) (dest : DumpDest)
  /-- Data watchpoint of a context (R365). -/
  | watchpoint (ctx : CtxId) (w : BitVec 2) (v : BitVec 128)
  /-- Instruction breakpoint of a tile (R362). -/
  | breakpoint (t : TileId) (i : BitVec 2) (en : Bool) (ctx : CtxId) (addr : BitVec 18)
  /-- STEP bit of a tile (R363). -/
  | stepBit (t : TileId) (on : Bool)
  /-- Slice length of a tile (R136). -/
  | sliceLength (t : TileId) (v : BitVec 25)
  /-- Hang-watchdog limit of a tile in nanoseconds (R356). -/
  | watchdogLimit (t : TileId) (ns : BitVec 64)
  /-- Remote timeout of the package in nanoseconds (R302). -/
  | remoteTimeout (ns : BitVec 64)
  /-- Timed-launch entry (R142). -/
  | timedLaunch (die : BitVec 1) (i : BitVec 4) (v : BitVec 256)
  /-- Zero written to one field of a context's retire block: TASKS, ICYC, FCYC, ENDLESS (R376). -/
  | retireZero (ctx : CtxId) (field : BitVec 2)
  /-- Zero written to a queue's RETN (R376). -/
  | retnZero (q : BitVec 7)
  /-- A port counter cleared: the counters of R74 in its order; port 32 is the host window. -/
  | counterZero (port : BitVec 6) (counter : BitVec 4)
  /-- MACF of a port cleared (R327). -/
  | macfZero (port : BitVec 5)
  /-- Package power cap in watts (R384). -/
  | powerCap (watts : BitVec 16)
  /-- Step of the package clock (R330). -/
  | clockStep (v : BitVec 64)
  /-- Prefix of an entry of a longest-prefix table: table, entry, the key as a number whose highest bits are the prefix, and
  its length (R84). -/
  | tablePrefix (die : BitVec 1) (table : BitVec 6) (entry : BitVec 24) (key : BitVec 128) (len : BitVec 8)
  /-- Threshold of corrected symbol errors and floor of the eye margin of a port's lanes (R331). -/
  | laneLimits (port : BitVec 5) (threshold floor : BitVec 32)
  /-- A store of a Kenval core at an address of R409. -/
  | store (addr : BitVec 52) (bytes : List Byte)
  /-- A load of a Kenval core from an address of R409 into an integer register. -/
  | load (core : BitVec 2) (rd : BitVec 5) (addr : BitVec 52) (size : MemSize)
  /-- Bytes of Kenval's private SRAM (R9). -/
  | kenvalSram (a : BitVec 23) (bytes : List Byte)
  /-- What a Kenval core holds: program counter, integer and floating-point registers (R9). -/
  | kenvalCore (core : BitVec 2) (pc : BitVec 64) (x f : Vector (BitVec 64) 32)
  deriving DecidableEq, Repr, Inhabited

end Sys2Proof
end

