-- ==== Sys2Proof/Machine/Bits.lean ====
section
/-! DEFINITION. Bit fields, extensions, the narrowings sat and wrap of the number chapter (R48, R49), and little-endian
packing of bytes (R3). -/

namespace Sys2Proof.Machine

/-- zx(b, 6) and its kin: the value in 64 bits, unsigned. -/
def zx {n : Nat} (x : BitVec n) : Word := x.setWidth 64

/-- sx(b, 6) and its kin: the value in 64 bits, two's complement. -/
def sx {n : Nat} (x : BitVec n) : Word := x.signExtend 64

/-- `len` bits of x from bit `lo`. -/
def field {n : Nat} (x : BitVec n) (lo len : Nat) : BitVec len := x.extractLsb' lo len

/-- x with the `len` bits from bit `lo` replaced by v. -/
def putField {n : Nat} (x : BitVec n) (lo len : Nat) (v : BitVec len) : BitVec n :=
  (x &&& ~~~((BitVec.allOnes len).setWidth n <<< lo)) ||| (v.setWidth n <<< lo)

/-- One bit of x as a Bool. -/
def bit {n : Nat} (x : BitVec n) (i : Nat) : Bool := x.getLsbD i

/-- A Bool as a number. -/
def b2n (b : Bool) : Nat := if b then 1 else 0

/-- A Bool in w bits. -/
def b2v (w : Nat) (b : Bool) : BitVec w := if b then 1 else 0

/-- sat(v, lo, hi). -/
def satInt (v lo hi : Int) : Int := if v < lo then lo else if v > hi then hi else v

/-- The value in −2^(w−1) .. 2^(w−1)−1 congruent to v modulo 2^w: wrap(v, w). -/
def wrapInt (w : Nat) (v : Int) : Int := (BitVec.ofInt w v).toInt

/-- ceil(a / b) for a positive b. -/
def ceilDiv (a b : Nat) : Nat := (a + b - 1) / b

/-- Little-endian value of a list of bytes. -/
def leNat : List Byte → Nat
  | [] => 0
  | b :: bs => b.toNat + 256 * leNat bs

/-- The n little-endian bytes of v. -/
def leBytes (n v : Nat) : List Byte := (List.range n).map fun i => BitVec.ofNat 8 (v / 256 ^ i)

/-- Big-endian value of a list of bytes. -/
def beNat (bs : List Byte) : Nat := bs.foldl (fun a b => a * 256 + b.toNat) 0

/-- Byte i of a list, zero beyond its end. -/
def byteAt (bs : List Byte) (i : Nat) : Byte := bs.getD i 0

/-- Bytes i .. i+n−1 of a list, zero beyond its end. -/
def bytesAt (bs : List Byte) (i n : Nat) : List Byte := (List.range n).map fun k => byteAt bs (i + k)

/-- The list with bytes i .. replaced by `new` where both reach. -/
def spliceBytes (bs : List Byte) (i : Nat) (new : List Byte) : List Byte :=
  bs.take i ++ new.take (bs.length - i) ++ bs.drop (i + new.length)

/-- floor of the square root of n, bit by bit from bit k−1 (n below 2^(2k)). -/
def isqrtAux (n : Nat) : Nat → Nat → Nat
  | 0, acc => acc
  | k + 1, acc => if (acc + 2 ^ k) ^ 2 ≤ n then isqrtAux n k (acc + 2 ^ k) else isqrtAux n k acc

/-- floor of the square root of n. -/
def isqrt (n : Nat) : Nat := isqrtAux n (Nat.log2 n / 2 + 1) 0

end Sys2Proof.Machine
end

