-- ==== Sys2Proof/Machine/Crc.lean ====
section
/-! DEFINITION. CRC-32C, reflected, as R84 names it: Castagnoli polynomial 0x1EDC_6F41, a given preset, final exclusive-or
0xFFFF_FFFF. And the Ethernet FCS (IEEE 802.3, polynomial 0x04C1_1DB7 reflected). -/

namespace Sys2Proof.Machine

/-- One bit step of a reflected CRC with polynomial `poly` (already reflected). -/
def crcBit (poly c : BitVec 32) : BitVec 32 := if bit c 0 then (c >>> 1) ^^^ poly else c >>> 1

/-- One byte. -/
def crcByte (poly c : BitVec 32) (b : Byte) : BitVec 32 :=
  (List.range 8).foldl (fun c _ => crcBit poly c) (c ^^^ b.setWidth 32)

/-- Reflected 0x1EDC_6F41. -/
def polyC : BitVec 32 := 0x82F63B78

/-- CRC-32C of bytes with a preset (R84). -/
def crc32cFrom (preset : BitVec 32) (bs : List Byte) : BitVec 32 :=
  bs.foldl (crcByte polyC) preset ^^^ 0xFFFFFFFF

/-- CRC-32C of bytes (R70, R71, R318, R371, R373). -/
def crc32c (bs : List Byte) : BitVec 32 := crc32cFrom 0xFFFFFFFF bs

/-- The frame check sequence of an Ethernet frame (R67, R69). -/
def ethFcs (bs : List Byte) : BitVec 32 := bs.foldl (crcByte 0xEDB88320) 0xFFFFFFFF ^^^ 0xFFFFFFFF

end Sys2Proof.Machine
end

