-- ==== Sys2Proof/Config.lean ====
section
/-! DEFINITION. What an implementation fixes and the manual leaves open: values with no body, so that no proof can see
what they are. -/

namespace Sys2Proof.Config

/-- The fused seed of the device identity key (R379; log 15). -/
opaque identitySeed : BitVec 256

/-- A byte of a class as the save engine lays it out in its slot (R354; log 13), by the counter of free values and its offset
in the class. -/
opaque savedByte : Nat → Nat → BitVec 8

/-- Bytes of a dump in a host buffer (R369; log 106). -/
opaque dumpBytes : Nat → List (BitVec 8)

/-- Frames of a dump on a port (R369; log 106). -/
opaque dumpFrames : Nat → List (List (BitVec 8))

/-- Chip serial (R379; log 15). -/
opaque serial : BitVec 128

/-- Kenval's boot firmware, which the ROM measures (R377; log 15). -/
opaque bootFirmware : List Byte

/-- Where allocation of an ingress buffer starts to look for a free start, in 64-byte units (R78; log 11). -/
opaque bufStart : Nat → BitVec 13

/-- A byte of an ingress buffer beyond the end of the frame at hand (R117; log 11). -/
opaque bufferByte : Nat → BitVec 8

/-- A byte of the action data of a lookup that is not enabled (R113; log 121). -/
opaque lookupByte : Nat → BitVec 8

/-- Payload of a TIMESYNC or LANESWAP frame, whose format the manual does not give (R330, R331; log 11). -/
opaque linkPayload : Nat → List (BitVec 8)

/-- How far beyond 20 µs ahead a lane swap is set, in nanoseconds (R331; log 11). -/
opaque swapDelay : Nat → Nat

/-- Ethernet source address of a port (R69; log 11). -/
opaque portMac : BitVec 5 → BitVec 48

/-- Whether the power controller turns a cycle of a throttled tile into a frozen one (R384, R385; log 17). -/
opaque heldCycle : Nat → Bool

/-- The class in which a parity error of a tile is met (R346, R383; log 64). -/
opaque parityClass : Nat → ResClass

end Sys2Proof.Config
end

