-- ==== Sys2Proof/Machine/Causes.lean ====
section
/-! DEFINITION. The cause codes of R346, by name. -/

namespace Sys2Proof.Machine

/-- Every assigned cause (R346). -/
inductive Cause where
  | illegalOpcode
  | illegalOperand
  | reservedField
  | bundleForm
  | fetchBound
  | privileged
  | bswapState
  | imemTarget
  | tagMismatch
  | tagReserved
  | emulate
  | sparseMeta
  | anodeRange
  | loopForm
  | vecArg
  | matArg
  | matBusy
  | matRows
  | matMode
  | xposeState
  | treeArg
  | regionOff
  | regionBound
  | regionRight
  | laddrHigh
  | swardAlign
  | handleInvalid
  | handleForm
  | handleArg
  | pageFault
  | pageRights
  | pteForm
  | vaddrRange
  | leaseChanged
  | clockSkew
  | classOp
  | tmplInvalid
  | queueOwner
  | launchWord
  | gaddrAlign
  | upstream
  | cmdForm
  | indexRange
  | remoteRefused
  | mcastPartial
  | remoteTimeout
  | remoteData
  | grantRefused
  | laneSwapped
  | laneDegraded
  | linkDown
  | timeUnsync
  | cellIndex
  | cellOwner
  | cellSpent
  | cellBroken
  | pendNegative
  | countUnderflow
  | pendOverflow
  | syncArg
  | yieldOverrun
  | watchdog
  | gangLate
  | ctxLost
  | memExhausted
  | break_
  | watchStore
  /-- WATCH_STORE met by an atomic (R366, R422). -/
  | watchAtomic
  | watchCopy
  | watchRemote
  | debugStop
  | step
  | actOwner
  | actBound
  | actArg
  | actLimit
  | actForm
  | actKind
  | e2eCrc
  | admitSize
  | poisonedData
  | hbmUncorrected
  | d2dLink
  | stateParity
  | monitorFault
  /-- SOFT_TRAP n (R343). -/
  | softTrap (n : BitVec 4)
  deriving DecidableEq, Repr, Inhabited

/-- The 8-bit cause code (R346). -/
def causeCode : Cause → BitVec 8
  | .illegalOpcode => 0x01
  | .illegalOperand => 0x02
  | .reservedField => 0x03
  | .bundleForm => 0x04
  | .fetchBound => 0x05
  | .privileged => 0x06
  | .bswapState => 0x07
  | .imemTarget => 0x08
  | .tagMismatch => 0x10
  | .tagReserved => 0x11
  | .emulate => 0x12
  | .sparseMeta => 0x13
  | .anodeRange => 0x14
  | .loopForm => 0x15
  | .vecArg => 0x16
  | .matArg => 0x17
  | .matBusy => 0x18
  | .matRows => 0x19
  | .matMode => 0x1A
  | .xposeState => 0x1B
  | .treeArg => 0x1C
  | .regionOff => 0x20
  | .regionBound => 0x21
  | .regionRight => 0x22
  | .laddrHigh => 0x23
  | .swardAlign => 0x24
  | .handleInvalid => 0x25
  | .handleForm => 0x26
  | .handleArg => 0x27
  | .pageFault => 0x30
  | .pageRights => 0x31
  | .pteForm => 0x32
  | .vaddrRange => 0x33
  | .leaseChanged => 0x34
  | .clockSkew => 0x35
  | .classOp => 0x36
  | .tmplInvalid => 0x40
  | .queueOwner => 0x41
  | .launchWord => 0x42
  | .gaddrAlign => 0x43
  | .upstream => 0x44
  | .cmdForm => 0x45
  | .indexRange => 0x46
  | .remoteRefused => 0x50
  | .mcastPartial => 0x51
  | .remoteTimeout => 0x52
  | .remoteData => 0x53
  | .grantRefused => 0x54
  | .laneSwapped => 0x55
  | .laneDegraded => 0x56
  | .linkDown => 0x57
  | .timeUnsync => 0x58
  | .cellIndex => 0x60
  | .cellOwner => 0x61
  | .cellSpent => 0x62
  | .cellBroken => 0x63
  | .pendNegative => 0x64
  | .countUnderflow => 0x65
  | .pendOverflow => 0x66
  | .syncArg => 0x67
  | .yieldOverrun => 0x70
  | .watchdog => 0x71
  | .gangLate => 0x72
  | .ctxLost => 0x73
  | .memExhausted => 0x74
  | .break_ => 0x80
  | .watchStore => 0x81
  | .watchAtomic => 0x81
  | .watchCopy => 0x82
  | .watchRemote => 0x83
  | .debugStop => 0x84
  | .step => 0x85
  | .actOwner => 0xA0
  | .actBound => 0xA1
  | .actArg => 0xA2
  | .actLimit => 0xA3
  | .actForm => 0xA4
  | .actKind => 0xA5
  | .e2eCrc => 0xB0
  | .admitSize => 0xB1
  | .poisonedData => 0xC0
  | .hbmUncorrected => 0xC1
  | .d2dLink => 0xC2
  | .stateParity => 0xC3
  | .monitorFault => 0xC4
  | .softTrap n => 0x90 + n.setWidth 8

/-- The machine-check codes 0xC0 to 0xDF, never routed to the monitor (R340). -/
def isMachineCheck (c : BitVec 8) : Bool := decide (0xC0 ≤ c.toNat ∧ c.toNat ≤ 0xDF)

/-- Translation causes, whose traps carry an access type in YTVAL (R282, R422). -/
def isTranslationCause (c : BitVec 8) : Bool := decide (0x30 ≤ c.toNat ∧ c.toNat ≤ 0x36)

end Sys2Proof.Machine
end

