-- ==== Sys2Proof/Machine/Sparse.lean ====
section
/-! DEFINITION. Sparse tables as plain data: a list of (key, value) pairs with strictly rising keys and no entry equal to
what an unlisted key reads as. Every memory of the machine is one, of bytes (Host.Cell). -/

namespace Sys2Proof.Machine

/-- A table from Nat keys. -/
abbrev SMap (α : Type) := List (Nat × α)

/-- The value at key k; d is what an unlisted key reads as. -/
def smGet {α : Type} (d : α) : SMap α → Nat → α
  | [], _ => d
  | (a, v) :: m, k => if k = a then v else if k < a then d else smGet d m k

/-- Key k takes the value v; a value equal to d is not listed. -/
def smSet {α : Type} [DecidableEq α] (d : α) : SMap α → Nat → α → SMap α
  | [], k, v => if v = d then [] else [(k, v)]
  | (a, w) :: m, k, v =>
    if k = a then (if v = d then m else (k, v) :: m)
    else if k < a then (if v = d then (a, w) :: m else (k, v) :: (a, w) :: m)
    else (a, w) :: smSet d m k v

/-- Canonical form: keys strictly rising from `lo`, and no entry equal to d. -/
def smWf {α : Type} [DecidableEq α] (d : α) : Nat → SMap α → Bool
  | _, [] => true
  | lo, (a, v) :: m => decide (lo ≤ a) && decide (v ≠ d) && smWf d (a + 1) m

/-- A memory: bytes by address, an unlisted address reading as zero (log 6). -/
abbrev Mem := List Host.Cell

/-- The byte at address a. -/
def memGet (m : Mem) (a : Nat) : Byte := smGet 0 m a

/-- Address a takes the byte v. -/
def memSet (m : Mem) (a : Nat) (v : Byte) : Mem := smSet 0 m a v

/-- The canonical form of a memory. -/
def memWf (m : Mem) : Bool := smWf (0 : Byte) 0 m

/-- n bytes from address a, ascending. -/
def memRead (m : Mem) (a n : Nat) : List Byte := (List.range n).map fun i => memGet m (a + i)

/-- Bytes written from address a, ascending. -/
def memWrite (m : Mem) (a : Nat) : List Byte → Mem
  | [] => m
  | b :: bs => memWrite (memSet m a b) (a + 1) bs

/-- Little-endian value of n bytes from address a. -/
def memReadLE (m : Mem) (a n : Nat) : Nat := leNat (memRead m a n)

/-- v written as n little-endian bytes from address a. -/
def memWriteLE (m : Mem) (a n v : Nat) : Mem := memWrite m a (leBytes n v)

/-- Every address from a to a+n−1 written as zero. -/
def memZero (m : Mem) (a n : Nat) : Mem := m.filter fun c => decide (c.1 < a ∨ a + n ≤ c.1)

/-- A sorted set of keys: k added. -/
def setAdd (k : Nat) : List Nat → List Nat
  | [] => [k]
  | a :: m => if k = a then a :: m else if k < a then k :: a :: m else a :: setAdd k m

/-- A sorted set of keys: k removed. -/
def setRemove (k : Nat) (m : List Nat) : List Nat := m.filter (· ≠ k)

end Sys2Proof.Machine
end

