-- ==== Sys2Proof/Syntax.lean ====
section
/-! DEFINITION. The instructions and operations of the KV8: one constructor per row of spec/opcode_table.json. Parser
words (R100), action words (R109) and tile slots (R153, R161 to R166) with every operand as wide as its encoding, those
without operands after the others; then the steps of the engines, the launcher, the fabric and the management windows,
which have no encoding and carry what they act on. The guarding predicate of a tile slot (R179) belongs to the slot
and not to its instruction: it is PRED of the executing word (State.guard). -/

namespace Sys2Proof

/-- One row of spec/opcode_table.json. -/
inductive Instr where
  /-- P_EXT (R101). Extracts n 16-bit fields from the frame at cursor plus offset into the header vector, big- or little-endian. -/
  | pExt (d : BitVec 7) (off : BitVec 8) (nm1 : BitVec 4) (le : Bool)
  /-- P_EXTB (R101). Extracts a bit range of a 16-bit frame word into one field. -/
  | pExtb (d : BitVec 7) (off : BitVec 8) (lsb : BitVec 4) (wm1 : BitVec 4)
  /-- P_SET (R101). Sets a field to a 16-bit immediate. -/
  | pSet (d : BitVec 7) (imm : BitVec 16)
  /-- P_ADV (R101). Advances the next cursor by a constant. -/
  | pAdv (n : BitVec 9)
  /-- P_ADVF (R101). Advances the next cursor by a scaled bit range of a field. -/
  | pAdvf (a : BitVec 7) (lsb : BitVec 4) (wm1 : BitVec 4) (sc : BitVec 2)
  /-- P_KEY (R101). Loads the parser key from a masked field. -/
  | pKey (a : BitVec 7) (mask : BitVec 16)
  /-- P_CASE (R101). Selects a transition to a state when the key equals a value. -/
  | pCase (st : BitVec 6) (value : BitVec 16)
  /-- P_GOTO (R101). Selects an unconditional transition to a state. -/
  | pGoto (st : BitVec 6)
  /-- P_PAYLD (R101). Sets the payload offset F6 to cursor plus n. -/
  | pPayld (n : BitVec 9)
  /-- P_END (R101). Ends parsing, optionally setting PERR. -/
  | pEnd (err : Bool)
  /-- AC_MOV (R113). Copies one field to another in the working vector. -/
  | acMov (d : BitVec 7) (a : BitVec 7)
  /-- AC_ADD (R113). Adds two fields modulo 2^16 or saturating. -/
  | acAdd (d : BitVec 7) (a : BitVec 7) (b : BitVec 7) (sat : Bool)
  /-- AC_SUB (R113). Subtracts two fields modulo 2^16 or saturating. -/
  | acSub (d : BitVec 7) (a : BitVec 7) (b : BitVec 7) (sat : Bool)
  /-- AC_AND (R113). Bitwise AND of two fields. -/
  | acAnd (d : BitVec 7) (a : BitVec 7) (b : BitVec 7)
  /-- AC_OR (R113). Bitwise OR of two fields. -/
  | acOr (d : BitVec 7) (a : BitVec 7) (b : BitVec 7)
  /-- AC_XOR (R113). Bitwise XOR of two fields. -/
  | acXor (d : BitVec 7) (a : BitVec 7) (b : BitVec 7)
  /-- AC_SHL (R113). Logical left shift of a field by w. -/
  | acShl (d : BitVec 7) (a : BitVec 7) (w : BitVec 5)
  /-- AC_SHR (R113). Logical right shift of a field by w. -/
  | acShr (d : BitVec 7) (a : BitVec 7) (w : BitVec 5)
  /-- AC_MIN (R113). Unsigned minimum of two fields. -/
  | acMin (d : BitVec 7) (a : BitVec 7) (b : BitVec 7)
  /-- AC_MAX (R113). Unsigned maximum of two fields. -/
  | acMax (d : BitVec 7) (a : BitVec 7) (b : BitVec 7)
  /-- AC_SLT (R113). Sets a field to 1 if one field is below another, else 0. -/
  | acSlt (d : BitVec 7) (a : BitVec 7) (b : BitVec 7)
  /-- AC_MOVI (R113). Loads a zero-extended 12-bit immediate into a field. -/
  | acMovi (d : BitVec 7) (imm : BitVec 12)
  /-- AC_ADDI (R113). Adds a sign-extended immediate to a field modulo 2^16. -/
  | acAddi (d : BitVec 7) (a : BitVec 7) (imm : BitVec 12)
  /-- AC_ANDI (R113). ANDs a field with a zero-extended immediate. -/
  | acAndi (d : BitVec 7) (a : BitVec 7) (imm : BitVec 12)
  /-- AC_ORI (R113). ORs a field with a zero-extended immediate. -/
  | acOri (d : BitVec 7) (a : BitVec 7) (imm : BitVec 12)
  /-- AC_MOVH (R113). Replaces the top four bits of a field with an immediate. -/
  | acMovh (d : BitVec 7) (imm : BitVec 4)
  /-- AC_SEQI (R113). Sets a field to 1 if another equals an immediate, else 0. -/
  | acSeqi (d : BitVec 7) (a : BitVec 7) (imm : BitVec 12)
  /-- AC_SKIPZ (R113). Skips the next n words when a field is zero. -/
  | acSkipz (a : BitVec 7) (n : BitVec 4)
  /-- AC_SKIPNZ (R113). Skips the next n words when a field is non-zero. -/
  | acSkipnz (a : BitVec 7) (n : BitVec 4)
  /-- AC_LDD (R113). Loads n fields from a lookup's action data. -/
  | acLdd (d : BitVec 7) (off : BitVec 6) (j : BitVec 2) (nm1 : BitVec 4)
  /-- AC_HIT (R113). Loads the hit bit of lookup j into a field. -/
  | acHit (d : BitVec 7) (j : BitVec 2)
  /-- AC_FWD (R114). Sets F8 to forward to a single egress port. -/
  | acFwd (a : BitVec 7)
  /-- AC_MCAST (R114). Sets F8 to forward to a multicast group. -/
  | acMcast (a : BitVec 7)
  /-- AC_ROUTE (R114). Rewrites the YT destination and chooses its egress from the routing table. -/
  | acRoute (a : BitVec 7)
  /-- AC_SRD (R115). Reads a 32-bit word of a stateful cell into two fields at commit. -/
  | acSrd (x : BitVec 7) (t : BitVec 6) (v : BitVec 7) (word : BitVec 3)
  /-- AC_SWR (R115). Writes a 32-bit word of a stateful cell from two fields. -/
  | acSwr (x : BitVec 7) (t : BitVec 6) (v : BitVec 7) (word : BitVec 3)
  /-- AC_SADD (R115). Adds two fields to a stateful cell word and returns the old value. -/
  | acSadd (x : BitVec 7) (t : BitVec 6) (v : BitVec 7) (word : BitVec 3)
  /-- AC_ARRIVE (R116). Arrives on a trigger cell at commit, or linked after the stage's payload lands. -/
  | acArrive (d : BitVec 7) (a : BitVec 7) (link : Bool) (one : Bool)
  /-- AC_EXPECT (R116). Expects n bytes on a trigger cell at commit. -/
  | acExpect (d : BitVec 7) (a : BitVec 7)
  /-- AC_PAY_WRITE (R117). Issues the stage's payload write into a cell-array table, with optional delivery and arrive. -/
  | acPayWrite (x : BitVec 7) (t : BitVec 6) (v : BitVec 7) (dlv : Bool) (arr : Bool)
  /-- AC_PAY_ADDW (R117). Issues the stage's payload I32 wrapping add. -/
  | acPayAddw (x : BitVec 7) (t : BitVec 6) (v : BitVec 7) (dlv : Bool) (arr : Bool)
  /-- AC_PAY_ADDS (R117). Issues the stage's payload I32 saturating add. -/
  | acPayAdds (x : BitVec 7) (t : BitVec 6) (v : BitVec 7) (dlv : Bool) (arr : Bool)
  /-- AC_PAY_ADDF (R117). Issues the stage's payload F32 add. -/
  | acPayAddf (x : BitVec 7) (t : BitVec 6) (v : BitVec 7) (dlv : Bool) (arr : Bool)
  /-- AC_ADMIT (R119). Admits a token to an expert buffer or builds its refusal frame. -/
  | acAdmit (x : BitVec 7) (t : BitVec 6)
  /-- AC_CLOSE (R120). Closes an expert batch and arrives for the unfilled slots. -/
  | acClose (x : BitVec 7) (t : BitVec 6)
  /-- ADD (R192). Scalar 64-bit wrapping add. -/
  | add (d : BitVec 6) (a : BitVec 6) (b : BitVec 6)
  /-- SUB (R192). Scalar 64-bit wrapping subtract. -/
  | sub (d : BitVec 6) (a : BitVec 6) (b : BitVec 6)
  /-- AND (R192). Scalar bitwise AND. -/
  | and (d : BitVec 6) (a : BitVec 6) (b : BitVec 6)
  /-- OR (R192). Scalar bitwise OR. -/
  | or (d : BitVec 6) (a : BitVec 6) (b : BitVec 6)
  /-- XOR (R192). Scalar bitwise XOR. -/
  | xor (d : BitVec 6) (a : BitVec 6) (b : BitVec 6)
  /-- SLL (R192). Scalar logical left shift. -/
  | sll (d : BitVec 6) (a : BitVec 6) (b : BitVec 6)
  /-- SRL (R192). Scalar logical right shift. -/
  | srl (d : BitVec 6) (a : BitVec 6) (b : BitVec 6)
  /-- SRA (R192). Scalar arithmetic right shift. -/
  | sra (d : BitVec 6) (a : BitVec 6) (b : BitVec 6)
  /-- MIN (R192). Scalar signed minimum. -/
  | min (d : BitVec 6) (a : BitVec 6) (b : BitVec 6)
  /-- MAX (R192). Scalar signed maximum. -/
  | max (d : BitVec 6) (a : BitVec 6) (b : BitVec 6)
  /-- MINU (R192). Scalar unsigned minimum. -/
  | minu (d : BitVec 6) (a : BitVec 6) (b : BitVec 6)
  /-- MAXU (R192). Scalar unsigned maximum. -/
  | maxu (d : BitVec 6) (a : BitVec 6) (b : BitVec 6)
  /-- MUL (R192). Scalar 64-bit wrapping multiply landing at c+3. -/
  | mul (d : BitVec 6) (a : BitVec 6) (b : BitVec 6)
  /-- MULH (R192). High 64 bits of the signed 128-bit product. -/
  | mulh (d : BitVec 6) (a : BitVec 6) (b : BitVec 6)
  /-- MULHU (R192). High 64 bits of the unsigned 128-bit product. -/
  | mulhu (d : BitVec 6) (a : BitVec 6) (b : BitVec 6)
  /-- DIV (R193). Signed division truncating toward zero, landing at c+12. -/
  | div (d : BitVec 6) (a : BitVec 6) (b : BitVec 6)
  /-- DIVU (R193). Unsigned division. -/
  | divu (d : BitVec 6) (a : BitVec 6) (b : BitVec 6)
  /-- REM (R193). Signed remainder. -/
  | rem (d : BitVec 6) (a : BitVec 6) (b : BitVec 6)
  /-- REMU (R193). Unsigned remainder. -/
  | remu (d : BitVec 6) (a : BitVec 6) (b : BitVec 6)
  /-- ADDI (R194). Adds a signed 6-bit immediate. -/
  | addi (d : BitVec 6) (a : BitVec 6) (imm : BitVec 6)
  /-- ANDI (R194). ANDs with a sign-extended immediate. -/
  | andi (d : BitVec 6) (a : BitVec 6) (imm : BitVec 6)
  /-- ORI (R194). ORs with a sign-extended immediate. -/
  | ori (d : BitVec 6) (a : BitVec 6) (imm : BitVec 6)
  /-- XORI (R194). XORs with a sign-extended immediate. -/
  | xori (d : BitVec 6) (a : BitVec 6) (imm : BitVec 6)
  /-- SLLI (R194). Left shift by an immediate. -/
  | slli (d : BitVec 6) (a : BitVec 6) (imm : BitVec 6)
  /-- SRLI (R194). Logical right shift by an immediate. -/
  | srli (d : BitVec 6) (a : BitVec 6) (imm : BitVec 6)
  /-- SRAI (R194). Arithmetic right shift by an immediate. -/
  | srai (d : BitVec 6) (a : BitVec 6) (imm : BitVec 6)
  /-- MOVI (R195). Loads a sign-extended 12-bit immediate. -/
  | movi (d : BitVec 6) (imm : BitVec 12)
  /-- MOVK (R195). Shifts a register left 12 and inserts a 12-bit immediate. -/
  | movk (d : BitVec 6) (imm : BitVec 12)
  /-- CMPEQ (R196). Sets a predicate on register equality. -/
  | cmpeq (d : BitVec 3) (a : BitVec 6) (b : BitVec 6)
  /-- CMPNE (R196). Sets a predicate on register inequality. -/
  | cmpne (d : BitVec 3) (a : BitVec 6) (b : BitVec 6)
  /-- CMPLT (R196). Sets a predicate on signed less-than. -/
  | cmplt (d : BitVec 3) (a : BitVec 6) (b : BitVec 6)
  /-- CMPLTU (R196). Sets a predicate on unsigned less-than. -/
  | cmpltu (d : BitVec 3) (a : BitVec 6) (b : BitVec 6)
  /-- CMPLE (R196). Sets a predicate on signed less-or-equal. -/
  | cmple (d : BitVec 3) (a : BitVec 6) (b : BitVec 6)
  /-- CMPLEU (R196). Sets a predicate on unsigned less-or-equal. -/
  | cmpleu (d : BitVec 3) (a : BitVec 6) (b : BitVec 6)
  /-- CMPEQI (R196). Sets a predicate on equality with an immediate. -/
  | cmpeqi (d : BitVec 3) (a : BitVec 6) (imm : BitVec 6)
  /-- CMPLTI (R196). Sets a predicate on signed less-than an immediate. -/
  | cmplti (d : BitVec 3) (a : BitVec 6) (imm : BitVec 6)
  /-- CMPLEI (R196). Sets a predicate on signed less-or-equal an immediate. -/
  | cmplei (d : BitVec 3) (a : BitVec 6) (imm : BitVec 6)
  /-- PAND (R197). Predicate AND. -/
  | pand (d : BitVec 3) (a : BitVec 3) (b : BitVec 3)
  /-- POR (R197). Predicate OR. -/
  | por (d : BitVec 3) (a : BitVec 3) (b : BitVec 3)
  /-- PXOR (R197). Predicate XOR. -/
  | pxor (d : BitVec 3) (a : BitVec 3) (b : BitVec 3)
  /-- PNOT (R197). Predicate NOT. -/
  | pnot (d : BitVec 3) (a : BitVec 3)
  /-- FADD (R198). Scalar F32 add with rounding suffix. -/
  | fadd (r : RMode) (d : BitVec 6) (a : BitVec 6) (b : BitVec 6)
  /-- FSUB (R198). Scalar F32 subtract. -/
  | fsub (r : RMode) (d : BitVec 6) (a : BitVec 6) (b : BitVec 6)
  /-- FMUL (R198). Scalar F32 multiply. -/
  | fmul (r : RMode) (d : BitVec 6) (a : BitVec 6) (b : BitVec 6)
  /-- FDIV (R198). Scalar F32 divide. -/
  | fdiv (r : RMode) (d : BitVec 6) (a : BitVec 6) (b : BitVec 6)
  /-- FMA (R198). Scalar F32 fused multiply-add into the destination. -/
  | fma (r : RMode) (d : BitVec 6) (a : BitVec 6) (b : BitVec 6)
  /-- FSQRT (R198). Scalar F32 square root. -/
  | fsqrt (r : RMode) (d : BitVec 6) (a : BitVec 6)
  /-- FMIN (R199). Scalar F32 minimumNumber. -/
  | fmin (d : BitVec 6) (a : BitVec 6) (b : BitVec 6)
  /-- FMAX (R199). Scalar F32 maximumNumber. -/
  | fmax (d : BitVec 6) (a : BitVec 6) (b : BitVec 6)
  /-- FCMPEQ (R199). Scalar F32 equality compare to a predicate. -/
  | fcmpeq (d : BitVec 3) (a : BitVec 6) (b : BitVec 6)
  /-- FCMPLT (R199). Scalar F32 less-than compare to a predicate. -/
  | fcmplt (d : BitVec 3) (a : BitVec 6) (b : BitVec 6)
  /-- FCMPLE (R199). Scalar F32 less-or-equal compare to a predicate. -/
  | fcmple (d : BitVec 3) (a : BitVec 6) (b : BitVec 6)
  /-- FCVT_I64 (R200). Converts F32 to a clamped signed 64-bit integer. -/
  | fcvtI64 (r : RMode) (d : BitVec 6) (a : BitVec 6)
  /-- CVT_F32 (R200). Converts a signed 64-bit integer to F32. -/
  | cvtF32 (r : RMode) (d : BitVec 6) (a : BitVec 6)
  /-- BR (R180). Branch hinted taken, with a three-bundle shadow. -/
  | br (imm : BitVec 18)
  /-- BR_N (R180). Branch hinted not taken. -/
  | brN (imm : BitVec 18)
  /-- CALL (R202). Taken-hinted branch that sets A31 to the return address. -/
  | call (imm : BitVec 18)
  /-- JR (R203). Jump to the address in an A register after three empty cycles. -/
  | jr (a : BitVec 5)
  /-- BSWAP (R152). Branches into the other instruction half, making it ACTIVE. -/
  | bswap (imm : BitVec 18)
  /-- NOPN (R204). Makes its bundle occupy k issue cycles. -/
  | nopn (km1 : BitVec 12)
  /-- YIELD (R205). Declares the next run and arbitrates the tile among placeable heads. -/
  | yield (imm : BitVec 18)
  /-- TRAP (R343). Raises software trap 0x90 plus n at the next bundle. -/
  | trap (n : BitVec 4)
  /-- SRD (R208). Reads a Y-register into a scalar register. -/
  | srd (d : BitVec 6) (y : BitVec 12)
  /-- SWR (R208). Writes a scalar register to a Y-register. -/
  | swr (d : BitVec 6) (y : BitVec 12)
  /-- ENQ (R126). Builds and enqueues one task record, returning a status. -/
  | enq (d : BitVec 6) (a : BitVec 6) (b : BitVec 6)
  /-- SPAWNV (R127). Enqueues one record per non-zero vector lane, all or none. -/
  | spawnv (d : BitVec 6) (a : BitVec 6) (b : BitVec 6)
  /-- LD_G (R283). Scalar global load of 1 to 8 bytes through the load queue. -/
  | ldG (z : MemSize) (d : BitVec 6) (a : BitVec 6) (imm : BitVec 6)
  /-- ST_G (R283). Scalar global store of 1 to 8 bytes through the store queue. -/
  | stG (z : MemSize) (d : BitVec 6) (a : BitVec 6) (imm : BitVec 6)
  /-- LD_G_ACQ (R307). Acquiring 8-byte global load at a scope. -/
  | ldGAcq (d : BitVec 6) (a : BitVec 6) (sc : Scope)
  /-- ST_G_REL (R307). Releasing 8-byte global store at a scope. -/
  | stGRel (d : BitVec 6) (a : BitVec 6) (sc : Scope)
  /-- FENCE (R308). Freezes until earlier scalar accesses perform at a scope and the side log is empty. -/
  | fence (sc : Scope)
  /-- AMO_G (R285). Unordered 8-byte global atomic, or reduction when d is 0. -/
  | amoG (o : AmoOp) (d : BitVec 6) (a : BitVec 6) (b : BitVec 6)
  /-- AMO_G_ACQ (R285). Acquiring global atomic. -/
  | amoGAcq (o : AmoOp) (d : BitVec 6) (a : BitVec 6) (sc : Scope)
  /-- AMO_G_REL (R285). Releasing global atomic. -/
  | amoGRel (o : AmoOp) (d : BitVec 6) (a : BitVec 6) (sc : Scope)
  /-- AMO_G_AR (R285). Acquiring and releasing global atomic. -/
  | amoGAr (o : AmoOp) (d : BitVec 6) (a : BitVec 6) (sc : Scope)
  /-- RELB (R145). Releases a region's held banks to a successor stage. -/
  | relb (reg : BitVec 4) (stg : BitVec 4)
  /-- RELB_FREE (R145). Frees a region's held banks. -/
  | relbFree (reg : BitVec 4)
  /-- ARRIVE (R310). Sends an arrive to a cell and freezes for the reply phase. -/
  | arrive (d : BitVec 6) (a : BitVec 6)
  /-- ARRIVE_REL (R310). Releasing arrive at a scope. -/
  | arriveRel (d : BitVec 6) (a : BitVec 6) (sc : Scope)
  /-- WAITC (R311). Waits until a cell's phase differs, then acquires. -/
  | waitc (d : BitVec 6) (a : BitVec 6) (sc : Scope)
  /-- EXPECT (R310). Sends an expect of n bytes to a cell. -/
  | expect (d : BitVec 6) (a : BitVec 6) (b : BitVec 6)
  /-- AADD (R209). Address register add. -/
  | aadd (d : BitVec 5) (a : BitVec 5) (b : BitVec 5)
  /-- ASUB (R209). Address register subtract. -/
  | asub (d : BitVec 5) (a : BitVec 5) (b : BitVec 5)
  /-- AADDI (R209). Address register add immediate. -/
  | aaddi (d : BitVec 5) (a : BitVec 5) (imm : BitVec 6)
  /-- AMOVI (R209). Loads an address register with an immediate. -/
  | amovi (d : BitVec 5) (imm : BitVec 12)
  /-- AMOVS (R209). Copies an S register to an A register. -/
  | amovs (d : BitVec 5) (a : BitVec 6)
  /-- SMOVA (R209). Copies an A register to an S register. -/
  | smova (d : BitVec 6) (a : BitVec 5)
  /-- ASHLI (R209). Address register left shift by immediate. -/
  | ashli (d : BitVec 5) (a : BitVec 5) (imm : BitVec 6)
  /-- AREG (R209). Forms a local address in region j. -/
  | areg (d : BitVec 5) (a : BitVec 5) (j : BitVec 4)
  /-- ANODE (R210). Computes a node or subtree local address from a path trace. -/
  | anode (d : BitVec 5) (a : BitVec 5) (b : BitVec 6)
  /-- LCSET (R187). Sets a loop counter. -/
  | lcset (d : BitVec 2) (a : BitVec 6)
  /-- LCRD (R187). Reads a loop counter. -/
  | lcrd (d : BitVec 6) (a : BitVec 2)
  /-- LOOP (R183). Starts a hardware loop over a body. -/
  | loop (n : BitVec 2) (imm : BitVec 12)
  /-- LOOP_SWP (R188). Starts a software-pipelined loop with stage predicates and rotation. -/
  | loopSwp (n : BitVec 2) (sm1 : BitVec 2) (imm : BitVec 12)
  /-- SPLD (R191). Loads an S register from spill memory. -/
  | spld (d : BitVec 6) (idx : BitVec 10)
  /-- SPST (R191). Stores an S register to spill memory. -/
  | spst (d : BitVec 6) (idx : BitVec 10)
  /-- SPLD_A (R191). Loads an A register from spill memory. -/
  | spldA (d : BitVec 5) (idx : BitVec 10)
  /-- SPST_A (R191). Stores an A register to spill memory. -/
  | spstA (d : BitVec 5) (idx : BitVec 10)
  /-- HSET (R287). Loads a ring handle from a Sward descriptor with checks. -/
  | hset (h : BitVec 4) (a : BitVec 5)
  /-- HALLOC (R288). Reserves n slots of a handle. -/
  | halloc (d : BitVec 6) (h : BitVec 4) (b : BitVec 6)
  /-- HPUB (R288). Publishes n filled slots and optionally sets the tag. -/
  | hpub (h : BitVec 4) (b : BitVec 6)
  /-- HADV (R288). Requests a head advance once earlier reads complete. -/
  | hadv (h : BitVec 4) (b : BitVec 6)
  /-- HRD (R288). Reads a handle's pointers, tag and valid bit. -/
  | hrd (d : BitVec 6) (h : BitVec 4)
  /-- VADD_INT (R215). Vector integer add, wrapping or saturating. -/
  | vaddInt (t : ITy) (sat : Bool) (d : BitVec 6) (a : BitVec 6) (b : BitVec 6)
  /-- VSUB_INT (R215). Vector integer subtract. -/
  | vsubInt (t : ITy) (sat : Bool) (d : BitVec 6) (a : BitVec 6) (b : BitVec 6)
  /-- VMUL_INT (R215). Vector integer multiply. -/
  | vmulInt (t : ITy) (sat : Bool) (d : BitVec 6) (a : BitVec 6) (b : BitVec 6)
  /-- VMIN (R215). Vector integer minimum. -/
  | vmin (t : ITy) (d : BitVec 6) (a : BitVec 6) (b : BitVec 6)
  /-- VMAX (R215). Vector integer maximum. -/
  | vmax (t : ITy) (d : BitVec 6) (a : BitVec 6) (b : BitVec 6)
  /-- VSHL (R215). Vector left shift by element counts. -/
  | vshl (w : IWidth) (d : BitVec 6) (a : BitVec 6) (b : BitVec 6)
  /-- VSHR (R215). Vector right shift, arithmetic or logical by type. -/
  | vshr (t : ITy) (d : BitVec 6) (a : BitVec 6) (b : BitVec 6)
  /-- VLD (R235). Vector load from the Sward with a named tag. -/
  | vld (d : BitVec 6) (a : BitVec 5) (fmt : BitVec 6)
  /-- VST (R235). Vector store to the Sward. -/
  | vst (d : BitVec 6) (a : BitVec 5)
  /-- VLDS (R235). Strided vector load with tag from a control word. -/
  | vlds (d : BitVec 6) (a : BitVec 5) (b : BitVec 5)
  /-- VSTS (R235). Strided vector store. -/
  | vsts (d : BitVec 6) (a : BitVec 5) (b : BitVec 5)
  /-- VLDX (R235). Indexed vector load. -/
  | vldx (d : BitVec 6) (a : BitVec 5) (b : BitVec 6)
  /-- VSTX (R235). Indexed vector store. -/
  | vstx (d : BitVec 6) (a : BitVec 5) (b : BitVec 6)
  /-- VCMPEQ (R219). Vector integer equality compare to a mask. -/
  | vcmpeq (w : IWidth) (d : BitVec 6) (a : BitVec 6) (b : BitVec 6)
  /-- VCMPLT (R219). Vector integer less-than compare. -/
  | vcmplt (t : ITy) (d : BitVec 6) (a : BitVec 6) (b : BitVec 6)
  /-- VCMPLE (R219). Vector integer less-or-equal compare. -/
  | vcmple (t : ITy) (d : BitVec 6) (a : BitVec 6) (b : BitVec 6)
  /-- VREDSUM (R223). Vector integer sum reduction narrowed once. -/
  | vredsum (t : ITy) (sat : Bool) (d : BitVec 6) (a : BitVec 6)
  /-- VAND (R216). Vector bitwise AND. -/
  | vand (d : BitVec 6) (a : BitVec 6) (b : BitVec 6)
  /-- VOR (R216). Vector bitwise OR. -/
  | vor (d : BitVec 6) (a : BitVec 6) (b : BitVec 6)
  /-- VXOR (R216). Vector bitwise XOR. -/
  | vxor (d : BitVec 6) (a : BitVec 6) (b : BitVec 6)
  /-- VNOT (R216). Vector bitwise NOT. -/
  | vnot (d : BitVec 6) (a : BitVec 6)
  /-- VSEL (R217). Selects between two vectors by the destination's mask. -/
  | vsel (d : BitVec 6) (a : BitVec 6) (b : BitVec 6)
  /-- VMOV (R218). Copies a vector register with its tag. -/
  | vmov (d : BitVec 6) (a : BitVec 6)
  /-- VADD_F (R220). Vector float add, F32 or BF16x2. -/
  | vaddF (f : FTy) (r : RMode) (d : BitVec 6) (a : BitVec 6) (b : BitVec 6)
  /-- VSUB_F (R220). Vector float subtract. -/
  | vsubF (f : FTy) (r : RMode) (d : BitVec 6) (a : BitVec 6) (b : BitVec 6)
  /-- VMUL_F (R220). Vector float multiply. -/
  | vmulF (f : FTy) (r : RMode) (d : BitVec 6) (a : BitVec 6) (b : BitVec 6)
  /-- VFMA_F (R220). Vector float fused multiply-add. -/
  | vfmaF (f : FTy) (r : RMode) (d : BitVec 6) (a : BitVec 6) (b : BitVec 6)
  /-- VADD_E (R222). Conversion-only format add; traps EMULATE. -/
  | vaddE (e : ETy) (d : BitVec 6) (a : BitVec 6) (b : BitVec 6)
  /-- VSUB_E (R222). Conversion-only format subtract; traps EMULATE. -/
  | vsubE (e : ETy) (d : BitVec 6) (a : BitVec 6) (b : BitVec 6)
  /-- VMUL_E (R222). Conversion-only format multiply; traps EMULATE. -/
  | vmulE (e : ETy) (d : BitVec 6) (a : BitVec 6) (b : BitVec 6)
  /-- VFMA_E (R222). Conversion-only format FMA; traps EMULATE. -/
  | vfmaE (e : ETy) (d : BitVec 6) (a : BitVec 6) (b : BitVec 6)
  /-- VMIN_F (R221). Vector float minimumNumber. -/
  | vminF (f : FTy) (d : BitVec 6) (a : BitVec 6) (b : BitVec 6)
  /-- VMAX_F (R221). Vector float maximumNumber. -/
  | vmaxF (f : FTy) (d : BitVec 6) (a : BitVec 6) (b : BitVec 6)
  /-- VCMPEQ_F (R219). Vector float equality compare. -/
  | vcmpeqF (f : FTy) (d : BitVec 6) (a : BitVec 6) (b : BitVec 6)
  /-- VCMPLT_F (R219). Vector float less-than compare. -/
  | vcmpltF (f : FTy) (d : BitVec 6) (a : BitVec 6) (b : BitVec 6)
  /-- VCMPLE_F (R219). Vector float less-or-equal compare. -/
  | vcmpleF (f : FTy) (d : BitVec 6) (a : BitVec 6) (b : BitVec 6)
  /-- VREDSUM_F32 (R60). F32 sum by a fixed pairwise tree. -/
  | vredsumF32 (r : RMode) (d : BitVec 6) (a : BitVec 6)
  /-- VREDMAX_F32 (R224). F32 maximum reduction. -/
  | vredmaxF32 (d : BitVec 6) (a : BitVec 6)
  /-- VARGMAX_F32 (R224). Lowest lane index of the F32 maximum. -/
  | vargmaxF32 (d : BitVec 6) (a : BitVec 6)
  /-- VREDMAX_I32 (R224). Signed I32 maximum reduction. -/
  | vredmaxI32 (d : BitVec 6) (a : BitVec 6)
  /-- VARGMAX_I32 (R224). Lowest lane index of the I32 maximum. -/
  | vargmaxI32 (d : BitVec 6) (a : BitVec 6)
  /-- VEXP2 (R225). Correctly rounded 2^x per element. -/
  | vexp2 (d : BitVec 6) (a : BitVec 6)
  /-- VLOG2 (R225). Correctly rounded log2 per element. -/
  | vlog2 (d : BitVec 6) (a : BitVec 6)
  /-- VRCP (R225). Correctly rounded reciprocal. -/
  | vrcp (d : BitVec 6) (a : BitVec 6)
  /-- VRSQ (R225). Correctly rounded reciprocal square root. -/
  | vrsq (d : BitVec 6) (a : BitVec 6)
  /-- VTANH (R225). Correctly rounded tanh. -/
  | vtanh (d : BitVec 6) (a : BitVec 6)
  /-- VSIN (R225). Correctly rounded sin of pi times x. -/
  | vsin (d : BitVec 6) (a : BitVec 6)
  /-- VBCAST_F32 (R227). Broadcasts a scalar as F32. -/
  | vbcastF32 (d : BitVec 6) (a : BitVec 6)
  /-- VBCAST_I32 (R227). Broadcasts a scalar as I32. -/
  | vbcastI32 (d : BitVec 6) (a : BitVec 6)
  /-- VIOTA (R227). Writes base plus lane index to each lane. -/
  | viota (d : BitVec 6) (a : BitVec 6)
  /-- VPERM (R227). Permutes lanes by an index vector. -/
  | vperm (d : BitVec 6) (a : BitVec 6) (b : BitVec 6)
  /-- VROT (R227). Rotates lanes by a scalar amount. -/
  | vrot (d : BitVec 6) (a : BitVec 6) (b : BitVec 6)
  /-- VRETAG (R232). Changes a register's format tag. -/
  | vretag (d : BitVec 6) (fmt : BitVec 6)
  /-- VPLANE (R233). Builds a plane-layout row from I8x4 or I32 elements. -/
  | vplane (d : BitVec 6) (a : BitVec 6) (pl : BitVec 4) (part : BitVec 2)
  /-- VPTMASK (R234). Expands a path trace into a subtree node mask. -/
  | vptmask (d : BitVec 6) (a : BitVec 6) (b : BitVec 6)
  /-- VCVT_I32_SAT (R230). Drains an I40 row to I32 with saturation. -/
  | vcvtI32Sat (d : BitVec 6) (a : BitVec 6)
  /-- VCVT_I32_WRAP (R230). Drains an I40 row to I32 wrapping. -/
  | vcvtI32Wrap (d : BitVec 6) (a : BitVec 6)
  /-- VSCALE (R231). Dequantises an I40 row by column and row scales. -/
  | vscale (r : RMode) (d : BitVec 6) (a : BitVec 6) (b : BitVec 6)
  /-- VCVT_F32 (R229). Converts integer or narrow float parts to F32. -/
  | vcvtF32 (r : RMode) (d : BitVec 6) (a : BitVec 6) (part : BitVec 3)
  /-- VCVT_BF16X2 (R229). Converts F32 to BF16x2 parts. -/
  | vcvtBf16x2 (r : RMode) (d : BitVec 6) (a : BitVec 6) (part : BitVec 3)
  /-- VCVT_FP16 (R229). Converts F32 to FP16 parts. -/
  | vcvtFp16 (r : RMode) (d : BitVec 6) (a : BitVec 6) (part : BitVec 3)
  /-- VCVT_E4M3 (R229). Converts F32 to E4M3 parts. -/
  | vcvtE4m3 (r : RMode) (d : BitVec 6) (a : BitVec 6) (part : BitVec 3)
  /-- VCVT_E5M2 (R229). Converts F32 to E5M2 parts. -/
  | vcvtE5m2 (r : RMode) (d : BitVec 6) (a : BitVec 6) (part : BitVec 3)
  /-- VCVT_INT (R229). Converts float to a clamped integer type, nearest-even. -/
  | vcvtInt (t : ITy) (d : BitVec 6) (a : BitVec 6) (part : BitVec 3)
  /-- VCVT_INT_RZ (R229). Converts float to a clamped integer type toward zero. -/
  | vcvtIntRz (t : ITy) (d : BitVec 6) (a : BitVec 6) (part : BitVec 3)
  /-- MCFG (R241). Loads the matrix configuration. -/
  | mcfg (a : BitVec 6)
  /-- MLOADB (R244). Starts a dense B load into the W-array from a handle slot. -/
  | mloadb (h : BitVec 4) (a : BitVec 6)
  /-- MLOADBS (R244). Checks sparse metadata and starts a sparse B load. -/
  | mloadbs (h : BitVec 4) (a : BitVec 6)
  /-- MFEED (R245). Appends m row-buffer entries from a handle slot. -/
  | mfeed (h : BitVec 4) (mm1 : BitVec 6) (adv : Bool)
  /-- MPUSH (R246). Appends one row-buffer entry from a plane-layout register. -/
  | mpush (a : BitVec 6)
  /-- MMUL (R250). Streams m A rows against B and commits fresh I40 rows. -/
  | mmul (d : BitVec 6) (mm1 : BitVec 6)
  /-- MMAC (R250). Streams m A rows and accumulates onto committed rows. -/
  | mmac (d : BitVec 6) (mm1 : BitVec 6)
  /-- MMUL_MID (R250). MMUL with the midpoint correction always applied. -/
  | mmulMid (d : BitVec 6) (mm1 : BitVec 6)
  /-- MMAC_MID (R250). MMAC with the midpoint correction always applied. -/
  | mmacMid (d : BitVec 6) (mm1 : BitVec 6)
  /-- MDESC (R255). Descends tree levels by dot-product signs, writing path traces and indices. -/
  | mdesc (d : BitVec 6) (a : BitVec 6) (b : BitVec 6)
  /-- MREGROUP (R256). Builds a stable permutation, counts and offsets by subtree. -/
  | mregroup (d : BitVec 6) (a : BitVec 6) (b : BitVec 6)
  /-- MCLR_W (R252). Clears the W-array and index store and sets dense mode. -/
  | mclrW (rb : Bool) (cfg : Bool)
  /-- MCLR_RB (R252). Discards unclaimed row-buffer entries. -/
  | mclrRb (cfg : Bool)
  /-- XPUSH (R254). Pushes a vector row into the transposer. -/
  | xpush (a : BitVec 6)
  /-- XPOP (R254). Pops transposed column groups into a vector. -/
  | xpop (d : BitVec 6)
  /-- XCFG (R254). Sets the transposer row limit and resets counts. -/
  | xcfg (rows : BitVec 6)
  /-- XCNT (R254). Reads the transposer count word. -/
  | xcnt (d : BitVec 6)
  /-- CSET (R291). Writes two doublewords of a channel's shadow set. -/
  | cset (j : BitVec 2) (a : BitVec 6) (b : BitVec 6)
  /-- CGO (R292). Issues the command the shadow KIND names. -/
  | cgo (kp : Option (BitVec 5)) (kx : Option (BitVec 5)) (ky : Option (BitVec 5))
  /-- CWAIT (R294). Freezes until named tokens are complete. -/
  | cwait (kp : Option (BitVec 5)) (kx : Option (BitVec 5)) (ky : Option (BitVec 5))
  /-- CSTAT (R294). Reads a token's state, status and sequence. -/
  | cstat (d : BitVec 6) (k : BitVec 5)
  /-- CPY (R295). Issues a strided copy between global memory and Sward or scratchpad. -/
  | cpy (kp : Option (BitVec 5)) (kx : Option (BitVec 5)) (ky : Option (BitVec 5))
  /-- CPY_AS (R296). Issues a copy of accumulator rows, optionally top-k. -/
  | cpyAs (kp : Option (BitVec 5)) (kx : Option (BitVec 5)) (ky : Option (BitVec 5))
  /-- GATH (R297). Hands an indexed row gather to the cluster engine. -/
  | gath (kp : Option (BitVec 5)) (kx : Option (BitVec 5)) (ky : Option (BitVec 5))
  /-- POOL (R297). Hands a pooled bag sum to the cluster engine. -/
  | pool (kp : Option (BitVec 5)) (kx : Option (BitVec 5)) (ky : Option (BitVec 5))
  /-- RLD (R298). Issues remote read requests under a grant. -/
  | rld (kp : Option (BitVec 5)) (kx : Option (BitVec 5)) (ky : Option (BitVec 5))
  /-- RST (R298). Issues remote write requests under a grant. -/
  | rst (kp : Option (BitVec 5)) (kx : Option (BitVec 5)) (ky : Option (BitVec 5))
  /-- RAMO (R298). Issues a remote atomic under a grant. -/
  | ramo (kp : Option (BitVec 5)) (kx : Option (BitVec 5)) (ky : Option (BitVec 5))
  /-- MCST (R299). Issues a multicast write to a fabric group. -/
  | mcst (kp : Option (BitVec 5)) (kx : Option (BitVec 5)) (ky : Option (BitVec 5))
  /-- RARRIVE (R300). Issues a remote arrive on a peer's cell. -/
  | rarrive (kp : Option (BitVec 5)) (kx : Option (BitVec 5)) (ky : Option (BitVec 5))
  /-- P_NOP (R100). Parser no-operation word. -/
  | pNop
  /-- AC_NOP (R109). Action no-operation. -/
  | acNop
  /-- AC_DONE (R113). Ends the action block. -/
  | acDone
  /-- AC_DROP (R114). Clears the forward bit of F8. -/
  | acDrop
  /-- IFENCE (R151). Waits for scratchpad copies, clears written bits and discards prefetched bundles. -/
  | ifence
  /-- END (R206). Retires the task once in-flight writes land, starting the retirement sequence. -/
  | endTask
  /-- ERET (R344). Leaves monitor mode and resumes at YEPC with late-write replay. -/
  | eret
  /-- ERET_SKIP (R344). Resumes with the failing slot treated as a NOP on first issue. -/
  | eretSkip
  /-- ERET_RAISE (R344). Stops the task as an unrouted trap with the current record. -/
  | eretRaise
  /-- NOP (R167). Fills an S slot with no effect. -/
  | nop
  /-- QMARK (R286). Enters a marker holding later loads behind earlier stores and the side log. -/
  | qmark
  /-- ANOP (R167). Fills an A slot with no effect. -/
  | anop
  /-- VNOP (R167). Fills a V slot with no effect. -/
  | vnop
  /-- MCLR_CFG (R252). Resets the matrix configuration. -/
  | mclrCfg
  /-- XCLR (R254). Clears the transposer. -/
  | xclr
  /-- CNOP (R167). Fills a C slot with no effect. -/
  | cnop
  /-- CCLR (R291). Zeroes a channel's shadow set. -/
  | cclr
  /-- END_RETIREMENT (R374). After commands complete, frees banks, arrives on the done cell, counts and frees the tile. -/
  | endRetirement (t : TileId)
  /-- RELB_BANK_CHANGE (R145). A bank's ownership word changes once this tile's earlier writes to it have landed. -/
  | relbBankChange (t : TileId) (bank : BitVec 11)
  /-- HEAD_ADVANCE (R288). The delayed HEAD advance takes place after prior reads of the handle complete. -/
  | headAdvance (t : TileId) (h : BitVec 4)
  /-- MATRIX_LOAD_COMPLETE (R244). The background B value read completes, releasing frozen matrix instructions. -/
  | matrixLoadComplete (t : TileId)
  /-- MFEED_LANDING (R247). An MFEED entry's data lands in the row buffer. -/
  | mfeedLanding (t : TileId)
  /-- COMMAND_START (R267). A command starts once its consumed tokens complete, or completes at once with UPSTREAM. -/
  | commandStart (id : Nat)
  /-- COPY_BEAT (R268). A beat of a command lands, applying its delivery and handle publication. -/
  | copyBeat (id : Nat)
  /-- COMMAND_COMPLETION (R267). A command completes and its token becomes COMPLETE with status. -/
  | commandCompletion (id : Nat)
  /-- LEASE_RENEWAL (R278). A command renews a near-expiry translation or stops with LEASE_CHANGED. -/
  | leaseRenewal (id : Nat)
  /-- LEASE_EXPIRY (R276). A translation entry reaches its expiry and no longer translates. -/
  | leaseExpiry (u : XUnit)
  /-- PAGE_WALK (R275). A page walk returns a leaf or raises a translation fault. -/
  | pageWalk (u : XUnit) (ctx : CtxId) (va : BitVec 64) (k : AccessKind)
  /-- SCALAR_ACCESS_PERFORM (R284). A queued scalar access performs at its home or its load response lands. -/
  | scalarAccessPerform (t : TileId) (q : QueueSel)
  /-- SIDE_LOG_REPLAY (R281). The head side-log entry replays once its page is mapped. -/
  | sideLogReplay (t : TileId)
  /-- IMPRECISE_TRAP (R280). A scalar or replay fault is taken at the next bundle boundary. -/
  | impreciseTrap (t : TileId)
  /-- CLOCK_SKEW (R279). A unit out of step drops its translations until resynchronised. -/
  | clockSkew (u : XUnit)
  /-- CELL_EXPECT (R34). An expect is applied at the cell's bank with checks and fire check. -/
  | cellExpect (ctx : CtxId) (i : BitVec 16) (n : BitVec 32)
  /-- CELL_DELIVERY (R34). A delivery reduces PEND at the cell's bank. -/
  | cellDelivery (ctx : CtxId) (i : BitVec 16) (n : BitVec 32)
  /-- CELL_ARRIVE (R34). An arrive reduces COUNT at the cell's bank. -/
  | cellArrive (ctx : CtxId) (i : BitVec 16) (k : BitVec 17)
  /-- CELL_REMOTE_ARRIVE (R34). A remote arrive through a grant reduces COUNT. -/
  | cellRemoteArrive (ctx : CtxId) (i : BitVec 16) (k : BitVec 17)
  /-- CELL_PHASE_READ (R34). A phase read returns PHASE without effect. -/
  | cellPhaseRead (ctx : CtxId) (i : BitVec 16)
  /-- CELL_REWRITE (R39). Kenval replaces a whole trigger cell. -/
  | cellRewrite (ctx : CtxId) (i : BitVec 16) (v : BitVec 256)
  /-- HELD_RECORD_MOVE (R36). The launcher moves a held record into a freed FIFO slot. -/
  | heldRecordMove (ctx : CtxId) (i : BitVec 16)
  /-- RECORD_LANDING (R132). A reserved record lands in its queue FIFO slot. -/
  | recordLanding (q : BitVec 7)
  /-- LAUNCHER_SELECTION (R129). The idle launcher picks and places a head under rank and placement rules. -/
  | launcherSelection (die : BitVec 1)
  /-- IMAGE_LOAD_COMPLETE (R133). An image load into an idle half completes. -/
  | imageLoadComplete (t : TileId)
  /-- SLICE_EXPIRY (R140). A slice expires and the task is pre-empted if a qualifying head exists. -/
  | sliceExpiry (t : TileId)
  /-- YIELD_OVERRUN (R138). The overrun count exceeds the declared run; reported and marked. -/
  | yieldOverrun (t : TileId)
  /-- PREEMPTION_STOP (R352). A pre-empted task stops at its next stop point, draining any LOOP.SWP. -/
  | preemptionStop (t : TileId)
  /-- GANG_STOP (R334). Other gang members stop at their next boundary after an unrouted trap. -/
  | gangStop (t : TileId)
  /-- CLASS_SAVE_COMPLETE (R139). The save engine finishes saving or restoring a class for a claimant. -/
  | classSaveComplete (t : TileId) (c : ResClass)
  /-- TIMED_LAUNCH_LEAD (R142). At T minus LEAD the launcher chooses tiles and pre-empts them. -/
  | timedLaunchLead (die : BitVec 1) (i : BitVec 4)
  /-- TIMED_LAUNCH_START (R142). At or after T with all tiles free, the part is placed. -/
  | timedLaunchStart (die : BitVec 1) (i : BitVec 4)
  /-- TIMED_LAUNCH_DISARM (R142). Kenval clears EN, releasing held tiles. -/
  | timedLaunchDisarm (die : BitVec 1) (i : BitVec 4)
  /-- CONTEXT_DESCRIPTOR_WRITE (R21). Kenval writes a context descriptor, refused on bad fields. -/
  | contextDescriptorWrite (ctx : CtxId) (v : BitVec 512)
  /-- QUEUE_DESCRIPTOR_WRITE (R124). Kenval writes a queue descriptor, discarding records on relocation. -/
  | queueDescriptorWrite (q : BitVec 7) (v : BitVec 128)
  /-- BANK_OWNER_WRITE (R262). Kenval changes a bank's owner, clearing holds and starting a scrub. -/
  | bankOwnerWrite (bank : BitVec 11) (v : BitVec 32)
  /-- BANK_SCRUB_COMPLETE (R262). The bank scrub ends and waiting accesses proceed. -/
  | bankScrubComplete (bank : BitVec 11)
  /-- CONTEXT_SAVE (R355). Kenval orders all resident classes of a context saved. -/
  | contextSave (ctx : CtxId)
  /-- PORT_CONFIG_WRITE (R68). Kenval writes a port configuration register. -/
  | portConfigWrite (port : BitVec 5) (v : BitVec 64)
  /-- PORT_MODE_CHANGE (R68). A new port mode takes effect after the ingress buffer drains. -/
  | portModeChange (port : BitVec 5)
  /-- ETHERNET_FRAME_RECEIVE (R69). An Ethernet frame is stored, checked and presented or discarded. -/
  | ethernetFrameReceive (port : BitVec 5) (bytes : List Byte)
  /-- FABRIC_FRAME_RECEIVE (R70). A YT frame is received, checked and its credits returned. -/
  | fabricFrameReceive (port : BitVec 5) (bytes : List Byte)
  /-- TIMESYNC (R330). A timestamp exchange frame adjusts the package clock. -/
  | timesync (port : BitVec 5) (offset : Int)
  /-- TIMESYNC_SEND (R330). Every 10 µs a TIMESYNC frame is exchanged on each fabric link. -/
  | timesyncSend (port : BitVec 5)
  /-- TIME_UNSYNC (R330). Offset or missing sync for the limit reports loss of synchronisation. -/
  | timeUnsync
  /-- LANESWAP (R331). A lane-swap handshake frame is answered with acceptance or refusal. -/
  | laneswap (port : BitVec 5) (lane : BitVec 3) (accept : Bool) (ts : BitVec 64)
  /-- LANE_WEAK (R331). Window counts mark a lane weak and start a swap handshake. -/
  | laneWeak (port : BitVec 5) (lane : BitVec 3)
  /-- LANE_SWAPPED (R331). At Ts the ends retrain the spare in place of the weak lane. -/
  | laneSwapped (port : BitVec 5)
  /-- LINK_DOWN (R332). A failed link takes the port down and reroutes traffic. -/
  | linkDown (port : BitVec 5)
  /-- HOST_INGRESS_WRITE (R76). A host write to an ingress slot, discarded if the slot is busy. -/
  | hostIngressWrite (addr : BitVec 20) (bytes : List Byte)
  /-- HOST_FRAME_TAKE (R76). The device takes a host frame, checks it and presents it to pipeline 0. -/
  | hostFrameTake
  /-- SERVICE_SLOT (R11). Every 128 cycles a pipeline cycle serves Kenval writes or host frames. -/
  | serviceSlot
  /-- PACKET_PARSE (R77). The parser runs a frame's first bytes into the header vector. -/
  | packetParse (pipe : BitVec 3)
  /-- STAGE_EXECUTE (R111). A stage performs lookups, evaluates the action block and commits. -/
  | stageExecute (pipe : BitVec 3) (stage : BitVec 4)
  /-- PACKET_DISPOSITION (R92). After stage 15 the packet is forwarded, absorbed, both or dropped. -/
  | packetDisposition (pipe : BitVec 3)
  /-- PAYLOAD_WRITE (R87). The payload engine writes payload lines and applies linked cell operations. -/
  | payloadWrite (eng : BitVec 4)
  /-- PAYLOAD_ADDW (R87). The payload engine performs I32 wrapping adds. -/
  | payloadAddw (eng : BitVec 4)
  /-- PAYLOAD_ADDS (R87). The payload engine performs I32 saturating adds. -/
  | payloadAdds (eng : BitVec 4)
  /-- PAYLOAD_ADDF (R87). The payload engine performs F32 adds. -/
  | payloadAddf (eng : BitVec 4)
  /-- CREDIT_WAIT_DISCARD (R320). A transit frame waiting 1 ms for credits is discarded. -/
  | creditWaitDiscard (port : BitVec 5)
  /-- READ_REQUEST (R326). A fabric engine checks a grant and serves a remote read. -/
  | readRequest (port : BitVec 5)
  /-- WRITE_REQUEST (R326). A fabric engine serves a remote write. -/
  | writeRequest (port : BitVec 5)
  /-- ATOMIC_REQUEST (R326). A fabric engine serves a remote atomic. -/
  | atomicRequest (port : BitVec 5)
  /-- MULTICAST_WRITE (R326). A fabric engine serves a multicast member write. -/
  | multicastWrite (port : BitVec 5)
  /-- REMOTE_ARRIVE (R326). A fabric engine applies a remote arrive. -/
  | remoteArrive (port : BitVec 5)
  /-- READ_DATA (R298). Read data returns to the initiator and lands in order. -/
  | readData (port : BitVec 5)
  /-- WRITE_ACKNOWLEDGEMENT (R298). A write acknowledgement counts towards command completion. -/
  | writeAcknowledgement (port : BitVec 5)
  /-- ATOMIC_RESULT (R298). An atomic's old value returns to LADDR. -/
  | atomicResult (port : BitVec 5)
  /-- MULTICAST_MEMBER_ACKNOWLEDGEMENT (R299). A member acknowledgement counts towards an MCST. -/
  | multicastMemberAcknowledgement (port : BitVec 5)
  /-- ARRIVE_ACKNOWLEDGEMENT (R300). A remote arrive acknowledgement completes RARRIVE. -/
  | arriveAcknowledgement (port : BitVec 5)
  /-- REFUSAL (R301). A refusal stops the command or fails an MCST member. -/
  | refusal (port : BitVec 5)
  /-- REMOTE_TIMEOUT (R302). An unanswered request times out, stopping its command. -/
  | remoteTimeout (id : Nat)
  /-- FABRIC_DRAIN (R328). Kenval drain returning once accepted requests performed or refused. -/
  | fabricDrain
  /-- HOST_LINK_DRAIN (R277). Kenval drain returning once earlier host-link requests completed. -/
  | hostLinkDrain
  /-- CLASSIFICATION_DESCRIPTOR_WRITE (R80). Kenval writes a pipeline's classification descriptor with checks. -/
  | classificationDescriptorWrite (pipe : BitVec 3) (v : BitVec 128)
  /-- TABLE_DESCRIPTOR_WRITE (R83). Kenval writes a table descriptor with fit checks. -/
  | tableDescriptorWrite (die : BitVec 1) (i : BitVec 6) (v : BitVec 128)
  /-- TABLE_ENTRY_WRITE (R86). Kenval replaces a table entry whole in a service slot. -/
  | tableEntryWrite (die : BitVec 1) (i : BitVec 6) (slot : Option (BitVec 24)) (v : BitVec 512)
  /-- STAGE_ENTRY_WRITE (R106). Kenval writes a context's stage entry with checks. -/
  | stageEntryWrite (pipe : BitVec 3) (stage : BitVec 4) (ctx : CtxId) (v : BitVec 320)
  /-- PARSER_PROGRAM_LOAD (R105). Kenval loads and measures a parser program, refused on bad words. -/
  | parserProgramLoad (pipe : BitVec 3) (words : List (BitVec 32))
  /-- ACTION_CODE_LOAD (R110). Kenval loads and measures action blocks, refused on bad words. -/
  | actionCodeLoad (pipe : BitVec 3) (stage : BitVec 4) (base : BitVec 12) (words : List (BitVec 32))
  /-- DECODE_MAP_WRITE (R159). Kenval writes and measures a decode map. -/
  | decodeMapWrite (map : BitVec 4) (entries : List (BitVec 16))
  /-- ROUTING_ENTRY_WRITE (R317). Kenval writes a routing table entry in a service slot. -/
  | routingEntryWrite (pipe : BitVec 3) (dst : BitVec 10) (v : BitVec 32)
  /-- FAULT_QUEUE_HEADER_WRITE (R348). Kenval advances HEAD, clears OVF or sets IE. -/
  | faultQueueHeaderWrite (die : BitVec 1) (v : BitVec 64)
  /-- HELD_FAULT_ENTRY (R350). A held fault is entered as queue space frees. -/
  | heldFaultEntry (die : BitVec 1)
  /-- PAGING_REPLY_MAPPED (R351). A MAPPED reply retries every waiting walk of the page. -/
  | pagingReplyMapped (die : BitVec 1) (ctx : CtxId) (page : BitVec 32)
  /-- PAGING_REPLY_FAIL (R351). A FAIL reply terminates the context and reports MEM_EXHAUSTED. -/
  | pagingReplyFail (die : BitVec 1) (ctx : CtxId) (page : BitVec 32)
  /-- KENVAL_RESUME (R342). Kenval resumes a STOPPED task. -/
  | kenvalResume (t : TileId) (skip : Bool)
  /-- KENVAL_DISCARD (R342). Kenval discards a STOPPED task without END. -/
  | kenvalDiscard (t : TileId)
  /-- KENVAL_TERMINATE (R342). Kenval terminates the STOPPED task's context. -/
  | kenvalTerminate (t : TileId)
  /-- KENVAL_PREEMPT_REQUEST (R140). Kenval requests pre-emption of a named task. -/
  | kenvalPreemptRequest (t : TileId)
  /-- DEBUG_STOP (R363). Kenval stop request traps the task at the next boundary. -/
  | debugStop (t : TileId)
  /-- WATCH_COPY_RELEASE (R367). Kenval releases a copy held by a watchpoint. -/
  | watchCopyRelease (id : Nat)
  /-- CORE_DUMP (R369). Kenval's dump service halts, snapshots and writes a context dump. -/
  | coreDump (ctx : CtxId)
  /-- WATCHDOG (R356). The hang watchdog expires and terminates the context. -/
  | watchdog (t : TileId)
  /-- CTX_LOST (R357). A 1 ms save stall makes the context LOST. -/
  | ctxLost (ctx : CtxId)
  /-- TRACE_SAMPLE (R361). Each sample period a SAMPLE trace record is written. -/
  | traceSample (t : TileId)
  /-- MEASUREMENT_EXTEND (R378). Kenval extends an operator measurement register. -/
  | measurementExtend (reg : BitVec 4) (ty : BitVec 8) (content : List Byte)
  /-- ATTESTATION_REPORT (R380). A mailbox request returns a signed measurement report. -/
  | attestationReport (nonce : BitVec 512)
  /-- COLD_RESET (R386). Power-on, hot reset or PERST# clears the device and runs measured boot. -/
  | coldReset
  /-- THERMAL_THROTTLE (R385). Above 105 °C tiles throttle until below 100 °C. -/
  | thermalThrottle (die : BitVec 1) (hot : Bool)
  /-- THERMAL (R385). Above 115 °C for 1 ms every context is halted. -/
  | thermal (die : BitVec 1)
  /-- THERMAL_POWER_OFF (R385). Above 125 °C the package powers off. -/
  | thermalPowerOff
  /-- KENVAL_REGISTER_WRITE (R20). Kenval write to any register or table without a row of its own. -/
  | kenvalRegisterWrite (r : KReg)
  /-- BACK_IN_STEP (R279). A unit whose timebase had departed from the package master comes back in step and resumes translating and accepting stamped requests. -/
  | backInStep (u : XUnit)
  /-- D2D_LINK (R346). The die-to-die link retries a flit beyond its limit, replays the transfer and enters D2D_LINK in the fault queue. -/
  | d2dLink
  /-- STATE_PARITY (R346). A parity error in tile state is detected and taken as a machine check at the next bundle boundary. -/
  | stateParity (t : TileId)
  /-- POWER_CAP (R384). The power controller inserts frozen cycles into a die's tiles to hold the package power cap. -/
  | powerCap (die : BitVec 1) (on : Bool)
  deriving DecidableEq, Repr, Inhabited

end Sys2Proof
end

