-- ==== Sys2Proof/Machine/State.lean ====
section
/-! DEFINITION. The state of one KV8 package as plain data: tiles with their tasks, queues, launchers, packet pipelines,
ports, engines, memories and management registers, each with the rule that names it; the reasons a step can stop; and
the state after cold reset (R386). -/

namespace Sys2Proof.Machine

/-! ### Registers of a task -/

/-- A vector register, which is an accumulator row: 256 lanes of 40 bits and a format tag (R173, R63). -/
structure VReg where
  lanes : Vector Lane 256
  tag : BitVec 6
  deriving DecidableEq, Repr

/-- A ring handle (R263), with the tags of its filled slots, from HEAD on, as they stood when each became readable
(R265). -/
structure Handle where
  base : BitVec 28
  slotsz : BitVec 14
  tag : BitVec 6
  logs : BitVec 4
  fill : BitVec 32
  head : BitVec 32
  res : BitVec 32
  valid : Bool
  tags : List (BitVec 6)
  deriving DecidableEq, Repr

/-- A dependence token: PENDING or COMPLETE, status, detail and the producer's sequence number (R267, R294). -/
structure Token where
  pend : Bool
  status : BitVec 8
  detail : BitVec 8
  seq : BitVec 48
  deriving DecidableEq, Repr

/-- A copy channel of a tile: the shadow set and the active set of eight doublewords, and the command that keeps the
active set busy (R266, R290). -/
structure Channel where
  shadow : Vector Word 8
  active : Vector Word 8
  busy : Option Nat
  deriving DecidableEq, Repr

/-- One entry of the row buffer: its number among the entries ever appended, 256 signed elements, stored planes, whether
its feed data has landed, and for a claimed entry the issue cycles in which it is first read and released (R240, R247). -/
structure RowEntry where
  num : Nat
  elems : Vector Byte 256
  planes : BitVec 4
  landed : Bool
  claim : Option (Nat × Nat)
  deriving DecidableEq, Repr

/-- A matrix load in flight: its issue cycle, the state it leaves when it completes, and the handle whose head then
advances (R244). -/
structure MatrixLoad where
  at_ : Nat
  w : Vector (Vector Byte 256) 256
  idx : Vector (Vector (BitVec 6) 256) 256
  mode : BitVec 3
  handle : BitVec 4
  adv : Bool
  deriving DecidableEq, Repr

/-- An `MFEED` whose data lands (R247): its handle, whether the head then advances, its issue cycle, the number of the next
entry to land, and the entries still to land. -/
structure Feed where
  handle : BitVec 4
  adv : Bool
  at_ : Nat
  next : Nat
  left : Nat
  deriving DecidableEq, Repr

/-- The matrix class (R240): W-array and index store by row and column, array mode (0 dense, 1 to 4 as SP of R241), row
buffer with the number of entries ever appended, configuration, load in flight, feeds whose data is landing, and the
issue cycle from which the array no longer streams. -/
structure Matrix where
  w : Vector (Vector Byte 256) 256
  idx : Vector (Vector (BitVec 6) 256) 256
  mode : BitVec 3
  rows : List RowEntry
  rowCount : Nat
  cfg : Word
  load : Option MatrixLoad
  feeds : List Feed
  streamEnd : Nat
  deriving DecidableEq, Repr

/-- The transpose class (R253). -/
structure Transposer where
  t : Vector (Vector (BitVec 32) 256) 64
  pushn : Nat
  popn : Nat
  rows : Nat
  tag : BitVec 6
  deriving DecidableEq, Repr

/-- What an exposed write does when it lands (R7, R175). -/
inductive LandVal where
  /-- An S register. -/
  | sreg (r : BitVec 6) (v : Word)
  /-- An A register. -/
  | areg (r : BitVec 5) (v : Word)
  /-- A predicate. -/
  | preg (r : BitVec 3) (v : Bool)
  /-- A loop counter. -/
  | lcreg (r : BitVec 2) (v : BitVec 32)
  /-- A physical V register with its tag. -/
  | vreg (r : BitVec 6) (v : VReg)
  /-- Path-trace registers written together by one `MDESC`. -/
  | pts (l : List (BitVec 6 × BitVec 32))
  /-- Flags ORed into YFFLAGS (R44). -/
  | flags (f : Word)
  /-- A spill doubleword (R191). -/
  | spill (i : BitVec 10) (v : Word)
  /-- A Y-register written by `SWR` (R208). -/
  | yreg (n : BitVec 12) (v : Word)
  /-- The matrix configuration (R241). -/
  | mcfg (v : Word)
  /-- `MCLR` (R252). -/
  | mclr (w rb cfg : Bool)
  /-- A handle set up by `HSET` (R287). -/
  | hset (h : BitVec 4) (v : Handle)
  /-- n slots reserved (R288). -/
  | hres (h : BitVec 4) (n : BitVec 32)
  /-- n slots published, with a new tag unless it is zero (R288). -/
  | hpub (h : BitVec 4) (n : BitVec 32) (tag : BitVec 6)
  /-- The head advanced by n (R288). -/
  | hadv (h : BitVec 4) (n : BitVec 32)
  /-- Two shadow doublewords of a channel (R291). -/
  | cset (c : Fin 2) (j : BitVec 2) (x y : Word)
  /-- A channel's shadow set cleared (R291). -/
  | cclr (c : Fin 2)
  /-- A transposer row (R254). -/
  | xpush (row : Nat) (v : Vector (BitVec 32) 256)
  /-- `XCFG` (R254). -/
  | xcfg (rows : Nat)
  /-- `XCLR` (R254). -/
  | xclr
  /-- A token that a command has taken on as its producer (R292). -/
  | token (r : BitVec 5) (t : Token)
  /-- The shadow of a branch begins: the next three bundles (R180). -/
  | shadow
  /-- Commit of a physical accumulator row (R250): whether it accumulates, the window, and one addend vector per plane,
  the midpoint correction last. -/
  | row (r : BitVec 6) (mac : Bool) (wlo whi : BitVec 8) (adds : List (Vector Int 256))
  deriving DecidableEq, Repr

/-- An exposed write in flight: landing cycle (an issue cycle, or an offset while it waits in the late-write buffer),
order of its slot for R177, and its effect. -/
structure Landing where
  at_ : Nat
  ord : Nat
  val : LandVal
  deriving DecidableEq, Repr

/-- One active hardware loop (R183 to R190, R352, R358): counter, addresses of the loop bundle and of the body, stages
of a `LOOP.SWP`, iterations started, drain under way, three counters and passes. -/
structure LoopFrame where
  n : BitVec 2
  own : BitVec 18
  first : BitVec 18
  last : BitVec 18
  swp : Option (Fin 4)
  started : Nat
  drain : Bool
  filled : Nat
  nops : Nat
  frozen : Nat
  passes : Nat
  deriving DecidableEq, Repr

/-- The operation of a scalar global access (R283, R285). -/
inductive ScalarOp where
  | load
  | store (v : Word)
  | amo (o : AmoOp) (v e : Word)
  | mark
  deriving DecidableEq, Repr

/-- An entry of the load queue, the store queue or the side log (R281, R284): operation, address, size, destination,
acquire and release scopes, issue order, whether it waits for a page, its context, its task, the bundle that issued it, and
whether a walk was made for it (R282). -/
structure QEntry where
  op : ScalarOp
  va : Word
  size : Nat
  d : BitVec 6
  acq : Option Scope
  rel : Option Scope
  ord : Nat
  waits : Bool
  ctx : CtxId
  uid : Nat
  bundle : Nat
  walked : Bool
  deriving DecidableEq, Repr

/-- A write to class 1 or 2 that the host-link egress has accepted and whose completion has not returned (R305): the access,
its class and physical address, and its place in the order of acceptance of the package. -/
structure HostWrite where
  e : QEntry
  cls : BitVec 3
  pa : Nat
  num : Nat
  deriving DecidableEq, Repr

/-- A `HADV` that waits for the reads issued before it (R288): handle, slots, its issue cycle, and the first command number
that comes after it. -/
structure HeadWait where
  handle : BitVec 4
  n : BitVec 32
  at_ : Nat
  cmds : Nat
  deriving DecidableEq, Repr

/-- An effect outside the tile held by the commit buffer until the branch resolves (R181). -/
inductive Held where
  /-- Bytes of the Sward. -/
  | sward (sga : Nat) (bytes : List Byte)
  /-- A scalar access entering a queue. -/
  | access (toLoad toStore : Bool) (e : QEntry)
  /-- Records for a queue: the destination register of the status and its landing cycle; `SPAWNV` answers the count. -/
  | enq (q : BitVec 7) (recs : List (BitVec 256)) (spawn : Bool) (d : BitVec 6) (at_ : Nat) (ord : Nat)
  /-- Banks released (R145). -/
  | relb (region : BitVec 4) (stage : BitVec 4) (free : Bool)
  /-- A command that has issued. -/
  | cmd (id : Nat)
  deriving DecidableEq, Repr

/-- The task's monitor or task mode (R341). -/
inductive Mode where
  | task | monitor
  deriving DecidableEq, Repr, Inhabited

/-- State of an instruction half (R148). -/
inductive HalfState where
  | idle | active | overlay | loading | resident
  deriving DecidableEq, Repr, Inhabited

/-- An instruction half: state, owning context, owning task, image, WR (R148), whether `CPY` has written it since its
load, and the cycle at which its task last ran (R133). -/
structure Half where
  st : HalfState
  owner : CtxId
  task : Nat
  image : BitVec 32
  wr : Bool
  dirty : Bool
  ran : Nat
  deriving DecidableEq, Repr

/-- An ACTIVE or OVERLAY half of a suspended task (R139, R148): which half, its state and its bytes from the half's
base. -/
structure SavedHalf where
  upper : Bool
  half : Half
  bytes : List (Nat × BitVec 8)
  deriving DecidableEq, Repr

/-- An imprecise fault that has reached the sequencer and waits for a bundle boundary, with the engine that met it (R280,
R281, R336). -/
structure ImpFault where
  eng : BitVec 3
  cause : BitVec 8
  va : Word
  type : BitVec 2
  level : BitVec 3
  logIdx : BitVec 6
  release : Option (BitVec 6)
  deriving DecidableEq, Repr

/-- Everything a task owns, which moves with it when it is suspended: the core, vector, matrix, transpose and spill
classes of R139, its record and template fields, and its place in the issue sequence. -/
structure Task where
  s : Vector Word 64
  a : Vector Word 32
  lc : Vector (BitVec 32) 4
  p : Vector Bool 8
  k : Vector Token 32
  h : Vector Handle 16
  v : Vector VReg 64
  pt : Vector (BitVec 32) 64
  spill : SMap Word
  fflags : Word
  movf : Word
  cmdseq : BitVec 48
  ycause : Word
  yepc : Word
  ytval : Word
  /-- YFTIME at the task's last stop (R370). -/
  stopTime : Nat
  yms : Vector Word 16
  mat : Matrix
  xp : Transposer
  ch : Vector Channel 2
  pc : BitVec 18
  npc : BitVec 18
  taken : Bool
  mode : Mode
  loops : List LoopFrame
  rot : BitVec 5
  refill : Bool
  pend : List Landing
  lwb : List Landing
  loadQ : List QEntry
  headAdv : List HeadWait
  empties : Nat
  shadow : Nat
  shadowUsed : Nat
  held : List Held
  bundle : Nat
  skip : List (BitVec 18 × BitVec 3)
  noBreak : Option (BitVec 18)
  softTrap : Option (BitVec 4)
  uid : Nat
  gang : Nat
  gidx : BitVec 4
  gsize : BitVec 4
  saveSlot : BitVec 12
  gangSlot : BitVec 12
  ctx : CtxId
  tmpl : BitVec 16
  queue : BitVec 7
  cmdbase : BitVec 32
  stage : BitVec 4
  resumed : Bool
  regions : Vector (BitVec 32) 16
  image : BitVec 32
  map : BitVec 4
  doneCell : BitVec 16
  doneScope : BitVec 3
  doneV : Bool
  overCount : Nat
  declared : Nat
  overrun : Bool
  icyc : Nat
  fcyc : Nat
  restore : List ResClass
  watchAmo : Bool
  halves : List SavedHalf
  cur : Bool
  endAgain : Option (BitVec 18)
  newLoop : Bool
  swaps : Bool
  releases : List (BitVec 11 × Bool × BitVec 4)
  impFaults : List ImpFault
  stepDue : Bool
  stopReq : Bool
  /-- The lazily saved classes that the task has claimed since it was placed (R139). -/
  touched : List ResClass
  /-- The bundle that BREAK or WATCH_STORE has stopped (R364). -/
  brokeAt : Option (BitVec 18)
  deriving DecidableEq, Repr

/-! ### Tiles -/

/-- A leased translation (R276): the page, what it maps to, and its expiry by YFTIME. -/
structure Lease where
  ctx : CtxId
  page : Nat
  pageBits : Nat
  pa : Nat
  cls : BitVec 3
  r : Bool
  w : Bool
  at_ : Bool
  snap : Bool
  lclass : BitVec 3
  expiry : Nat
  deriving DecidableEq, Repr

/-- What a tile is doing with its task (R129, R342, R375). -/
inductive TStatus where
  | free | loading | running | stopped | held | ending
  deriving DecidableEq, Repr, Inhabited

/-- One of 256 tiles. -/
structure Tile where
  status : TStatus
  task : Task
  claiming : Option ResClass
  claimStall : Nat
  /-- A restore that goes on after the watchdog has ended its task, and the context (R356). -/
  finishing : Option (ResClass × CtxId)
  imem : Mem
  half0 : Half
  half1 : Half
  cur : Bool
  mapNo : BitVec 4
  mapCopy : List (BitVec 16)
  storeQ : List QEntry
  sideLog : List QEntry
  hostPend : List HostWrite
  accOrd : Nat
  tlb : List Lease
  outOfStep : Bool
  ic : Nat
  slice : Nat
  sliceLen : Nat
  resident : List (Nat × ResClass)
  breaks : Vector (Bool × CtxId × BitVec 18) 4
  stepBit : Bool
  preempt : Bool
  gangStop : Bool
  parity : Bool
  /-- The classes on the tile in which a parity error has been met, by task (R383). -/
  badClasses : List (Nat × ResClass)
  freeze : Nat
  watchdog : Nat
  watchLimit : Nat
  reservedFor : Option Nat
  sampleDue : Bool
  /-- Issue-cycle count at which the sample period at hand began (R359). -/
  sampleFrom : Nat
  deriving DecidableEq, Repr

/-! ### Commands of the copy channels -/

/-- Progress of an engine command (R267, R292, R298). -/
inductive CmdPhase where
  | held | waiting | running | stopping
  deriving DecidableEq, Repr, Inhabited

/-- A remote request of a command that has not been answered (R298, R299, R302): its destination and offset, the stream
position or member it serves, its bytes, the YFTIME at which it was sent, and whether it has timed out. -/
structure RemoteReq where
  chip : BitVec 10
  off : BitVec 48
  part : Nat
  len : Nat
  sent : Nat
  late : Bool
  deriving DecidableEq, Repr

/-- An engine command from its `CGO` to its completion (R266, R267, R292 to R300): tile, channel, task and context;
parameters; sequence number, produced token and consumed tokens that are still PENDING, and whether one has completed
with a status; progress through the byte stream, slots reserved and first slot; what it has captured (rows of `CPY.AS`,
the lists of a gather, the data of an `MCST`), whether that is poisoned, and the tag it publishes; status, detail, VA and access type of the
fault that stopped it; requests sent, next to send, read data that came early, members done and failed; its hold by
watchpoints and the watchpoints reported; whether it waits for a page; its place in the order of acceptance, the
translations that it has used (R278), the memory lines of the rows at hand (R269), and whether its record is written. -/
structure Cmd where
  id : Nat
  tile : TileId
  chan : Fin 2
  task : Nat
  ctx : CtxId
  kind : BitVec 4
  par : Vector Word 8
  seq : BitVec 48
  kp : Option (BitVec 5)
  kx : List (BitVec 5)
  upstream : Bool
  regions : Vector (BitVec 32) 16
  saveSlot : BitVec 12
  stage : BitVec 4
  phase : CmdPhase
  accepted : Bool
  pos : Nat
  slotRes : Nat
  firstSlot : BitVec 32
  rowBytes : List Byte
  rowPoison : Bool
  tag : BitVec 6
  status : BitVec 8
  detail : BitVec 8
  fva : Word
  ftype : BitVec 2
  reqs : List RemoteReq
  nextPart : Nat
  early : List (Nat × List Byte × Bool)
  done_ : Nat
  failed : List (BitVec 10)
  watchHeld : Bool
  reported : List (BitVec 2)
  pageWait : Bool
  accNum : Nat
  used : List Lease
  lines : List ((Nat × Nat) × List Byte × Bool)
  recorded : Bool
  /-- Bytes of the histogram that have been written (R270). -/
  histPos : Nat
  deriving DecidableEq, Repr

/-! ### Packet pipelines -/

/-- The part of an ingress buffer that a frame occupies: port (32 for the host window), start and length in 64-byte
units, and the traffic class whose credits it holds (R70, R78, R88). -/
structure BufRef where
  port : BitVec 6
  start : BitVec 13
  units : Nat
  tc : BitVec 3
  deriving DecidableEq, Repr

/-- A frame in an ingress buffer: bytes without FCS or trailer, whether it is a YT frame, arrival time, a late error of a
frame in transit (R81), and entry in a service slot (R78). -/
structure Frame where
  ref : BufRef
  bytes : List Byte
  yt : Bool
  time : Nat
  stomp : Bool
  service : Bool
  deriving DecidableEq, Repr

/-- A frame at an egress: the ingress buffer it still occupies, bytes without FCS or trailer, framing, traffic class, a
stomped trailer, whether it is in transit, the pipeline whose routing table chose the egress, and the time from which it
waits (R81, R92, R320, R332). -/
structure OutFrame where
  ref : BufRef
  bytes : List Byte
  yt : Bool
  tc : BitVec 3
  stomp : Bool
  transit : Bool
  route : Option (BitVec 3)
  since : Nat
  deriving DecidableEq, Repr

/-- A packet in the pipeline: its frame, its header vector, the bytes each extracted field came from (R121: field, byte
offset, lowest bit, width, little-endian), whether it is a refusal of R119, its stage, and, where `AC.ROUTE`
chose its egress, the dateline of that route (R316). -/
structure Packet where
  frame : Frame
  phv : Vector (BitVec 16) 128
  extracts : List (BitVec 7 × Nat × Nat × Nat × Bool)
  refusal : Bool
  stage : Nat
  route : Option Bool
  deriving DecidableEq, Repr

/-- A parse under way (R101, R102): packet, state, word, cursor, next, key and states visited. -/
structure Parse where
  pkt : Packet
  state : BitVec 6
  word : Nat
  cursor : Nat
  next : Nat
  key : BitVec 16
  visited : Nat
  deriving DecidableEq, Repr

/-- Result of a lookup at a stage (R84, R107). -/
structure Lookup where
  enabled : Bool
  hit : Bool
  sel : BitVec 6
  data : List Byte
  deriving DecidableEq, Repr

/-- An operation that a block hands to its commit (R111). -/
inductive StageOp where
  | stateful (rmw : BitVec 2) (table : BitVec 6) (i : BitVec 16) (word : BitVec 3) (v : BitVec 7) (val : BitVec 32)
  | arrive (cell : BitVec 16) (k : Nat) (link : Bool)
  | expect (cell : BitVec 16) (n : Nat)
  | pay (op : BitVec 2) (table : BitVec 6) (line : BitVec 16) (len : Nat) (cell : BitVec 16) (dlv arr : Bool)
  | admitTok (table : BitVec 6) (i : BitVec 16) (len : Nat)
  | close (table : BitVec 6) (i : BitVec 16)
  | route (chip : BitVec 10)
  deriving DecidableEq, Repr

/-- A packet's evaluation at a stage (R111): working vector, operations, words executed, next word, ended, lookups, cell
operations and payload operations so far, the block's first word, its route, and an action fault met in
evaluation. -/
structure StageRun where
  pkt : Packet
  wk : Vector (BitVec 16) 128
  ops : List StageOp
  n : Nat
  i : Nat
  ended : Bool
  lookups : Vector Lookup 4
  cellOps : Nat
  pays : Nat
  base : BitVec 12
  route : Option Bool
  fault : Option Cause
  deriving DecidableEq, Repr

/-- A payload operation in a cluster engine's queue (R87 to R91): operation, SGA, bytes, context, the cell it names, a
delivery on it, its linked arrives, what the check of R91 needs of its frame, and the stage that issued it. -/
structure PayOp where
  op : BitVec 2
  dst : Nat
  bytes : List Byte
  ctx : CtxId
  cell : Option (BitVec 16)
  dlv : Bool
  arrives : List (BitVec 16 × Nat)
  yt : Bool
  poison : Bool
  e2e : BitVec 32
  tokid : BitVec 32
  ref : BufRef
  unit : BitVec 16
  stage : Nat
  deriving DecidableEq, Repr

/-- A packet pipeline (R77 to R80, R102, R106): parser memory, classification descriptor, frames presented and not yet
parsed, packets in the stages, routing table of its port group (R317), the words under evaluation, and the cycle of the
service slot that it last used (R11). -/
structure Pipe where
  pmem : SMap (BitVec 32)
  pstates : Nat
  cls : BitVec 128
  waiting : List Frame
  pkts : List Packet
  parse : Option Parse
  run : Option StageRun
  runStage : BitVec 4
  routes : SMap (BitVec 32)
  entries : SMap (BitVec 320)
  amem : SMap (BitVec 32)
  served : Option Nat
  deriving DecidableEq, Repr

/-- A remote request or response at a fabric engine (R298, R325, R326, R328): its frame, the context and address that its grant
opens once that has been checked, whether it waits for a page, and whether the fabric drain at hand waits for it. A frame from
this package itself has port 63. -/
structure FabReq where
  frame : Frame
  checked : Option (CtxId × Nat)
  waits : Bool
  drains : Bool
  deriving DecidableEq, Repr

/-- A port (R67 to R70, R74, R327, R331, R332): configuration, a mode change under way, counters, credits of its peer and
flits whose credits it owes by class, frames to send, the times until which priorities are paused, priorities for which
it has sent PFC, refusal counter and times of its rate limit, spare lane in use, lane swap under way, last TIMESYNC,
requests and responses at its fabric engine, and that engine's translations; of its four lanes the corrected symbol errors of
this window, the windows in a row above Kenval's threshold, and whether the last margin fell below Kenval's floor, with the
start of the window, threshold and floor. -/
structure Port where
  cfg : Word
  newMode : Option (BitVec 2)
  down : Bool
  ctr : Vector Word 12
  credits : Vector Nat 8
  taken : Vector Nat 8
  egress : List OutFrame
  pauseUntil : Vector Nat 8
  pfcOut : Vector Bool 8
  macf : BitVec 16
  lastMac : Nat
  lastRefusal : Nat
  spareUsed : Bool
  swap : Option (BitVec 3 × Word × Bool)
  lastSync : Nat
  fab : List FabReq
  tlb : List Lease
  outOfStep : Bool
  laneErr : Vector Nat 4
  laneOver : Vector Nat 4
  laneLow : Vector Bool 4
  laneFrom : Nat
  laneThresh : Nat
  laneFloor : Nat
  deriving DecidableEq, Repr

/-! ### Queues, launchers, fault queues -/

/-- A suspended task or gang in a resume list (R137, R139): its members with the tile each ran on, in member order, its
last declared run, and the selections that have passed it over (R131). -/
structure Susp where
  members : List (TileId × Task)
  run : Nat
  passes : Nat
  deriving DecidableEq, Repr

/-- A record that has reserved a FIFO slot and has not landed (R36, R126): its slot, its contents, and for `ENQ` and
`SPAWNV` the tile, its task, and the order below which their scalar accesses are to perform first (R128). -/
structure LandRec where
  slot : Nat
  rec_ : BitVec 256
  after : Option (TileId × Nat × Nat)
  deriving DecidableEq, Repr

/-- A hardware queue (R124, R376): descriptor without its hardware fields, pointers, records in flight to reserved
slots, resume list, count of retired tasks, and the selections that have passed over its oldest record (R131). -/
structure HwQueue where
  desc : BitVec 128
  headp : Nat
  tailp : Nat
  landing : List LandRec
  resume : List Susp
  retn : Word
  passes : Nat
  deriving DecidableEq, Repr

/-- The prefix of an entry of a longest-prefix table, as the table library holds it (R84): table, entry, key as a number
whose highest bits are the prefix, and length. -/
structure PrefixEntry where
  table : BitVec 6
  entry : Nat
  key : BitVec 128
  len : Nat
  deriving DecidableEq, Repr

/-- A timed-launch entry (R142): its K fields, hardware fields, and tiles held. -/
structure Timed where
  v : BitVec 256
  tiles : List TileId
  deriving DecidableEq, Repr

/-- What is per die; a reserving head is a queue's oldest record, or a suspended gang by the identity of its member 0, and a
timed launch whose first bundle has not issued waits with its gang; the prefixes of its tables, in the order in which they
were written; and the cycle in which one of its pipelines last acted, with that pipeline (R84, R86, R129, R131, R142, R340,
R348, R359, R373, R385). -/
structure Die where
  rankPtr : Vector (BitVec 7) 16
  timed : Vector Timed 16
  routeMask : BitVec 256
  fqEntries : Vector (BitVec 256) 512
  fqHead : BitVec 10
  fqTail : BitVec 10
  fqOvf : Bool
  fqIe : Bool
  fqIrq : Bool
  fqHeld : List (BitVec 256)
  fqHeldPtr : BitVec 16
  reply : Word
  maps : Vector (List (BitVec 16)) 15
  mapsOk : BitVec 16
  tables : Vector (BitVec 128) 64
  prefixes : List PrefixEntry
  actAt : Nat
  actPipe : BitVec 2
  traceCtl : Word
  traceCtx : Word
  traceVal : BitVec 16
  traceMask : BitVec 16
  wptr : Word
  rptr : Word
  dropn : Word
  reserving : List (BitVec 7 × Option Nat)
  tactWait : List (BitVec 4 × Nat)
  throttle : Bool
  powerHeld : Bool
  dumps : List CtxId
  /-- Where the dumps go (R369). -/
  dumpTo : DumpDest
  deriving DecidableEq, Repr

/-- What is per cluster: the gather engine's translations (R269), the payload engine's operations (R88) and the
corrected-error counter (R261). -/
structure Cluster where
  tlb : List Lease
  outOfStep : Bool
  pay : List PayOp
  ecc : Word
  deriving DecidableEq, Repr

/-- A trap record as a dump holds it (R336, R337, R370): its fault-queue entry with the time of the fault, and the registers of
the trap. -/
structure TrapRec where
  entry : BitVec 256
  ycause : Word
  yepc : Word
  ytval : Word
  deriving DecidableEq, Repr

/-- A context's dump as data (R369, R370): the header (context, T0, the time at which step 3 ended, the first fault's trap
record), the fault list with its overflow count, the tasks of the save slots, the Sward banks (trigger cells among
them) by number, the queues' states, and the pages by virtual address and size. -/
structure DumpData where
  ctx : CtxId
  t0 : Nat
  t3 : Nat
  first : Option TrapRec
  faults : List (BitVec 256)
  overflow : Nat
  tasks : List Task
  banks : List (Nat × Mem)
  queues : List (BitVec 7 × HwQueue)
  pages : List (Nat × Nat × Mem)
  deriving DecidableEq, Repr

/-- A core dump under way (R369, R370): the die that writes it, T0 with the lease to wait for, the trap record of the first
fault, the fault list with its overflow count, and, once step 3 has ended, its time, what has been written of the pages, and
the rest of the dump. -/
structure DumpRun where
  die : BitVec 1
  t0 : Option (Nat × Nat)
  first : Option TrapRec
  faults : List (BitVec 256)
  overflow : Nat
  written : Option DumpData
  deriving DecidableEq, Repr

/-- A core of Kenval, an RV64GC core (R9): program counter, integer and floating-point registers. -/
structure KenvalCore where
  pc : Word
  x : Vector Word 32
  f : Vector Word 32
  deriving DecidableEq, Repr

/-- What is per context (R20, R324, R365, R369 to R373, R376). -/
structure Context where
  desc : BitVec 512
  tasks : Word
  icyc : Word
  fcyc : Word
  endless : Word
  key : BitVec 256
  watch : Vector (BitVec 128) 4
  slots : List Nat
  recording : Bool
  replaying : Bool
  hash : BitVec 32
  div : Bool
  divAt : Word
  /-- The replay log in HBM4 (R371, R419): its base, address bits [51:12], and LOGSZ, its write and read pointers, and the
  records that replay has used. -/
  logBase : BitVec 40
  logSize : BitVec 5
  logW : Word
  logR : Word
  logUsed : List Nat
  saving : Bool
  /-- Clock cycles for which a class save of the order at hand has made no progress (R357). -/
  saveStall : Nat
  dying : Bool
  dump : Option DumpRun
  deriving DecidableEq, Repr

/-! ### The package -/

/-- What the outside world or another agent does next (log 1): an event of the opcode table, one turn of a tile, n clock cycles
with no tile turn, or what the hardware meets that no row of the table names. -/
inductive Turn where
  | event (i : Instr)
  | tile (t : TileId)
  | tick (n : Nat)
  /-- Kenval changes the saved state of the STOPPED task on a tile to that of k (R342). -/
  | changeStopped (t : TileId) (k : Task)
  /-- Kenval's monitor image acts on a tile's EMULATE (R47). -/
  | emulate (t : TileId)
  /-- A read of a Sward line meets a single-bit error (R261). -/
  | singleBitError (line : Nat)
  /-- A double-bit error of a Sward line (R261). -/
  | doubleBitError (line : Nat)
  /-- An uncorrectable error of an HBM4 line (R346). -/
  | hbmError (line : Nat)
  /-- A lane of a port corrects n symbol errors (R331). -/
  | laneErrors (p : BitVec 5) (lane : Fin 4) (n : Nat)
  /-- A port's window ends with the eye margins sampled (R331). -/
  | laneWindow (p : BitVec 5) (margins : Vector Nat 4)
  /-- A local copy has issued its last request to memory, whose writes have not performed (R266, R267). -/
  | lastRequest (id : Nat)
  /-- Request i of a port's fabric engine is to perform next: the target imposes no order (R319, R326). -/
  | fabricOrder (p : BitVec 5) (i : Nat)
  deriving DecidableEq, Repr

/-- Which word sequence is under way: a parser's or a stage's words run one per step before the next turn (log 1). -/
inductive Focus where
  | idle
  | parser (p : BitVec 3)
  | stage (p : BitVec 3)
  deriving DecidableEq, Repr, Inhabited

/-- Why a slot freezes its tile (R176). -/
inductive FreezeWhy where
  | scoreboard | handle | bank | classClaim (c : ResClass) | channel | queueFull | cell | matrix | token | fence | wait
  | extra | gang
  /-- An effect that the same branch shadow holds: the cycle is an empty issue cycle (R181, R182). -/
  | shadow
  deriving DecidableEq, Repr, Inhabited

/-- What the last instruction did: it completed, it completed its whole bundle, it raised a precise trap, or it froze
its tile. -/
inductive Sig where
  | done
  | closed
  | trapped (cause : Cause) (tval : Word)
  | frozen (why : FreezeWhy)
  deriving DecidableEq, Repr, Inhabited

/-- What left the package: a frame on a port, an attestation report, a core dump, an interrupt to Kenval. -/
inductive Output where
  | frame (port : BitVec 5) (bytes : List Byte)
  | report (bytes : List Byte)
  | dump (dest : DumpDest) (d : DumpData)
  | irq (die : BitVec 1)
  deriving DecidableEq, Repr

/-- The package. -/
structure State where
  sched : List Turn
  focus : Focus
  cur : TileId
  slot : BitVec 3
  eng : BitVec 3
  slotWord : BitVec 32
  sig : Sig
  freeCount : Nat
  uids : Nat
  cmdIds : Nat
  accepts : Nat
  cycle : Nat
  phase : Nat
  timeNs : Nat
  timeFrac : Nat
  tiles : Vector Tile 256
  ctxs : Vector Context 64
  queues : Vector HwQueue 128
  dies : Vector Die 2
  clusters : Vector Cluster 16
  payWait : List PayOp
  e2eFailed : List BufRef
  kenval : Vector KenvalCore 4
  kenvalSram : Mem
  pipes : Vector Pipe 8
  ports : Vector Port 32
  hostWin : Mem
  hostOrder : List (BitVec 7)
  hostCtr : Vector Word 5
  cmds : List Cmd
  heldRecs : List (CtxId × BitVec 16 × Bool)
  sward : Mem
  hbm : Mem
  hostMem : Mem
  cxlMem : Mem
  swardPoison : List Nat
  hbmPoison : List Nat
  banks : SMap (BitVec 32)
  scrubbing : List Nat
  images : List (CtxId × BitVec 32 × List Byte)
  packetGroups : SMap (BitVec 32)
  windows : SMap (BitVec 256)
  /-- Address bits [51:5] of the grant table in HBM4 (R323, R419). -/
  grantBase : BitVec 47
  fabGroups : SMap (BitVec 128)
  remoteTimeout : Nat
  targetsOut : List XUnit
  offsetSince : Option Nat
  unsynced : Bool
  lastSync : Nat
  slew : Int
  meas : Vector (BitVec 512) 16
  extends_ : Word
  thermalStat : Bool
  poweredOff : Bool
  powerCap : BitVec 16
  winErr : Bool
  /-- A fabric drain is under way (R328). -/
  draining : Bool
  /-- A host-link drain is under way, for the writes that the egress had accepted before this one (R277). -/
  hostDrain : Option Nat
  drained : Bool
  out : List Output
  deriving DecidableEq, Repr

/-! ### Reasons to stop -/

/-- Faults of the model. -/
inductive Fault where
  /-- Kenval's HBM4 window is given an address at which R419 says there is nothing. Raised by the meaning of
  KENVAL_REGISTER_WRITE. Safe: the machine stops where the manual gives no effect. -/
  | hbmHole (pa : Nat)
  /-- A Kenval core accesses an address of its management space at which R409 places nothing. Raised by the meaning of
  KENVAL_REGISTER_WRITE. Safe: what else that space holds is not in the manual. -/
  | kenvalHole (addr : Nat)
  /-- A parser or a stage reaches a word that is no word of its program. Raised by `step`. Safe, and no run meets it: the
  windows of R105 and R110 accept no such word. -/
  | unloadedWord (w : BitVec 32)
  deriving DecidableEq, Repr

/-- Refusals of the model. -/
inductive Refusal where
  /-- The instruction has no meaning in this model yet. Raised by `exec`. Safe: nothing is claimed. -/
  | notModelled (mnemonic : String)
  deriving DecidableEq, Repr

/-! ### Reset -/

/-- An empty vector register (R134). -/
def VReg.reset : VReg := ⟨Vector.replicate 256 0, 0⟩

/-- An invalid handle (R134, R263). -/
def Handle.reset : Handle := ⟨0, 0, 0, 0, 0, 0, 0, false, []⟩

/-- A complete token with status 0 (R134, R294). -/
def Token.reset : Token := ⟨false, 0, 0, 0⟩

/-- The matrix class at a task's first bundle (R240). -/
def Matrix.reset : Matrix :=
  { w := Vector.replicate 256 (Vector.replicate 256 0), idx := Vector.replicate 256 (Vector.replicate 256 0), mode := 0
    rows := [], rowCount := 0, cfg := 0x0FF00088, load := none, feeds := [], streamEnd := 0 }

/-- The transpose class at a task's first bundle (R253). -/
def Transposer.reset : Transposer :=
  { t := Vector.replicate 64 (Vector.replicate 256 0), pushn := 0, popn := 0, rows := 64, tag := 0 }

/-- A task's state with nothing placed: every class as R134 presents it. -/
def Task.reset : Task :=
  { s := Vector.replicate 64 0, a := Vector.replicate 32 0, lc := Vector.replicate 4 0
    p := (Vector.replicate 8 false).set 0 true, k := Vector.replicate 32 Token.reset
    h := Vector.replicate 16 Handle.reset, v := Vector.replicate 64 VReg.reset, pt := Vector.replicate 64 0, spill := []
    fflags := 0, movf := 0, cmdseq := 0, ycause := 0, yepc := 0, ytval := 0, stopTime := 0, yms := Vector.replicate 16 0
    mat := Matrix.reset, xp := Transposer.reset, ch := Vector.replicate 2 ⟨Vector.replicate 8 0, Vector.replicate 8 0, none⟩
    pc := 0, npc := 0, taken := false, mode := .task, loops := [], rot := 0, refill := false, pend := [], lwb := []
    loadQ := [], headAdv := [], empties := 0, shadow := 0, shadowUsed := 0, held := [], bundle := 0
    skip := [], noBreak := none, softTrap := none, uid := 0, gang := 0, gidx := 0, gsize := 0, saveSlot := 0
    gangSlot := 0, ctx := 0, tmpl := 0, queue := 0, cmdbase := 0, stage := 0, resumed := false
    regions := Vector.replicate 16 0, image := 0, map := 0, doneCell := 0, doneScope := 0, doneV := false
    overCount := 0, declared := 0, overrun := false, icyc := 0, fcyc := 0, restore := [], watchAmo := false, halves := [], cur := false, endAgain := none, newLoop := false, swaps := false
    releases := [], impFaults := [], stepDue := false, stopReq := false, touched := [], brokeAt := none }

/-- An idle half with no image (R148). -/
def Half.reset : Half := ⟨.idle, 0, 0, 0, false, false, 0⟩

/-- A free tile. The slice length is R136's default and the watchdog limit R356's, in nanoseconds. -/
def Tile.reset : Tile :=
  { status := .free, task := Task.reset, claiming := none, claimStall := 0, finishing := none, imem := [], half0 := Half.reset, half1 := Half.reset, cur := false, mapNo := 0
    mapCopy := [], storeQ := [], sideLog := [], hostPend := [], accOrd := 0, tlb := [], outOfStep := false
    ic := 0, slice := 0, sliceLen := 100000, resident := []
    breaks := Vector.replicate 4 (false, 0, 0), stepBit := false, preempt := false
    gangStop := false, parity := false, badClasses := [], freeze := 0, watchdog := 0, watchLimit := 100000000, reservedFor := none
    sampleDue := false, sampleFrom := 0 }

/-- A pipeline with no program (R102, R80, R106, R317). -/
def Pipe.reset : Pipe :=
  { pmem := [], pstates := 0, cls := 0, waiting := [], pkts := [], parse := none, run := none, runStage := 0
    routes := [], entries := [], amem := [], served := none }

/-- A port in MODE 0 (R68, R377). -/
def Port.reset : Port :=
  { cfg := 0, newMode := none, down := false, ctr := Vector.replicate 12 0, credits := Vector.replicate 8 0
    taken := Vector.replicate 8 0, egress := [], pauseUntil := Vector.replicate 8 0
    pfcOut := Vector.replicate 8 false, macf := 0, lastMac := 0, lastRefusal := 0, spareUsed := false, swap := none
    lastSync := 0, fab := [], tlb := [], outOfStep := false, laneErr := Vector.replicate 4 0
    laneOver := Vector.replicate 4 0, laneLow := Vector.replicate 4 false, laneFrom := 0, laneThresh := 0, laneFloor := 0 }

def HwQueue.reset : HwQueue := ⟨0, 0, 0, [], [], 0, 0⟩

/-- A die after reset: only the EMULATE bit of the route mask is set, as R340 fixes it. -/
def Die.reset : Die :=
  { rankPtr := Vector.replicate 16 0, timed := Vector.replicate 16 ⟨0, []⟩, routeMask := 1 <<< 0x12
    fqEntries := Vector.replicate 512 0, fqHead := 0, fqTail := 0, fqOvf := false, fqIe := false, fqIrq := false
    fqHeld := [], fqHeldPtr := 0, reply := 0, maps := Vector.replicate 15 [], mapsOk := 0
    tables := Vector.replicate 64 0, prefixes := [], actAt := 0, actPipe := 0, traceCtl := 0, traceCtx := 0, traceVal := 0, traceMask := 0, wptr := 0, rptr := 0
    dropn := 0, reserving := [], tactWait := [], throttle := false, powerHeld := false, dumps := [], dumpTo := .host 0 }

def Cluster.reset : Cluster := ⟨[], false, [], 0⟩

/-- A FREE context (R377). -/
def Context.reset : Context :=
  { desc := 0, tasks := 0, icyc := 0, fcyc := 0, endless := 0, key := 0, watch := Vector.replicate 4 0, slots := []
    recording := false, replaying := false, hash := 0, div := false, divAt := 0, logBase := 0, logSize := 0, logW := 0, logR := 0, logUsed := [], saving := false
    saveStall := 0, dying := false, dump := none }

/-- The package right after a cold reset (R377, R386). -/
def State.reset : State :=
  { sched := [], focus := .idle, cur := 0, slot := 0, eng := 0, slotWord := 0, sig := .done, freeCount := 0, uids := 1
    cmdIds := 1, accepts := 0, cycle := 0, phase := 0, timeNs := 0, timeFrac := 0, tiles := Vector.replicate 256 Tile.reset
    ctxs := Vector.replicate 64 Context.reset, queues := Vector.replicate 128 HwQueue.reset
    dies := Vector.replicate 2 Die.reset, clusters := Vector.replicate 16 Cluster.reset, payWait := [], e2eFailed := []
    kenval := Vector.replicate 4 ⟨0, Vector.replicate 32 0, Vector.replicate 32 0⟩, kenvalSram := []
    pipes := Vector.replicate 8 Pipe.reset, ports := Vector.replicate 32 Port.reset, hostWin := [], hostOrder := []
    hostCtr := Vector.replicate 5 0, cmds := [], heldRecs := [], sward := [], hbm := [], hostMem := [], cxlMem := []
    swardPoison := [], hbmPoison := [], banks := [], scrubbing := [], images := [], packetGroups := [], windows := []
    grantBase := 0, fabGroups := [], remoteTimeout := 1000000, targetsOut := [], offsetSince := none, unsynced := false, lastSync := 0
    slew := 0, meas := Vector.replicate 16 0, extends_ := 0, thermalStat := false, poweredOff := false
    powerCap := 1500, winErr := false, draining := false, hostDrain := none, drained := false, out := [] }

end Sys2Proof.Machine
end

