-- ==== Sys2Proof/Machine/Ops.lean ====
section
/-! DEFINITION. The named operations over registers, landings, clocks, the fault queue and traps: what every meaning is
built from. Taking an exception (R334 to R342) and returning from one (R344) stand here. -/

namespace Sys2Proof.Machine

/-! ### Parts of the package -/

def State.tile (s : State) (t : TileId) : Tile := s.tiles[t.toNat]'t.isLt
def State.setTile (s : State) (t : TileId) (x : Tile) : State := { s with tiles := s.tiles.set t.toNat x t.isLt }
def State.modTile (s : State) (t : TileId) (f : Tile → Tile) : State := s.setTile t (f (s.tile t))
def State.modTaskAt (s : State) (t : TileId) (f : Task → Task) : State :=
  s.modTile t fun x => { x with task := f x.task }

/-- The acting tile. -/
def State.me (s : State) : Tile := s.tile s.cur

/-- The task of the acting tile. -/
def State.tk (s : State) : Task := s.me.task
def State.modTask (s : State) (f : Task → Task) : State := s.modTaskAt s.cur f

def State.ctx (s : State) (c : CtxId) : Context := s.ctxs[c.toNat]'c.isLt
def State.modCtx (s : State) (c : CtxId) (f : Context → Context) : State :=
  { s with ctxs := s.ctxs.set c.toNat (f (s.ctx c)) c.isLt }
def State.queue (s : State) (q : BitVec 7) : HwQueue := s.queues[q.toNat]'q.isLt
def State.modQueue (s : State) (q : BitVec 7) (f : HwQueue → HwQueue) : State :=
  { s with queues := s.queues.set q.toNat (f (s.queue q)) q.isLt }
def State.die (s : State) (d : BitVec 1) : Die := s.dies[d.toNat]'d.isLt
def State.modDie (s : State) (d : BitVec 1) (f : Die → Die) : State :=
  { s with dies := s.dies.set d.toNat (f (s.die d)) d.isLt }
def State.cluster (s : State) (c : BitVec 4) : Cluster := s.clusters[c.toNat]'c.isLt
def State.modCluster (s : State) (c : BitVec 4) (f : Cluster → Cluster) : State :=
  { s with clusters := s.clusters.set c.toNat (f (s.cluster c)) c.isLt }
def State.pipe (s : State) (p : BitVec 3) : Pipe := s.pipes[p.toNat]'p.isLt
def State.modPipe (s : State) (p : BitVec 3) (f : Pipe → Pipe) : State :=
  { s with pipes := s.pipes.set p.toNat (f (s.pipe p)) p.isLt }
def State.port (s : State) (p : BitVec 5) : Port := s.ports[p.toNat]'p.isLt
def State.modPort (s : State) (p : BitVec 5) (f : Port → Port) : State :=
  { s with ports := s.ports.set p.toNat (f (s.port p)) p.isLt }

/-- Die of a tile (R13). -/
def tileDie (t : TileId) : BitVec 1 := field t 7 1

/-- Cluster of a tile within the package: die in bit 3 (R13). -/
def tileCluster (t : TileId) : BitVec 4 := field t 4 4

/-- Unit identifier (R13, R14). -/
def unitId (die : BitVec 1) (clus : BitVec 3) (tile : BitVec 4) (eng : BitVec 8) : BitVec 16 :=
  die ++ clus ++ tile ++ eng

/-- Unit identifier of engine `eng` of a tile: its slots S, A, V0, V1, M, X, C0, C1 (R14). -/
def tileUnit (t : TileId) (eng : BitVec 3) : BitVec 16 :=
  unitId (tileDie t) (field t 4 3) (field t 0 4) (eng.setWidth 8)

/-! ### Context descriptors (R20) -/

def State.ctxState (s : State) (c : CtxId) : BitVec 3 := field (s.ctx c).desc 0 3
def State.ctxActive (s : State) (c : CtxId) : Bool := s.ctxState c == 1
/-- ACTIVE or HALTED: cell operations and action code run (R34, R79). -/
def State.ctxLive (s : State) (c : CtxId) : Bool := s.ctxState c == 1 || s.ctxState c == 2
def ctxRankCap (d : BitVec 512) : BitVec 4 := field d 4 4
def ctxMapMask (d : BitVec 512) : BitVec 16 := field d 8 16
def ctxTmplN (d : BitVec 512) : Nat := (field d 24 11).toNat
def ctxPtRoot (d : BitVec 512) : Nat := (field d 64 40).toNat
def ctxTmplBase (d : BitVec 512) : Nat := (field d 128 29).toNat
def ctxCellBase (d : BitVec 512) : Nat := (field d 192 29).toNat
def ctxCellN (d : BitVec 512) : Nat := (field d 221 17).toNat
def ctxLeaseCap (d : BitVec 512) : BitVec 3 := field d 320 3

/-! ### Register files of a task (R173) -/

/-- S[r]; S0 reads as zero. -/
def readS (k : Task) (r : BitVec 6) : Word := if r = 0 then 0 else k.s[r.toNat]'r.isLt
def readA (k : Task) (r : BitVec 5) : Word := k.a[r.toNat]'r.isLt
def readLC (k : Task) (r : BitVec 2) : BitVec 32 := k.lc[r.toNat]'r.isLt
/-- P[r]; P0 is always true. -/
def readP (k : Task) (r : BitVec 3) : Bool := if r = 0 then true else k.p[r.toNat]'r.isLt
def readPT (k : Task) (r : BitVec 6) : BitVec 32 := k.pt[r.toNat]'r.isLt
def readH (k : Task) (r : BitVec 4) : Handle := k.h[r.toNat]'r.isLt
def readK (k : Task) (r : BitVec 5) : Token := k.k[r.toNat]'r.isLt
def setH (k : Task) (r : BitVec 4) (h : Handle) : Task := { k with h := k.h.set r.toNat h r.isLt }
def setK (k : Task) (r : BitVec 5) (x : Token) : Task := { k with k := k.k.set r.toNat x r.isLt }
def writeS (k : Task) (r : BitVec 6) (v : Word) : Task :=
  if r = 0 then k else { k with s := k.s.set r.toNat v r.isLt }

/-- The physical register that the name V(r) denotes under rotation base b (R190). -/
def physV (b : BitVec 5) (r : BitVec 6) : BitVec 6 :=
  if r.toNat < 32 then r else 32 + ((field r 0 5) - b).setWidth 6

/-- V[r] by its current name. -/
def readV (k : Task) (r : BitVec 6) : VReg := k.v[(physV k.rot r).toNat]'(physV k.rot r).isLt

/-- V by physical number. -/
def physReadV (k : Task) (r : BitVec 6) : VReg := k.v[r.toNat]'r.isLt

/-! ### Ring handles (R264, R265) -/

/-- n slots become readable with tag t. -/
def publishSlots (h : Handle) (n : BitVec 32) (t : BitVec 6) : Handle :=
  { h with fill := h.fill + n, tag := t, tags := h.tags ++ List.replicate n.toNat t }

/-- The head moves on by n slots, never past FILL (R264; log 125). -/
def passSlots (h : Handle) (n : BitVec 32) : Handle :=
  let m := if n.toNat ≤ (h.fill - h.head).toNat then n else h.fill - h.head
  { h with head := h.head + m, tags := h.tags.drop m.toNat }

/-- The tag that stood when the head slot became readable (R265). -/
def headTag (h : Handle) : BitVec 6 := h.tags.headD h.tag

/-! ### Matrix data in flight (R244, R247) -/

/-- The load in flight completes: the array takes its contents, and the handle's head advances with ADV (R242, R244). -/
def completeLoad (k : Task) : Task :=
  match k.mat.load with
  | none => k
  | some l =>
    let k1 := { k with mat := { k.mat with w := l.w, idx := l.idx, mode := l.mode, load := none } }
    if l.adv then setH k1 l.handle (passSlots (readH k1 l.handle) 1) else k1

/-- The next entry of the oldest feed lands, or nothing where `MCLR` has discarded it (R247, R252); the handle's head
advances with the last, with ADV (R245). -/
def landFeed (k : Task) : Task :=
  match k.mat.feeds with
  | [] => k
  | f :: rest =>
    let rows := k.mat.rows.map fun e => if e.num = f.next then { e with landed := true } else e
    if f.left ≤ 1 then
      let k1 := { k with mat := { k.mat with rows, feeds := rest } }
      if f.adv then setH k1 f.handle (passSlots (readH k1 f.handle) 1) else k1
    else { k with mat := { k.mat with rows, feeds := { f with next := f.next + 1, left := f.left - 1 } :: rest } }

/-- Everything in flight to the matrix class has come, as before its save (R251, R354). -/
def finishMatrix (k : Task) : Task :=
  (List.range (k.mat.feeds.foldl (fun n f => n + Nat.max 1 f.left) 0)).foldl (fun k _ => landFeed k) (completeLoad k)

/-! ### Scoreboard (R178) -/

/-- Whether an access of an earlier bundle than b is to write S[r]: slots of its own bundle read S[r] as it stood before
(R177). -/
def writesReg (b : Nat) (r : BitVec 6) (e : QEntry) : Bool := e.d == r && e.bundle != b

/-- Whether a held effect is a load or fetching atomic of an earlier bundle with destination S[r] (R181). -/
def holdsLoad (b : Nat) (r : BitVec 6) : Held → Bool
  | .access l _ e => l && writesReg b r e
  | _ => false

/-- Whether S[r] is the destination of a load or fetching atomic in the load queue. -/
def loadOut (k : Task) (r : BitVec 6) : Bool := decide (r ≠ 0) && k.loadQ.any (writesReg k.bundle r)

/-- Whether S[r] is the destination of one that the branch shadow holds. -/
def loadHeld (k : Task) (r : BitVec 6) : Bool := decide (r ≠ 0) && k.held.any (holdsLoad k.bundle r)

/-- Whether S[r] is the destination of a load or fetching atomic that has not landed (R178). -/
def scoreboarded (k : Task) (r : BitVec 6) : Bool := loadOut k r || loadHeld k r

/-! ### Instruction halves (R146, R148) -/

def getHalf (x : Tile) (u : Bool) : Half := if u then x.half1 else x.half0
def setHalf (u : Bool) (h : Half) (x : Tile) : Tile := if u then { x with half1 := h } else { x with half0 := h }

/-- First byte of a half (R146). -/
def halfBase (u : Bool) : Nat := if u then 0x10000 else 0

/-! ### Landings (R7, R175, R177) -/

/-- Insertion in order of the slots' age. -/
def insertLanding (l : Landing) : List Landing → List Landing
  | [] => [l]
  | x :: xs => if l.ord < x.ord then l :: x :: xs else x :: insertLanding l xs

/-- Order of the executing slot: its bundle, then its place in the bundle. -/
def State.ordNow (s : State) : Nat := s.tk.bundle * 8 + s.slot.toNat

/-- An exposed write of the executing slot, landing at c + lat. -/
def emit (lat : Nat) (v : LandVal) (s : State) : State :=
  s.modTask fun k => { k with pend := insertLanding ⟨s.me.ic + lat, s.ordNow, v⟩ k.pend }

def emitS (lat : Nat) (r : BitVec 6) (v : Word) (s : State) : State := if r = 0 then s else emit lat (.sreg r v) s
def emitA (lat : Nat) (r : BitVec 5) (v : Word) (s : State) : State := emit lat (.areg r v) s
def emitP (lat : Nat) (r : BitVec 3) (v : Bool) (s : State) : State := if r = 0 then s else emit lat (.preg r v) s
/-- A V register by its current name, the physical register being fixed at issue (R177). -/
def emitV (lat : Nat) (r : BitVec 6) (v : VReg) (s : State) : State := emit lat (.vreg (physV s.tk.rot r) v) s
/-- Flags landing with a result; none to land writes nothing (R44). -/
def emitF (lat : Nat) (f : Word) (s : State) : State := if f = 0 then s else emit lat (.flags f) s

/-- YFFLAGS keeps only its writable bits (R43). -/
def fflagsMask : Word := 0x11F

/-- Whether a `LOOP.SWP` is active (R179, R186). -/
def swpActive (k : Task) : Bool := k.loops.any fun f => f.swp.isSome

/-- The value of an accumulator cell after the additions of one row commit, with whether any left the 40-bit range
(R57, R250). -/
def commitCell (start : Int) (adds : List Int) : Int × Bool :=
  adds.foldl (fun (v, o) x => (wrapInt 40 (v + x), o || decide (v + x < -2 ^ 39 ∨ v + x > 2 ^ 39 - 1))) (start, false)

/-- Whether lane j lies in the window of a multiply (R250). -/
def inWindow (wlo whi : BitVec 8) (j : Nat) : Bool := decide (wlo.toNat ≤ j ∧ j ≤ whi.toNat)

/-- Lane j of a row commit, from the row as it stood before the commit cycle (R250). -/
def rowLane (mac : Bool) (wlo whi : BitVec 8) (adds : List (Vector Int 256)) (old : VReg) (j : Fin 256) : Lane × Bool :=
  if inWindow wlo whi j then
    let (v, o) := commitCell (if mac then (old.lanes[j]).toInt else 0) (adds.map fun a => a[j])
    (BitVec.ofInt 40 v, o)
  else (if mac then old.lanes[j] else 0, false)

/-- The row that a commit leaves, tagged I40, and whether its YMOVF bit is set (R250). -/
def rowCommit (mac : Bool) (wlo whi : BitVec 8) (adds : List (Vector Int 256)) (old : VReg) : VReg × Bool :=
  (⟨Vector.ofFn fun j => (rowLane mac wlo whi adds old j).1, 0x07⟩,
   (List.finRange 256).any fun j => (rowLane mac wlo whi adds old j).2)

/-- Reset of the parts of the matrix state that an `MCLR` names (R252). -/
def matrixClear (m : Matrix) (w rb cfg : Bool) : Matrix :=
  let m1 := if w then { m with w := Matrix.reset.w, idx := Matrix.reset.idx, mode := 0 } else m
  let m2 := if rb then { m1 with rows := m1.rows.filter fun e => e.claim.isSome } else m1
  if cfg then { m2 with cfg := 0x0FF00088 } else m2

/-- A Y-register takes the value of an `SWR` (R208, R345); writes to read-only registers and fields are ignored. -/
def writeY (k : Task) (n : BitVec 12) (v : Word) : Task :=
  if n = 0x000 then { k with fflags := v &&& fflagsMask }
  else if n = 0x001 then { k with movf := v }
  else if n = 0x003 then (if k.mode = .monitor then { k with cmdseq := field v 0 48 } else k)
  else if n = 0x010 then { k with ycause := v &&& 0xFFFFFFFFFFFF03FF }
  else if n = 0x011 then { k with yepc := v &&& 0x3FFFFC }
  else if n = 0x012 then { k with ytval := v }
  else if h : 0x18 ≤ n.toNat ∧ n.toNat ≤ 0x27 then { k with yms := k.yms.set (n.toNat - 0x18) v (by omega) }
  else k

/-- One exposed write lands on k; `pre` is the task at the end of the previous cycle, which a row commit reads. -/
def applyLanding (pre : Task) (k : Task) (l : Landing) : Task :=
  match l.val with
  | .sreg r v => writeS k r v
  | .areg r v => { k with a := k.a.set r.toNat v r.isLt }
  | .preg r v => if r = 0 ∨ (r.toNat ≥ 4 ∧ swpActive k) then k else { k with p := k.p.set r.toNat v r.isLt }
  | .lcreg r v => { k with lc := k.lc.set r.toNat v r.isLt }
  | .vreg r v => { k with v := k.v.set r.toNat v r.isLt }
  | .pts ps => { k with pt := ps.foldl (fun t x => t.set x.1.toNat x.2 x.1.isLt) k.pt }
  | .flags _ => k
  | .spill i v => { k with spill := smSet 0 k.spill i.toNat v }
  | .yreg n v => writeY k n v
  | .mcfg v => { k with mat := { k.mat with cfg := v } }
  | .mclr w rb c => { k with mat := matrixClear k.mat w rb c }
  | .hset h v => setH { k with headAdv := k.headAdv.filter fun e => e.handle != h } h v
  | .hres h n => setH k h { readH k h with res := (readH k h).res + n }
  | .hpub h n t => setH k h (publishSlots (readH k h) n (if t = 0 then (readH k h).tag else t))
  | .hadv h n => setH k h (passSlots (readH k h) n)
  | .cset c j x y =>
    let ch := k.ch[c]
    { k with ch := k.ch.set c { ch with shadow := (ch.shadow.set (2 * j.toNat) x (by omega)).set
                                          (2 * j.toNat + 1) y (by omega) } }
  | .cclr c => { k with ch := k.ch.set c { k.ch[c] with shadow := Vector.replicate 8 0 } }
  | .xpush r v => if h : r < 64 then { k with xp := { k.xp with t := k.xp.t.set r v h } } else k
  | .xcfg rows => { k with xp := { k.xp with rows := rows, pushn := 0, popn := 0, tag := 0 } }
  | .xclr => { k with xp := Transposer.reset }
  | .token r t => setK k r t
  | .shadow => { k with shadow := 3 }
  | .row r mac wlo whi adds =>
    let (v, o) := rowCommit mac wlo whi adds (physReadV pre r)
    { k with v := k.v.set r.toNat v r.isLt, movf := if o then k.movf ||| (1 <<< r.toNat) else k.movf }

/-- The YMOVF bits that the row commits of a list set (R44). -/
def movfOf (pre : Task) (ls : List Landing) : Word :=
  ls.foldl (fun m l => match l.val with
    | .row r mac wlo whi adds => if (rowCommit mac wlo whi adds (physReadV pre r)).2 then m ||| (1 <<< r.toNat) else m
    | _ => m) 0

/-- The flags of a list of landings, ORed (R44). -/
def flagsOf (ls : List Landing) : Word :=
  ls.foldl (fun m l => match l.val with | .flags f => m ||| f | _ => m) 0

def landsXclear (l : Landing) : Bool :=
  match l.val with | .xcfg _ => true | .xclr => true | _ => false

def isXpush (l : Landing) : Bool :=
  match l.val with | .xpush .. => true | _ => false

/-- The writes that land in issue cycle c (R177): values in the slots' order, then flags and YMOVF bits ORed onto
what an `SWR` of the same cycle wrote (R44). Pushes that would land after an `XCFG` or `XCLR` are discarded, those that wait
while the monitor runs too (R254). -/
def landCycle (c : Nat) (k : Task) : Task :=
  let due := k.pend.filter fun l => l.at_ == c
  let rest := k.pend.filter fun l => l.at_ != c
  let k' := due.foldl (applyLanding k) { k with pend := rest }
  { k' with
    fflags := k'.fflags ||| flagsOf due
    movf := k'.movf ||| movfOf k due
    pend := if due.any landsXclear then k'.pend.filter fun l => !isXpush l else k'.pend
    lwb := if due.any landsXclear then k'.lwb.filter fun l => !isXpush l else k'.lwb }

/-! ### Clocks -/

/-- n clock cycles of the package: YFTIME advances by 10/21 ns per cycle (R5, R330; log 9), slewing by at most 1 ns
in each µs of the package's oscillator towards the fabric's time, and never backward. -/
def tickTime (n : Nat) (s : State) : State :=
  let fr := s.timeFrac + 10 * n
  let ns := s.timeNs + fr / 21
  let us : Int := 10 * (s.cycle + n) / 21000 - 10 * s.cycle / 21000
  let adj := satInt s.slew (-(min us ((fr / 21 : Nat) : Int))) us
  { s with cycle := s.cycle + n, phase := if n = 0 then s.phase else 0, timeFrac := fr % 21, timeNs := ((ns : Int) + adj).toNat, slew := s.slew - adj }

/-- The context of the suspended task with identity u. -/
def uidCtx (s : State) (u : Nat) : Option CtxId :=
  (s.queues.toList.findSome? fun q => q.resume.findSome? fun x => x.members.findSome? fun m =>
      if m.2.uid = u then some m.2.ctx else none)

/-- Whether an access of a context waits in a side log or store queue for its page (R281, R357). -/
def pageWaits (s : State) (c : CtxId) : Bool :=
  s.tiles.any fun x => (x.storeQ ++ x.sideLog).any fun e => e.waits && e.ctx == c

/-- Whether the save engine has a class of a context before it under an order of R355: of a suspended task, which stands on a
tile, or of a STOPPED one. A task that still runs, or drains a loop, gives it none. -/
def saveAtHand (s : State) (c : CtxId) : Bool :=
  s.tiles.any fun x => (x.resident.any fun e => uidCtx s e.1 == some c) ||
    (x.task.ctx == c && x.status == .stopped && !x.task.restore.contains .core)

/-- n cycles in which the save engine has made no progress on what it has before it (R357): an order of R355, but for time spent
on a page, and a restore whose task the watchdog has ended (R356). -/
def noteSaves (n : Nat) (s : State) : State :=
  if s.ctxs.any fun x => x.saving || x.dying then
    { s with
      ctxs := Vector.ofFn fun i : Fin 64 =>
        let x := s.ctxs[i]
        let c := BitVec.ofNat 6 i.val
        if x.saving && saveAtHand s c && !pageWaits s c then { x with saveStall := x.saveStall + n } else x
      tiles := s.tiles.map fun x => if x.finishing.isSome then { x with claimStall := x.claimStall + n } else x }
  else s

/-- n clock cycles of the package. -/
def tickClock (n : Nat) (s : State) : State := noteSaves n (tickTime n s)

/-- YFTIME (R330). -/
def State.ftime (s : State) : Word := BitVec.ofNat 64 s.timeNs

def sat48 (n : Nat) : Nat := if n > 2 ^ 48 - 1 then 2 ^ 48 - 1 else n

/-- The counters of the active loops for one issue cycle with n filled slots (R358). -/
def countLoops (n : Nat) (k : Task) : Task :=
  if k.mode = .monitor then k
  else { k with loops := k.loops.map fun f => { f with filled := sat48 (f.filled + n), nops := sat48 (f.nops + (8 - n)) } }

/-- The counts of a bundle with n slots that are no no-operations (R358). -/
def countSlots (n : Nat) (s : State) : State := s.modTask (countLoops n)

/-- Sample period of a die in issue cycles, where it samples (R359). -/
def samplePeriod (d : Die) : Option Nat :=
  let n := (field d.traceCtl 8 5).toNat
  if bit d.traceCtl 0 && decide (10 ≤ n ∧ n ≤ 24) then some (2 ^ n) else none

/-- The sample period at hand of a tile ends with its present issue-cycle count, or has not begun while its die does not sample
(R359, R361; log 132). -/
def endPeriod (period : Option Nat) (t : Tile) : Tile :=
  match period with
  | none => { t with sampleFrom := t.ic }
  | some n => if t.ic ≥ t.sampleFrom + n then { t with sampleFrom := t.ic, sampleDue := true } else t

/-- One issue cycle of the acting tile: exposed writes land, then the next bundle may issue (R5, R176, R358). -/
def issueCycle (s : State) : State :=
  s.modTile s.cur fun t => endPeriod (samplePeriod (s.die (tileDie s.cur)))
    { t with
      ic := t.ic + 1
      slice := t.slice + 1
      watchdog := t.watchdog + 1
      task := landCycle (t.ic + 1)
        { t.task with
          icyc := t.task.icyc + 1
          overCount := t.task.overCount + 1
          shadow := t.task.shadow - 1
          mat := { t.task.mat with rows := t.task.mat.rows.filter fun e =>
            match e.claim with | some (_, r) => decide (t.ic + 1 < r) | none => true } } }

/-- One frozen cycle of the acting tile: no write lands and no issue cycle is counted (R176, R358). -/
def frozenCycle (s : State) : State :=
  s.modTile s.cur fun t =>
    { t with
      slice := t.slice + 1
      watchdog := t.watchdog + 1
      task := { t.task with
        fcyc := t.task.fcyc + 1
        loops := if t.task.mode = .monitor then t.task.loops
          else t.task.loops.map fun f => { f with frozen := sat48 (f.frozen + 1) } } }

/-! ### Words in several units -/

/-- 256 bits from a list of (value, width), least significant first. -/
def packNat : List (Nat × Nat) → Nat
  | [] => 0
  | (v, w) :: r => v % 2 ^ w + 2 ^ w * packNat r

/-! ### Trace (R359 to R361) -/

/-- Whether R15 lets the device report an identifier: R14 gives its engine these values of die, cluster and tile. -/
def isReported (u : BitVec 16) : Bool :=
  let e := (field u 0 8).toNat
  let tile := (field u 8 4).toNat
  let clus := (field u 12 3).toNat
  let die := (field u 15 1).toNat
  decide (e < 8 ∨ ((e = 0x10 ∨ e = 0x11) ∧ tile = 0) ∨ (0x20 ≤ e ∧ e < 0x30 ∧ clus = (e - 0x20) / 2 ∧ tile < 4) ∨
    (0x40 ≤ e ∧ e < 0x60 ∧ tile = 0 ∧ clus = 0 ∧ die = (e - 0x40) / 16) ∨ ((e = 0x60 ∨ e = 0x61) ∧ tile = 0 ∧ clus = 0) ∨
    (0x80 ≤ e ∧ e < 0x84 ∧ tile = 0 ∧ clus = 0 ∧ die = 0))

/-- Whether the die's trace takes a record of this kind, context and unit (R359, R15). -/
def traceTakes (d : Die) (kind : Nat) (ctx : CtxId) (unit : BitVec 16) : Bool :=
  bit d.traceCtl 0 && bit (field d.traceCtl 1 6) (kind - 1) && bit d.traceCtx ctx.toNat
    && isReported d.traceVal && (unit &&& d.traceMask) == (d.traceVal &&& d.traceMask)

/-- A record of 64 bytes enters the die's ring, or is dropped and counted where the ring is full (R360). -/
def traceRecord (d : BitVec 1) (kind : Nat) (unit : BitVec 16) (queue : BitVec 7) (ctx : CtxId) (seq : BitVec 48)
    (tmpl : BitVec 16) (body : Nat) (s : State) : State :=
  let x := s.die d
  if !traceTakes x kind ctx unit then s
  else
    let size := 2 ^ (field x.traceCtl 56 5).toNat
    let base := (field x.traceCtl 16 40).toNat * 4096
    if (x.wptr - x.rptr).toNat + 64 > size then s.modDie d fun y => { y with dropn := y.dropn + 1 }
    else
      let hdr := packNat [(kind, 8), (0, 8), (unit.toNat, 16), (queue.toNat, 7), (ctx.toNat, 6), (0, 3),
        (seq.toNat, 48), (s.timeNs, 64), (tmpl.toNat, 16), (0, 80), (body, 256)]
      { s with hbm := memWriteLE s.hbm (base + x.wptr.toNat % size) 64 hdr }.modDie d
        fun y => { y with wptr := y.wptr + 64 }

/-! ### The fault queue (R347 to R350, R422) -/

/-- A fault-queue entry (R347). -/
def faultEntry (cause : BitVec 8) (ctx : CtxId) (type : BitVec 2) (unit : BitVec 16) (status : BitVec 32)
    (addr : BitVec 48) (seq : BitVec 48) (time : Nat) : BitVec 256 :=
  BitVec.ofNat 256 (packNat [(cause.toNat, 8), (ctx.toNat, 6), (type.toNat, 2), (unit.toNat, 16), (status.toNat, 32),
    (addr.toNat, 48), (0, 16), (seq.toNat, 48), (0, 16), (time, 64)])

/-- Number of pending entries: TAIL − HEAD modulo 1,024 (R348). -/
def fqPending (d : Die) : Nat := (d.fqTail - d.fqHead).toNat

/-- Index in the queue's storage of the pending PAGE_FAULT entry that e merges into: same context and VA[47:16]
(R349). -/
def fqMergeIndex (d : Die) (e : BitVec 256) : Option Nat :=
  if field e 0 8 ≠ 0x30 then none
  else (List.range (fqPending d)).findSome? fun j =>
    let i := (d.fqHead.toNat + j) % 512
    let x := d.fqEntries.toList.getD i 0
    if field x 0 8 = 0x30 ∧ field x 8 6 = field e 8 6 ∧ field x 80 32 = field e 80 32 then some i else none

/-- MERGE of an entry incremented, saturating at 65,535 (R347, R349). -/
def fqBump (e : BitVec 256) : BitVec 256 :=
  let m := field e 112 16
  putField e 112 16 (if m = 0xFFFF then m else m + 1)

/-- The entry e is merged, written whole at TAIL, or held at its source where the queue is full, setting OVF (R348 to
R350); with IE the queue interrupts Kenval when it becomes non-empty and when OVF becomes 1. -/
def dieEnter (e : BitVec 256) (d : Die) : Die :=
  match fqMergeIndex d e with
  | some i => { d with fqEntries := d.fqEntries.setIfInBounds i (fqBump (d.fqEntries.toList.getD i 0)) }
  | none =>
    if fqPending d ≥ 512 then
      { d with fqHeld := d.fqHeld ++ [e], fqOvf := true, fqIrq := d.fqIrq || (d.fqIe && !d.fqOvf) }
    else
      { d with fqEntries := d.fqEntries.setIfInBounds (d.fqTail.toNat % 512) e, fqTail := d.fqTail + 1,
               fqIrq := d.fqIrq || (d.fqIe && fqPending d == 0) }

/-- A fault enters the die's queue. -/
def enterFault (d : BitVec 1) (e : BitVec 256) (s : State) : State := s.modDie d (dieEnter e)

/-! ### Retry bookkeeping shared by stops -/

/-- Writes in flight become late-write buffer entries with offsets from the stop cycle (R338). -/
def toLateWrites (ic : Nat) (pend : List Landing) : List Landing :=
  pend.map fun l => { l with at_ := l.at_ - ic }

/-- Late-write buffer entries land again from issue cycle z (R339). -/
def fromLateWrites (z : Nat) (lwb : List Landing) : List Landing :=
  lwb.map fun l => { l with at_ := z + l.at_ }

def isRowLanding (l : Landing) : Bool :=
  match l.val with | .row .. => true | _ => false

/-- Register writes among landings: what R338's limit of 32 counts. -/
def isRegWrite (l : Landing) : Bool :=
  match l.val with
  | .sreg .. => true | .areg .. => true | .preg .. => true | .lcreg .. => true | .vreg .. => true | .pts _ => true
  | _ => false

/-- The matrix unit at a stop: every reserved row has streamed and its entries are released (R251). -/
def stopMatrix (m : Matrix) : Matrix :=
  { m with rows := m.rows.filter fun e => e.claim.isNone, streamEnd := 0 }

/-- What a stop does to a task at issue cycle ic, besides its record (R335, R338): late writes wait, streaming
completes, no branch is outstanding, no empty cycle is owed. -/
def stopTask (ic : Nat) (k : Task) : Task :=
  { k with lwb := k.lwb ++ toLateWrites ic k.pend, pend := [], mat := stopMatrix k.mat, empties := 0, shadow := 0
           shadowUsed := 0, swaps := false }

/-! ### Traps -/

/-- YCAUSE (R336). -/
def mkYcause (code : BitVec 8) (imp shd : Bool) (unit : BitVec 16) (status : BitVec 32) : Word :=
  BitVec.ofNat 64 (packNat [(code.toNat, 8), (b2n imp, 1), (b2n shd, 1), (0, 6), (unit.toNat, 16), (status.toNat, 32)])

/-- YEPC (R337). -/
def mkYepc (addr : BitVec 18) (slot : BitVec 3) (lr : Bool) : Word :=
  BitVec.ofNat 64 (packNat [(addr.toNat / 4 * 4, 18), (slot.toNat, 3), (b2n lr, 1)])

/-- Whether a trap with this code enters the tile monitor (R340). -/
def isRouted (d : Die) (code : BitVec 8) : Bool :=
  code == 0x12 || (!isMachineCheck code && bit d.routeMask code.toNat)

/-- Base of the monitor region (R146). -/
def monitorBase : BitVec 18 := 0x20000

/-- TYPE of a trap's fault-queue entry (R422). -/
def trapType (code : BitVec 8) (ytval : Word) (atomic : Bool) : BitVec 2 :=
  if isTranslationCause code then
    (if field ytval 48 2 = 3 then 0 else field ytval 48 2)
  else if code = 0x81 then (if atomic then 2 else 1)
  else 3

/-- The fault-queue entry of a trap recorded in a task (R347, R422). -/
def trapEntry (k : Task) (time : Nat) : BitVec 256 :=
  faultEntry (field k.ycause 0 8) k.ctx
    (trapType (field k.ycause 0 8) k.ytval k.watchAmo) (field k.ycause 16 16)
    (field k.ycause 32 32) ((field k.yepc 0 18).setWidth 48) k.cmdseq time

/-- A STOP trace record for a task that has stopped (R361). -/
def traceStop (t : TileId) (code : BitVec 8) (s : State) : State :=
  let k := (s.tile t).task
  traceRecord (tileDie t) 5 (tileUnit t 0) k.queue k.ctx k.cmdseq k.tmpl
    (packNat [(code.toNat, 8), ((field k.yepc 0 18).toNat, 18), (b2n (bit k.yepc 21), 1)]) s

/-- A WATCH trace record: the report's fault-queue entry, bits [191:0] (R361). -/
def traceWatch (d : BitVec 1) (unit : BitVec 16) (k : Task) (seq : BitVec 48) (e : BitVec 256) (s : State) : State :=
  traceRecord d 6 unit k.queue k.ctx seq k.tmpl (field e 0 192).toNat s

/-- The WATCH record of a trap that is a watchpoint report. -/
def traceWatchTrap (t : TileId) (code : BitVec 8) (unit : BitVec 16) (s : State) : State :=
  let k := (s.tile t).task
  if code = 0x81 then traceWatch (tileDie t) unit k k.cmdseq (trapEntry k s.timeNs) s else s

/-- Every other running member of the tile's gang is due a gang stop (R334, R342); members held at `END` take none
(R375). -/
def gangStops (t : TileId) (s : State) : State :=
  let g := (s.tile t).task.gang
  { s with tiles := Vector.ofFn fun (i : Fin 256) =>
      let x := s.tiles[i]
      if i.val ≠ t.toNat ∧ x.task.gang = g ∧ (x.status = .running ∨ x.status = .ending ∨ (x.status = .held ∧ x.preempt)) then { x with gangStop := true } else x }

/-- A context's dump begins, or is queued on the die (R369, R370): it becomes HALTED and its tasks are to be saved. -/
def queueDump (d : BitVec 1) (c : CtxId) (first : Option TrapRec) (s : State) : State :=
  (s.modCtx c fun x =>
    { x with desc := putField x.desc 0 3 (2 : BitVec 3), saving := true, saveStall := 0, dump := some ⟨d, none, first, [], 0, none⟩ }).modDie d
      fun y => { y with dumps := y.dumps ++ [c] }

/-- A fault of a context whose dump is under way joins its fault list (R370). -/
def dumpAppend (e : BitVec 256) (r : DumpRun) : DumpRun :=
  if r.faults.length < 64 then { r with faults := r.faults ++ [e] } else { r with overflow := r.overflow + 1 }

/-- Whether a stop is a fatal fault (R370): no debug stop and no gang stop (DESIGN CHOICE, log 106). -/
def isFatal (code : BitVec 8) : Bool := code != 0 && !(decide (0x80 ≤ code.toNat ∧ code.toNat < 0x90))

/-- The trap record of a stopped task (R336, R337, R370). -/
def trapRecord (k : Task) : TrapRec := ⟨trapEntry k k.stopTime, k.ycause, k.yepc, k.ytval⟩

/-- A fatal fault of a task while a dump is under way (R370). -/
def dumpFault (d : BitVec 1) (k : Task) (s : State) : State :=
  if !isFatal (field k.ycause 0 8) then s
  else match (s.ctx k.ctx).dump with
    | some _ => s.modCtx k.ctx fun x => { x with dump := x.dump.map (dumpAppend (trapEntry k k.stopTime)) }
    | none => if s.dies.all fun y => y.dumps.isEmpty then s else queueDump d k.ctx (some (trapRecord k)) s

/-- A task becomes STOPPED on its tile with its recorded trap, which enters the die's fault queue (R342). -/
def stopUnrouted (t : TileId) (s : State) : State :=
  let k := { (s.tile t).task with stopTime := s.timeNs }
  let s1 := s.modTile t fun x => { x with status := .stopped, gangStop := false, preempt := false, task := k }
  gangStops t (traceStop t (field k.ycause 0 8) (dumpFault (tileDie t) k (enterFault (tileDie t) (trapEntry k s.timeNs) s1)))

/-- The trap record written (R336, R337: LR where a drained `LOOP.SWP` stands at its stop), the late writes set aside, and
either the monitor entered (R341) or the task STOPPED (R342). A trap raised in monitor mode is MONITOR_FAULT (R341). -/
def takeTrap (t : TileId) (code : BitVec 8) (imp : Bool) (eng : BitVec 3) (slot : BitVec 3) (addr : BitVec 18)
    (tval : Word) (status : BitVec 32) (s : State) : State :=
  let x := s.tile t
  let unit := tileUnit t eng
  match x.task.mode with
  | .monitor =>
    stopUnrouted t (s.modTaskAt t fun k =>
      { stopTask x.ic k with
        mode := .task
        ycause := mkYcause 0xC4 imp (decide (k.shadow > 0)) unit
          (BitVec.ofNat 32 (packNat [(code.toNat, 8), (0, 6), (addr.toNat, 18)]))
        ytval := 0 })
  | .task =>
    let s1 := traceWatchTrap t code unit (s.modTaskAt t fun k =>
      { stopTask x.ic k with
        ycause := mkYcause code imp (decide (k.shadow > 0)) unit status
        yepc := mkYepc addr slot k.refill
        brokeAt := if code = 0x80 ∨ code = 0x81 then some addr else none
        refill := false
        ytval := tval })
    if isRouted (s.die (tileDie t)) code then
      traceStop t code (s1.modTile t fun x =>
        { x with status := .running, task := { x.task with mode := .monitor, pc := monitorBase, npc := monitorBase } })
    else stopUnrouted t (s1.modTaskAt t fun k => { k with pc := BitVec.ofNat 18 (addr.toNat / 4 * 4) })

/-! ### The outcome of one slot -/

/-- The three outcomes of an instruction of this machine. -/
abbrev Out := Host.Outcome State Fault Refusal

/-- What the body of a slot does: it completes, raises a precise trap, or freezes the tile. -/
inductive SlotRes where
  | ok (s : State)
  | trap (c : Cause) (tval : Word)
  /-- A trap that leaves what a cell's bank has done (R310). -/
  | trapIn (s : State) (c : Cause) (tval : Word)
  | freeze (why : FreezeWhy)

/-- The slot completes. -/
def slotDone (s : State) : Out := .next { s with sig := .done }

/-- The slot's precise trap, taken at its own bundle (R334). -/
def slotTrap (c : Cause) (tval : Word) (s : State) : Out :=
  .next { takeTrap s.cur (causeCode c) false s.eng s.slot s.tk.pc tval 0
            (s.modTask fun k => { k with watchAmo := c == .watchAtomic }) with sig := .trapped c tval }

/-- The slot freezes its tile for this cycle (R176). -/
def slotFreeze (why : FreezeWhy) (s : State) : Out :=
  .next { frozenCycle s with sig := .frozen why }

/-- The outcome of a body's answer in the state it was given. -/
def slotOutcome (s : State) : SlotRes → Out
  | .ok s' => slotDone s'
  | .trap c v => slotTrap c v s
  | .trapIn s' c v => slotTrap c v s'
  | .freeze w => slotFreeze w s

/-- Whether the executing slot's guarding predicate, PRED of its word, is true (R153, R179). -/
def State.guard (s : State) : Bool := readP s.tk (field s.slotWord 18 3)

/-- Why a register that a load has not yet written holds its reader back: the load is out, or held by the shadow of the
branch that both follow (R176, R178, R181). -/
def scoreWhy (k : Task) (regs : List (BitVec 6)) : FreezeWhy := if regs.any (loadOut k) then .scoreboard else .shadow

/-- A predicated slot (R179): with its predicate false it has no effect; an S register that a load has not yet written
freezes it (R178); else its body runs. -/
def runSlot (regs : List (BitVec 6)) (body : State → SlotRes) (s : State) : Out :=
  if !s.guard then slotDone s
  else if regs.any (scoreboarded s.tk) then slotFreeze (scoreWhy s.tk regs) s
  else slotOutcome s (body s)

/-- Whether a class of another task stands on the acting tile. -/
def otherHolds (s : State) (c : ResClass) : Bool := s.me.resident.any fun r => r.2 == c && r.1 != s.tk.uid

/-- Whether a class is to be saved for another task, or restored for this one, before the acting task may use it
(R139). -/
def claimBlocked (s : State) (c : ResClass) : Bool := otherHolds s c || s.tk.restore.contains c

/-! ### The context save area (R354) -/

/-- Offset and size of a class in a save slot. -/
def saveSpan : ResClass → Nat × Nat
  | .core => (0, 4096)
  | .vector => (0x1000, 206848)
  | .matrix => (0x33800, 131584)
  | .transpose => (0x53A00, 73728)
  | .spill => (0x65A00, 8192)
  | .half => (0x67A00, 65536)

/-- First byte of a task's save slot. -/
def saveBase (s : State) (k : Task) : Nat :=
  (field (s.ctx k.ctx).desc 256 36).toNat * 2 ^ 16 + 524288 * k.saveSlot.toNat

/-- A task's class is copied to its place in the save area: bytes that the manual does not give one by one (log 13). A
class of tile t in which a parity error stands makes its save a poisoned one (R383). -/
def saveClass (t : TileId) (k : Task) (c : ResClass) (s0 : State) : State :=
  let (off, n) := saveSpan c
  let a := saveBase s0 k + off
  let parity := (s0.tile t).badClasses.contains (k.uid, c)
  let s := if parity then s0.modTile t fun x => { x with badClasses := x.badClasses.erase (k.uid, c) } else s0
  let lines := s.hbmPoison.filter fun l => decide (l * 64 < a ∨ a + n ≤ l * 64)
  { s with
    freeCount := s.freeCount + 1
    hbm := memWrite s.hbm a ((List.range n).map (Config.savedByte s.freeCount))
    hbmPoison := if parity then (List.range (n / 64)).foldl (fun ls i => setAdd (a / 64 + i) ls) lines else lines }

/-- Whether the saved copy of a class is poisoned (R346, R383). -/
def savePoisoned (s : State) (k : Task) (c : ResClass) : Bool :=
  let (off, n) := saveSpan c
  let a := saveBase s k + off
  s.hbmPoison.any fun l => decide (a ≤ l * 64 ∧ l * 64 < a + n)

/-- The body of an instruction that needs a class (R139): it freezes until the class is saved or restored, and a poisoned
save traps it (R346, R383). -/
def needClass (c : ResClass) (body : State → SlotRes) (s : State) : SlotRes :=
  if !claimBlocked s c then body s
  else if !otherHolds s c && savePoisoned s s.tk c then .trap .poisonedData 0
  else .freeze (.classClaim c)

/-- A predicated slot of an instruction that claims classes, in order (R139). -/
def runClaiming (cs : List ResClass) (regs : List (BitVec 6)) (body : State → SlotRes) (s : State) : Out :=
  runSlot regs (cs.foldr needClass body) s

/-- A trap value that holds the slot's word and a reason in [35:32] (R211, R239, R257, R303). -/
def wordTval (s : State) (reason : BitVec 4) : Word := (reason ++ s.slotWord).setWidth 64

end Sys2Proof.Machine
end

