-- ==== Sys2Proof/Machine/Access.lean ====
section
/-! DEFINITION. Local addresses and regions (R27 to R29), bank hand-over (R141), the Sward as tile slots and engines
reach it with poison (R261), the overlay of stores held in a branch shadow (R237), and data watchpoints (R365, R366). -/

namespace Sys2Proof.Machine

/-! ### Region entries (R28) -/

def regBank (e : BitVec 32) : BitVec 11 := field e 0 11
def regCount (e : BitVec 32) : Nat := (field e 11 6).toNat
def regRd (e : BitVec 32) : Bool := bit e 17
def regWr (e : BitVec 32) : Bool := bit e 18
def regEn (e : BitVec 32) : Bool := bit e 31

/-- REG and OFF of a local address (R27). -/
def laReg (la : Word) : BitVec 4 := field la 24 4
def laOff (la : Word) : Nat := (field la 0 24).toNat

/-- The check of R29 for n bytes at offset `off` of region entry e: the cause of its failure, or the SGA. -/
def regionCheck (e : BitVec 32) (off n : Nat) (rd wr : Bool) : Except Cause Nat :=
  if !regEn e then .error .regionOff
  else if off + n > (regCount e + 1) * 2 ^ 18 then .error .regionBound
  else if (rd && !regRd e) || (wr && !regWr e) then .error .regionRight
  else .ok ((regBank e).toNat * 2 ^ 18 + off)

/-- The whole check of R29 at a local address. -/
def laCheck (regions : Vector (BitVec 32) 16) (la : Word) (n : Nat) (rd wr : Bool) : Except Cause Nat :=
  if field la 28 36 ≠ 0 then .error .laddrHigh
  else regionCheck (regions[(laReg la).toNat]'(laReg la).isLt) (laOff la) n rd wr

/-- Global bank number of an SGA (R18). -/
def sgaBank (sga : Nat) : Nat := sga / 2 ^ 18 % 2 ^ 11

/-- Cluster of the package that an SGA lies in. -/
def sgaCluster (sga : Nat) : BitVec 4 := BitVec.ofNat 4 (sga / 2 ^ 25)

/-- Die that an SGA lies in. -/
def sgaDie (sga : Nat) : BitVec 1 := BitVec.ofNat 1 (sga / 2 ^ 28)

/-! ### Bank ownership words (R141) -/

def bankOwner (w : BitVec 32) : CtxId := field w 0 6
def bankSys (w : BitVec 32) : Bool := bit w 6
def bankShared (w : BitVec 32) : Bool := bit w 7
def bankHState (w : BitVec 32) : BitVec 2 := field w 8 2
def bankHStage (w : BitVec 32) : BitVec 4 := field w 10 4
def bankHTask (w : BitVec 32) : BitVec 12 := field w 14 12

def State.bank (s : State) (b : Nat) : BitVec 32 := smGet 0 s.banks b
def State.setBank (s : State) (b : Nat) (w : BitVec 32) : State := { s with banks := smSet 0 s.banks b w }

/-- Who accesses a bank: context, save slot of the task or of its gang's member 0, and stage (R141). -/
structure Accessor where
  ctx : CtxId
  slot : BitVec 12
  stage : BitVec 4
  deriving DecidableEq, Repr

def taskAccessor (k : Task) : Accessor := ⟨k.ctx, k.gangSlot, k.stage⟩

/-- The word after an access that the bank admits; none where the access interlocks. A bank of another owner and a bank
under scrub admit nothing (R262, R381). -/
def bankAdmit (s : State) (a : Accessor) (b : Nat) : Option (BitVec 32) :=
  let w := s.bank b
  let hold := putField (putField w 8 2 (1 : BitVec 2)) 14 12 a.slot
  if s.scrubbing.contains b || bankOwner w != a.ctx then none
  else if bankShared w then some w
  else match (bankHState w).toNat with
    | 0 => some hold
    | 1 => if bankHTask w = a.slot then some w else none
    | _ => if bankHStage w = a.stage then some hold else none

/-- All of a list of banks admit the access: their words after it. -/
def admitBanks (a : Accessor) : List Nat → State → Option State
  | [], s => some s
  | b :: bs, s =>
    match bankAdmit s a b with
    | none => none
    | some w => admitBanks a bs (s.setBank b w)

/-- The distinct values of a list, in order of first appearance. -/
def distinct (l : List Nat) : List Nat := l.foldl (fun acc x => if acc.contains x then acc else acc ++ [x]) []

/-- Banks touched by ranges of (SGA, bytes). -/
def rangeBanks (rs : List (Nat × Nat)) : List Nat :=
  distinct (rs.flatMap fun r => if r.2 = 0 then [] else [sgaBank r.1, sgaBank (r.1 + r.2 - 1)])

/-- Banks of one long extent. -/
def extentBanks (sga n : Nat) : List Nat :=
  if n = 0 then [] else (List.range ((sga + n - 1) / 2 ^ 18 - sga / 2 ^ 18 + 1)).map fun i => sgaBank sga + i

/-- 64-byte lines touched by ranges of (address, bytes). -/
def rangeLines (rs : List (Nat × Nat)) : List Nat :=
  distinct (rs.flatMap fun r => if r.2 = 0 then [] else [r.1 / 64, (r.1 + r.2 - 1) / 64])

/-- Address of entry i of the grant table (R323, R419). -/
def grantPlace (s : State) (i : BitVec 16) : Nat := 32 * (s.grantBase.toNat + i.toNat)

/-! ### The Sward (R18, R261) -/

/-- Whether a read of n bytes meets a poisoned line. -/
def poisonedRange (ls : List Nat) (a n : Nat) : Bool :=
  decide (n ≠ 0) && ls.any fun l => decide (a / 64 ≤ l ∧ l ≤ (a + n - 1) / 64)

/-- Poison after a write of n bytes at a: whole lines are cleared, partial ones stay (R261). -/
def clearPoison (ls : List Nat) (a n : Nat) : List Nat :=
  ls.filter fun l => !(decide (a ≤ 64 * l ∧ 64 * l + 64 ≤ a + n))

/-- Lines of n bytes at a marked poisoned. -/
def addPoison (ls : List Nat) (a n : Nat) : List Nat :=
  if n = 0 then ls
  else (List.range ((a + n - 1) / 64 - a / 64 + 1)).foldl (fun acc i => setAdd (a / 64 + i) acc) ls

def State.swardRead (s : State) (a n : Nat) : List Byte := memRead s.sward a n
def State.swardWrite (s : State) (a : Nat) (bs : List Byte) : State :=
  { s with sward := memWrite s.sward a bs, swardPoison := clearPoison s.swardPoison a bs.length }

/-- Byte a as the tile's own shadow sees it: the youngest held store over it, else the base (R181, R237). -/
def overlayByte (held : List Held) (a : Nat) (base : Byte) : Byte :=
  held.foldl (fun b e => match e with
    | .sward sga bs => if sga ≤ a ∧ a < sga + bs.length then byteAt bs (a - sga) else b
    | _ => b) base

/-- n bytes at a as the acting tile's slots see them. -/
def State.slotRead (s : State) (a n : Nat) : List Byte :=
  let held := s.tk.held
  (List.range n).map fun i => overlayByte held (a + i) (memGet s.sward (a + i))

/-- (address, byte) pairs as runs of consecutive addresses. -/
def groupRuns : List (Nat × Byte) → List (Nat × List Byte)
  | [] => []
  | (a, b) :: r =>
    match groupRuns r with
    | (a', bs) :: t => if a' = a + 1 then (a, b :: bs) :: t else (a, [b]) :: (a', bs) :: t
    | [] => [(a, [b])]

/-- A store of the acting tile's slots: performed at once, or held in a branch shadow (R181, R237). -/
def State.slotWrite (s : State) (a : Nat) (bs : List Byte) : State :=
  if s.tk.shadow > 0 then s.modTask fun k => { k with held := k.held ++ [.sward a bs] } else s.swardWrite a bs

/-- Extra freeze for the cluster that an access touches (R260). -/
def distantFreeze (t : TileId) (sga : Nat) : Nat :=
  if sgaCluster sga = tileCluster t then 0 else if sgaDie sga = tileDie t then 12 else 40

/-- The acting tile will freeze for n cycles more than its other slots make it (R238). -/
def addFreeze (n : Nat) (s : State) : State := s.modTile s.cur fun t => { t with freeze := Nat.max t.freeze n }

/-- An imprecise fault reaches the sequencer (R280). -/
def addImpFault (t : TileId) (f : ImpFault) (s : State) : State :=
  s.modTaskAt t fun k => { k with impFaults := k.impFaults ++ [f] }

/-! ### Data watchpoints (R365, R366) -/

/-- Whether watchpoint w watches byte a of the space (0 VA, 1 SGA). -/
def watchByte (w : BitVec 128) (space : Bool) (a : Nat) : Bool :=
  let base := (field w 16 48).toNat
  bit w 0 && bit w 1 == space && decide (base ≤ a ∧ a < base + (field w 3 7).toNat) && bit w (64 + (a - base))

/-- The lowest byte of n bytes at a that watchpoint w watches. -/
def watchRange (w : BitVec 128) (space : Bool) (a n : Nat) : Option Nat :=
  if !bit w 0 then none
  else (List.range n).findSome? fun i => if watchByte w space (a + i) then some (a + i) else none

/-- The lowest byte of some ranges that a watchpoint watches. -/
def watchRanges (w : BitVec 128) (space : Bool) (rs : List (Nat × Nat)) : Option Nat :=
  rs.foldl (fun acc r => match acc, watchRange w space r.1 r.2 with
    | none, x => x
    | x, none => x
    | some a, some b => some (Nat.min a b)) none

/-- For a write of some ranges in a context: the lowest matching byte and the lowest matching watchpoint (R366). -/
def watchMatch (c : Context) (space : Bool) (rs : List (Nat × Nat)) : Option (Nat × BitVec 2) :=
  (List.finRange 4).foldl (fun acc i => match acc, watchRanges c.watch[i] space rs with
    | none, some a => some (a, BitVec.ofNat 2 i.val)
    | some (a, w), some b => some (Nat.min a b, w)
    | x, none => x) none

/-- YTVAL of WATCH_STORE (R366). -/
def watchTval (addr : Nat) (wp : BitVec 2) (slot : BitVec 3) : Word :=
  BitVec.ofNat 64 (packNat [(addr, 48), (wp.toNat, 2), (slot.toNat, 3)])

/-- The watchpoint trap that a core store of the acting tile meets, if any; suppressed on the first issue after an
`ERET` with mode 0 (R364). -/
def coreWatch (s : State) (space : Bool) (rs : List (Nat × Nat)) : Option Word :=
  if s.tk.noBreak == some s.tk.pc || s.tk.mode == .monitor then none
  else (watchMatch (s.ctx s.tk.ctx) space rs).map fun (a, w) => watchTval a w s.slot

end Sys2Proof.Machine
end

