-- ==== Sys2Proof/Machine/Replay.lean ====
section
/-! DEFINITION. The replay log of a context in HBM4, and what a log answers in replay (R371 to R373, R419; log 19). -/

namespace Sys2Proof.Machine

/-- Whether the log of a recorded context lacks room for n records (R371). -/
def logFull (s : State) (ctx : CtxId) (n : Nat) : Bool :=
  let c := s.ctx ctx
  c.recording && decide ((c.logW - c.logR).toNat + 64 * n > 2 ^ c.logSize.toNat)

/-- Address of record n of a context's log. -/
def logPlace (c : Context) (n : Nat) : Nat := c.logBase.toNat * 4096 + 64 * n % 2 ^ c.logSize.toNat

/-- A record of a recorded context enters its log, written whole (R360, R371). A unit freezes before it would fill the log. -/
def logRecord (ctx : CtxId) (r : BitVec 512) (s : State) : State :=
  let c := s.ctx ctx
  if !c.recording || logFull s ctx 1 then s
  else
    let a := logPlace c (c.logW.toNat / 64)
    { s with hbm := memWriteLE s.hbm a 64 r.toNat, hbmPoison := clearPoison s.hbmPoison a 64 }.modCtx ctx fun c =>
      { c with logW := c.logW + 64 }

/-- The oldest record of a context's log that replay has not used and that a test admits, with its number. -/
def logFind (s : State) (ctx : CtxId) (p : BitVec 512 → Bool) : Option (Nat × BitVec 512) :=
  let c := s.ctx ctx
  let first := c.logR.toNat / 64
  (List.range ((c.logW - c.logR).toNat / 64)).findSome? fun i =>
    let r : BitVec 512 := BitVec.ofNat 512 (memReadLE s.hbm (logPlace c (first + i)) 64)
    if !c.logUsed.contains (first + i) && p r then some (first + i, r) else none

/-- Replay has used a record. -/
def logUse (ctx : CtxId) (n : Nat) (s : State) : State := s.modCtx ctx fun c => { c with logUsed := n :: c.logUsed }

/-- Kind of a record (log 19): 1 a fire, 2 a launch, 3 a packet, 4 an atomic's old value, 5 read data, 6 a commit hash. -/
def logKind (r : BitVec 512) : BitVec 8 := field r 0 8

/-- A record from its fields, least significant first. -/
def logOf (fields : List (Nat × Nat)) : BitVec 512 := BitVec.ofNat 512 (packNat fields)

/-- A mismatch in replay (R373): DIV, the retirement count, the context halted, Kenval interrupted. -/
def diverge (ctx : CtxId) (s : State) : State :=
  if (s.ctx ctx).div then s
  else
    { s with out := s.out ++ [Output.irq 0] }.modCtx ctx fun x =>
      { x with div := true, divAt := x.tasks, desc := if s.ctxActive ctx then putField x.desc 0 3 (2 : BitVec 3) else x.desc }

/-- What a record is about: its kind, and for a value or read data whose access it is, so that accesses whose order differs in
replay find their own (R372; log 19). -/
def logKey (r : BitVec 512) : BitVec 128 := if logKind r = 4 ∨ logKind r = 5 then field r 0 128 else (logKind r).setWidth 128

/-- A record enters the log of a context that is recorded; in replay the oldest of its kind about the same is used up and is the
answer (R371, R372). What R373 compares is a mismatch where the two differ or the log has no more of the kind. -/
def logAnswer (compared : Bool) (ctx : CtxId) (r : BitVec 512) (s : State) : State × BitVec 512 :=
  let c := s.ctx ctx
  if c.recording then (logRecord ctx r s, r)
  else if c.replaying then
    match logFind s ctx fun x => logKey x == logKey r with
    | none => (if compared then diverge ctx s else s, r)
    | some (n, x) => (if compared ∧ x ≠ r then diverge ctx (logUse ctx n s) else logUse ctx n s, x)
  else (s, r)

/-- Whose access a record is about: the member of a gang, CMDBASE of its task, and which of its accesses (log 19). -/
structure LogOwner where
  gidx : BitVec 4
  cmdbase : BitVec 32
  num : Nat
  deriving DecidableEq, Repr

/-- The fields of a record before its value. -/
def LogOwner.fields (o : LogOwner) (kind len : Nat) : List (Nat × Nat) :=
  [(kind, 8), (len, 8), (o.gidx.toNat, 16), (o.cmdbase.toNat, 32), (o.num, 64)]

/-- The old value of an atomic, from the log in replay, where it is compared (R371 to R373). -/
def recordValue (ctx : CtxId) (o : LogOwner) (v : Word) (s : State) : State × Word :=
  let (s', r) := logAnswer true ctx (logOf (o.fields 4 0 ++ [(v.toNat, 64)])) s
  (s', field r 128 64)

/-- Bytes of a record of read data. -/
def logBytes : Nat := 48

/-- Bytes returned by an `RLD`, in pieces, from the log in replay (R371, R372). Fuel: the bytes. -/
def recordBytes (ctx : CtxId) (o : LogOwner) : Nat → List Byte → State → State × List Byte
  | 0, bs, s => (s, bs)
  | n + 1, bs, s =>
    match bs with
    | [] => (s, [])
    | _ =>
      let piece := bs.take logBytes
      let (s1, r) := logAnswer false ctx (logOf (o.fields 5 piece.length ++ [(leNat piece, 384)])) s
      let (s2, rest) := recordBytes ctx { o with num := o.num + 65536 } n (bs.drop logBytes) s1
      (s2, leBytes piece.length (field r 128 384).toNat ++ rest)

/-! ### Fires (R371, R372) -/

/-- The record of a fire: cell index and FIRES. -/
def fireLog (i : BitVec 16) (fires : BitVec 32) : BitVec 512 := logOf [(1, 8), (0, 8), (i.toNat, 16), (fires.toNat, 32)]

/-- The oldest fire of a cell that a log still holds. -/
def loggedFire (s : State) (ctx : CtxId) (i : BitVec 16) : Option (Nat × BitVec 512) :=
  logFind s ctx fun r => logKind r == 1 && field r 16 16 == i

/-- A fire is recorded; in replay the cell's logged fire is used up. -/
def noteFire (ctx : CtxId) (i : BitVec 16) (fires : BitVec 32) (s : State) : State :=
  if (s.ctx ctx).recording then logRecord ctx (fireLog i fires) s
  else if (s.ctx ctx).replaying then
    match loggedFire s ctx i with
    | some (n, _) => logUse ctx n s
    | none => s
  else s

/-- Whether a fire must wait: for room in the log, or in replay for its place in the cell's logged order. -/
def fireStalls (s : State) (ctx : CtxId) (i : BitVec 16) (fires : BitVec 32) : Bool :=
  logFull s ctx 1 || (!(s.ctx ctx).recording && (s.ctx ctx).replaying &&
    match loggedFire s ctx i with
    | some (_, r) => field r 32 32 != fires
    | none => true)

end Sys2Proof.Machine
end

