-- ==== Sys2Proof/Machine/Cells.lean ====
section
/-! DEFINITION. Hardware queues as places for records (R124 to R127), trigger cells and their operations (R32 to R36,
R38), and the scrub-free changes of a context's STATE that engines make (R22). -/

namespace Sys2Proof.Machine

/-! ### Queues (R124) -/

def qEn (d : BitVec 128) : Bool := bit d 0
def qDie (d : BitVec 128) : BitVec 1 := field d 1 1
def qOwner (d : BitVec 128) : CtxId := field d 2 6
def qRank (d : BitVec 128) : BitVec 4 := field d 8 4
def qLogN (d : BitVec 128) : Nat := (field d 12 4).toNat
def qBase (d : BitVec 128) : Nat := (field d 16 29).toNat

/-- Records held, slots reserved by fires, `ENQ` and `SPAWNV` included (R36, R126). -/
def qCount (q : HwQueue) : Nat := (q.tailp + 2 ^ qLogN q.desc - q.headp) % 2 ^ qLogN q.desc

/-- Free FIFO slots: the FIFO is full at 2^LOGN − 1 records (R124). -/
def qFree (q : HwQueue) : Nat := 2 ^ qLogN q.desc - 1 - qCount q

/-- Records take consecutive slots at the tail; each lands later (R36, R126 to R128). -/
def qReserve (after : Option (TileId × Nat × Nat)) (recs : List (BitVec 256)) (q : HwQueue) : HwQueue :=
  recs.foldl (fun q r => { q with landing := q.landing ++ [⟨q.tailp, r, after⟩], tailp := (q.tailp + 1) % 2 ^ qLogN q.desc }) q

/-- A task record (R30). -/
def mkRecord (tmpl : BitVec 16) (queue : BitVec 7) (ctx : CtxId) (cmdbase : BitVec 32) (args : List (BitVec 32)) :
    BitVec 256 :=
  BitVec.ofNat 256 (packNat ([(tmpl.toNat, 16), (queue.toNat, 7), (ctx.toNat, 6), (0, 3), (cmdbase.toNat, 32)]
    ++ (List.range 6).map fun i => ((args.getD i 0).toNat, 32)))

/-! ### Trigger cells (R32) -/

/-- Fields of a cell's 256 bits. -/
def cellCount (c : BitVec 256) : Nat := (field c 0 32).toNat
def cellThresh (c : BitVec 256) : BitVec 32 := field c 32 32
def cellPend (c : BitVec 256) : Int := (field c 64 48).toInt
def cellPhase (c : BitVec 256) : Bool := bit c 112
def cellRearm (c : BitVec 256) : Bool := bit c 113
def cellNoTask (c : BitVec 256) : Bool := bit c 114
def cellScope (c : BitVec 256) : BitVec 3 := field c 115 3
def cellSpent (c : BitVec 256) : Bool := bit c 118
def cellBroken (c : BitVec 256) : Bool := bit c 119
def cellHeld (c : BitVec 256) : Bool := bit c 120
def cellOwner (c : BitVec 256) : CtxId := field c 128 6
def cellQueue (c : BitVec 256) : BitVec 7 := field c 136 7
def cellTmpl (c : BitVec 256) : BitVec 16 := field c 144 16
def cellFires (c : BitVec 256) : BitVec 32 := field c 160 32

/-- A cell operation (R33). -/
inductive CellOp where
  | expect (n : Nat)
  | delivery (n : Nat)
  | arrive (k : Nat)
  | remoteArrive (k : Nat)
  | phase
  deriving DecidableEq, Repr

/-- SGA of cell i of a context; none where the index is invalid (R32). -/
def cellAddr (s : State) (ctx : CtxId) (i : Nat) : Option Nat :=
  let d := (s.ctx ctx).desc
  let a := ctxCellBase d + 32 * i
  if i ≥ ctxCellN d ∨ (a + 31) / 2 ^ 25 ≠ ctxCellBase d / 2 ^ 25 then none else some a

def cellRead (s : State) (a : Nat) : BitVec 256 := BitVec.ofNat 256 (memReadLE s.sward a 32)
def cellWrite (s : State) (a : Nat) (c : BitVec 256) : State :=
  { s with sward := memWriteLE s.sward a 32 c.toNat }

/-- The cell after the effect of R33 and the faults of R34, with the fault if any. -/
def cellEffect (op : CellOp) (c : BitVec 256) : BitVec 256 × Option Cause :=
  let pend' : Int := match op with
    | .expect n => cellPend c + n
    | .delivery n => cellPend c - n
    | _ => cellPend c
  let k := match op with | .arrive k => k | .remoteArrive k => k | _ => 0
  let c1 := putField c 64 48 (BitVec.ofInt 48 pend')
  if pend' < 0 then
    (putField (putField c1 0 32 (BitVec.ofNat 32 (cellCount c - k))) 119 1 (1 : BitVec 1), some .pendNegative)
  else if cellCount c < k then (putField (putField c1 0 32 (0 : BitVec 32)) 119 1 (1 : BitVec 1), some .countUnderflow)
  else
    let c2 := putField c1 0 32 (BitVec.ofNat 32 (cellCount c - k))
    if pend' > 2 ^ 47 - 1 then
      (putField (putField c2 64 48 (BitVec.ofNat 48 (2 ^ 47 - 1))) 119 1 (1 : BitVec 1), some .pendOverflow)
    else (c2, none)

/-- Whether a cell stands at its firing condition (R34). -/
def cellReady (c : BitVec 256) : Bool := cellCount c == 0 && cellPend c == 0 && !cellBroken c

/-- FIRES, PHASE, COUNT and SPENT of a fire (R35). -/
def cellFired (c : BitVec 256) : BitVec 256 :=
  let c1 := putField (putField c 160 32 (cellFires c + 1)) 112 1 (b2v 1 (!cellPhase c))
  if cellRearm c then putField c1 0 32 (cellThresh c) else putField c1 118 1 (1 : BitVec 1)

/-- The record a fire of cell i builds (R35). -/
def fireRecord (i : BitVec 16) (old : BitVec 256) : BitVec 256 :=
  let f := cellFires old + 1
  mkRecord (cellTmpl old) (cellQueue old) (cellOwner old) (i ++ f.setWidth 16)
    [i.setWidth 32, b2v 32 (cellPhase old)]

/-- A fire (R35, R36): the record goes to its queue, or waits in the cell with HELD where the queue is full or
disabled. -/
def fireCell (ctx : CtxId) (i : BitVec 16) (a : Nat) (c : BitVec 256) (s : State) : State :=
  let c1 := cellFired c
  let s0 := noteFire ctx i (cellFires c1) s
  if cellNoTask c then cellWrite s0 a c1
  else
    let q := s0.queue (cellQueue c)
    let rec_ := fireRecord i c
    if qEn q.desc && decide (qFree q ≥ 1) then (cellWrite s0 a c1).modQueue (cellQueue c) (qReserve none [rec_])
    else
      let c2 := putField (putField (putField c1 120 1 (1 : BitVec 1)) 192 32 (field rec_ 64 32)) 224 32 (field rec_ 32 32)
      { cellWrite s0 a c2 with heldRecs := s0.heldRecs ++ [(ctx, i, false)] }

/-- The answer of a cell operation: the state, the refusal or fault met, and the phase seen at step (a) of R34. -/
structure CellReply where
  st : State
  fault : Option Cause
  phase : Bool

/-- Whether the operation is refused on a spent cell (R34). -/
def spentRefuses : CellOp → Bool
  | .expect _ => true | .delivery _ => true | .arrive _ => true | _ => false

/-- A cell operation in the operating context (R34), its effects in one indivisible step. -/
def cellOp (ctx : CtxId) (i : BitVec 16) (op : CellOp) (s : State) : CellReply :=
  match cellAddr s ctx i.toNat with
  | none => ⟨s, some .cellIndex, false⟩
  | some a =>
    let c := cellRead s a
    if cellOwner c ≠ ctx ∨ !s.ctxLive ctx then ⟨s, some .cellOwner, false⟩
    else if cellBroken c then ⟨s, some .cellBroken, false⟩
    else if cellSpent c && spentRefuses op then ⟨s, some .cellSpent, false⟩
    else match op with
      | .phase => ⟨s, none, cellPhase c⟩
      | op =>
        match cellEffect op c with
        | (c', some f) => ⟨cellWrite s a c', some f, cellPhase c⟩
        | (c', none) =>
          if cellReady c' && cellHeld c' then
            ⟨{ cellWrite s a c' with heldRecs := s.heldRecs.map fun h =>
                if h.1 = ctx ∧ h.2.1 = i then (h.1, h.2.1, true) else h }, none, cellPhase c⟩
          else if cellReady c' then ⟨fireCell ctx i a c' s, none, cellPhase c⟩
          else ⟨cellWrite s a c', none, cellPhase c⟩

/-- FIRES of the fire that an operation makes of a cell, where it makes one (R34, R35). -/
def wouldFire (s : State) (ctx : CtxId) (i : BitVec 16) (op : CellOp) : Option (BitVec 32) :=
  match cellAddr s ctx i.toNat with
  | none => none
  | some a =>
    let c := cellRead s a
    if cellOwner c ≠ ctx ∨ !s.ctxLive ctx ∨ cellBroken c ∨ (cellSpent c && spentRefuses op) ∨ op = .phase then none
    else match cellEffect op c with
      | (c', none) => if cellReady c' && !cellHeld c' then some (cellFires c' + 1) else none
      | _ => none

/-- Whether the bank of a cell is under scrub, so that accesses to it wait (R262). -/
def cellScrubs (s : State) (ctx : CtxId) (i : BitVec 16) : Bool :=
  match cellAddr s ctx i.toNat with
  | some a => s.scrubbing.contains (sgaBank a)
  | none => false

/-- Whether an operation must wait for the scrub of its bank (R262) or for the replay log of its context (R371, R372). -/
def cellStalls (s : State) (ctx : CtxId) (i : BitVec 16) (op : CellOp) : Bool :=
  cellScrubs s ctx i || ((s.ctx ctx).recording || (s.ctx ctx).replaying) &&
    match wouldFire s ctx i op with
    | some f => fireStalls s ctx i f
    | none => false

/-- The fault-queue entry of a refused or faulted cell operation, in the queue of the cell's die (R38). -/
def cellFaultEntry (ctx : CtxId) (i : BitVec 16) (c : Cause) (unit : BitVec 16) (seq : BitVec 48) (s : State) : State :=
  enterFault (sgaDie (ctxCellBase (s.ctx ctx).desc))
    (faultEntry (causeCode c) ctx 3 unit 0 (i.setWidth 48) seq s.timeNs) s

/-- A cell operation whose refusal or fault enters the queue (R38). -/
def cellOpReport (ctx : CtxId) (i : BitVec 16) (op : CellOp) (unit : BitVec 16) (seq : BitVec 48) (s : State) :
    State × Option Cause :=
  let r := cellOp ctx i op s
  match r.fault with
  | none => (r.st, none)
  | some c => (cellFaultEntry ctx i c unit seq r.st, some c)

end Sys2Proof.Machine
end

