-- ==== Sys2Proof/Machine/Packets.lean ====
section
/-! DEFINITION. Frames: the YT header and trailer (R70, R71), ingress buffers and the counters of a port (R74, R78, R88), egress
queues with their credits and pauses (R69, R70, R92), and the choice of a route (R316 to R318). -/

namespace Sys2Proof.Machine

/-! ### The YT header (R71) -/

/-- The header in the first 32 bytes of a YT frame. -/
def ytHeader (bs : List Byte) : BitVec 256 := BitVec.ofNat 256 (leNat (bs.take 32))
def ytDst (h : BitVec 256) : BitVec 10 := field h 0 10
def ytSrc (h : BitVec 256) : BitVec 10 := field h 10 10
def ytTc (h : BitVec 256) : BitVec 3 := field h 20 3
def ytOpc (h : BitVec 256) : BitVec 9 := field h 23 9
def ytGrant (h : BitVec 256) : Word := field h 32 64
def ytOffset (h : BitVec 256) : BitVec 48 := field h 96 48
def ytLen (h : BitVec 256) : Nat := (field h 144 13).toNat
def ytHops (h : BitVec 256) : BitVec 6 := field h 157 6
def ytPoison (h : BitVec 256) : Bool := bit h 163
def ytTokid (h : BitVec 256) : BitVec 32 := field h 192 32
def ytE2e (h : BitVec 256) : BitVec 32 := field h 224 32

/-- The LEN payload bytes of a YT frame. -/
def ytPayload (bs : List Byte) : List Byte := bytesAt bs 32 (ytLen (ytHeader bs))

/-- A YT frame with its payload padded to a multiple of 64 bytes, without trailer (R70). -/
def mkYt (dst src : BitVec 10) (tc : BitVec 3) (opc : BitVec 9) (grant : Word) (off : BitVec 48) (poison : Bool)
    (tokid : BitVec 32) (payload : List Byte) : List Byte :=
  leBytes 32 (packNat [(dst.toNat, 10), (src.toNat, 10), (tc.toNat, 3), (opc.toNat, 9), (grant.toNat, 64),
    (off.toNat, 48), (payload.length, 13), (63, 6), (b2n poison, 1), (0, 28), (tokid.toNat, 32),
    ((crc32c payload).toNat, 32)]) ++ bytesAt payload 0 (64 * ceilDiv payload.length 64)

/-- The header of a frame replaced. -/
def withHeader (bs : List Byte) (h : BitVec 256) : List Byte := leBytes 32 h.toNat ++ bs.drop 32

/-- A frame padded to whole flits, without its trailer (R70). -/
def padYt (bs : List Byte) : List Byte := bytesAt bs 0 (32 + 64 * ceilDiv (bs.length - 32) 64)

/-- Flits of a frame with its trailer (R70). -/
def flits (bs : List Byte) : Nat := 1 + ceilDiv (bs.length - 32) 64

/-- The opcodes that R72 and R301 assign; every other one is discarded with BADOP. -/
def ytOpcAssigned (o : BitVec 9) : Bool :=
  let n := o.toNat
  decide (1 ≤ n ∧ n ≤ 5) || decide (0x20 ≤ n ∧ n ≤ 0x24) || n == 0x28 || n == 0x30 || n == 0x31 || n == 0x40 ||
    n == 0x41 || decide (0x80 ≤ n ∧ n ≤ 0xFF)

/-- Opcodes handled by the fabric engines (R72). -/
def isEngineOpc (o : BitVec 9) : Bool := decide (1 ≤ o.toNat ∧ o.toNat ≤ 0x2F)

/-! ### Ports -/

def Port.mode (p : Port) : BitVec 2 := field p.cfg 0 2

/-- This package's chip ID, the same value in every port (R68): read from port 0. -/
def State.chipId (s : State) : BitVec 10 := field (s.port 0).cfg 16 10

/-- Pipeline of a port: pipeline q of die d serves ports 16d + 4q to 16d + 4q + 3; the host window uses pipeline 0 of
die 0 (R9, R76). -/
def pipeOf (p : BitVec 6) : BitVec 3 := if p.toNat < 32 then BitVec.ofNat 3 (p.toNat / 4) else 0

/-- The counters of R74. -/
inductive Counter where
  | rxfrm | rxbad | runt | giant | overrun | badop | disc | noclass | hopexp | drop | e2efail | latecpl | hostbusy
  | hostbad
  deriving DecidableEq, Repr

/-- Place of a counter among a port's. -/
def Counter.place : Counter → Option (Fin 12)
  | .rxfrm => some 0 | .rxbad => some 1 | .runt => some 2 | .giant => some 3 | .overrun => some 4 | .badop => some 5
  | .disc => some 6 | .noclass => some 7 | .hopexp => some 8 | .drop => some 9 | .e2efail => some 10
  | .latecpl => some 11 | .hostbusy => none | .hostbad => none

/-- Place of a counter among those of the host window: a frame that it loses for a reason with no counter of its own
there counts in DROP. -/
def Counter.hostPlace : Counter → Option (Fin 5)
  | .rxfrm => some 0 | .noclass => some 1 | .drop => some 2 | .hopexp => some 2 | .badop => some 2
  | .hostbusy => some 3 | .hostbad => some 4 | _ => none

/-- A counter advances by one, modulo 2^64 (R74); port 32 is the host window, and a frame of this package itself counts
nowhere. -/
def count (p : BitVec 6) (c : Counter) (s : State) : State :=
  if p.toNat < 32 then
    match c.place with
    | some i => s.modPort (field p 0 5) fun x => { x with ctr := x.ctr.set i (x.ctr[i] + 1) }
    | none => s
  else if p.toNat = 32 then
    match c.hostPlace with
    | some i => { s with hostCtr := s.hostCtr.set i (s.hostCtr[i] + 1) }
    | none => s
  else s

/-! ### Ingress buffers (R69, R78, R88) -/

/-- No buffer: a frame that this package made. -/
def noRef : BufRef := ⟨63, 0, 0, 0⟩

/-- The occupied parts of a port's ingress buffer: frames not yet parsed, in the pipeline, at an egress or at a fabric
engine, and frames with payload operations outstanding (R88). -/
def bufRefs (s : State) (p : BitVec 6) : List BufRef :=
  let x := s.pipe (pipeOf p)
  let all := (x.waiting.map fun f => f.ref) ++ (x.pkts.map fun k => k.frame.ref)
    ++ (x.parse.toList.map fun k => k.pkt.frame.ref)
    ++ (s.ports.toList.flatMap fun q => (q.egress.map fun f => f.ref) ++ q.fab.map fun f => f.frame.ref)
    ++ (s.clusters.toList.flatMap fun c => c.pay.map fun o => o.ref)
  (all.filter fun r => r.port == p).foldl (fun acc r => if acc.any fun y => y.start == r.start then acc else r :: acc) []

/-- 64-byte units of a port's buffer in use. -/
def bufUsed (s : State) (p : BitVec 6) : Nat := (bufRefs s p).foldl (fun n r => n + r.units) 0

/-- Units of a port's buffer in use by one traffic class or priority. -/
def bufUsedClass (s : State) (p : BitVec 6) (t : BitVec 3) : Nat :=
  (bufRefs s p).foldl (fun n r => if r.tc = t then n + r.units else n) 0

/-- The part of a buffer that a new frame takes: a start at which no buffered frame of the port starts (R78). -/
def bufTake (p : BitVec 6) (units : Nat) (tc : BitVec 3) (s : State) : State × BufRef :=
  let used := (bufRefs s p).map fun r => r.start
  let h := Config.bufStart s.freeCount
  let start := ((List.range 8192).find? fun i => !used.contains (h + BitVec.ofNat 13 i)).getD 0
  let r : BufRef := ⟨p, h + BitVec.ofNat 13 start, units, tc⟩
  ({ s with freeCount := s.freeCount + 1
            e2eFailed := s.e2eFailed.filter fun x => !(x.port == p && x.start == r.start) }, r)

/-- A frame is presented to its pipeline (R69, R70, R76). F3 and F4 of a host frame are the time at which it is taken (DESIGN
CHOICE, log 128). -/
def present (p : BitVec 6) (bytes : List Byte) (yt stomp : Bool) (tc : BitVec 3) (s : State) : State :=
  let (s1, r) := bufTake p (ceilDiv bytes.length 64) tc s
  (count p .rxfrm s1).modPipe (pipeOf p) fun x =>
    { x with waiting := x.waiting ++ [⟨r, bytes, yt, s.timeNs, stomp, false⟩] }

/-! ### Egress (R69, R70, R92, R320) -/

/-- Whether a frame may leave a port now: the link is up, with credits for its flits, or with its priority not paused. -/
def mayLeave (s : State) (x : Port) (f : OutFrame) : Bool :=
  !x.down && if x.mode = 2 then decide (flits f.bytes ≤ x.credits[f.tc.toNat]'f.tc.isLt)
  else decide ((x.pauseUntil[f.tc.toNat]'f.tc.isLt) ≤ s.timeNs)

/-- Credits of every class that a port returns with its next frame: what it has taken and no longer buffers, at most 255
flits each (R70). -/
def creditsDue (s : State) (p : BitVec 5) : Vector Nat 8 :=
  Vector.ofFn fun t => Nat.min 255 ((s.port p).taken[t] - bufUsedClass s (p.setWidth 6) (BitVec.ofNat 3 t.val))

/-- A YT frame as it stands on the wire: trailer with LCRC, STOMP and credit returns (R70). -/
def wireYt (body : List Byte) (stomp : Bool) (credits : Vector Nat 8) : List Byte :=
  let b := padYt body
  b ++ leBytes 32 (packNat ([((crc32c b).toNat, 32), (b2n stomp, 1), (0, 7)] ++ credits.toList.map fun c => (c, 8)))

/-- An Ethernet frame as it stands on the wire. -/
def wireEth (bs : List Byte) : List Byte := bs ++ leBytes 4 (ethFcs bs).toNat

/-- A frame leaves a port. -/
def leave (p : BitVec 5) (f : OutFrame) (s : State) : State :=
  if f.yt then
    let due := creditsDue s p
    let s1 := s.modPort p fun x =>
      { x with
        credits := x.credits.set f.tc.toNat ((x.credits[f.tc.toNat]'f.tc.isLt) - flits f.bytes) f.tc.isLt
        taken := Vector.ofFn fun t => x.taken[t] - due[t] }
    { s1 with out := s1.out ++ [Output.frame p (wireYt f.bytes f.stomp due)] }
  else { s with out := s.out ++ [Output.frame p (wireEth f.bytes)] }

/-- Frames of a list that may leave do, oldest first and in order within a class; the others stay. -/
def leaveAll (p : BitVec 5) : List OutFrame → List (BitVec 3) → State → List OutFrame × State
  | [], _, s => ([], s)
  | f :: fs, blocked, s =>
    if blocked.contains f.tc || !mayLeave s (s.port p) f then
      let (r, s1) := leaveAll p fs (f.tc :: blocked) s
      (f :: r, s1)
    else leaveAll p fs blocked (leave p f s)

/-- A port's egress queue moves on. -/
def flushPort (p : BitVec 5) (s : State) : State :=
  let (left, s1) := leaveAll p (s.port p).egress [] s
  s1.modPort p fun x => { x with egress := left }

/-- A frame takes its place at an egress. -/
def toEgress (p : BitVec 5) (f : OutFrame) (s : State) : State :=
  flushPort p (s.modPort p fun x => { x with egress := x.egress ++ [{ f with since := s.timeNs }] })

/-- A MAC control frame of priority flow control (R69): priorities `mask` paused for `quanta`, without FCS. -/
def pfcFrame (p : BitVec 5) (mask : BitVec 8) (quanta : BitVec 16) : List Byte :=
  [0x01, 0x80, 0xC2, 0x00, 0x00, 0x01] ++ (leBytes 6 (Config.portMac p).toNat).reverse
    ++ [0x88, 0x08, 0x01, 0x01, 0x00, mask]
    ++ ((List.range 8).flatMap fun i => if bit mask i then (leBytes 2 quanta.toNat).reverse else [0, 0])
    ++ List.replicate 26 0

/-- PFC of one priority of a port: sent above 384 KiB buffered, released below 256 KiB (R69); its bytes count in whole buffer
units of 64 (DESIGN CHOICE, log 145). -/
def pfcStep (p : BitVec 5) (s : State) (t : Fin 8) : State :=
  let x := s.port p
  let n := 64 * bufUsedClass s (p.setWidth 6) (BitVec.ofNat 3 t.val)
  let send (q : BitVec 16) (b : Bool) : State :=
    { s.modPort p fun y => { y with pfcOut := y.pfcOut.set t b } with
      out := s.out ++ [Output.frame p (wireEth (pfcFrame p (1 <<< t.val) q))] }
  if !x.pfcOut[t] ∧ n > 384 * 1024 then send 0xFFFF true
  else if x.pfcOut[t] ∧ n < 256 * 1024 then send 0 false
  else s

/-- What every port does as packets move: frames leave, and PFC follows the buffer (R69, R70). -/
def tidyPort (s : State) (p : Fin 32) : State :=
  let q := BitVec.ofNat 5 p.val
  let x := s.port q
  if x.mode = 0 then s
  else
    let s1 := if x.egress.isEmpty then s else flushPort q s
    if x.mode = 1 ∧ bit x.cfg 2 then (List.finRange 8).foldl (pfcStep q) s1 else s1

def tidyPorts (s : State) : State := (List.finRange 32).foldl tidyPort s

/-! ### Routing (R316 to R318, R421) -/

/-- Egress port of hop j of a routing entry, if valid. -/
def hopOf (e : BitVec 32) (j : Nat) : Option (BitVec 5) := if bit e (6 * j + 5) then some (field e (6 * j) 5) else none

/-- The live hops of an entry: valid, in fabric mode, not down, and not the ingress port (R318). -/
def liveHops (s : State) (e : BitVec 32) (ingress : BitVec 6) : List (BitVec 5) :=
  (List.range 4).filterMap fun j => (hopOf e j).bind fun p =>
    if (s.port p).mode = 2 ∧ !(s.port p).down ∧ p.setWidth 6 ≠ ingress then some p else none

/-- The hop whose egress holds most credits for a class, the lower hop number on a tie (R318). -/
def mostCredits (s : State) (tc : BitVec 3) : List (BitVec 5) → Option (BitVec 5)
  | [] => none
  | p :: ps =>
    match mostCredits s tc ps with
    | none => some p
    | some q =>
      if ((s.port p).credits[tc.toNat]'tc.isLt) ≥ ((s.port q).credits[tc.toNat]'tc.isLt) then some p else some q

/-- The egress for a destination, and the dateline of its entry; none where no hop is live (R318). -/
def chooseRoute (s : State) (pipe : BitVec 3) (dst src : BitVec 10) (tc : BitVec 3) (ingress : BitVec 6) :
    Option (BitVec 5 × Bool) :=
  let e := smGet 0 (s.pipe pipe).routes dst.toNat
  let live := liveHops s e ingress
  let p := if tc.toNat ≥ 6 then
      live[(crc32c (leBytes 4 (src.toNat + 1024 * dst.toNat))).toNat % live.length]?
    else mostCredits s tc live
  p.map fun q => (q, bit e 24)

/-- The class in which a frame leaves: a dateline moves an even class to the odd one of its pair (R316). -/
def datelineTc (dl : Bool) (tc : BitVec 3) : BitVec 3 := if dl then tc ||| 1 else tc

/-- A frame of this package or in transit is sent by the routing table of a pipeline; dropped where no hop is live. -/
def sendRouted (pipe : BitVec 3) (ingress : BitVec 6) (ref : BufRef) (bytes : List Byte) (stomp transit : Bool)
    (s : State) : Option State :=
  let h := ytHeader bytes
  (chooseRoute s pipe (ytDst h) (ytSrc h) (ytTc h) ingress).map fun (p, dl) =>
    let tc := datelineTc dl (ytTc h)
    toEgress p ⟨ref, withHeader bytes (putField h 20 3 tc), true, tc, stomp, transit, some pipe, 0⟩ s

end Sys2Proof.Machine
end

