-- ==== Sys2Proof/Machine/Parser.lean ====
section
/-! DEFINITION. The parser (R77, R78, R100 to R104): how a parse begins, what each parser word does to it, and how it ends. A
parser word acts on the parse that has the focus; where none has, it does nothing. -/

namespace Sys2Proof.Machine

/-! ### The header vector (R78) -/

abbrev Phv := Vector (BitVec 16) 128

/-- Field i. -/
def getF (f : Phv) (i : BitVec 7) : BitVec 16 := f[i.toNat]'i.isLt
def setF (f : Phv) (i : BitVec 7) (v : BitVec 16) : Phv := f.set i.toNat v i.isLt

/-- Field i by number; a number above 127 names none. -/
def setFAt (f : Phv) (i : Nat) (v : BitVec 16) : Phv := if h : i < 128 then f.set i v h else f

/-- Flag PERR of F7 set. -/
def setPerr (f : Phv) : Phv := setF f 7 (getF f 7 ||| 1)

/-- The vector at parser start: F0, F1, F3 to F5 and F7 from the port, F11 0xFFFF, and the YT header in F16 to F31 (R78,
R104). -/
def startPhv (s : State) (f : Frame) : Phv :=
  let h := ytHeader f.bytes
  let transit := f.yt && ytDst h != s.chipId
  Vector.ofFn fun i : Fin 128 =>
    if i.val = 0 then f.ref.port.setWidth 16
    else if i.val = 1 then BitVec.ofNat 16 (Nat.min f.bytes.length 65535)
    else if i.val = 3 then BitVec.ofNat 16 f.time
    else if i.val = 4 then BitVec.ofNat 16 (f.time / 65536)
    else if i.val = 5 then f.ref.start.setWidth 16
    else if i.val = 7 then BitVec.ofNat 16 (2 * b2n f.yt + 4 * b2n transit + 8 * b2n f.service)
    else if i.val = 11 then 0xFFFF
    else if f.yt ∧ 16 ≤ i.val ∧ i.val ≤ 31 then field h (16 * (i.val - 16)) 16
    else 0

/-! ### A parse -/

/-- A parse of frame f begins in state 0 (R102). -/
def startParse (s : State) (f : Frame) : Parse :=
  let c := if f.yt then 32 else 0
  { pkt := ⟨f, startPhv s f, [], false, 0, none⟩, state := 0, word := 0, cursor := c, next := c, key := 0, visited := 1 }

/-- The packet of a parse that has ended enters stage 0 (R77). -/
def endParse (p : BitVec 3) (k : Parse) (s : State) : State :=
  { s.modPipe p fun x => { x with parse := none, pkts := x.pkts ++ [k.pkt] } with focus := .idle }

/-- The parse ends with PERR set (R103). -/
def failParse (p : BitVec 3) (k : Parse) (s : State) : State :=
  endParse p { k with pkt := { k.pkt with phv := setPerr k.pkt.phv } } s

/-- On to the state's next word; after its last one with no transition the parse fails (R103). -/
def nextWord (p : BitVec 3) (k : Parse) (s : State) : State :=
  if k.word + 1 ≥ 8 then failParse p k s
  else s.modPipe p fun x => { x with parse := some { k with word := k.word + 1 } }

/-- A transition (R102, R103). -/
def enterState (p : BitVec 3) (st : BitVec 6) (k : Parse) (s : State) : State :=
  if k.next > 256 ∨ k.visited ≥ 32 then failParse p k s
  else s.modPipe p fun x =>
    { x with parse := some { k with state := st, word := 0, cursor := k.next, visited := k.visited + 1 } }

/-- A parser word acts on the parse that has the focus. -/
def parseWord (f : BitVec 3 → Parse → State → State) (s : State) : Out :=
  slotDone (match s.focus with
    | .parser p =>
      match (s.pipe p).parse with
      | some k => f p k s
      | none => s
    | _ => s)

/-- Whether n bytes from frame byte i lie within what the parser may read (R77, R103). -/
def parseReach (k : Parse) (i n : Nat) : Bool := decide (i + n ≤ Nat.min 256 k.pkt.frame.bytes.length)

/-- Field d extracted from n bits at bit lsb of the 16-bit word at byte i: recorded for the deparser (R121). A field that is
extracted again goes back to where it last came from alone (DESIGN CHOICE, log 74). -/
def recordExtract (d : BitVec 7) (i lsb w : Nat) (le : Bool) (k : Packet) : Packet :=
  { k with extracts := (k.extracts.filter fun e => e.1 != d) ++ [(d, i, lsb, w, le)] }

/-- The 16-bit word at byte i of a frame. -/
def frameWord (bs : List Byte) (i : Nat) (le : Bool) : BitVec 16 :=
  if le then byteAt bs (i + 1) ++ byteAt bs i else byteAt bs i ++ byteAt bs (i + 1)

/-- One 16-bit field extracted whole. -/
def extractWord (i : Nat) (le : Bool) (k : Packet) (d : Nat) : Packet :=
  recordExtract (BitVec.ofNat 7 d) i 0 16 le { k with phv := setFAt k.phv d (frameWord k.frame.bytes i le) }

/-! ### The parser words (R101) -/

/-- `P.NOP` (R100). -/
def execPNop (s : State) : Out := parseWord nextWord s

/-- `P.EXT` (R101). -/
def execPExt (d : BitVec 7) (off : BitVec 8) (nm1 : BitVec 4) (le : Bool) (s : State) : Out :=
  parseWord (fun p k s =>
    let at_ := k.cursor + off.toNat
    if !parseReach k at_ (2 * (nm1.toNat + 1)) then failParse p k s
    else
      let pkt := (List.range (nm1.toNat + 1)).foldl (fun (q : Packet) i => extractWord (at_ + 2 * i) le q (d.toNat + i)) k.pkt
      nextWord p { k with pkt := pkt } s) s

/-- `P.EXTB` (R101). -/
def execPExtb (d : BitVec 7) (off : BitVec 8) (lsb wm1 : BitVec 4) (s : State) : Out :=
  parseWord (fun p k s =>
    let at_ := k.cursor + off.toNat
    if !parseReach k at_ 2 then failParse p k s
    else
      let w := wm1.toNat + 1
      let v := BitVec.ofNat 16 ((frameWord k.pkt.frame.bytes at_ false).toNat / 2 ^ lsb.toNat % 2 ^ w)
      nextWord p { k with pkt := recordExtract d at_ lsb.toNat w false { k.pkt with phv := setF k.pkt.phv d v } } s) s

/-- `P.SET` (R101). -/
def execPSet (d : BitVec 7) (imm : BitVec 16) (s : State) : Out :=
  parseWord (fun p k s => nextWord p { k with pkt := { k.pkt with phv := setF k.pkt.phv d imm } } s) s

/-- `P.ADV` (R101). -/
def execPAdv (n : BitVec 9) (s : State) : Out :=
  parseWord (fun p k s => nextWord p { k with next := k.next + n.toNat } s) s

/-- `P.ADVF` (R101). -/
def execPAdvf (a : BitVec 7) (lsb wm1 : BitVec 4) (sc : BitVec 2) (s : State) : Out :=
  parseWord (fun p k s =>
    let v := (getF k.pkt.phv a).toNat / 2 ^ lsb.toNat % 2 ^ (wm1.toNat + 1)
    nextWord p { k with next := k.next + v * 2 ^ sc.toNat } s) s

/-- `P.KEY` (R101). -/
def execPKey (a : BitVec 7) (mask : BitVec 16) (s : State) : Out :=
  parseWord (fun p k s => nextWord p { k with key := getF k.pkt.phv a &&& mask } s) s

/-- `P.CASE` (R101, R102). -/
def execPCase (st : BitVec 6) (value : BitVec 16) (s : State) : Out :=
  parseWord (fun p k s => if k.key = value then enterState p st k s else nextWord p k s) s

/-- `P.GOTO` (R101). -/
def execPGoto (st : BitVec 6) (s : State) : Out := parseWord (fun p k s => enterState p st k s) s

/-- `P.PAYLD` (R101). -/
def execPPayld (n : BitVec 9) (s : State) : Out :=
  parseWord (fun p k s =>
    nextWord p { k with pkt := { k.pkt with phv := setF k.pkt.phv 6 (BitVec.ofNat 16 (k.cursor + n.toNat)) } } s) s

/-- `P.END` (R101): a transition, which leaves the state with the cursor at `next` (R102, R103). -/
def execPEnd (err : Bool) (s : State) : Out :=
  parseWord (fun p k s => if err ∨ k.next > 256 then failParse p k s else endParse p k s) s

/-! ### Admission to the parser (R11, R77, R88) -/

/-- Whether some payload engine of a die has fewer than 2,048 free entries (R88). -/
def payloadFull (s : State) (die : BitVec 1) : Bool :=
  (List.range 8).any fun c => decide ((s.cluster (BitVec.ofNat 4 (8 * die.toNat + c))).pay.length > 2048)

/-- The frame that enters next: one admitted in a service slot, else the oldest of a port, else the oldest of the host
window (R11, R76). -/
def nextFrame (l : List Frame) : Option Frame :=
  match l.find? fun f => f.service with
  | some f => some f
  | none =>
    match l.find? fun f => f.ref.port != 32 with
    | some f => some f
    | none => l.head?

/-- The frame that takes a service slot of a pipeline: the oldest host frame, else the oldest frame (R11, R78). -/
def markService (l : List Frame) : List Frame :=
  if l.any fun f => f.service then l
  else
    let pick := match l.find? fun f => f.ref.port == 32 with
      | some f => some f
      | none => l.head?
    match pick with
    | some f => { f with service := true } :: l.erase f
    | none => l

/-- Cycles from now to the next service slot (R11): the cycles of the package's count from cold reset that are multiples of
128. -/
def toSlot (s : State) : Nat := (128 - s.cycle % 128) % 128

/-- A service slot is reached that none of the pipelines has used, and they use it (R11). -/
def inService (ps : List (BitVec 3)) (s : State) : State :=
  let wait := if ps.any fun p => (s.pipe p).served == some s.cycle then 128 else toSlot s
  let s1 := tickClock wait s
  ps.foldl (fun (s : State) p => s.modPipe p fun x => { x with served := some s1.cycle }) s1

/-- A pipeline whose service slot of cycle c has no Kenval write admits a frame in it (R11, R78). -/
def serveFrame (c : Nat) (x : Pipe) : Pipe :=
  if x.served = some c then x else { x with waiting := markService x.waiting, served := some c }

/-- `PACKET_PARSE` (R77): the next frame of a pipeline enters its parser. In the cycle of a service slot it is the frame that the
slot admits, and none where the slot is used (R11). -/
def execPacketParse (p : BitVec 3) (s : State) : Out :=
  let x := if toSlot s = 0 then serveFrame s.cycle (s.pipe p) else s.pipe p
  let used := decide (toSlot s = 0) && !x.waiting.any fun f => f.service
  slotDone (
    if payloadFull s (field p 2 1) || x.parse.isSome || x.run.isSome || used then s
    else match nextFrame x.waiting with
      | none => s
      | some f =>
        { s.modPipe p fun _ => { x with waiting := x.waiting.erase f, parse := some (startParse s f) } with
          focus := .parser p })

/-- `SERVICE_SLOT` (R11): with no Kenval write of its own to do, each pipeline admits a frame in it. -/
def execServiceSlot (s : State) : Out :=
  let s1 := tickClock (toSlot s) s
  slotDone { s1 with pipes := s1.pipes.map (serveFrame s1.cycle) }

end Sys2Proof.Machine
end

