-- ==== Sys2Proof/Machine/Stage.lean ====
section
/-! DEFINITION. Match-action stages: tables and lookups (R83, R84, R107), a block's evaluation and its commit (R111, R112), expert
admission (R94 to R97, R119, R120), and the action words (R113 to R120). An action word acts on the evaluation that has
the focus; where none has, it does nothing. -/

namespace Sys2Proof.Machine

/-! ### Tables (R83, R84) -/

def tblKind (d : BitVec 128) : BitVec 2 := field d 0 2
def tblEn (d : BitVec 128) : Bool := bit d 2
def tblOwner (d : BitVec 128) : CtxId := field d 8 6
def tblBank (d : BitVec 128) : Nat := (field d 16 11).toNat
def tblBanks (d : BitVec 128) : Nat := (field d 27 6).toNat + 1
def tblKeyw (d : BitVec 128) : Nat := (field d 33 3).toNat
def tblEntn (d : BitVec 128) : Nat := (field d 40 24).toNat
def tblCell (d : BitVec 128) : Nat := 8 * 2 ^ (field d 64 2).toNat

/-- SGA of a table's first bank. -/
def tblBase (d : BitVec 128) : Nat := tblBank d * 2 ^ 18

/-- Cluster of the package that a table's first bank lies in. -/
def tblCluster (d : BitVec 128) : BitVec 4 := sgaCluster (tblBase d)

/-- Pipeline p takes its place in this cycle among the pipelines of its die, in ascending number: where a higher one has acted
in the cycle, the next cycle has come (R86, R88). -/
def inPipeOrder (p : BitVec 3) (s : State) : State :=
  let d := s.die (field p 2 1)
  let s1 := if d.actAt = s.cycle ∧ (field p 0 2 : BitVec 2) < d.actPipe then tickClock 1 s else s
  s1.modDie (field p 2 1) fun x => { x with actAt := s1.cycle, actPipe := field p 0 2 }

def State.table (s : State) (die : BitVec 1) (t : BitVec 6) : BitVec 128 := (s.die die).tables[t.toNat]'t.isLt

/-- Key bytes of fields 0 to w of a list of eight 7-bit numbers, sixteen bytes (R80, R107). -/
def keyBytes (f : Phv) (keyf : BitVec 56) (w : Nat) : List Byte :=
  bytesAt ((List.range (w + 1)).flatMap fun i =>
    let v := getF f (field keyf (7 * i) 7)
    [field v 8 8, field v 0 8]) 0 16

/-- The 64 bytes of entry area i of a table: 0 the default area, i + 1 entry i (R84). -/
def tblArea (s : State) (d : BitVec 128) (i : Nat) : List Byte := memRead s.sward (tblBase d + 64 * i) 64

/-- V and SEL of an entry. -/
def areaValid (e : List Byte) : Bool := bit (byteAt e 56) 7
def areaSel (e : List Byte) : BitVec 6 := field (byteAt e 56) 0 6

/-- The entry of an exact-match table that a key hits, the lowest way first (R84). -/
def exactFind (s : State) (d : BitVec 128) (key : List Byte) : Option (List Byte) :=
  let n := tblEntn d / 4
  if n = 0 then none
  else (List.range 4).findSome? fun j =>
    let e := tblArea s d (j * n + (crc32cFrom (BitVec.ofNat 32 j) key).toNat % n + 1)
    if areaValid e && bytesAt e 40 16 == key then some e else none

/-- Whether a prefix is one of a key of sixteen bytes. -/
def PrefixEntry.matches (e : PrefixEntry) (key : List Byte) : Bool :=
  decide (e.len ≤ 128) && beNat (bytesAt key 0 16) / 2 ^ (128 - e.len) == e.key.toNat / 2 ^ (128 - e.len)

/-- The entry of a longest-prefix table that a key hits: of the valid entries the longest prefix, and of those the one written
last (R84; log 14). -/
def prefixFind (s : State) (die : BitVec 1) (t : BitVec 6) (d : BitVec 128) (key : List Byte) : Option (List Byte) :=
  let found := (s.die die).prefixes.filter fun e =>
    e.table == t && decide (e.entry < tblEntn d) && e.matches key && areaValid (tblArea s d (e.entry + 1))
  let best := found.foldl (fun (b : Option PrefixEntry) e => match b with
    | some x => if x.len ≤ e.len then some e else b
    | none => some e) none
  best.map fun e => tblArea s d (e.entry + 1)

/-- The entry of table t of a die that a key hits (R84). -/
def tblFind (s : State) (die : BitVec 1) (t : BitVec 6) (key : List Byte) : Option (List Byte) :=
  let d := s.table die t
  match (tblKind d).toNat with
  | 0 => exactFind s d key
  | 1 =>
    let n := beNat (key.take 2)
    let e := tblArea s d (n + 1)
    if n < tblEntn d ∧ areaValid e then some e else none
  | 2 => prefixFind s die t d key
  | _ => none

/-- A lookup: the hit's selector and data, or the default area's (R84). -/
def tblLookup (s : State) (die : BitVec 1) (t : BitVec 6) (key : List Byte) : Lookup :=
  match tblFind s die t key with
  | some e => ⟨true, true, areaSel e, e.take 56⟩
  | none => let e := tblArea s (s.table die t) 0; ⟨true, false, areaSel e, e.take 56⟩

/-- A lookup that is not performed: it does not hit, and its data is free (log 121). -/
def noLookup (s : State) (j : Nat) : Lookup :=
  ⟨false, false, 0, (List.range 56).map fun i => Config.lookupByte (s.freeCount + 56 * j + i)⟩

/-! ### Stage entries (R106, R107) -/

def seEn (e : BitVec 320) : Bool := bit e 0
def seSeln (e : BitVec 320) : BitVec 6 := field e 1 6
def seCode (e : BitVec 320) : BitVec 12 := field e 8 12
def seLookup (e : BitVec 320) (j : Nat) : Bool := bit e (20 + j)
def seTable (e : BitVec 320) (j : Nat) : BitVec 6 := field e (64 + 64 * j) 6
def seKeyf (e : BitVec 320) (j : Nat) : BitVec 56 := field e (72 + 64 * j) 56

/-- The entry of a context at a stage. -/
def stageEntry (x : Pipe) (stage : Nat) (ctx : CtxId) : BitVec 320 := smGet 0 x.entries (stage * 64 + ctx.toNat)

/-- Cluster of the package that stage s of a pipeline lives in (R16). -/
def stageCluster (p : BitVec 3) (stage : Nat) : BitVec 4 := BitVec.ofNat 4 (8 * (p.toNat / 4) + stage / 2)

/-- Unit identifier of a stage (R14): pipeline in TILE, engine 0x20 + stage. -/
def stageUnit (p : BitVec 3) (stage : Nat) : BitVec 16 :=
  unitId (field p 2 1) (BitVec.ofNat 3 (stage / 2)) ((field p 0 2).setWidth 4) (BitVec.ofNat 8 (0x20 + stage))

/-- Context of a packet (R78). -/
def Packet.ctx (k : Packet) : CtxId := field (getF k.phv 2) 0 6

/-- Why a table may not be named by a context's code at a stage (R85, R107). -/
def tblForeign (d : BitVec 128) (ctx : CtxId) (clus : BitVec 4) : Bool := tblOwner d != ctx || tblCluster d != clus

/-- The lookups of a stage in order, on the header vector f at stage entry (R107); l0 is the classification lookup, which slot
0 of stage 0 holds (R106). -/
def stageLookups (s : State) (p : BitVec 3) (stage : Nat) (ctx : CtxId) (f : Phv) (l0 : Option Lookup) (e : BitVec 320) :
    List Nat → Except Cause (List Lookup)
  | [] => .ok []
  | j :: js =>
    if !seLookup e j || (stage == 0 && j == 0) then
      (stageLookups s p stage ctx f l0 e js).map fun r => (if j = 0 then l0.getD (noLookup s 0) else noLookup s j) :: r
    else
      let d := s.table (field p 2 1) (seTable e j)
      if tblForeign d ctx (stageCluster p stage) then .error .actOwner
      else if !tblEn d || tblKind d == 3 then .error .actKind
      else (stageLookups s p stage ctx f l0 e js).map fun r =>
        tblLookup s (field p 2 1) (seTable e j) (keyBytes f (seKeyf e j) (tblKeyw d)) :: r

/-- The action selector (R107). -/
def stageSelector (l : List Lookup) : BitVec 6 :=
  match l.find? fun x => x.enabled && x.hit with
  | some x => x.sel
  | none =>
    match l.find? fun x => x.enabled with
    | some x => x.sel
    | none => 0

/-! ### Drops and faults (R99) -/

/-- The oldest packet of a stage. -/
def packetAt (x : Pipe) (stage : Nat) : Option Packet := x.pkts.find? fun k => k.stage == stage

/-- A packet leaves its pipeline. -/
def removePacket (p : BitVec 3) (k : Packet) (s : State) : State :=
  s.modPipe p fun x => { x with pkts := x.pkts.erase k }

/-- A packet is dropped and counted at its ingress port. -/
def dropPacket (p : BitVec 3) (k : Packet) (c : Counter) (s : State) : State :=
  count k.frame.ref.port c (removePacket p k s)

/-- A packet is replaced in its place. -/
def replacePacket (p : BitVec 3) (old new : Packet) (s : State) : State :=
  s.modPipe p fun x => { x with pkts := (x.pkts.takeWhile fun k => k != old) ++ new ::
    (x.pkts.dropWhile fun k => k != old).drop 1 }

/-- A packet goes on to the next stage. -/
def nextStage (p : BitVec 3) (k : Packet) (s : State) : State := replacePacket p k { k with stage := k.stage + 1 } s

/-- Whether a cause is one of a cell operation (R38). -/
def isCellCause (c : Cause) : Bool := decide (0x60 ≤ (causeCode c).toNat ∧ (causeCode c).toNat ≤ 0x66)

/-- An action fault (R38, R99): F11 takes the stage's number, the packet is dropped as it leaves the stage, and the queue of
the die, for a cell cause that of the cell's die too, receives an entry of the stage. -/
def actionFault (p : BitVec 3) (k : Packet) (c : Cause) (cell : BitVec 16) (s : State) : State :=
  let die := field p 2 1
  let unit := stageUnit p k.stage
  let k1 := { k with phv := setF k.phv 11 (BitVec.ofNat 16 k.stage) }
  let s1 := dropPacket p k1 .drop (replacePacket p k k1 s)
  let entry := faultEntry (causeCode c) k.ctx 3 unit 0 (if isCellCause c then cell.setWidth 48 else 0) 0 s.timeNs
  let s2 := enterFault die entry s1
  if isCellCause c ∧ sgaDie (ctxCellBase (s.ctx k.ctx).desc) ≠ die then cellFaultEntry k.ctx cell c unit 0 s2 else s2

/-! ### The evaluation of a block (R111) -/

/-- An action fault met in evaluation ends the block (R112). -/
def StageRun.fail (r : StageRun) (c : Cause) : StageRun := { r with fault := some c, ended := true }

/-- An operation with its cost in cell operations and payload operations (R118). -/
def StageRun.push (r : StageRun) (cells pays : Nat) (o : StageOp) : StageRun :=
  if r.cellOps + cells > 2 ∨ r.pays + pays > 1 then r.fail .actLimit
  else { r with cellOps := r.cellOps + cells, pays := r.pays + pays, ops := r.ops ++ [o] }

/-- What an earlier `AC.ROUTE` of the block has still to choose, and a route that an earlier stage chose, no longer count. -/
def StageRun.unroute (r : StageRun) : StageRun :=
  { r with ops := r.ops.filter (fun o => match o with | .route _ => false | _ => true), route := none }

/-- F[d] of the working vector takes v; a write of F8 overrides an earlier route (R114). -/
def StageRun.put (r : StageRun) (d : BitVec 7) (v : BitVec 16) : StageRun :=
  { (if d = 8 then r.unroute else r) with wk := setF r.wk d v }

/-- F7.YT. -/
def phvYt (f : Phv) : Bool := bit (getF f 7) 1

/-- LEN of the header in the vector, F25[12:0]. -/
def phvLen (f : Phv) : Nat := (field (getF f 25) 0 13).toNat

/-- SRC, TC of the header in the vector (R104). -/
def phvSrc (f : Phv) : BitVec 10 := field (getF f 17) 0 4 ++ field (getF f 16) 10 6
def phvTc (f : Phv) : BitVec 3 := field (getF f 17) 4 3

/-! ### Checks of a commit (R85, R111, R115, R117, R119) -/

/-- Where a block commits: pipeline, packet, stage. -/
structure CommitAt where
  p : BitVec 3
  pkt : Packet
  deriving DecidableEq, Repr

def CommitAt.die (c : CommitAt) : BitVec 1 := field c.p 2 1
def CommitAt.clus (c : CommitAt) : BitVec 4 := stageCluster c.p c.pkt.stage
def CommitAt.unit (c : CommitAt) : BitVec 16 := stageUnit c.p c.pkt.stage

/-- SGA of cell i of a cell-array table. -/
def tblCellAt (d : BitVec 128) (i : BitVec 16) : Nat := tblBase d + tblCell d * i.toNat

/-- Whether every bank of an extent is owned by a context and no system bank (R85). -/
def banksOwned (s : State) (ctx : CtxId) (sga n : Nat) : Bool :=
  (extentBanks sga (Nat.max n 1)).all fun b => bankOwner (s.bank b) == ctx && !bankSys (s.bank b)

/-- The table checks of a cell array (R115, R119); n is the first byte of a cell that must not lie beyond it. -/
def arrayCheck (s : State) (c : CommitAt) (t : BitVec 6) (i : BitVec 16) (kindOk : BitVec 128 → Bool) : Option Cause :=
  let d := s.table c.die t
  if tblForeign d c.pkt.ctx c.clus then some .actOwner
  else if tblKind d != 3 || !tblEn d || !kindOk d then some .actKind
  else if i.toNat ≥ tblEntn d then some .actBound
  else none

/-- Fields of an expert buffer descriptor (R94). -/
def exOpen (d : BitVec 128) : Bool := bit d 0
def exFill (d : BitVec 128) : Nat := (field d 8 16).toNat
def exCap (d : BitVec 128) : Nat := (field d 24 16).toNat
def exCell (d : BitVec 128) : BitVec 16 := field d 40 16
def exBase (d : BitVec 128) : Nat := (field d 64 29).toNat
def exSlot (d : BitVec 128) : Nat := 64 * (field d 93 7).toNat

/-- The descriptor of an expert buffer. -/
def exRead (s : State) (c : CommitAt) (t : BitVec 6) (i : BitVec 16) : BitVec 128 :=
  BitVec.ofNat 128 (memReadLE s.sward (tblCellAt (s.table c.die t) i) 16)

/-- The check of a trigger cell that action code names (R85). -/
def cellCheck (s : State) (ctx : CtxId) (i : BitVec 16) : Option Cause :=
  match cellAddr s ctx i.toNat with
  | none => some .actBound
  | some a => if cellOwner (cellRead s a) ≠ ctx then some .actOwner else none

/-- The checks of an expert descriptor before an admission (R85, R119): its cell, then its slots, which are ACT_BOUND where they
leave the stage's cluster (DESIGN CHOICE, log 66). -/
def exCheck (s : State) (c : CommitAt) (d : BitVec 128) : Option Cause :=
  match cellCheck s c.pkt.ctx (exCell d) with
  | some f => some f
  | none =>
    let n := exSlot d * exCap d
    if sgaCluster (exBase d) ≠ c.clus ∨ (exBase d + n) > (exBase d / 2 ^ 25 + 1) * 2 ^ 25 then some .actBound
    else if !banksOwned s c.pkt.ctx (exBase d) n then some .actOwner
    else none

/-- The checks of one operation, in the order of its rule; none: it may be applied. The cell of an `AC.CLOSE`, which the expert's
entry names and no action word, meets R34 alone (DESIGN CHOICE, log 66). -/
def opCheck (s : State) (c : CommitAt) : StageOp → Option Cause
  | .stateful _ t i w v _ => arrayCheck s c t i fun d => decide (4 * w.toNat < tblCell d) && v != 127
  | .pay op t line len cell dlv arr =>
    let d := s.table c.die t
    let dst := tblBase d + 64 * line.toNat
    if tblForeign d c.pkt.ctx c.clus then some .actOwner
    else if tblKind d != 3 || !tblEn d then some .actKind
    else if dst + len > tblBase d + tblBanks d * 2 ^ 18 then some .actBound
    else if !banksOwned s c.pkt.ctx dst len then some .actOwner
    else if op ≠ 0 ∧ len % 4 ≠ 0 then some .actArg
    else if dlv || arr then cellCheck s c.pkt.ctx cell
    else none
  | .admitTok t i _ =>
    match arrayCheck s c t i fun d => tblCell d == 16 with
    | some e => some e
    | none => if !phvYt c.pkt.phv then some .actForm else exCheck s c (exRead s c t i)
  | .close t i => arrayCheck s c t i fun d => tblCell d == 16
  | .arrive cell _ _ => cellCheck s c.pkt.ctx cell
  | .expect cell _ => cellCheck s c.pkt.ctx cell
  | .route _ => none

/-- The cell operation that an operation applies at commit, if any (R116, R120). -/
def opCell (s : State) (c : CommitAt) : StageOp → Option (BitVec 16 × CellOp)
  | .arrive cell k link => if link then none else some (cell, .arrive k)
  | .expect cell n => some (cell, .expect n)
  | .close t i =>
    let d := exRead s c t i
    if exCap d > exFill d then some (exCell d, .arrive (exCap d - exFill d)) else none
  | _ => none

/-- The refusal of R34 that a cell operation meets, with the cell as it stands. -/
def cellRefusal (s : State) (ctx : CtxId) (i : BitVec 16) (op : CellOp) : Option Cause :=
  match (cellOp ctx i op s).fault with
  | some .cellIndex => some .cellIndex
  | some .cellOwner => some .cellOwner
  | some .cellBroken => some .cellBroken
  | some .cellSpent => some .cellSpent
  | _ => none

/-! ### Effects of a commit (R111, R115 to R120) -/

/-- A commit under way: the machine, the working vector, the payload operation, and whether it became a refusal. -/
structure Commit where
  st : State
  wk : Phv
  pay : Option PayOp
  refusal : Bool
  route : Option Bool

/-- Bytes of a payload from byte `src` of a frame; beyond the frame's end they are what the buffer holds (log 11). -/
def payBytes (s : State) (f : Frame) (src len : Nat) : List Byte :=
  (List.range len).map fun i =>
    if src + i < f.bytes.length then byteAt f.bytes (src + i) else Config.bufferByte (s.freeCount + i)

/-- The payload operation of a packet (R87, R117). An entry about a frame that is no YT frame takes TOKID from where a YT header
would have it (DESIGN CHOICE, log 129). -/
def mkPay (s : State) (c : CommitAt) (op : BitVec 2) (dst len : Nat) (cell : Option (BitVec 16)) (dlv : Bool)
    (arrives : List (BitVec 16 × Nat)) : PayOp :=
  let f := c.pkt.frame
  let h := ytHeader f.bytes
  { op := op, dst := dst, bytes := payBytes s f (getF c.pkt.phv 6).toNat len, ctx := c.pkt.ctx, cell := cell, dlv := dlv
    arrives := arrives, yt := f.yt, poison := f.yt && ytPoison h, e2e := ytE2e h, tokid := ytTokid h, ref := f.ref
    unit := c.unit, stage := c.pkt.stage }

/-- The egress that the routing table chooses for a chip at a commit (R114, R318); DEST 0x3FF where no hop is live, so that
R93 drops the packet. -/
def routeDest (s : State) (c : CommitAt) (chip src : BitVec 10) (tc : BitVec 3) : BitVec 10 × Option Bool :=
  match chooseRoute s c.p chip src tc c.pkt.frame.ref.port with
  | some (q, dl) => (q.setWidth 10, some dl)
  | none => (0x3FF, none)

/-- The refusal header of R97 and R119 in the vector. -/
def refusalPhv (s : State) (c : CommitAt) (reason : BitVec 16) (f : Phv) : Phv × Option Bool :=
  let src := phvSrc f
  let me := s.chipId
  let (dest, rt) := routeDest s c src me (phvTc f)
  let f1 := setF f 16 (field me 0 6 ++ src)
  let f2 := setF f1 17 ((0x41 : BitVec 9) ++ field (getF f 17) 4 3 ++ field me 6 4)
  let f3 := [18, 19, 20, 21, 23, 24].foldl (fun (g : Phv) i => setF g i 0) f2
  let f4 := setF (setF f3 22 reason) 25 0xE000
  (setF (setF f4 26 (putField (getF f4 26) 0 4 (0x7 : BitVec 4))) 8 (0x8000 ||| dest.setWidth 16), rt)

/-- `AC.ADMIT` at commit (R95, R119). -/
def admitOp (c : CommitAt) (t : BitVec 6) (i : BitVec 16) (len : Nat) (m : Commit) : Commit :=
  let s := m.st
  let d := exRead s c t i
  let refuse (reason : BitVec 16) (s : State) : Commit :=
    let (f, rt) := refusalPhv s c reason m.wk
    { m with st := s, wk := f, refusal := true, route := rt }
  if len > exSlot d then
    refuse 2 (enterFault c.die (faultEntry (causeCode .admitSize) c.pkt.ctx 3 c.unit 0 0 0 s.timeNs) s)
  else if !exOpen d then refuse 2 s
  else if exFill d ≥ exCap d then refuse 1 s
  else
    let d' := putField d 8 16 (BitVec.ofNat 16 (exFill d + 1))
    { m with
      st := { s with sward := memWriteLE s.sward (tblCellAt (s.table c.die t) i) 16 d'.toNat }
      wk := setF m.wk 9 1
      pay := some (mkPay s c 0 (exBase d + exSlot d * exFill d) len none false [(exCell d, 1)]) }

/-- Word `w` of a stateful cell: the operation of R115. -/
def statefulOp (c : CommitAt) (rmw : BitVec 2) (t : BitVec 6) (i : BitVec 16) (w : BitVec 3) (v : BitVec 7)
    (val : BitVec 32) (m : Commit) : Commit :=
  let a := tblCellAt (m.st.table c.die t) i + 4 * w.toNat
  let old : BitVec 32 := BitVec.ofNat 32 (memReadLE m.st.sward a 4)
  let new := if rmw = 0 then old else if rmw = 1 then val else old + val
  let st := if rmw = 0 then m.st else { m.st with sward := memWriteLE m.st.sward a 4 new.toNat }
  if rmw = 1 then { m with st := st }
  else
    { m with
      st := st, wk := setF (setF m.wk v (field old 0 16)) (v + 1) (field old 16 16)
      route := if v = 7 ∨ v = 8 then none else m.route }

/-- The arrives that a block links to its payload operation (R116). -/
def linkedArrives (ops : List StageOp) : List (BitVec 16 × Nat) :=
  ops.filterMap fun o => match o with
    | .arrive cell k true => some (cell, k)
    | _ => none

/-- One operation is applied; the cell fault that it raises, with its cell and the cell's operation. A payload operation's own
arrive comes before every linked one of the block (DESIGN CHOICE, log 147). -/
def applyOp (c : CommitAt) (ops : List StageOp) (m : Commit) (o : StageOp) : Except (Cause × BitVec 16 × CellOp) Commit :=
  let cellStep (m : Commit) (x : Option (BitVec 16 × CellOp)) : Except (Cause × BitVec 16 × CellOp) Commit :=
    match x with
    | none => .ok m
    | some (i, op) =>
      let r := cellOp c.pkt.ctx i op m.st
      match r.fault with
      | some f => .error (f, i, op)
      | none => .ok { m with st := r.st }
  match o with
  | .stateful rmw t i w v val => .ok (statefulOp c rmw t i w v val m)
  | .pay op t line len cell dlv arr =>
    let links := (if arr then [(cell, 1)] else []) ++ linkedArrives ops
    .ok { m with pay := some (mkPay m.st c op (tblBase (m.st.table c.die t) + 64 * line.toNat) len
                                (if dlv || arr then some cell else none) dlv links) }
  | .admitTok t i len => .ok (admitOp c t i len m)
  | .close t i =>
    let d := exRead m.st c t i
    let st := { m.st with sward := memWriteLE m.st.sward (tblCellAt (m.st.table c.die t) i) 16 (putField d 0 1 (0 : BitVec 1)).toNat }
    cellStep { m with st := st } (opCell m.st c o)
  | .route chip =>
    let (dest, rt) := routeDest m.st c chip (phvSrc m.wk) (phvTc m.wk)
    .ok { m with wk := setF m.wk 8 (putField (getF m.wk 8) 0 10 dest), route := rt }
  | o => cellStep m (opCell m.st c o)

/-- The operations are applied in order (R111). -/
def applyOps (c : CommitAt) (ops : List StageOp) (m : Commit) : Except (Cause × BitVec 16 × CellOp) Commit :=
  ops.foldlM (applyOp c ops) m

/-- A cell as R34 shows it after a raised fault of an operation, with no earlier operation of the commit applied (R112; log
77). -/
def faultedCell (f : Cause) (op : CellOp) (c : BitVec 256) : BitVec 256 :=
  let (c', g) := cellEffect op c
  if g = some f then c'
  else
    let c1 := match f with
      | .countUnderflow => putField c 0 32 (0 : BitVec 32)
      | .pendOverflow => putField c 64 48 (BitVec.ofNat 48 (2 ^ 47 - 1))
      | _ => c
    putField c1 119 1 (1 : BitVec 1)

/-- What a raised fault leaves of a commit: the one cell (R112). -/
def faultCell (ctx : CtxId) (i : BitVec 16) (f : Cause) (op : CellOp) (s : State) : State :=
  match cellAddr s ctx i.toNat with
  | some a => cellWrite s a (faultedCell f op (cellRead s a))
  | none => s

/-- Whether a cell cause is raised after the operation has changed its cell (R34). -/
def isRaised : Cause → Bool
  | .pendNegative => true | .countUnderflow => true | .pendOverflow => true | _ => false

/-- The commit of a block (R111, R112): reference checks in order, refusals of the cells as they stand, then effects in
order; the packet goes on to the next stage, or is dropped. -/
def commitRun (p : BitVec 3) (r : StageRun) (s0 : State) : State :=
  let s : State := { s0.modPipe p fun x => { x with run := none } with focus := .idle }
  let c : CommitAt := ⟨p, r.pkt⟩
  match r.fault with
  | some f => actionFault p r.pkt f 0 s
  | none =>
    if r.pays = 0 ∧ (linkedArrives r.ops) ≠ [] then actionFault p r.pkt .actArg 0 s
    else match r.ops.findSome? (opCheck s c) with
      | some f => actionFault p r.pkt f 0 s
      | none =>
        match r.ops.findSome? fun o => (opCell s c o).bind fun (i, op) => (cellRefusal s c.pkt.ctx i op).map fun f => (f, i) with
        | some (f, i) => actionFault p r.pkt f i s
        | none =>
          match applyOps c r.ops ⟨s, r.wk, none, false, r.route⟩ with
          | .error (f, i, op) => actionFault p r.pkt f i (if isRaised f then faultCell c.pkt.ctx i f op s else s)
          | .ok m =>
            let s1 := match m.pay with
              | some o => { m.st.modCluster c.clus fun x => { x with pay := x.pay ++ [o] } with
                              freeCount := m.st.freeCount + o.bytes.length }
              | none => m.st
            replacePacket p r.pkt
              { r.pkt with phv := m.wk, stage := r.pkt.stage + 1, route := m.route, refusal := r.pkt.refusal || m.refusal } s1

/-- What follows a word: the block's next word, or its commit (R111). -/
def afterWord (p : BitVec 3) (r : StageRun) (s : State) : State :=
  if r.ended ∨ r.n ≥ 16 ∨ r.i ≥ 16 then commitRun p r s else s.modPipe p fun x => { x with run := some r }

/-- An action word acts on the evaluation that has the focus. -/
def actionWord (f : StageRun → StageRun) (s : State) : Out :=
  slotDone (match s.focus with
    | .stage p =>
      match (s.pipe p).run with
      | some r => let r' := f r; afterWord p { r' with n := r'.n + 1, i := r'.i + 1 } s
      | none => s
    | _ => s)

/-- A field instruction writes F[d] of the working vector (R113). -/
def fieldWord (d : BitVec 7) (f : Phv → BitVec 16) (s : State) : Out :=
  actionWord (fun r => r.put d (f r.wk)) s

end Sys2Proof.Machine
end

