-- ==== Sys2Proof/Machine/Action.lean ====
section
/-! DEFINITION. The action words (R109, R113 to R120). -/

namespace Sys2Proof.Machine

/-! ### Field and control words (R113) -/

/-- `AC.NOP`. -/
def execAcNop (s : State) : Out := actionWord (fun r => r) s

/-- `AC.MOV`. -/
def execAcMov (d a : BitVec 7) (s : State) : Out := fieldWord d (fun f => getF f a) s

/-- `AC.ADD`. -/
def execAcAdd (d a b : BitVec 7) (sat : Bool) (s : State) : Out :=
  fieldWord d (fun f =>
    if sat then BitVec.ofInt 16 (satInt ((getF f a).toNat + (getF f b).toNat) 0 65535) else getF f a + getF f b) s

/-- `AC.SUB`. -/
def execAcSub (d a b : BitVec 7) (sat : Bool) (s : State) : Out :=
  fieldWord d (fun f =>
    if sat then BitVec.ofInt 16 (satInt ((getF f a).toNat - (getF f b).toNat : Int) 0 65535) else getF f a - getF f b) s

/-- `AC.AND`. -/
def execAcAnd (d a b : BitVec 7) (s : State) : Out := fieldWord d (fun f => getF f a &&& getF f b) s

/-- `AC.OR`. -/
def execAcOr (d a b : BitVec 7) (s : State) : Out := fieldWord d (fun f => getF f a ||| getF f b) s

/-- `AC.XOR`. -/
def execAcXor (d a b : BitVec 7) (s : State) : Out := fieldWord d (fun f => getF f a ^^^ getF f b) s

/-- `AC.SHL`. -/
def execAcShl (d a : BitVec 7) (w : BitVec 5) (s : State) : Out := fieldWord d (fun f => getF f a <<< w.toNat) s

/-- `AC.SHR`. -/
def execAcShr (d a : BitVec 7) (w : BitVec 5) (s : State) : Out := fieldWord d (fun f => getF f a >>> w.toNat) s

/-- `AC.MIN`. -/
def execAcMin (d a b : BitVec 7) (s : State) : Out :=
  fieldWord d (fun f => if (getF f a).toNat < (getF f b).toNat then getF f a else getF f b) s

/-- `AC.MAX`. -/
def execAcMax (d a b : BitVec 7) (s : State) : Out :=
  fieldWord d (fun f => if (getF f a).toNat < (getF f b).toNat then getF f b else getF f a) s

/-- `AC.SLT`. -/
def execAcSlt (d a b : BitVec 7) (s : State) : Out :=
  fieldWord d (fun f => if (getF f a).toNat < (getF f b).toNat then 1 else 0) s

/-- `AC.MOVI`. -/
def execAcMovi (d : BitVec 7) (imm : BitVec 12) (s : State) : Out := fieldWord d (fun _ => imm.setWidth 16) s

/-- `AC.ADDI`. -/
def execAcAddi (d a : BitVec 7) (imm : BitVec 12) (s : State) : Out :=
  fieldWord d (fun f => getF f a + imm.signExtend 16) s

/-- `AC.ANDI`. -/
def execAcAndi (d a : BitVec 7) (imm : BitVec 12) (s : State) : Out :=
  fieldWord d (fun f => getF f a &&& imm.setWidth 16) s

/-- `AC.ORI`. -/
def execAcOri (d a : BitVec 7) (imm : BitVec 12) (s : State) : Out :=
  fieldWord d (fun f => getF f a ||| imm.setWidth 16) s

/-- `AC.MOVH`. -/
def execAcMovh (d : BitVec 7) (imm : BitVec 4) (s : State) : Out :=
  fieldWord d (fun f => (getF f d &&& 0x0FFF) ||| (imm.setWidth 16 <<< 12)) s

/-- `AC.SEQI`. -/
def execAcSeqi (d a : BitVec 7) (imm : BitVec 12) (s : State) : Out :=
  fieldWord d (fun f => if getF f a = imm.setWidth 16 then 1 else 0) s

/-- `AC.SKIPZ`. -/
def execAcSkipz (a : BitVec 7) (n : BitVec 4) (s : State) : Out :=
  actionWord (fun r => if getF r.wk a = 0 then { r with i := r.i + n.toNat } else r) s

/-- `AC.SKIPNZ`. -/
def execAcSkipnz (a : BitVec 7) (n : BitVec 4) (s : State) : Out :=
  actionWord (fun r => if getF r.wk a ≠ 0 then { r with i := r.i + n.toNat } else r) s

/-- `AC.DONE`. -/
def execAcDone (s : State) : Out := actionWord (fun r => { r with ended := true }) s

/-- n fields from d on take little-endian 16-bit words of action data from byte `off` on. -/
def loadData (data : List Byte) (d off n : Nat) (r : StageRun) : StageRun :=
  (List.range n).foldl (fun (r : StageRun) i => r.put (BitVec.ofNat 7 (d + i)) (frameWord data (off + 2 * i) true)) r

/-- `AC.LDD`. -/
def execAcLdd (d : BitVec 7) (off : BitVec 6) (j : BitVec 2) (nm1 : BitVec 4) (s : State) : Out :=
  actionWord (fun r =>
    if d.toNat + nm1.toNat > 127 then r.fail .actArg
    else loadData (r.lookups[j.toNat]'j.isLt).data d.toNat off.toNat (nm1.toNat + 1) r) s

/-- `AC.HIT`; for slot 0 of stage 0 the classification's hit (DESIGN CHOICE, log 121). -/
def execAcHit (d : BitVec 7) (j : BitVec 2) (s : State) : Out :=
  actionWord (fun r => r.put d (b2v 16 (r.lookups[j.toNat]'j.isLt).hit)) s

/-! ### Forwarding (R114) -/

/-- `AC.FWD`. -/
def execAcFwd (a : BitVec 7) (s : State) : Out :=
  actionWord (fun r => r.put 8 (0x8000 ||| (getF r.wk a &&& 0x3FF))) s

/-- `AC.MCAST`. -/
def execAcMcast (a : BitVec 7) (s : State) : Out :=
  actionWord (fun r => r.put 8 (0xC000 ||| (getF r.wk a &&& 0x3FF))) s

/-- `AC.DROP`: the other fields of F8, an egress that `AC.ROUTE` has still to choose among them, stay. -/
def execAcDrop (s : State) : Out :=
  actionWord (fun r => { r with wk := setF r.wk 8 (getF r.wk 8 &&& 0x7FFF) }) s

/-- `AC.ROUTE`: FWD and MC at once, DEST at the packet's commit; ACT_FORM at the word itself (R111, R114; logs 73, 148). -/
def execAcRoute (a : BitVec 7) (s : State) : Out :=
  let me := s.chipId
  actionWord (fun r =>
    if !phvYt r.wk then r.fail .actForm
    else
      let c := field (getF r.wk a) 0 10
      let f := setF r.wk 16 (putField (getF r.wk 16) 0 10 c)
      if c = me then { r with wk := setF f 8 (getF f 8 &&& 0x7FFF) }
      else
        let r' := r.unroute
        { r' with wk := setF f 8 (0x8000 ||| (getF f 8 &&& 0x3FF)), ops := r'.ops ++ [.route c] }) s

/-! ### Stateful cells (R115) -/

/-- The pair that F[v] and F[v+1] hold. -/
def pairValue (f : Phv) (v : BitVec 7) : BitVec 32 := if v = 127 then 0 else getF f (v + 1) ++ getF f v

/-- A stateful operation: read 0, write 1, add 2. -/
def statefulWord (rmw : BitVec 2) (x : BitVec 7) (t : BitVec 6) (v : BitVec 7) (w : BitVec 3) (s : State) : Out :=
  actionWord (fun r => r.push 1 0 (.stateful rmw t (getF r.wk x) w v (pairValue r.wk v))) s

/-- `AC.SRD`. -/
def execAcSrd (x : BitVec 7) (t : BitVec 6) (v : BitVec 7) (word : BitVec 3) (s : State) : Out := statefulWord 0 x t v word s

/-- `AC.SWR`. -/
def execAcSwr (x : BitVec 7) (t : BitVec 6) (v : BitVec 7) (word : BitVec 3) (s : State) : Out := statefulWord 1 x t v word s

/-- `AC.SADD`. -/
def execAcSadd (x : BitVec 7) (t : BitVec 6) (v : BitVec 7) (word : BitVec 3) (s : State) : Out := statefulWord 2 x t v word s

/-! ### Trigger cells (R116) -/

/-- `AC.ARRIVE`. -/
def execAcArrive (d a : BitVec 7) (link one : Bool) (s : State) : Out :=
  actionWord (fun r =>
    let k := if one then 1 else (getF r.wk a).toNat
    if k = 0 then r.fail .actArg else r.push 1 0 (.arrive (getF r.wk d) k link)) s

/-- `AC.EXPECT`. -/
def execAcExpect (d a : BitVec 7) (s : State) : Out :=
  actionWord (fun r => r.push 1 0 (.expect (getF r.wk d) (getF r.wk a).toNat)) s

/-! ### Payload (R117) -/

/-- A payload operation with its source length; ABS is set at once. -/
def payWord (op : BitVec 2) (x : BitVec 7) (t : BitVec 6) (v : BitVec 7) (dlv arr : Bool) (s : State) : Out :=
  actionWord (fun r =>
    let f := r.wk
    if !phvYt f ∧ (getF f 6).toNat > (getF f 1).toNat then r.fail .actArg
    else
      let len := if phvYt f then phvLen f else (getF f 1).toNat - (getF f 6).toNat
      let r1 := r.push (b2n (dlv || arr)) 1 (.pay op t (getF f x) len (getF f v) dlv arr)
      if r1.fault.isSome then r1 else { r1 with wk := setF f 9 1 }) s

/-- `AC.PAY.WRITE`. -/
def execAcPayWrite (x : BitVec 7) (t : BitVec 6) (v : BitVec 7) (dlv arr : Bool) (s : State) : Out := payWord 0 x t v dlv arr s

/-- `AC.PAY.ADDW`. -/
def execAcPayAddw (x : BitVec 7) (t : BitVec 6) (v : BitVec 7) (dlv arr : Bool) (s : State) : Out := payWord 1 x t v dlv arr s

/-- `AC.PAY.ADDS`. -/
def execAcPayAdds (x : BitVec 7) (t : BitVec 6) (v : BitVec 7) (dlv arr : Bool) (s : State) : Out := payWord 2 x t v dlv arr s

/-- `AC.PAY.ADDF`. -/
def execAcPayAddf (x : BitVec 7) (t : BitVec 6) (v : BitVec 7) (dlv arr : Bool) (s : State) : Out := payWord 3 x t v dlv arr s

/-! ### Admission (R119, R120) -/

/-- `AC.ADMIT`. -/
def execAcAdmit (x : BitVec 7) (t : BitVec 6) (s : State) : Out :=
  actionWord (fun r => r.push 2 1 (.admitTok t (getF r.wk x) (phvLen r.wk))) s

/-- `AC.CLOSE`. -/
def execAcClose (x : BitVec 7) (t : BitVec 6) (s : State) : Out :=
  actionWord (fun r => r.push 2 0 (.close t (getF r.wk x))) s

end Sys2Proof.Machine
end

