-- ==== Sys2Proof/Machine/Float.lean ====
section
/-! DEFINITION. Floating-point formats, the single rounding of an exact value, flags, arithmetic and conversions
(R40 to R46, R198 to R200). Exact values are integers times a power of two, or ratios of naturals. -/

namespace Sys2Proof.Machine

/-- Flags as YFFLAGS lays them out (R43). -/
abbrev Flags := Word

def flagNV : Flags := 0x1
def flagDZ : Flags := 0x2
def flagOF : Flags := 0x4
def flagUF : Flags := 0x8
def flagNX : Flags := 0x10
def flagQS : Flags := 0x100

/-- c gives flag f, else none. -/
def flagIf (c : Bool) (f : Flags) : Flags := if c then f else 0

/-- A floating format (R40): widths of exponent and fraction, bias, and whether an all-ones exponent is kept for
infinities and NaNs (all but E4M3). -/
structure FloatFmt where
  eb : Nat
  fb : Nat
  bias : Nat
  ieee : Bool
  deriving DecidableEq, Repr

def fmtF32 : FloatFmt := ⟨8, 23, 127, true⟩
def fmtBF16 : FloatFmt := ⟨8, 7, 127, true⟩
def fmtFP16 : FloatFmt := ⟨5, 10, 15, true⟩
def fmtE5M2 : FloatFmt := ⟨5, 2, 15, true⟩
def fmtE4M3 : FloatFmt := ⟨4, 3, 7, false⟩

/-- What an encoding stands for: a NaN (signalling or not), an infinity, or sign and m · 2^e. -/
inductive FVal where
  | nan (signalling : Bool)
  | inf (neg : Bool)
  | fin (neg : Bool) (m : Nat) (e : Int)
  deriving DecidableEq, Repr

/-- The value of an encoding (R40, R42). -/
def decodeFloat (f : FloatFmt) (x : Nat) : FVal :=
  let neg := decide (x / 2 ^ (f.eb + f.fb) % 2 = 1)
  let ex := x / 2 ^ f.fb % 2 ^ f.eb
  let fr := x % 2 ^ f.fb
  if f.ieee && ex == 2 ^ f.eb - 1 then
    if fr = 0 then .inf neg else .nan (decide (f.fb ≠ 2 ∧ fr < 2 ^ (f.fb - 1)))
  else if !f.ieee && ex == 2 ^ f.eb - 1 && fr == 2 ^ f.fb - 1 then .nan false
  else if ex = 0 then .fin neg fr (1 - (f.bias : Int) - f.fb)
  else .fin neg (2 ^ f.fb + fr) ((ex : Int) - f.bias - f.fb)

/-- The canonical NaN of R40. -/
def canonNaN (f : FloatFmt) : Nat :=
  if f.ieee then (2 ^ f.eb - 1) * 2 ^ f.fb + (if f.fb = 2 then 2 else 2 ^ (f.fb - 1)) else 2 ^ (f.eb + f.fb) - 1

def signBit (f : FloatFmt) (neg : Bool) : Nat := if neg then 2 ^ (f.eb + f.fb) else 0

/-- The encoding of an infinity of an IEEE format. -/
def infBits (f : FloatFmt) (neg : Bool) : Nat := signBit f neg + (2 ^ f.eb - 1) * 2 ^ f.fb

/-- The encoding of the largest finite value. -/
def maxFinite (f : FloatFmt) : Nat :=
  if f.ieee then (2 ^ f.eb - 1) * 2 ^ f.fb - 1 else 2 ^ (f.eb + f.fb) - 2

/-- Whether the magnitude q + r/d (0 ≤ r < d) is rounded up to q + 1 under mode m for a value of sign neg (R41). -/
def roundsUp (m : RMode) (neg : Bool) (q r d : Nat) : Bool :=
  match m with
  | .rne => decide (2 * r > d) || (decide (2 * r = d) && decide (q % 2 = 1))
  | .rz => false
  | .rd => neg && decide (r ≠ 0)
  | .ru => !neg && decide (r ≠ 0)

/-- n/d in units of 2^u, rounded to an integer: the integer and whether it is exact. -/
def roundUnit (m : RMode) (neg : Bool) (n d : Nat) (u : Int) : Nat × Bool :=
  let n' := if u < 0 then n * 2 ^ u.natAbs else n
  let d' := if u < 0 then d else d * 2 ^ u.natAbs
  let q := n' / d'
  let r := n' % d'
  (if roundsUp m neg q r d' then q + 1 else q, decide (r = 0))

/-- floor of log2 of the positive ratio n/d. -/
def ratLog2 (n d : Nat) : Int :=
  let e : Int := (Nat.log2 n : Int) - Nat.log2 d
  let ge := if e < 0 then decide (n * 2 ^ e.natAbs ≥ d) else decide (n ≥ d * 2 ^ e.natAbs)
  if ge then e else e - 1

/-- The result and flags of an overflow (R43, R46). -/
def overflowResult (f : FloatFmt) (m : RMode) (neg : Bool) : Nat × Flags :=
  let toMax := !f.ieee || (match m with | .rne => false | .rz => true | .rd => !neg | .ru => neg)
  (if toMax then signBit f neg + maxFinite f else infBits f neg, flagOF ||| flagNX)

/-- The ratio n/d (both positive) with a sign, rounded once to format f under mode m (R41, R43). -/
def roundRat (f : FloatFmt) (m : RMode) (neg : Bool) (n d : Nat) : Nat × Flags :=
  let emin : Int := 1 - f.bias
  let e := ratLog2 n d
  let (sU, exU) := roundUnit m neg n d (e - f.fb)
  let eU := if sU = 2 ^ (f.fb + 1) then e + 1 else e
  let mU := if sU = 2 ^ (f.fb + 1) then 2 ^ f.fb else sU
  if eU < emin then
    let (sD, exD) := roundUnit m neg n d (emin - f.fb)
    (signBit f neg + sD, if exD then 0 else flagUF ||| flagNX)
  else if e < emin then
    let (sD, exD) := roundUnit m neg n d (emin - f.fb)
    (signBit f neg + sD, flagIf (!exD) flagNX)
  else
    let enc := (eU + f.bias).toNat * 2 ^ f.fb + (mU - 2 ^ f.fb)
    if enc > maxFinite f then overflowResult f m neg
    else (signBit f neg + enc, flagIf (!exU) flagNX)

/-- v · 2^e rounded once; an exact zero takes the sign `zneg`. -/
def roundDyadic (f : FloatFmt) (m : RMode) (zneg : Bool) (v : Int) (e : Int) : Nat × Flags :=
  if v = 0 then (signBit f zneg, 0)
  else if e < 0 then roundRat f m (decide (v < 0)) v.natAbs (2 ^ e.natAbs)
  else roundRat f m (decide (v < 0)) (v.natAbs * 2 ^ e.natAbs) 1

/-- The signed integer of a sign and a magnitude. -/
def signed (neg : Bool) (m : Nat) : Int := if neg then -(m : Int) else m

/-- A NaN result with NV when the condition holds. -/
def nanResult (f : FloatFmt) (invalid : Bool) : Nat × Flags := (canonNaN f, flagIf invalid flagNV)

def isSNaN : FVal → Bool
  | .nan s => s
  | _ => false

/-- Sign of an exact zero sum of operands of signs a and b (IEEE 754, 6.3). -/
def zeroSumNeg (m : RMode) (a b : Bool) : Bool := if a = b then a else decide (m = .rd)

/-- Exact sum of two finite values, rounded once. -/
def addFin (f : FloatFmt) (m : RMode) (na : Bool) (ma : Nat) (ea : Int) (nb : Bool) (mb : Nat) (eb : Int) :
    Nat × Flags :=
  let e := if ea ≤ eb then ea else eb
  roundDyadic f m (zeroSumNeg m na nb)
    (signed na ma * 2 ^ (ea - e).natAbs + signed nb mb * 2 ^ (eb - e).natAbs) e

/-- x + y rounded once (R41, R42). -/
def fAdd (f : FloatFmt) (m : RMode) (x y : FVal) : Nat × Flags :=
  match x, y with
  | .nan s, y => nanResult f (s || isSNaN y)
  | _, .nan s => nanResult f s
  | .inf a, .inf b => if a = b then (infBits f a, 0) else nanResult f true
  | .inf a, .fin .. => (infBits f a, 0)
  | .fin .., .inf b => (infBits f b, 0)
  | .fin na ma ea, .fin nb mb eb => addFin f m na ma ea nb mb eb

def negF : FVal → FVal
  | .nan s => .nan s
  | .inf n => .inf (!n)
  | .fin n m e => .fin (!n) m e

/-- x · y rounded once. -/
def fMul (f : FloatFmt) (m : RMode) (x y : FVal) : Nat × Flags :=
  match x, y with
  | .nan s, y => nanResult f (s || isSNaN y)
  | _, .nan s => nanResult f s
  | .inf a, .inf b => (infBits f (a != b), 0)
  | .inf a, .fin b mb _ => if mb = 0 then nanResult f true else (infBits f (a != b), 0)
  | .fin a ma _, .inf b => if ma = 0 then nanResult f true else (infBits f (a != b), 0)
  | .fin a ma ea, .fin b mb eb => roundDyadic f m (a != b) (signed (a != b) (ma * mb)) (ea + eb)

/-- x · y + z, formed exactly and rounded once (R41). A zero times an infinity is invalid (R42) whatever z is, a quiet
NaN included (log 18). -/
def fFma (f : FloatFmt) (m : RMode) (x y z : FVal) : Nat × Flags :=
  let zeroInf := match x, y with
    | .inf _, .fin _ mb _ => mb == 0
    | .fin _ ma _, .inf _ => ma == 0
    | _, _ => false
  if zeroInf then nanResult f true
  else match x, y, z with
  | .nan s, y, z => nanResult f (s || isSNaN y || isSNaN z)
  | _, .nan s, z => nanResult f (s || isSNaN z)
  | _, _, .nan s => nanResult f s
  | .fin a ma ea, .fin b mb eb, .fin c mc ec => addFin f m (a != b) (ma * mb) (ea + eb) c mc ec
  | .fin .., .fin .., .inf c => (infBits f c, 0)
  | .inf a, .inf b, .inf c => if (a != b) = c then (infBits f c, 0) else nanResult f true
  | .inf a, .inf b, .fin .. => (infBits f (a != b), 0)
  | .inf a, .fin b _ _, .inf c => if (a != b) = c then (infBits f c, 0) else nanResult f true
  | .fin a _ _, .inf b, .inf c => if (a != b) = c then (infBits f c, 0) else nanResult f true
  | .inf a, .fin b _ _, .fin .. => (infBits f (a != b), 0)
  | .fin a _ _, .inf b, .fin .. => (infBits f (a != b), 0)

/-- x / y rounded once; a finite non-zero value over zero raises DZ (R42). -/
def fDiv (f : FloatFmt) (m : RMode) (x y : FVal) : Nat × Flags :=
  match x, y with
  | .nan s, y => nanResult f (s || isSNaN y)
  | _, .nan s => nanResult f s
  | .inf _, .inf _ => nanResult f true
  | .inf a, .fin b _ _ => (infBits f (a != b), 0)
  | .fin a _ _, .inf b => (signBit f (a != b), 0)
  | .fin a ma ea, .fin b mb eb =>
    if mb = 0 then (if ma = 0 then nanResult f true else (infBits f (a != b), flagDZ))
    else if ma = 0 then (signBit f (a != b), 0)
    else if ea < eb then roundRat f m (a != b) ma (mb * 2 ^ (ea - eb).natAbs)
    else roundRat f m (a != b) (ma * 2 ^ (ea - eb).natAbs) mb

/-- m · 2^e as m' · 2^(2k): the even scaling that a square root starts from. -/
def evenScale (m : Nat) (e : Int) : Nat × Int := if e % 2 = 0 then (m, e / 2) else (2 * m, (e - 1) / 2)

/-- Square root rounded once: −0 is kept, a negative operand is invalid (R198). -/
def fSqrt (f : FloatFmt) (m : RMode) (x : FVal) : Nat × Flags :=
  match x with
  | .nan s => nanResult f s
  | .inf n => if n then nanResult f true else (infBits f false, 0)
  | .fin n mx ex =>
    if mx = 0 then (signBit f n, 0)
    else if n then nanResult f true
    else
      let (m', k) := evenScale mx ex
      let s := isqrt (m' * 2 ^ 80)
      let sticky := b2n (decide (s * s ≠ m' * 2 ^ 80))
      roundDyadic f m false ((2 * s + sticky : Nat) : Int) (k - 41)

/-- Three-way comparison of two finite values or infinities; none when an operand is a NaN. Zeros of either sign are
equal. -/
def fCompare (x y : FVal) : Option Ordering :=
  match x, y with
  | .nan _, _ => none
  | _, .nan _ => none
  | .inf a, .inf b => some (if a = b then .eq else if a then .lt else .gt)
  | .inf a, .fin .. => some (if a then .lt else .gt)
  | .fin .., .inf b => some (if b then .gt else .lt)
  | .fin na ma ea, .fin nb mb eb =>
    let e := if ea ≤ eb then ea else eb
    some (compare (signed na ma * 2 ^ (ea - e).natAbs) (signed nb mb * 2 ^ (eb - e).natAbs))

/-- The three float relations of the compares. -/
inductive FRel where
  | eq | lt | le
  deriving DecidableEq, Repr

/-- A float compare: its truth and NV (R199): EQ raises NV for a signalling NaN, LT and LE for any NaN. -/
def fRelate (r : FRel) (x y : FVal) : Bool × Flags :=
  match fCompare x y with
  | none => (false, flagIf (match r with | .eq => isSNaN x || isSNaN y | _ => true) flagNV)
  | some o => (match r with
    | .eq => decide (o = .eq)
    | .lt => decide (o = .lt)
    | .le => decide (o ≠ .gt), 0)

def isNegF : FVal → Bool
  | .fin n _ _ => n
  | .inf n => n
  | .nan _ => false

def isNaNF : FVal → Bool
  | .nan _ => true
  | _ => false

/-- Whether x orders below y for minimumNumber: −0 below +0 (R199). -/
def fBelow (x y : FVal) : Bool :=
  match fCompare x y with
  | some .lt => true
  | some .eq => isNegF x && !isNegF y
  | _ => false

/-- minimumNumber (or maximumNumber when `wantMax`) of encodings x and y (R199). -/
def fMinMax (f : FloatFmt) (wantMax : Bool) (x y : Nat) : Nat × Flags :=
  let vx := decodeFloat f x
  let vy := decodeFloat f y
  let fl := flagIf (isSNaN vx || isSNaN vy) flagNV
  if isNaNF vx && isNaNF vy then (canonNaN f, fl)
  else if isNaNF vx then (y, fl)
  else if isNaNF vy then (x, fl)
  else if wantMax then (if fBelow vx vy then y else x, fl)
  else (if fBelow vy vx then y else x, fl)

/-- An encoding of one format converted to another under mode m (R46). -/
def fConvert (src dst : FloatFmt) (m : RMode) (x : Nat) : Nat × Flags :=
  match decodeFloat src x with
  | .nan s => nanResult dst s
  | .inf n => if dst.ieee then (infBits dst n, 0) else overflowResult dst m n
  | .fin n mx ex => if mx = 0 then (signBit dst n, 0) else roundDyadic dst m n (signed n mx) ex

/-- A float rounded to an integer under mode m and clamped to lo .. hi: NV on NaN or clamping, NX if inexact and not
clamped (R46). -/
def fToInt (m : RMode) (lo hi : Int) (x : FVal) : Int × Flags :=
  match x with
  | .nan _ => (0, flagNV)
  | .inf n => (if n then lo else hi, flagNV)
  | .fin n mx ex =>
    let (q, ex') := if ex < 0 then roundUnit m n mx (2 ^ ex.natAbs) 0 else (mx * 2 ^ ex.natAbs, true)
    let v := signed n q
    if v < lo then (lo, flagNV) else if v > hi then (hi, flagNV) else (v, flagIf (!ex') flagNX)

/-- An integer rounded to format f under mode m (R46). -/
def intToF (f : FloatFmt) (m : RMode) (v : Int) : Nat × Flags := roundDyadic f m false v 0

/-- F32 value of 32 bits. -/
def f32 (x : BitVec 32) : FVal := decodeFloat fmtF32 x.toNat

/-- BF16 value of 16 bits. -/
def bf16 (x : BitVec 16) : FVal := decodeFloat fmtBF16 x.toNat

/-- A result of a float operation in w bits. -/
def fBits (w : Nat) (r : Nat × Flags) : BitVec w × Flags := (BitVec.ofNat w r.1, r.2)

/-- The two-step rounding of a BF16 half: binary32 first, then BF16, flags ORed (R45). -/
def toBF16 (m : RMode) (r : Nat × Flags) : BitVec 16 × Flags :=
  let (y, fl) := fConvert fmtF32 fmtBF16 m r.1
  (BitVec.ofNat 16 y, r.2 ||| fl)

/-- An F32 encoding added with rne32 (R61, R62): the value alone. -/
def addRne32 (x y : BitVec 32) : BitVec 32 := BitVec.ofNat 32 (fAdd fmtF32 .rne (f32 x) (f32 y)).1

end Sys2Proof.Machine
end

