-- ==== Sys2Proof/Machine/Special.lean ====
section
/-! DEFINITION. The special functions of R225 and R226. Each is the mathematical function rounded once: VRCP and VRSQ are formed
exactly; the others are computed within 2^−280 and then rounded, which is the rounding of the exact value, since none of their
binary32 arguments has a value so near to a rounding boundary (DEDUCED, log 136). -/

namespace Sys2Proof.Machine

/-- Fractional bits of the fixed-point enclosures. -/
def fxBits : Nat := 320

/-- One in fixed point. -/
def fxOne : Nat := 2 ^ fxBits

/-- sum over k < n of 1/((2k+1) · x^(2k+1)) with alternating signs when `alt`, in fixed point: terms are truncated, so
the sum is within n+1 units of the series' partial sum. -/
def atanSeries (alt : Bool) (x : Nat) : Nat → Nat → Nat → Int → Int
  | 0, _, _, acc => acc
  | n + 1, k, p, acc =>
    atanSeries alt x n (k + 1) (p / (x * x))
      (if alt && k % 2 == 1 then acc - (p / (2 * k + 1) : Nat) else acc + (p / (2 * k + 1) : Nat))

/-- Lower bound of π in fixed point (Machin's formula); the true value lies within 2^20 units above it. -/
def fxPi : Nat :=
  (4 * (4 * atanSeries true 5 160 0 (fxOne / 5) 0 - atanSeries true 239 160 0 (fxOne / 239) 0) - 2 ^ 12).toNat

/-- Lower bound of ln 2 in fixed point (2 artanh 1/3); the true value lies within 2^20 units above it. -/
def fxLn2 : Nat := (2 * atanSeries false 3 120 0 (fxOne / 3) 0 - 2 ^ 12).toNat

/-- sum over k < n of t^k/k! in fixed point, truncated terms. -/
def expSeries (t : Nat) : Nat → Nat → Nat → Nat → Nat
  | 0, _, _, acc => acc
  | n + 1, k, p, acc => expSeries t n (k + 1) (p * t / (fxOne * (k + 1))) (acc + p)

/-- Lower bound of e^(t/2^320) for 0 ≤ t ≤ 2^320, in fixed point; the true value lies within 2^20 units above it for
the t it was computed from. -/
def fxExp (t : Nat) : Nat := expSeries t 100 0 fxOne 0 - 2 ^ 12

/-- x · 2^320 for a dyadic m · 2^e, rounded down. -/
def fxOf (m : Nat) (e : Int) : Nat :=
  if e + fxBits < 0 then m / 2 ^ (e + fxBits).natAbs else m * 2 ^ (e + fxBits).natAbs

/-- The rounding of the irrational value near v · 2^sh. -/
def roundNear (neg : Bool) (v : Nat) (sh : Int) : Nat × Flags :=
  roundDyadic fmtF32 .rne neg (signed neg (2 * v + 1)) (sh - 1)

/-- 2^x for finite x = ±m · 2^e that is no integer. -/
def exp2Fin (neg : Bool) (m : Nat) (e : Int) : Nat × Flags :=
  let n := m / 2 ^ e.natAbs
  let fr := fxOf (m % 2 ^ e.natAbs) e
  let ip : Int := if neg then -(n : Int) - 1 else n
  let f' := if neg then fxOne - fr else fr
  let y := fxExp (f' * fxLn2 / fxOne)
  roundNear false y (ip - fxBits)

/-- `VEXP2` of an F32 encoding. -/
def vexp2 (x : FVal) : Nat × Flags :=
  match x with
  | .nan s => nanResult fmtF32 s
  | .inf n => (if n then 0 else infBits fmtF32 false, 0)
  | .fin n m e =>
    if m = 0 then roundDyadic fmtF32 .rne false 1 0
    else if e ≥ 0 ∨ m % 2 ^ e.natAbs = 0 then
      let k := if e ≥ 0 then m * 2 ^ e.natAbs else m / 2 ^ e.natAbs
      if k ≥ 1024 then
        if n then (0, flagUF ||| flagNX) else overflowResult fmtF32 .rne false
      else roundDyadic fmtF32 .rne false 1 (signed n k)
    else if m / 2 ^ e.natAbs ≥ 1024 then
      if n then (0, flagUF ||| flagNX) else overflowResult fmtF32 .rne false
    else exp2Fin n m e

/-- ln of m · 2^e near one (m · 2^e in [2/3, 4/3]) in fixed point with its sign: 2 artanh((x−1)/(x+1)). -/
def fxLn (num den : Nat) : Bool × Nat :=
  let neg := decide (num < den)
  let d := if neg then den - num else num - den
  let z := d * fxOne / (num + den)
  let zz := z * z / fxOne
  let rec go : Nat → Nat → Nat → Nat → Nat
    | 0, _, _, acc => acc
    | n + 1, k, p, acc => go n (k + 1) (p * zz / fxOne) (acc + p / (2 * k + 1))
  (neg, 2 * go 110 0 z 0)

/-- `VLOG2` of an F32 encoding: x = 2^k · r with r in [2/3, 4/3]. -/
def vlog2 (x : FVal) : Nat × Flags :=
  match x with
  | .nan s => nanResult fmtF32 s
  | .inf n => if n then nanResult fmtF32 true else (infBits fmtF32 false, 0)
  | .fin n m e =>
    if m = 0 then (infBits fmtF32 true, flagDZ)
    else if n then nanResult fmtF32 true
    else
      let l := Nat.log2 m
      if m = 2 ^ l then roundDyadic fmtF32 .rne false (e + l) 0
      else
        let up := decide (3 * m > 4 * 2 ^ l)
        let k : Int := e + l + (if up then 1 else 0)
        let den := if up then 2 ^ (l + 1) else 2 ^ l
        let (rneg, lnr) := fxLn m den
        let lg := lnr * fxOne / fxLn2
        let tot : Int := k * fxOne + signed rneg lg
        roundNear (decide (tot < 0)) tot.natAbs (-(fxBits : Int))

/-- `VRCP` of an F32 encoding. -/
def vrcp (x : FVal) : Nat × Flags :=
  match x with
  | .nan s => nanResult fmtF32 s
  | .inf n => (signBit fmtF32 n, 0)
  | .fin n m e =>
    if m = 0 then (infBits fmtF32 n, flagDZ)
    else if e < 0 then roundRat fmtF32 .rne n (2 ^ e.natAbs) m
    else roundRat fmtF32 .rne n 1 (m * 2 ^ e.natAbs)

/-- `VRSQ` of an F32 encoding. -/
def vrsq (x : FVal) : Nat × Flags :=
  match x with
  | .nan s => nanResult fmtF32 s
  | .inf n => if n then nanResult fmtF32 true else (0, 0)
  | .fin n m e =>
    if m = 0 then (infBits fmtF32 n, flagDZ)
    else if n then nanResult fmtF32 true
    else
      let (m', k) := evenScale m e
      let s := isqrt (2 ^ 200 / m')
      let exact := decide (s * s * m' = 2 ^ 200)
      roundDyadic fmtF32 .rne false ((2 * s + b2n (!exact) : Nat) : Int) (-101 - k)

/-- `VTANH` of an F32 encoding: the values of small arguments x lie between x(1−x²) and x(1−x²/4), just below x in magnitude;
those of large ones within 2^−100 of ±1. -/
def vtanh (x : FVal) : Nat × Flags :=
  match x with
  | .nan s => nanResult fmtF32 s
  | .inf n => roundDyadic fmtF32 .rne n (signed n 1) 0
  | .fin n m e =>
    if m = 0 then (signBit fmtF32 n, 0)
    else
      let top : Int := (Nat.log2 m : Int) + e
      if top < -60 then
        roundDyadic fmtF32 .rne n (signed n (m * 2 ^ 400 - 1)) (e - 400)
      else if top ≥ 6 then roundDyadic fmtF32 .rne n (signed n (2 ^ 100 - 1)) (-100)
      else
        let y := 2 * fxOf m e
        let k := y / fxLn2
        let r := y - k * fxLn2
        let ex := fxExp r * 2 ^ k
        let t := (ex - fxOne) * fxOne / (ex + fxOne)
        roundNear n t (-(fxBits : Int))

/-- sin(t) for t in [0, π/2] in fixed point. -/
def fxSin (t : Nat) : Nat :=
  let tt := t * t / fxOne
  let rec go : Nat → Nat → Nat → Int → Int
    | 0, _, _, acc => acc
    | n + 1, k, p, acc =>
      go n (k + 1) (p * tt / (fxOne * ((2 * k + 2) * (2 * k + 3)))) (if k % 2 == 0 then acc + p else acc - p)
  (go 60 0 t 0).toNat

/-- `VSIN` of an F32 encoding, sin(π·x). -/
def vsin (x : FVal) : Nat × Flags :=
  match x with
  | .nan s => nanResult fmtF32 s
  | .inf _ => nanResult fmtF32 true
  | .fin n m e =>
    if e ≥ 0 ∨ m % 2 ^ e.natAbs = 0 then (signBit fmtF32 n, 0)
    else
      let d := 2 ^ e.natAbs
      let ip := m / d
      let fr := m % d
      let neg := n != decide (ip % 2 = 1)
      if 2 * fr = d then roundDyadic fmtF32 .rne neg (signed neg 1) 0
      else
        let h := if 2 * fr > d then d - fr else fr
        let y := fxSin (fxOf h e * fxPi / fxOne)
        roundNear neg y (-(fxBits : Int))

end Sys2Proof.Machine
end

