-- ==== Sys2Proof/Machine/Operands.lean ====
section
/-! DEFINITION. Operand forms: F32 operands held in S registers (R198), the elements of a vector register by format
(R48, R53, R63), lane extension (R212), and the tag checks with their trap value (R63 to R66, R213). -/

namespace Sys2Proof.Machine

/-- The F32 value in bits [31:0] of S[r] (R198). -/
def readF (k : Task) (r : BitVec 6) : FVal := f32 (field (readS k r) 0 32)

/-! ### Tags (R63) -/

def tagEmpty : BitVec 6 := 0x00
def tagF32 : BitVec 6 := 0x01
def tagBF16 : BitVec 6 := 0x02
def tagI32 : BitVec 6 := 0x03
def tagI8 : BitVec 6 := 0x05
def tagI40 : BitVec 6 := 0x07
def tagN32 : BitVec 6 := 0x08
def tagFP16 : BitVec 6 := 0x20
def tagE4M3 : BitVec 6 := 0x21
def tagE5M2 : BitVec 6 := 0x22

/-- PLp, tag 0x10 + p − 2 (R53). -/
def tagPL (p : Nat) : BitVec 6 := BitVec.ofNat 6 (0x10 + p - 2)

def isPL (t : BitVec 6) : Bool := decide (0x10 ≤ t.toNat ∧ t.toNat ≤ 0x16)
/-- Planes of a plane-layout tag. -/
def plPlanes (t : BitVec 6) : Nat := t.toNat - 0x10 + 2
def isConvOnly (t : BitVec 6) : Bool := decide (0x20 ≤ t.toNat ∧ t.toNat ≤ 0x22)

/-- A code that R63 reserves. -/
def isReservedTag (t : BitVec 6) : Bool := !(decide (t.toNat ≤ 0x0B) || isPL t || isConvOnly t)

/-- The tag of an integer element type (R63, R164). -/
def ityTag : ITy → BitVec 6
  | .i32 => 0x03 | .i16 => 0x04 | .i8 => 0x05 | .i4 => 0x06
  | .n32 => 0x08 | .n16 => 0x09 | .n8 => 0x0A | .n4 => 0x0B

/-- Sub-element width of an integer type (R48). -/
def ityBits : ITy → Nat
  | .i32 => 32 | .i16 => 16 | .i8 => 8 | .i4 => 4 | .n32 => 32 | .n16 => 16 | .n8 => 8 | .n4 => 4

def itySigned : ITy → Bool
  | .i32 => true | .i16 => true | .i8 => true | .i4 => true | _ => false

/-- Range of an integer type (R48). -/
def ityLo (t : ITy) : Int := if itySigned t then -2 ^ (ityBits t - 1) else 0
def ityHi (t : ITy) : Int := if itySigned t then 2 ^ (ityBits t - 1) - 1 else 2 ^ ityBits t - 1

/-- Signed type of a width form (R164). -/
def widthTy : IWidth → ITy
  | .w32 => .i32 | .w16 => .i16 | .w8 => .i8 | .w4 => .i4

def unsignedOf : ITy → ITy
  | .i32 => .n32 | .i16 => .n16 | .i8 => .n8 | .i4 => .n4 | t => t

def signedOf : ITy → ITy
  | .n32 => .i32 | .n16 => .i16 | .n8 => .i8 | .n4 => .i4 | t => t

def ftyTag : FTy → BitVec 6
  | .f32 => 0x01 | .bf16 => 0x02

def etyTag : ETy → BitVec 6
  | .fp16 => 0x20 | .e4m3 => 0x21 | .e5m2 => 0x22

/-- Acceptance sets of R213. -/
def acceptTag (t : BitVec 6) : BitVec 6 → Bool := fun x => x == t
def acceptWidth (t : ITy) : BitVec 6 → Bool := fun x => x == ityTag (signedOf t) || x == ityTag (unsignedOf t)
def acceptSint : BitVec 6 → Bool := fun x => decide (0x03 ≤ x.toNat ∧ x.toNat ≤ 0x06)
def acceptData : BitVec 6 → Bool := fun x => x != tagEmpty
def acceptAny : BitVec 6 → Bool := fun _ => true
def acceptIndex : BitVec 6 → Bool := fun x => x == tagI32 || x == tagN32

/-! ### Tag checks (R65, R66, R213) -/

/-- A source to check: OPND, the tag found, whether the instruction interprets it, and its acceptance. -/
structure Src where
  opnd : Nat
  tag : BitVec 6
  interp : Bool
  ok : Bool

/-- YTVAL of R66. -/
def tagTval (s : State) (tag : BitVec 6) (opnd : Nat) : Word :=
  BitVec.ofNat 64 (packNat [(tag.toNat, 6), (opnd, 3), (0, 7), ((field s.slotWord 21 10).toNat, 10)])

/-- The first failure of R65 over the sources, in its order. -/
def tagFault (srcs : List Src) : Option (Cause × BitVec 6 × Nat) :=
  match srcs.find? fun x => isReservedTag x.tag with
  | some x => some (.tagReserved, x.tag, x.opnd)
  | none =>
    match srcs.find? fun x => x.interp && isConvOnly x.tag with
    | some x => some (.emulate, x.tag, x.opnd)
    | none => (srcs.find? fun x => !x.ok).map fun x => (.tagMismatch, x.tag, x.opnd)

/-- The tag checks of R65, then the rest of the body. -/
def checkTags (srcs : List Src) (body : State → SlotRes) (s : State) : SlotRes :=
  match tagFault srcs with
  | some (c, t, o) => .trap c (tagTval s t o)
  | none => body s

/-! ### Lanes and elements (R48, R212) -/

/-- A 32-bit result in a lane: bits [39:32] copy bit 31 (R212). -/
def lane32 (x : BitVec 32) : Lane := x.signExtend 40

/-- Bits [31:0] of a lane. -/
def laneLow (x : Lane) : BitVec 32 := x.setWidth 32

/-- Sub-element e of a lane's low 32 bits, w bits wide, as a natural number. -/
def subNat (w : Nat) (x : BitVec 32) (e : Nat) : Nat := x.toNat / 2 ^ (w * e) % 2 ^ w

/-- The same as a number of a signed or unsigned type. -/
def subInt (signed : Bool) (w : Nat) (x : BitVec 32) (e : Nat) : Int :=
  let n := subNat w x e
  if signed && decide (n ≥ 2 ^ (w - 1)) then (n : Int) - 2 ^ w else n

/-- 32 bits from sub-elements of w bits each, the first lowest. -/
def packSubs (w : Nat) (l : List Int) : BitVec 32 :=
  BitVec.ofNat 32 (packNat (l.map fun v => ((v % (2 ^ w : Int)).toNat, w)))

/-- Element e of a register whose elements are w bits wide, as a natural number (R48). -/
def elemNat (w : Nat) (v : VReg) (e : Nat) : Nat :=
  let k := 32 / w
  subNat w (laneLow (v.lanes.toList.getD (e / k) 0)) (e % k)

/-- A register from its elements of w bits (R48, R212). -/
def ofElems (w : Nat) (tag : BitVec 6) (f : Nat → Nat) : VReg :=
  let k := 32 / w
  ⟨Vector.ofFn fun i => lane32 (BitVec.ofNat 32 (packNat ((List.range k).map fun e => (f (i.val * k + e), w)))), tag⟩

/-- A register computed lane by lane from 32-bit results. -/
def ofLanes (tag : BitVec 6) (f : Fin 256 → BitVec 32) : VReg := ⟨Vector.ofFn fun i => lane32 (f i), tag⟩

/-- The OR of the flags of all lanes (R43). -/
def laneFlags (f : Fin 256 → Flags) : Flags := (List.finRange 256).foldl (fun acc i => acc ||| f i) 0

/-- A register and its flags from a lane function. -/
def ofLanesF (tag : BitVec 6) (f : Fin 256 → BitVec 32 × Flags) : VReg × Flags :=
  (ofLanes tag fun i => (f i).1, laneFlags fun i => (f i).2)

/-- Sub-element width of a 32-bit element format by tag (R48, R63). -/
def tagWidth (t : BitVec 6) : Nat :=
  match t.toNat with
  | 0x02 => 16 | 0x04 => 16 | 0x05 => 8 | 0x06 => 4 | 0x09 => 16 | 0x0A => 8 | 0x0B => 4
  | 0x20 => 16 | 0x21 => 8 | 0x22 => 8 | _ => 32

/-- Element count by tag (R63). -/
def tagElems (t : BitVec 6) : Nat := 256 * (32 / tagWidth t)

end Sys2Proof.Machine
end

