-- ==== Sys2Proof/Machine/AddrUnit.lean ====
section
/-! DEFINITION. The A-slot arithmetic, moves, loop counters, spill accesses and the tree-node address (R187, R191, R209, R210). -/

namespace Sys2Proof.Machine

/-- `AADD` (R209). -/
def execAadd (d a b : BitVec 5) (s : State) : Out :=
  runSlot [] (fun s => .ok (emitA 1 d (readA s.tk a + readA s.tk b) s)) s

/-- `ASUB` (R209). -/
def execAsub (d a b : BitVec 5) (s : State) : Out :=
  runSlot [] (fun s => .ok (emitA 1 d (readA s.tk a - readA s.tk b) s)) s

/-- `AADDI` (R209). -/
def execAaddi (d a : BitVec 5) (imm : BitVec 6) (s : State) : Out :=
  runSlot [] (fun s => .ok (emitA 1 d (readA s.tk a + sx imm) s)) s

/-- `AMOVI` (R209). -/
def execAmovi (d : BitVec 5) (imm : BitVec 12) (s : State) : Out :=
  runSlot [] (fun s => .ok (emitA 1 d (sx imm) s)) s

/-- `AMOVS` (R209): A from S. -/
def execAmovs (d : BitVec 5) (a : BitVec 6) (s : State) : Out :=
  runSlot [a] (fun s => .ok (emitA 1 d (readS s.tk a) s)) s

/-- `SMOVA` (R209): S from A. -/
def execSmova (d : BitVec 6) (a : BitVec 5) (s : State) : Out :=
  runSlot [d] (fun s => .ok (emitS 1 d (readA s.tk a) s)) s

/-- `ASHLI` (R209). -/
def execAshli (d a : BitVec 5) (imm : BitVec 6) (s : State) : Out :=
  runSlot [] (fun s => .ok (emitA 1 d (readA s.tk a <<< imm.toNat) s)) s

/-- `AREG` (R209): a local address in region j. -/
def execAreg (d a : BitVec 5) (j : BitVec 4) (s : State) : Out :=
  runSlot [] (fun s => .ok (emitA 1 d ((zx j <<< 24) + zx (field (readA s.tk a) 0 24)) s)) s

/-- The value of the first n decisions of a path trace, the first as the highest bit (R210). -/
def pathValue (t : BitVec 32) : Nat → Nat
  | 0 => 0
  | n + 1 => 2 * pathValue t n + b2n (bit t n)

/-- Local address of a tree node or subtree (R210); none where the effect traps. -/
def nodeAddress (t : BitVec 32) (x : Word) : Option Word :=
  let depth := (field t 27 5).toNat
  let l := (field x 53 5).toNat
  if field x 28 4 ≠ 0 ∨ field x 59 5 ≠ 0 ∨ depth > 27 ∨ l > depth then none
  else
    let v := pathValue t l
    let idx := if bit x 58 then v else 2 ^ l - 1 + v
    let off := (field x 0 24).toNat + idx * (field x 32 21).toNat
    if off ≥ 2 ^ 24 then none else some (BitVec.ofNat 64 ((field x 24 4).toNat * 2 ^ 24 + off))

/-- `ANODE` (R210). -/
def execAnode (d a : BitVec 5) (b : BitVec 6) (s : State) : Out :=
  runSlot [] (fun s =>
    match nodeAddress (readPT s.tk b) (readA s.tk a) with
    | none => .trap .anodeRange (wordTval s 0)
    | some v => .ok (emitA 1 d v s)) s

/-- `ANOP` (R167): no visible state changes. -/
def execAnop (s : State) : Out := runSlot [] (fun s => .ok s) s

/-- `LCSET` (R187): bits [63:32] of S[a] are ignored. -/
def execLcset (d : BitVec 2) (a : BitVec 6) (s : State) : Out :=
  runSlot [a] (fun s => .ok (emit 1 (.lcreg d (field (readS s.tk a) 0 32)) s)) s

/-- `LCRD` (R187). -/
def execLcrd (d : BitVec 6) (a : BitVec 2) (s : State) : Out :=
  runSlot [d] (fun s => .ok (emitS 1 d (zx (readLC s.tk a)) s)) s

/-- Doubleword i of the spill memory (R191). -/
def readSpill (k : Task) (i : BitVec 10) : Word := smGet 0 k.spill i.toNat

/-- `SPLD` (R191). -/
def execSpld (d : BitVec 6) (idx : BitVec 10) (s : State) : Out :=
  runClaiming [.spill] [d] (fun s => .ok (emitS 1 d (readSpill s.tk idx) s)) s

/-- `SPST` (R191). -/
def execSpst (d : BitVec 6) (idx : BitVec 10) (s : State) : Out :=
  runClaiming [.spill] [d] (fun s => .ok (emit 1 (.spill idx (readS s.tk d)) s)) s

/-- `SPLD.A` (R191). -/
def execSpldA (d : BitVec 5) (idx : BitVec 10) (s : State) : Out :=
  runClaiming [.spill] [] (fun s => .ok (emitA 1 d (readSpill s.tk idx) s)) s

/-- `SPST.A` (R191). -/
def execSpstA (d : BitVec 5) (idx : BitVec 10) (s : State) : Out :=
  runClaiming [.spill] [] (fun s => .ok (emit 1 (.spill idx (readA s.tk d)) s)) s

end Sys2Proof.Machine
end

