-- ==== Sys2Proof/Machine/CellEvents.lean ====
section
/-! DEFINITION. The cell operations as steps of the machine (R33, R34, R38, R39): what a bank does with an operation that
reaches it, whoever sent it. -/

namespace Sys2Proof.Machine

/-- A cell operation that reaches its bank, which holds it during a scrub (R262) and while the replay log of the context lacks room
(R371); a refusal or fault enters the queue of the cell's die, with no unit and no sequence number, since no issuer is named
here (R38). -/
def bankOp (ctx : CtxId) (i : BitVec 16) (op : CellOp) (s : State) : Out :=
  slotDone (if cellStalls s ctx i op then s else (cellOpReport ctx i op 0 0 s).1)

/-- `CELL_EXPECT` (R33, R34). -/
def execCellExpect (ctx : CtxId) (i : BitVec 16) (n : BitVec 32) (s : State) : Out := bankOp ctx i (.expect n.toNat) s

/-- `CELL_DELIVERY` (R33, R34). -/
def execCellDelivery (ctx : CtxId) (i : BitVec 16) (n : BitVec 32) (s : State) : Out := bankOp ctx i (.delivery n.toNat) s

/-- `CELL_ARRIVE` (R33, R34). -/
def execCellArrive (ctx : CtxId) (i : BitVec 16) (k : BitVec 17) (s : State) : Out := bankOp ctx i (.arrive k.toNat) s

/-- `CELL_REMOTE_ARRIVE` (R33, R34): the grant has been checked. A k outside the range of R33 is applied as it comes (DESIGN
CHOICE, log 130). -/
def execCellRemoteArrive (ctx : CtxId) (i : BitVec 16) (k : BitVec 17) (s : State) : Out :=
  bankOp ctx i (.remoteArrive k.toNat) s

/-- `CELL_PHASE_READ` (R34): the refusal checks alone; PHASE goes to the tile that asks and nothing changes. -/
def execCellPhaseRead (ctx : CtxId) (i : BitVec 16) (s : State) : Out := bankOp ctx i .phase s

/-- `CELL_REWRITE` (R33, R39): the whole cell is replaced, without a fire check. HELD is not Kenval's to write, and a
record that the cell held goes with the old contents. It waits for a scrub of the cell's bank (R262). -/
def execCellRewrite (ctx : CtxId) (i : BitVec 16) (v : BitVec 256) (s : State) : Out :=
  slotDone (match cellAddr s ctx i.toNat with
    | none => s
    | some a =>
      if s.scrubbing.contains (sgaBank a) then s
      else { cellWrite s a (putField v 120 1 (0 : BitVec 1)) with
        heldRecs := s.heldRecs.filter fun h => !(h.1 == ctx && h.2.1 == i) })

end Sys2Proof.Machine
end

