-- ==== Sys2Proof/Machine/Sequence.lean ====
section
/-! DEFINITION. The sequencer: hardware loops with their passes (R183 to R190), drains and refills (R352), the commit
buffer at a branch's resolution (R181), the end of a bundle, empty issue cycles (R176), and the return to a stopped
task's next bundle (R339, R344). -/

namespace Sys2Proof.Machine

/-! ### Loops -/

/-- Whether an address lies in a loop's body (R183). -/
def inBody (f : LoopFrame) (a : BitVec 18) : Bool := decide (f.first.toNat ≤ a.toNat ∧ a.toNat ≤ f.last.toNat)

/-- P4 to P7 replaced, j counting stages (R189). -/
def setStages (k : Task) (v : Fin 4 → Bool) : Task :=
  { k with p := (((k.p.set 4 (v 0)).set 5 (v 1)).set 6 (v 2)).set 7 (v 3) }

def stageP (k : Task) (j : Fin 4) : Bool := k.p[4 + j.val]'(by omega)

/-- Whether all stage predicates of S = sm1 + 1 stages are false (R189). -/
def stagesDone (k : Task) (sm1 : Fin 4) : Bool := (List.finRange 4).all fun j => decide (j > sm1) || !stageP k j

/-- Pass end of a `LOOP.SWP` (R189): stage predicates shift, the rotation advances. -/
def passEnd (sm1 : Fin 4) (k : Task) : Task :=
  setStages { k with rot := k.rot + 1 } fun j => if j.val = 0 ∨ j > sm1 then stageP k j else stageP k (j - 1)

/-- The next address after a bundle at a: the byte after its stop bit, within eight words (R147, R156). -/
def bundleEnd (imem : Mem) (a : BitVec 18) : BitVec 18 :=
  match (List.range 8).find? fun i => bit (BitVec.ofNat 32 (memReadLE imem (a.toNat + 4 * i) 4)) 31 with
  | some i => a + BitVec.ofNat 18 (4 * i + 4)
  | none => a + 32

/-- What a pass start decides for the innermost loop: it runs, it ends, or a drained `LOOP.SWP` stands at its stop
(R183, R189, R352). -/
inductive PassStart where
  | run (k : Task)
  | ends (k : Task)
  | drained (k : Task)

/-- Pass start of frame f, the innermost; `drain` when a pre-emption waits (R183, R189, R352). -/
def passStart (drain : Bool) (f : LoopFrame) (rest : List LoopFrame) (k : Task) : PassStart :=
  let n := readLC k f.n
  let dec (k : Task) : Task := { k with lc := k.lc.set f.n.toNat (n - 1) f.n.isLt }
  match f.swp with
  | none =>
    if n = 0 then .ends k
    else .run { dec k with loops := { f with passes := f.passes + 1 } :: rest, npc := f.first }
  | some sm1 =>
    let dr := f.drain || (drain && decide (n ≠ 0))
    let p4 := !dr && decide (n ≠ 0)
    let k1 := setStages (if p4 then dec k else k) fun j => if j.val = 0 then p4 else stageP k j
    let f1 := { f with drain := dr, passes := f.passes + 1, started := f.started + b2n p4 }
    if stagesDone k1 sm1 then
      (if dr then .drained { k1 with loops := { f with drain := true } :: rest, npc := f.first, refill := true }
       else .ends (setStages k1 fun _ => false))
    else .run { k1 with loops := f1 :: rest, npc := f.first }

/-- A loop of the acting tile ends: its LOOP trace record (R361), under the tile's loop engine in its A slot (log 126). -/
def endLoop (f : LoopFrame) (s : State) : State :=
  let k := s.tk
  traceRecord (tileDie s.cur) 1 (tileUnit s.cur 1) k.queue k.ctx k.cmdseq k.tmpl
    (packNat [(f.own.toNat, 18), (k.loops.length - 1, 2), (b2n f.swp.isSome, 1), (0, 11), (f.filled, 48), (f.nops, 48),
      (f.frozen, 48), (f.passes, 32)])
    s |>.modTask fun k => { k with loops := k.loops.drop 1 }

/-- Whether a pre-emption asks the acting tile's `LOOP.SWP` to drain: not in monitor mode (R352). -/
def drainAsked (s : State) : Bool := s.me.preempt && s.tk.mode == .task

/-- The back edges of the loops whose `last` is the bundle at `a`, from the innermost out; `after` is the address that
follows that bundle (R183). Fuel: at most four loops are active (R184). -/
def backEdges : Nat → BitVec 18 → BitVec 18 → State → State
  | 0, _, _, s => s
  | n + 1, a, after, s =>
    match s.tk.loops with
    | [] => s
    | f :: rest =>
      if f.last ≠ a then s
      else
        let k := match f.swp with | some sm1 => passEnd sm1 s.tk | none => s.tk
        match passStart (drainAsked s) f rest k with
        | .run k => s.modTask fun _ => k
        | .drained k => s.modTask fun _ => k
        | .ends k =>
          backEdges n a after ((endLoop f (s.modTask fun _ => { k with loops := f :: rest })).modTask
            fun k => { k with npc := after })

/-- What issuing a `LOOP.SWP` resets (R188). -/
def armLoop (f : LoopFrame) (k : Task) : Task :=
  if f.swp.isSome then setStages { k with rot := 0 } fun _ => false else k

/-- The first pass start of the loop that has just issued (R183, R189). A loop that runs no pass goes to the bundle after
`last`: no bundle has begun at `last`, so no other loop that shares it takes its back edge. -/
def firstPass (drain : Bool) (s : State) : State :=
  match s.tk.loops with
  | [] => s
  | f :: rest =>
    match passStart drain f rest (armLoop f s.tk) with
    | .run k => s.modTask fun _ => k
    | .drained k => s.modTask fun _ => k
    | .ends k =>
      (endLoop f (s.modTask fun _ => { k with loops := f :: rest })).modTask
        fun k => { k with npc := bundleEnd s.me.imem f.last }

/-- A loop that the monitor has started: its bundle lies in the monitor region (R146). -/
def ofMonitor (f : LoopFrame) : Bool := decide (0x20000 ≤ f.own.toNat)

/-- The monitor's loops, innermost, end where its work ends (R344). -/
def endMonitorLoops : Nat → State → State
  | 0, s => s
  | n + 1, s =>
    match s.tk.loops with
    | f :: _ => if ofMonitor f then endMonitorLoops n (endLoop f s) else s
    | [] => s

/-- The loops that the next address leaves end, from the innermost out (R183): by a taken branch out of the body, or by
sequential fetch above `last`. The task's loops stand while the monitor runs (R335, R341; log 118). -/
def leaveLoops : Nat → Bool → State → State
  | 0, _, s => s
  | n + 1, taken, s =>
    match s.tk.loops with
    | [] => s
    | f :: _ =>
      if s.tk.mode = .monitor ∧ !ofMonitor f then s
      else if (if taken then !inBody f s.tk.npc else decide (f.last.toNat < s.tk.npc.toNat)) then
        leaveLoops n taken (endLoop f s)
      else s

/-! ### The commit buffer at a right resolution (R181) -/

/-- A bank that the accessor holds becomes FREE or RELEASED (R145). -/
def releaseBank (a : Accessor) (b : BitVec 11) (free : Bool) (stage : BitVec 4) (s : State) : State :=
  let w := s.bank b.toNat
  if !bankShared w && bankHState w == 1 && bankOwner w == a.ctx && bankHTask w == a.slot then
    s.setBank b.toNat (if free then putField w 8 2 (0 : BitVec 2)
      else putField (putField w 8 2 (2 : BitVec 2)) 10 4 stage)
  else s

/-- The banks of a region entry are to be released, each in a step of its own (R145). -/
def releaseBanks (e : BitVec 32) (free : Bool) (stage : BitVec 4) (s : State) : State :=
  s.modTask fun k => { k with releases := k.releases ++ (List.range (regCount e + 1)).map fun i =>
    (regBank e + BitVec.ofNat 11 i, free, stage) }

/-- The releases of tile t's task that are due are made: those that `p` takes (R145). The bank's own writes of the tile's
slots have performed at issue (R305). -/
def applyReleases (t : TileId) (p : BitVec 11 → Bool) (s : State) : State :=
  let k := (s.tile t).task
  (k.releases.filter fun r => p r.1).foldl (fun s r => releaseBank (taskAccessor k) r.1 r.2.1 r.2.2 s)
    (s.modTaskAt t fun k => { k with releases := k.releases.filter fun r => !p r.1 })

/-- Records reach a queue, or none do (R126, R127): the state and the status. -/
def enqueueRecords (q : BitVec 7) (recs : List (BitVec 256)) (spawn : Bool) (s : State) : State × Word :=
  let x := s.queue q
  if qEn x.desc && decide (recs.length ≤ qFree x) then
    (s.modQueue q (qReserve (some (s.cur, s.tk.uid, s.me.accOrd)) recs), if spawn then BitVec.ofNat 64 recs.length else 0)
  else (s, if spawn then BitVec.allOnes 64 else 1)

/-- A scalar access enters the queues of its tile (R284). -/
def enterAccess (toLoad toStore : Bool) (e : QEntry) (s : State) : State :=
  s.modTile s.cur fun t =>
    { t with
      storeQ := if toStore then t.storeQ ++ [e] else t.storeQ
      task := if toLoad then { t.task with loadQ := t.task.loadQ ++ [e] } else t.task }

/-- Whether a command is a copy into the instruction scratchpad (R149, R290). -/
def intoScratchpad (c : Cmd) : Bool := c.kind == 1 && field c.par[0] 4 2 == 2

/-- The half that a `CPY` of the acting tile's task takes becomes an OVERLAY of the task (R148). -/
def claimHalf (s : State) : State :=
  s.modTile s.cur fun x =>
    setHalf (!x.cur) { st := .overlay, owner := x.task.ctx, task := x.task.uid, image := 0, wr := true, dirty := true
                       ran := (getHalf x (!x.cur)).ran } x

/-- A command that was held in a shadow may start (R181, R267); a copy into the scratchpad claims its half (R148). -/
def releaseCmd (id : Nat) (s : State) : State :=
  let s1 := if s.cmds.any fun c => c.id == id && intoScratchpad c then claimHalf s else s
  { s1 with cmds := s1.cmds.map fun c => if c.id = id ∧ c.phase = .held then { c with phase := .waiting } else c }

/-- One held effect reaches the outside. -/
def commitOne (h : Held) (s : State) : State :=
  match h with
  | .sward a bs => s.swardWrite a bs
  | .access l st e => enterAccess l st e s
  | .enq q recs spawn d at_ ord =>
    let (s', v) := enqueueRecords q recs spawn s
    if d = 0 then s'
    else s'.modTask fun k => { k with pend := insertLanding ⟨at_, ord, .sreg d v⟩ k.pend }
  | .relb r st free =>
    releaseBanks (s.tk.regions[r.toNat]'r.isLt) free st s
  | .cmd id => releaseCmd id s

/-- Every held effect of the acting tile commits, in order. -/
def commitHeld (s : State) : State :=
  s.tk.held.foldl (fun s h => commitOne h s) (s.modTask fun k => { k with held := [], shadowUsed := 0 })

/-- The branch resolves when its shadow has ended (R180). -/
def resolveShadow (s : State) : State := if s.tk.shadow = 0 ∧ s.tk.held ≠ [] then commitHeld s else
  if s.tk.shadow = 0 then s.modTask fun k => { k with shadowUsed := 0 } else s

/-! ### Cycles and bundles -/

/-- An empty issue cycle (R176, R358). -/
def emptyCycle (s : State) : State := resolveShadow (issueCycle (countSlots 0 s))

/-- A `BSWAP` of the bundle takes effect at its end, as a write of the bundle (R7, R148, R152). -/
def swapHalves (s : State) : State :=
  if !s.tk.swaps then s
  else s.modTile s.cur fun x =>
    let o := !x.cur
    let c := getHalf x x.cur
    let x1 := setHalf x.cur { c with st := .idle, image := if c.dirty then 0 else c.image } x
    { setHalf o { getHalf x o with st := .active } x1 with cur := o, task := { x.task with swaps := false } }

/-- What concerns only the first issue of a bundle in task mode has been used up (R344, R364, R375). -/
def firstIssueOver (k : Task) : Task :=
  if k.mode = .task then { k with skip := [], noBreak := none, endAgain := none } else k

/-- The loops at the end of a bundle at `a`: a new loop makes its first pass start, also where a branch of its own bundle
is taken, whose target then stands (log 124); else back edges, where none is taken (R183). -/
def loopEdges (a : BitVec 18) (s : State) : State :=
  if s.tk.newLoop then
    (if s.tk.taken then (firstPass false s).modTask fun k => { k with npc := s.tk.npc } else firstPass (drainAsked s) s)
  else if s.tk.taken then s else backEdges 4 a s.tk.npc s

/-- The bundle is complete: its writes land as their cycles come, loops take their back edges, and the next bundle is the
one at NPC (R147, R177, R183). -/
def completeBundle (s : State) : State :=
  let s1 := resolveShadow (issueCycle (swapHalves s))
  let s2 := leaveLoops 4 s1.tk.taken (loopEdges s.tk.pc s1)
  s2.modTask fun k => { firstIssueOver k with pc := k.npc, taken := false, bundle := k.bundle + 1, newLoop := false }

/-- Empty issue cycles until every exposed write in flight has landed (R206, R344). -/
def settle (s : State) : State :=
  (List.range (s.tk.pend.foldl (fun n l => Nat.max n l.at_) s.me.ic - s.me.ic)).foldl (fun s _ => emptyCycle s) s

/-- A bundle issues in task mode: the hang watchdog restarts (R356). -/
def feedWatchdog (s : State) : State :=
  s.modTile s.cur fun t => { t with watchdog := if t.task.mode = .task then 0 else t.watchdog }

/-! ### Return to a task (R339, R344, R352) -/

/-- How a stopped task goes on: after a pre-emption, with mode 0, or with mode 1 of `ERET` (R344). -/
inductive Return where
  | preempted | again | skip
  deriving DecidableEq, Repr

/-- The stopped task of a tile goes on at its YEPC: the trap record is closed, late writes land from issue cycle z, and a
drained `LOOP.SWP` is to be refilled. Loops of the monitor end. A bundle that BREAK or WATCH_STORE has stopped does not raise
either on its first issue after mode 0 (R364). What is still due on the bundle's first issue stays due. -/
def returnToTask (how : Return) (z : Nat) (k : Task) : Task :=
  let a := field k.yepc 0 18
  { k with
    mode := .task
    ycause := putField k.ycause 0 8 (0 : BitVec 8)
    pc := a
    npc := a
    taken := false
    skip := if how = .skip then (a, field k.yepc 18 3) :: k.skip else k.skip
    noBreak := if how = .again && k.brokeAt == some a then some a else k.noBreak
    brokeAt := none
    pend := fromLateWrites z k.lwb
    lwb := []
    loops := k.loops.filter fun f => !ofMonitor f
    refill := bit k.yepc 21
    shadow := 0
    empties := 0 }

/-- The drained `LOOP.SWP` of the acting tile is refilled (R352): ROT goes one pass back, and its next pass starts; one whose
counter is 0 by now ends. -/
def refillLoop (s : State) : State :=
  let k := { s.tk with refill := false }
  if !s.tk.refill then s
  else match k.loops with
    | f :: rest =>
      match f.swp with
      | some sm1 =>
        match passStart false { f with drain := false } rest (setStages
            { k with rot := k.rot - BitVec.ofNat 5 sm1.val, yepc := putField k.yepc 21 1 (0 : BitVec 1) } fun _ => false) with
        | .run k => s.modTask fun _ => { k with pc := k.npc }
        | .ends k =>
          (endLoop f (s.modTask fun _ => k)).modTask
            fun k => { k with pc := bundleEnd s.me.imem f.last, npc := bundleEnd s.me.imem f.last }
        | .drained k => s.modTask fun _ => k
      | none => s.modTask fun _ => k
    | [] => s.modTask fun _ => k

/-- The task of tile t does something there. -/
def onTile (t : TileId) (f : State → State) (s : State) : State := { f { s with cur := t } with cur := s.cur }

/-- The task of tile t runs again, with mode 1 of `ERET` or with mode 0. The hang watchdog counts on (R356). -/
def resumeOn (t : TileId) (skip : Bool) (s : State) : State :=
  onTile t refillLoop ((onTile t (endMonitorLoops 4) s).modTile t fun x =>
    { x with status := .running, task := returnToTask (if skip then .skip else .again) x.ic x.task })

end Sys2Proof.Machine
end

