-- ==== Sys2Proof/Machine/Launch.lean ====
section
/-! DEFINITION. The launcher: templates (R23 to R25), placement (R130, R131, R133), a task's initial state (R134),
suspension, resumption and the instruction halves (R139, R148), selection (R129), yield arbitration (R137), and the end of
a context's work (R22). -/

namespace Sys2Proof.Machine

/-! ### Templates -/

def tmImage (t : BitVec 1024) : BitVec 32 := field t 0 32
def tmEntry (t : BitVec 1024) : BitVec 16 := field t 32 16
def tmMap (t : BitVec 1024) : BitVec 4 := field t 48 4
def tmStage (t : BitVec 1024) : BitVec 4 := field t 52 4
def tmGang (t : BitVec 1024) : BitVec 4 := field t 56 4
def tmMaxrun (t : BitVec 1024) : Nat := (field t 64 21).toNat
def tmDoneCell (t : BitVec 1024) : BitVec 16 := field t 96 16
def tmDscope (t : BitVec 1024) : BitVec 3 := field t 112 3
def tmDonev (t : BitVec 1024) : Bool := bit t 127
def tmRegions (t : BitVec 1024) : Vector (BitVec 32) 16 := Vector.ofFn fun j => field t (512 + 32 * j.val) 32

/-- Fields of a task record (R30). -/
def recTmpl (r : BitVec 256) : BitVec 16 := field r 0 16
def recQueue (r : BitVec 256) : BitVec 7 := field r 16 7
def recCtx (r : BitVec 256) : CtxId := field r 23 6
def recCmdbase (r : BitVec 256) : BitVec 32 := field r 32 32
def recArg (r : BitVec 256) (i : Nat) : BitVec 32 := field r (64 + 32 * i) 32

/-- Whether template index i is valid (R23). -/
def tmplIndexOk (s : State) (c : CtxId) (i : BitVec 16) : Bool :=
  let d := (s.ctx c).desc
  decide (i.toNat < ctxTmplN d) && decide (ctxTmplBase d % 2 ^ 18 + 128 * i.toNat + 128 ≤ 2 ^ 18)

/-- The template as one snapshot (R24); zero for an invalid index. -/
def readTemplate (s : State) (c : CtxId) (i : BitVec 16) : BitVec 1024 :=
  if tmplIndexOk s c i then BitVec.ofNat 1024 (memReadLE s.sward (ctxTmplBase (s.ctx c).desc + 128 * i.toNat) 128) else 0

/-- The registered image of a context (R25, R26). -/
def imageBytes (s : State) (c : CtxId) (id : BitVec 32) : Option (List Byte) :=
  (s.images.find? fun x => x.1 == c && x.2.1 == id).map fun x => x.2.2

/-- Whether an enabled region entry passes check 7 of R25. -/
def regionEntryOk (s : State) (c : CtxId) (e : BitVec 32) : Bool :=
  !regEn e || (field e 19 12 == 0 && decide ((field e 0 7).toNat + regCount e ≤ 127) &&
    (List.range (regCount e + 1)).all fun i =>
      let w := s.bank ((regBank e).toNat + i)
      bankOwner w == c && !bankSys w)

/-- The number of the first check of R25 that a launch fails. -/
def tmplFails (s : State) (q : BitVec 7) (r : BitVec 256) : Option Nat :=
  let c := recCtx r
  let t := readTemplate s c (recTmpl r)
  let d := (s.ctx c).desc
  if c ≠ qOwner (s.queue q).desc ∨ !s.ctxActive c then some 1
  else if !tmplIndexOk s c (recTmpl r) ∨ !bit t 63 then some 2
  else if field t 60 3 ≠ 0 ∨ field t 85 11 ≠ 0 ∨ field t 115 12 ≠ 0 ∨ field t 128 384 ≠ 0 ∨ field t 32 2 ≠ 0 then some 3
  else if !bit (ctxMapMask d) (tmMap t).toNat then some 4
  else if tmMaxrun t = 0 ∨ tmMaxrun t > 2 ^ 20 then some 5
  else if (match imageBytes s c (tmImage t) with
    | none => true
    | some bs => decide (tmImage t = 0 ∨ bs.length ≤ (tmEntry t).toNat)) then some 6
  else if (tmRegions t).any fun e => !regionEntryOk s c e then some 7
  else if tmDonev t ∧ ctxCellN d ≤ (tmDoneCell t).toNat then some 8
  else none

/-- The entry of a discarded record (R25, R422). -/
def tmplInvalidEntry (die : BitVec 1) (q : BitVec 7) (r : BitVec 256) (check : Nat) (s : State) : State :=
  enterFault die (faultEntry (causeCode .tmplInvalid) (recCtx r) 3 (unitId die 0 0 0x60)
    (BitVec.ofNat 32 (packNat [(check, 4), (q.toNat, 7), (0, 5), ((recTmpl r).toNat, 16)])) 0
    ((recCmdbase r) ++ (0 : BitVec 16)) s.timeNs) s

/-! ### Heads (R129) -/

/-- What a queue presents to its launcher. -/
inductive Head where
  | susp (x : Susp)
  | fresh (r : BitVec 256)

/-- The oldest record of a queue, once it has landed; one that lies in a bank under scrub, or whose template does, waits for the
end of that (R262). -/
def freshHead (s : State) (q : BitVec 7) : Option Head :=
  let x := s.queue q
  let a := qBase x.desc + 32 * x.headp
  let r := BitVec.ofNat 256 (memReadLE s.sward a 32)
  if x.headp = x.tailp ∨ x.landing.any (fun l => l.slot == x.headp) ∨ s.scrubbing.contains (sgaBank a)
      ∨ s.scrubbing.contains (sgaBank (ctxTmplBase (s.ctx (recCtx r)).desc + 128 * (recTmpl r).toNat)) then none
  else some (.fresh r)

/-- The queue's head: the oldest suspended task, else the oldest record. -/
def headOf (s : State) (q : BitVec 7) : Option Head :=
  match (s.queue q).resume with
  | y :: _ => some (.susp y)
  | [] => freshHead s q

/-- Rank used for a queue (R125). -/
def queueRank (s : State) (q : BitVec 7) : Nat :=
  let d := (s.queue q).desc
  Nat.min (qRank d).toNat (ctxRankCap (s.ctx (qOwner d)).desc).toNat

/-- The gang size, stage, regions and image by which a head is placed (R130). -/
structure PlaceReq where
  n : Nat
  stage : BitVec 4
  regions : Vector (BitVec 32) 16
  image : BitVec 32
  ctx : CtxId
  uids : List Nat

def headReq (s : State) : Head → PlaceReq
  | .susp x =>
    match x.members with
    | (_, k) :: _ => ⟨x.members.length, k.stage, k.regions, k.image, k.ctx, x.members.map fun m => m.2.uid⟩
    | [] => ⟨0, 0, Vector.replicate 16 0, 0, 0, []⟩
  | .fresh r =>
    let t := readTemplate s (recCtx r) (recTmpl r)
    ⟨(tmGang t).toNat + 1, tmStage t, tmRegions t, tmImage t, recCtx r, []⟩

/-- A head's declared run (R137). -/
def headRun (s : State) : Head → Nat
  | .susp x => x.run
  | .fresh r => tmMaxrun (readTemplate s (recCtx r) (recTmpl r))

/-! ### Choice of tiles (R130, R131) -/

/-- Tiles of a cluster of the package, in rising order. -/
def clusterTiles (c : BitVec 4) : List TileId := (List.range 16).map fun i => c ++ BitVec.ofNat 4 i

/-- A head that may reserve: its queue, and for a suspended gang the identity of its member 0 (R131). -/
abbrev HeadId := BitVec 7 × Option Nat

def headId (q : BitVec 7) : Head → HeadId
  | .susp x => (q, (x.members.head?).map fun m => m.2.uid)
  | .fresh _ => (q, none)

/-- The head that an identity names, a record also while suspended tasks of its queue stand before it. -/
def headNamed (s : State) (e : HeadId) : Option Head :=
  let x := s.queue e.1
  match e.2 with
  | some u => (x.resume.find? fun v => (v.members.head?).any fun m => m.2.uid == u).map .susp
  | none => freshHead s e.1

/-- The cluster that a reserving head prefers, while it is a gang's and its context is ACTIVE (R131). -/
def preferredCluster (s : State) (e : HeadId) : Option (BitVec 4) :=
  match headNamed s e with
  | none => none
  | some h =>
    if s.ctxActive (qOwner (s.queue e.1).desc) ∧ (headReq s h).n > 1 then
      some ((qDie (s.queue e.1).desc) ++ field (headReq s h).stage 1 3)
    else none

/-- The head for which the free tiles of cluster c are held: the oldest reserving one that prefers it (R131). -/
def holderOf (s : State) (c : BitVec 4) : Option HeadId :=
  (s.die (field c 3 1)).reserving.find? fun e => preferredCluster s e == some c

/-- Whether tile t is offered to a head: no timed launch holds it, and no older reserving head (R131, R142); `who` is the
timed entry that asks, if one does. -/
def tileOffered (s : State) (e : HeadId) (who : Option Nat) (t : TileId) : Bool :=
  match (s.tile t).reservedFor with
  | some w => who == some w
  | none => match holderOf s (tileCluster t) with
    | some e' => e' == e || who.isSome
    | none => true

/-- Whether a task runs on a tile, at its `END` too; one that a pre-emption has stopped does not (R140, R375). -/
def taskRuns (x : Tile) : Bool :=
  x.status == .running || x.status == .ending || (x.status == .held && !x.preempt)

/-- Free tiles of a cluster offered to a head; with `busy`, running tiles count as free (R142). -/
def freeTiles (s : State) (e : HeadId) (who : Option Nat) (busy : Bool) (c : BitVec 4) : List TileId :=
  (clusterTiles c).filter fun t =>
    ((s.tile t).status == .free || (busy && taskRuns (s.tile t))) && tileOffered s e who t

/-- How many banks that enabled region entries name lie in a cluster (criterion 2 of R130). -/
def banksIn (r : PlaceReq) (c : BitVec 4) : Nat :=
  (distinct (r.regions.toList.flatMap fun e =>
    if regEn e && field (regBank e) 7 4 == c then (List.range (regCount e + 1)).map ((regBank e).toNat + ·) else [])).length

/-- The cluster chosen among those that qualify (R130). -/
def chooseCluster (die : BitVec 1) (r : PlaceReq) (qual : List (BitVec 4)) : Option (BitVec 4) :=
  let pref : BitVec 4 := die ++ field r.stage 1 3
  if qual.contains pref then some pref
  else
    match qual.foldl (fun best c => match best with
        | none => if banksIn r c > 0 then some c else none
        | some b => if banksIn r c > banksIn r b then some c else some b) none with
    | some c => some c
    | none => qual.head?

/-- The tile on which the task with identity u stands. -/
def tileOf (s : State) (u : Nat) : Option TileId :=
  ((List.range 256).map (BitVec.ofNat 8)).find? fun t => (s.tile t).status != .free && (s.tile t).task.uid == u

/-- The task with identity u. -/
def taskOf (s : State) (u : Nat) : Task :=
  match tileOf s u with
  | some t => (s.tile t).task
  | none =>
    (s.queues.toList.findSome? fun q => q.resume.findSome? fun v => v.members.findSome? fun m =>
      if m.2.uid = u then some m.2 else none).getD Task.reset

/-- A member of a suspended task changed. -/
def modSusp (f : Task → Task) (v : Susp) : Susp := { v with members := v.members.map fun m => (m.1, f m.2) }

/-- The task with identity u, on a tile or in a resume list, changed. -/
def modUid (u : Nat) (f : Task → Task) (s : State) : State :=
  let g (k : Task) : Task := if k.uid = u then f k else k
  { s with
    tiles := s.tiles.map fun x => if x.status = .free then x else { x with task := g x.task }
    queues := s.queues.map fun q => { q with resume := q.resume.map (modSusp g) } }

/-- Rank of a tile among the free ones for a head, lowest first (R130); a RESIDENT half is resident state too (R148). -/
def tileKey (s : State) (r : PlaceReq) (t : TileId) : Nat :=
  let x := s.tile t
  let halves := [x.half0, x.half1].filter fun h => h.st == .resident
  let own := r.uids.any fun u => (x.resident.any fun e => e.1 == u) || halves.any fun h => h.task == u
  let img := (x.half0.st == .idle && x.half0.image == r.image) || (x.half1.st == .idle && x.half1.image == r.image)
  let foreign := (x.resident.any fun e => match uidCtx s e.1 with | some c => c != r.ctx | none => false)
    || halves.any fun h => h.owner != r.ctx
  1024 * b2n (!own) + 512 * b2n (!img) + 256 * b2n foreign + t.toNat

/-- Insertion by key. -/
def insertByKey (f : TileId → Nat) (t : TileId) : List TileId → List TileId
  | [] => [t]
  | x :: xs => if f t ≤ f x then t :: x :: xs else x :: insertByKey f t xs

def sortTiles (f : TileId → Nat) (l : List TileId) : List TileId := l.foldr (insertByKey f) []

/-- Whether a task's core class may be saved: none of its stores waits in a side log or store queue (R354). -/
def coreSavable (s : State) (u : Nat) : Bool := s.tiles.all fun x => (x.storeQ ++ x.sideLog).all fun e => e.uid != u

/-- Whether a head may go to some tiles: a suspended member goes to another tile only with its core class, which has been saved or
may be (R139, R354; log 141). -/
def mayMove (s : State) (h : Head) (ts : List TileId) : Bool :=
  match h with
  | .susp v => (v.members.zip ts).all fun m => m.1.1 == m.2 || m.1.2.restore.contains .core || coreSavable s m.1.2.uid
  | .fresh _ => true

/-- The tiles on which a head is placed, in rising order (R130, R131). -/
def chooseTiles (s : State) (q : BitVec 7) (who : Option Nat) (busy : Bool) (h : Head) : Option (List TileId) :=
  let r := headReq s h
  let die := qDie (s.queue q).desc
  let qual := ((List.range 8).map fun i => die ++ BitVec.ofNat 3 i).filter fun c =>
    decide ((freeTiles s (headId q h) who busy c).length ≥ r.n)
  match chooseCluster die r qual with
  | none => none
  | some c =>
    let ts := sortTiles (·.toNat) ((sortTiles (tileKey s r) (freeTiles s (headId q h) who busy c)).take r.n)
    if mayMove s h ts then some ts else none

/-! ### Instruction halves (R133, R139, R148) -/

/-- The half that takes an image: an idle half that holds it, else an idle half to load, else the resident half of the
task least recently run (R130, R133). -/
def pickHalf (x : Tile) (image : BitVec 32) : Bool × Bool :=
  if x.half0.st = .idle ∧ x.half0.image = image then (false, false)
  else if x.half1.st = .idle ∧ x.half1.image = image then (true, false)
  else if x.half0.st = .idle then (false, true)
  else if x.half1.st = .idle then (true, true)
  else (decide (x.half0.st ≠ .resident ∨ (x.half1.st = .resident ∧ x.half1.ran < x.half0.ran)), true)

/-- The bytes of a half, from its base. -/
def halfBytes (x : Tile) (u : Bool) : Mem :=
  (x.imem.filter fun c => decide (halfBase u ≤ c.1 ∧ c.1 < halfBase u + 0x10000)).map fun c => (c.1 - halfBase u, c.2)

/-- A half's bytes replaced. -/
def putHalfBytes (u : Bool) (m : Mem) (x : Tile) : Tile :=
  { x with imem := m.foldl (fun a c => memSet a (halfBase u + c.1) c.2) (memZero x.imem (halfBase u) 0x10000) }

/-- A half becomes LOADING for a task (R148). -/
def beginLoad (u : Bool) (k : Task) (image : BitVec 32) (x : Tile) : Tile :=
  setHalf u { st := .loading, owner := k.ctx, task := k.uid, image, wr := false, dirty := false, ran := 0 } x

/-- A half becomes ACTIVE for a task. -/
def activateHalf (u : Bool) (k : Task) (x : Tile) : Tile :=
  setHalf u { getHalf x u with st := .active, owner := k.ctx, task := k.uid, wr := false, dirty := false } x

/-- The tile takes the decode table of a map from its die's store (R159). -/
def loadMap (d : Die) (m : BitVec 4) (x : Tile) : Tile :=
  { x with mapNo := m, mapCopy := if m = 0 then [] else d.maps.toList.getD (m.toNat - 1) [] }

/-- Whether a tile still loads a half. -/
def isLoading (x : Tile) : Bool := x.half0.st == .loading || x.half1.st == .loading

/-! ### Starting tasks -/

/-- The task that a record becomes (R31, R134); `pc` is completed when its half is known. -/
def newTask (r : BitVec 256) (t : BitVec 1024) (q : BitVec 7) (uid gang gidx : Nat) (slot gslot : BitVec 12) : Task :=
  let k := Task.reset
  { k with
    s := (((((k.s.set 1 (zx (recArg r 0))).set 2 (zx (recArg r 1))).set 3 (zx (recArg r 2))).set 4
      (zx (recArg r 3))).set 5 (zx (recArg r 4))).set 6 (zx (recArg r 5))
    cmdseq := recCmdbase r ++ (0 : BitVec 16)
    uid, gang
    gidx := BitVec.ofNat 4 gidx
    gsize := tmGang t
    saveSlot := slot
    gangSlot := gslot
    ctx := recCtx r
    tmpl := recTmpl r
    queue := q
    cmdbase := recCmdbase r
    stage := tmStage t
    regions := tmRegions t
    image := tmImage t
    map := tmMap t
    doneCell := tmDoneCell t
    doneScope := tmDscope t
    doneV := tmDonev t
    declared := tmMaxrun t }

/-- The lowest n free save slots of a context (R354). -/
def freeSlots (c : Context) (n : Nat) : List Nat := ((List.range 4096).filter fun i => !c.slots.contains i).take n

/-- The log record of a launch, without its tiles (R371; log 19). -/
def launchLog (q : BitVec 7) (cmdbase : BitVec 32) : List (Nat × Nat) :=
  [(2, 8), (q.toNat, 8), (0, 16), (cmdbase.toNat, 32)]

/-- A LAUNCH trace record; for a task that starts, the launch's log record while recording, and in replay the logged launch
consumed: pre-emptions, and so resumptions, are not recorded (R361, R371, R372). -/
def noteLaunch (tiles : List TileId) (k : Task) (s : State) : State :=
  let t0 := tiles.headD 0
  let s1 := traceRecord (tileDie t0) 3 (unitId (tileDie t0) 0 0 0x60) k.queue k.ctx k.cmdseq k.tmpl
    (packNat [((tileUnit t0 0).toNat, 16), (k.gsize.toNat, 4), (b2n k.resumed, 1), (0, 11), (k.image.toNat, 32)]) s
  if k.resumed then s1
  else if (s.ctx k.ctx).recording then
    logRecord k.ctx (logOf (launchLog k.queue k.cmdbase ++ tiles.map fun t => (t.toNat, 8))) s1
  else if (s.ctx k.ctx).replaying then
    match logFind s1 k.ctx fun r => logKind r == 2 with
    | some (n, _) => logUse k.ctx n s1
    | none => s1
  else s1

/-- The tiles of a launch run once none of them loads a half (R131, R133). -/
def startTiles (tiles : List TileId) (s : State) : State :=
  if tiles.any fun t => isLoading (s.tile t) then s
  else tiles.foldl (fun s t => s.modTile t fun x =>
    if x.status = .loading then { x with status := .running, watchdog := 0 } else x) s

/-- A RESIDENT half of a tile is claimed: where `CPY` has written it, it is saved as it now stands; else it is dropped
(R139). -/
def evictHalf (t : TileId) (u : Bool) (s : State) : State :=
  let x := s.tile t
  let h := getHalf x u
  if h.st ≠ .resident then s
  else
    let keep (k : Task) : Task :=
      { k with halves := k.halves.map fun v => if v.upper = u then { v with bytes := halfBytes x u } else v }
    let s1 := if h.dirty then saveClass t (taskOf s h.task) .half (modUid h.task keep s) else s
    s1.modTile t (setHalf u { h with st := .idle, image := if h.dirty then 0 else h.image, wr := false, dirty := false })

/-- A task is put on a free tile: its image half, its decode map, a restarted slice counter. -/
def putTask (k : Task) (t : TileId) (s0 : State) : State :=
  let pick := pickHalf (s0.tile t) k.image
  let s := if pick.2 then evictHalf t pick.1 s0 else s0
  s.modTile t fun x =>
    let (u, load) := pick
    let pc := BitVec.ofNat 18 (halfBase u) + k.pc
    let x1 := if load then beginLoad u k k.image x else activateHalf u k x
    loadMap (s.die (tileDie t)) k.map
      { x1 with status := .loading, task := { k with pc, npc := pc, cur := u }, cur := u, slice := 0, preempt := false
                gangStop := false, freeze := 0, reservedFor := none, watchdog := 0 }

/-- A record that has passed R25 starts on its tiles (R131, R134). -/
def placeRecord (q : BitVec 7) (r : BitVec 256) (tiles : List TileId) (s : State) : State :=
  let t := readTemplate s (recCtx r) (recTmpl r)
  let slots := freeSlots (s.ctx (recCtx r)) tiles.length
  let g0 := BitVec.ofNat 12 (slots.headD 0)
  let task (i : Nat) := newTask r t q (s.uids + i) s.uids i (BitVec.ofNat 12 (slots.getD i 0)) g0
  let s1 := (tiles.zip (List.range tiles.length)).foldl (fun s (ti : TileId × Nat) =>
    let k := task ti.2
    putTask { k with pc := (tmEntry t).setWidth 18 } ti.1 s) s
  let s2 := { s1 with uids := s.uids + tiles.length }.modCtx (recCtx r) fun c => { c with slots := slots.foldr setAdd c.slots }
  startTiles tiles (noteLaunch tiles (task 0) s2)

/-- Classes of a task that stay on a tile. -/
def residentOf (x : Tile) (u : Nat) : List ResClass := x.resident.filterMap fun e => if e.1 = u then some e.2 else none

/-- A task that has left its resume list resumes. On its old tile it reclaims what stayed there; for another tile its
classes and written halves are saved from the old one, for it to restore, once what is in flight to them has come (R139,
R148, R354). -/
def leaveOldTile (k : Task) (old new : TileId) (s : State) : State × Task :=
  let x := s.tile old
  let left := residentOf x k.uid
  let s1 := s.modTile old fun x => { x with resident := x.resident.filter fun e => e.1 ≠ k.uid }
  if old = new then (s1, k)
  else
    let mine (u : Bool) : Bool := (getHalf x u).st == .resident && (getHalf x u).task == k.uid
    let written := k.halves.filter fun v => mine v.upper && (getHalf x v.upper).dirty
    let k1 := { (if left.contains .matrix then finishMatrix k else k) with
      restore := k.restore ++ left
      halves := k.halves.map fun v =>
        if mine v.upper && (getHalf x v.upper).dirty then { v with bytes := halfBytes x v.upper } else v }
    let freed (h : Half) : Half :=
      if h.st = .resident ∧ h.task = k.uid then { h with st := .idle, image := if h.dirty then 0 else h.image } else h
    ((left ++ written.map fun _ => ResClass.half).foldl (fun s c => saveClass old k1 c s)
      (s1.modTile old fun x => { x with half0 := freed x.half0, half1 := freed x.half1 }), k1)

/-- Whether half u of a tile still holds what a suspended task left there. -/
def halfStays (here : Bool) (k : Task) (u : Bool) (x : Tile) : Bool :=
  here && (getHalf x u).st == .resident && (getHalf x u).task == k.uid

/-- A half of a suspended task comes back: reclaimed where it stayed, restored where it was written, ACTIVE again where the tile
holds its image in that half (R133, R148), else reloaded (R139). -/
def restoreHalf (here : Bool) (k : Task) (v : SavedHalf) (x : Tile) : Tile :=
  let h := getHalf x v.upper
  if halfStays here k v.upper x then setHalf v.upper v.half x
  else if v.half.dirty then setHalf v.upper v.half (putHalfBytes v.upper v.bytes x)
  else if h.st = .idle ∧ h.image = v.half.image ∧ h.image ≠ 0 then activateHalf v.upper k x
  else beginLoad v.upper k v.half.image x

/-- What a task meets as it goes on: a written half that comes back from a poisoned save is still claimed by its next bundle, which
traps (R346, R383); loads that were saved with its core class are reissued, their pages to be walked again (R354). -/
def reclaim (poisoned here : Bool) (x : Tile) (k : Task) : Task :=
  { k with
    restore := if poisoned && k.halves.any fun v => v.half.dirty && !halfStays here k v.upper x then k.restore ++ [.half]
      else k.restore
    loadQ := if k.restore.contains .core then k.loadQ.map fun e => { e with waits := false } else k.loadQ }

/-- A suspended task or gang goes on, member i on the i-th tile (R131, R139, R148). -/
def placeSusp (v : Susp) (tiles : List TileId) (s : State) : State :=
  let s1 := (v.members.zip tiles).foldl (fun s (m : (TileId × Task) × TileId) =>
    let ((old, k), t) := m
    let (s1, k1) := leaveOldTile k old t s
    let s2 := k1.halves.foldl (fun s v => if halfStays (old == t) k v.upper (s.tile t) then s else evictHalf t v.upper s) s1
    s2.modTile t fun x =>
      let k2 := reclaim (savePoisoned s2 k1 .half) (old == t) x k1
      let x1 := k1.halves.foldl (fun x v => restoreHalf (old == t) k v x) x
      loadMap (s.die (tileDie t)) k.map
        { x1 with status := .loading, cur := k.cur, slice := 0, preempt := false, gangStop := false, freeze := 0
                  reservedFor := none, watchdog := 0
                  accOrd := Nat.max (s.tile old).accOrd x.accOrd
                  task := { returnToTask .preempted x.ic k2 with halves := [], resumed := true } }) s
  match v.members with
  | (_, k) :: _ =>
    startTiles tiles (tiles.foldl (fun s t => onTile t refillLoop s) (noteLaunch tiles { k with resumed := true } s1))
  | [] => s1

/-- A head leaves its queue. -/
def takeHead (q : BitVec 7) (h : Head) (s : State) : State :=
  s.modQueue q fun x =>
    match h with
    | .susp _ => { x with resume := x.resume.drop 1 }
    | .fresh _ => { x with headp := (x.headp + 1) % 2 ^ qLogN x.desc, passes := 0 }

/-- A placeable head starts on its tiles, or a record that fails R25 is discarded; true when it started. -/
def launchHead (q : BitVec 7) (h : Head) (tiles : List TileId) (s : State) : State × Bool :=
  let s1 := takeHead q h s
  let d := qDie (s.queue q).desc
  let s2 := s1.modDie d fun x => { x with reserving := x.reserving.filter (· ≠ headId q h) }
  match h with
  | .susp v => (placeSusp v tiles s2, true)
  | .fresh r =>
    match tmplFails s q r with
    | some n => (tmplInvalidEntry d q r n s2, false)
    | none => (placeRecord q r tiles s2, true)

/-! ### Suspension (R137, R139, R352) -/

/-- Whether a task holds a class on its tile: it has claimed it (R139), or the class holds what a claimant could not be given as
reset (log 13). -/
def holdsClass (k : Task) (c : ResClass) : Bool :=
  k.touched.contains c || match c with
    | .core => true
    | .vector => decide (k.v ≠ Task.reset.v ∨ k.pt ≠ Task.reset.pt ∨ k.movf ≠ 0) || k.lwb.any fun l => match l.val with
      | .vreg .. => true | .row .. => true | .pts _ => true | _ => false
    | .matrix => decide (k.mat ≠ Matrix.reset)
    | .transpose => decide (k.xp ≠ Transposer.reset) || k.lwb.any isXpush
    | .spill => decide (k.spill ≠ [])
    | .half => false

def lazyClasses : List ResClass := [.core, .vector, .matrix, .transpose, .spill]

/-- The task's halves as they stand (R148); their bytes stay on the tile until they are claimed (R139). -/
def ownHalves (x : Tile) : List SavedHalf :=
  [false, true].filterMap fun u =>
    let h := getHalf x u
    if (h.st = .active ∨ h.st = .overlay) ∧ h.task = x.task.uid then some ⟨u, h, []⟩
    else none

/-- A task that has stopped leaves its tile with its classes resident (R139, R148). -/
def vacate (now : Nat) (x : Tile) : Tile × Task :=
  let k := { x.task with halves := ownHalves x, cur := x.cur }
  let keep (h : Half) : Half :=
    if (h.st = .active ∨ h.st = .overlay) ∧ h.task = k.uid then { h with st := .resident, ran := now } else h
  ({ x with
      status := .free, half0 := keep x.half0, half1 := keep x.half1, slice := 0, preempt := false, gangStop := false
      freeze := 0, task := Task.reset
      resident := x.resident ++ ((lazyClasses.filter fun c => holdsClass k c && !k.restore.contains c).map fun c => (k.uid, c)) },
   k)

/-- A task as it stands at a stop with bundle B at its PC, no trap recorded (R334, R335). -/
def stopAt (ic : Nat) (lr : Bool) (k : Task) : Task :=
  { stopTask ic k with yepc := mkYepc k.pc 0 lr, npc := k.pc, taken := false, refill := false }

/-- A class of a suspended task that stays on tile t is saved, once what is in flight to it has come (R139, R251, R354). -/
def saveResident (t : TileId) (e : Nat × ResClass) (s : State) : State :=
  let s1 := if e.2 = .matrix then modUid e.1 finishMatrix s else s
  modUid e.1 (fun k => { k with restore := k.restore ++ [e.2] })
    (saveClass t (taskOf s1 e.1) e.2
      (s1.modTile t fun y => { y with resident := y.resident.erase e }))

/-- The classes that a task holds on its own tile, and that may be saved. -/
def ownClasses (s : State) (k : Task) : List ResClass :=
  lazyClasses.filter fun c => holdsClass k c && !k.restore.contains c && (c != .core || coreSavable s k.uid)

/-- The classes and halves of the STOPPED task of tile t are saved (R355). -/
def saveStopped (t : TileId) (s : State) : State :=
  let k := finishMatrix (s.tile t).task
  let cs := ownClasses s k
  let hs := (ownHalves (s.tile t)).map fun v =>
    if v.half.dirty then { v with bytes := halfBytes (s.tile t) v.upper } else v
  let gone (x : Tile) (v : SavedHalf) : Tile :=
    setHalf v.upper { v.half with st := .idle, image := if v.half.dirty then 0 else v.half.image } x
  (cs ++ (hs.filter fun v => v.half.dirty).map fun _ => ResClass.half).foldl
    (fun s c => saveClass t k c s)
    (s.modTile t fun x => { hs.foldl gone x with task := { k with restore := k.restore ++ cs, halves := k.halves ++ hs } })

/-- What a context's tasks keep on tile t is saved: their resident classes and halves, and its own task where that is
STOPPED (R355). -/
def saveTile (c : CtxId) (t : TileId) (s : State) : State :=
  let x := s.tile t
  let mine := x.resident.filter fun e => uidCtx s e.1 == some c && (e.2 != .core || coreSavable s e.1)
  let s1 := mine.foldl (fun s e => saveResident t e s) s
  let s2 := if (getHalf x false).owner = c then evictHalf t false s1 else s1
  let s3 := if (getHalf x true).owner = c then evictHalf t true s2 else s2
  if x.status = .stopped ∧ x.task.ctx = c then saveStopped t s3 else s3

/-- Whether a tile holds state of a context (R355). -/
def holdsState (s : State) (c : CtxId) (x : Tile) : Bool :=
  (x.resident.any fun e => uidCtx s e.1 == some c) || (x.task.ctx == c &&
    (x.status == .running || x.status == .loading || x.status == .ending || x.status == .held
      || (x.status == .stopped && !x.task.restore.contains .core)))

/-- What a context's suspended and stopped tasks keep on tiles is saved under an order of R355, which is complete when none
of its tasks holds tile state. -/
def flushSaves (c : CtxId) (s : State) : State :=
  if !(s.ctx c).saving then s
  else
    let s1 := ((List.range 256).map (BitVec.ofNat 8)).foldl (fun s t => saveTile c t s) s
    s1.modCtx c fun x =>
      { x with saving := s1.tiles.any (holdsState s1 c)
               saveStall := if s1.freeCount = s.freeCount then x.saveStall else 0 }

/-- The stopped tasks on some tiles, one gang in member order, enter their queue's resume list (R137, R140). -/
def suspendTiles (tiles : List TileId) (run : Nat) (s : State) : State :=
  let (s1, ms) := tiles.foldl (fun (sm : State × List (TileId × Task)) t =>
    let (x, k) := vacate s.cycle (sm.1.tile t)
    (sm.1.setTile t x, sm.2 ++ [(t, k)])) (s, [])
  match ms with
  | (_, k) :: _ => flushSaves k.ctx (s1.modQueue k.queue fun q =>
      { q with resume := q.resume ++ [⟨ms, run, 0⟩] })
  | [] => s1

/-! ### Ending tasks without `END` (R22, R342) -/

/-- A half after its task is gone: IDLE, with its image only if `CPY` never wrote it (R148); `wipe` at termination. -/
def endHalf (wipe : Bool) (uid : Nat) (h : Half) : Half :=
  if h.task = uid ∧ h.st ≠ .idle then
    { h with st := .idle, image := if wipe || h.dirty || h.st == .loading then 0 else h.image, wr := false, dirty := false }
  else h

/-- The tile is free; the task's classes are discarded without saving (R374). -/
def freeTile (wipe : Bool) (t : TileId) (s : State) : State :=
  let k := (s.tile t).task
  (s.modTile t fun x =>
    { x with status := .free, task := Task.reset, half0 := endHalf wipe k.uid x.half0, half1 := endHalf wipe k.uid x.half1
             resident := x.resident.filter fun e => e.1 ≠ k.uid, badClasses := x.badClasses.filter fun e => e.1 ≠ k.uid
             preempt := false, gangStop := false, freeze := 0, slice := 0 }).modCtx k.ctx
    fun c => { c with slots := setRemove k.saveSlot.toNat c.slots }

/-- Every bank whose word shows it HELD by the accessor becomes FREE (R374). -/
def freeBanks (a : Accessor) (s : State) : State :=
  { s with banks := (s.banks.map fun e =>
      if bankHState e.2 == 1 && bankOwner e.2 == a.ctx && bankHTask e.2 == a.slot then
        (e.1, putField e.2 8 2 (0 : BitVec 2)) else e).filter fun e => e.2 ≠ 0 }

/-- A context's side-log entries at a tile are abandoned, and with them the stores in the queue behind them, which belong
in the log as well (R281, R351). -/
def abandonLog (c : CtxId) (x : Tile) : Tile :=
  if x.sideLog.any fun e => e.ctx == c then
    { x with sideLog := x.sideLog.filter fun e => e.ctx ≠ c, storeQ := x.storeQ.filter fun e => e.ctx ≠ c }
  else x

/-- A tile's task ends without `END`; it frees its banks (R342, R376). -/
def dropTask (t : TileId) (s : State) : State :=
  let k := (s.tile t).task
  let s1 := freeBanks (taskAccessor k) (freeTile true t s)
  (s1.modTile t (abandonLog k.ctx)).modCtx k.ctx
    fun c => if k.gidx = 0 then { c with endless := c.endless + 1 } else c

/-- The reservations of a context's heads end (R131). -/
def stopHolding (c : CtxId) (s : State) : State :=
  { s with dies := s.dies.map fun d => { d with
      reserving := d.reserving.filter fun e => qOwner (s.queue e.1).desc ≠ c } }

/-- The records that have landed in a queue are discarded; one that still lands keeps its slot until it has (R36). -/
def dropRecords (q : HwQueue) : HwQueue := { q with headp := (q.landing.head?.map fun l => l.slot).getD q.tailp, passes := 0 }

/-- A context becomes TERMINATING or LOST, or FREE (log 114): its held records and suspended tasks are discarded, tasks that do not
run end at once, its commands stop; running tasks end at their next boundary. Queued records see the state at the launcher's next
selection, those of a LOST context go now (R22, R36, R139, R148, R357). -/
def endContext (c : CtxId) (st : BitVec 3) (s : State) : State :=
  let gone := s.queues.foldl (fun n q => n + (q.resume.filter fun v => v.members.any fun m => m.2.ctx == c).length) 0
  let suspUids := s.queues.toList.flatMap fun q => q.resume.flatMap fun v =>
    v.members.filterMap fun m => if m.2.ctx = c then some (m.2.uid, m.2.saveSlot.toNat) else none
  let wipe (h : Half) : Half :=
    if h.owner = c ∧ (h.st = .resident ∨ h.st = .idle) then { Half.reset with ran := 0 } else h
  let s1 := s.modCtx c fun x =>
    { x with desc := putField x.desc 0 3 st, endless := x.endless + BitVec.ofNat 64 gone
             slots := x.slots.filter fun i => !(suspUids.any fun u => u.2 == i), saving := false, dying := false }
  let s2 :=
    { stopHolding c s1 with
      queues := s1.queues.map fun q =>
        if qOwner q.desc = c then { (if st = 4 then dropRecords q else q) with resume := [] } else q
      heldRecs := s1.heldRecs.filter fun h => h.1 ≠ c
      tiles := s1.tiles.map fun x => { x with
        half0 := wipe x.half0, half1 := wipe x.half1
        resident := x.resident.filter fun e => !(suspUids.any fun u => u.1 == e.1)
        badClasses := x.badClasses.filter fun e => !(suspUids.any fun u => u.1 == e.1) }
      cmds := s1.cmds.filter fun m => m.ctx ≠ c }
  let s3 := (s.heldRecs.filter fun h => h.1 = c).foldl (fun s h =>
    match cellAddr s c h.2.1.toNat with
    | none => s
    | some a => cellWrite s a (putField (putField (cellRead s a) 120 1 (0 : BitVec 1)) 192 64 (0 : BitVec 64))) s2
  let susp := s.queues.toList.flatMap fun q => q.resume.flatMap fun v =>
    v.members.filterMap fun m => if m.2.ctx = c then some (taskAccessor m.2) else none
  let s4 := susp.foldl (fun s a => freeBanks a s) s3
  (List.finRange 256).foldl (fun s i =>
    let t : TileId := BitVec.ofNat 8 i.val
    let x := s.tile t
    if x.status ≠ .free ∧ x.status ≠ .running ∧ x.task.ctx = c then dropTask t s else s) s4

/-! ### Selection (R129) -/

/-- CMDBASE of a head. -/
def headBase : Head → BitVec 32
  | .susp x => match x.members with | (_, k) :: _ => k.cmdbase | [] => 0
  | .fresh r => recCmdbase r

/-- While a context is recorded its launches wait for room in the log; in replay its tasks start only in logged order: the
oldest logged launch is this head's. A suspended task has started, and its resumption is no launch of the log (R371, R372). -/
def replayAllows (s : State) (q : BitVec 7) (h : Head) : Bool :=
  let ctx := qOwner (s.queue q).desc
  let c := s.ctx ctx
  match h with
  | .susp _ => true
  | .fresh _ =>
    if c.recording then !logFull s ctx 1
    else !c.replaying || match logFind s ctx fun r => logKind r == 2 with
      | none => false
      | some (_, r) => field r 0 64 == BitVec.ofNat 64 (packNat (launchLog q (headBase h)))

/-- A queue that its launcher considers: enabled, of an ACTIVE owner, with a head present (R129). -/
def queueReady (s : State) (q : BitVec 7) : Bool :=
  let d := (s.queue q).desc
  qEn d && s.ctxActive (qOwner d) && match headOf s q with | some h => replayAllows s q h | none => false

/-! ### Fields of a timed-launch entry (R142) -/

def tlStart (v : BitVec 256) : Nat := (field v 0 64).toNat
def tlQueue (v : BitVec 256) : BitVec 7 := field v 64 7
def tlEn (v : BitVec 256) : Bool := bit v 71
def tlLead (v : BitVec 256) : Nat := (field v 72 12).toNat

/-- Whether a timed-launch entry of a die is armed for a queue, whose head is then the entry's part, placed never before its time
(R142). -/
def timedFor (s : State) (die : BitVec 1) (q : BitVec 7) : Bool := (s.die die).timed.any fun e => tlEn e.v && tlQueue e.v == q

/-- The queues of a die in the order in which a selection takes them. -/
def queueOrder (s : State) (die : BitVec 1) : List (BitVec 7) :=
  let on := ((List.range 128).map (BitVec.ofNat 7)).filter fun q =>
    qDie (s.queue q).desc == die && queueReady s q && !timedFor s die q
  (List.range 16).flatMap fun i =>
    let r := 15 - i
    let p := (s.die die).rankPtr.toList.getD r 0
    let mine := on.filter fun q => queueRank s q == r
    (mine.filter fun q => decide (p.toNat ≤ q.toNat)) ++ mine.filter fun q => decide (q.toNat < p.toNat)

/-- A head that cannot be placed is passed over; a gang's 64th pass makes it reserving (R129, R131). -/
def passOver (q : BitVec 7) (h : Head) (s : State) : State :=
  let n := (match h with | .susp v => v.passes | .fresh _ => (s.queue q).passes) + 1
  let d := qDie (s.queue q).desc
  let s1 := s.modQueue q fun x =>
    match h, x.resume with
    | .susp v, _ :: rest => { x with resume := { v with passes := n } :: rest }
    | .susp _, [] => x
    | .fresh _, _ => { x with passes := n }
  if (headReq s h).n > 1 ∧ n ≥ 64 ∧ !(s.die d).reserving.contains (headId q h) then
    s1.modDie d fun x => { x with reserving := x.reserving ++ [headId q h] }
  else s1

/-- The pointer of a queue's rank moves past it (R129). -/
def advancePointer (die : BitVec 1) (q : BitVec 7) (s : State) : State :=
  s.modDie die fun x => { x with rankPtr := x.rankPtr.setIfInBounds (queueRank s q) (q + 1) }

/-- The records that stand in a die's queues of contexts that are TERMINATING or LOST, or FREE (log 114), see it at a selection and
are discarded (R22). -/
def discardEnded (die : BitVec 1) (s : State) : State :=
  { s with queues := s.queues.map fun q =>
      if qDie q.desc == die && !s.ctxLive (qOwner q.desc) then dropRecords q else q }

/-- One selection of a die's launcher (R129). -/
def selection (die : BitVec 1) (s : State) : State :=
  let s := discardEnded die s
  ((queueOrder s die).foldl (fun (sd : State × Bool) q =>
    if sd.2 then sd
    else match headOf sd.1 q with
      | none => sd
      | some h =>
        match chooseTiles sd.1 q none false h with
        | none => (passOver q h sd.1, false)
        | some ts =>
          let (s1, ok) := launchHead q h ts sd.1
          if ok then (advancePointer die q s1, true) else (s1, false)) (s, false)).1

/-! ### Yield arbitration (R137) -/

/-- Whether a head can be placed on tile t alone, once its task has left. -/
def fitsTile (s : State) (t : TileId) (q : BitVec 7) (h : Head) : Bool :=
  (headReq s h).n == 1 && tileOffered s (headId q h) none t && mayMove s h [t]

/-- The candidates of tile t in order: rank falling, then round robin. The first that fits and outranks the current task
(or is free of it, where the current task does not fit) is placed; records that fail R25 are discarded. -/
def arbitrate (t : TileId) (n : Nat) (s : State) : State :=
  let x := s.tile t
  let k := x.task
  let rem := x.sliceLen - x.slice
  let cur := decide (n ≤ rem)
  ((queueOrder s (tileDie t)).foldl (fun (sd : State × Bool) q =>
    if sd.2 then sd
    else if cur && decide (queueRank s q ≤ queueRank s k.queue) then sd
    else match headOf sd.1 q with
      | none => sd
      | some h =>
        if !fitsTile sd.1 t q h || decide (headRun sd.1 h > rem) then sd
        else if decide ((sd.1.queue k.queue).resume.length ≥ 16) then (sd.1, true)
        else match h with
          | .fresh r =>
            match tmplFails sd.1 q r with
            | some c => (tmplInvalidEntry (tileDie t) q r c (takeHead q h sd.1), false)
            | none =>
              (advancePointer (tileDie t) q (placeRecord q r [t]
                (suspendTiles [t] n ((takeHead q h sd.1).modTaskAt t (stopAt x.ic false)))), true)
          | .susp v =>
            (advancePointer (tileDie t) q (placeSusp v [t]
              (suspendTiles [t] n ((takeHead q h sd.1).modTaskAt t (stopAt x.ic false)))), true)) (s, false)).1

end Sys2Proof.Machine
end

