-- ==== Sys2Proof/Machine/Control.lean ====
section
/-! DEFINITION. Control of the sequencer: branches (R180, R201 to R203), halves (R151, R152), empty cycles (R204), yields and
`END` (R205, R206), software traps and returns (R343, R344), hardware loops (R183 to R188), Y-registers (R208, R345), and
records from a running task (R126, R127). -/

namespace Sys2Proof.Machine

/-! ### Branches -/

/-- Static target of a format J word: 4·sx(imm18, 18) from its own bundle (R155). -/
def jTarget (s : State) (imm : BitVec 18) : BitVec 18 := s.tk.pc + (imm <<< 2)

/-- The branch is taken. -/
def takeBranch (t : BitVec 18) (s : State) : State := s.modTask fun k => { k with npc := t, taken := true }

/-- n empty issue cycles follow the bundle (R176). -/
def owe (n : Nat) (s : State) : State := s.modTask fun k => { k with empties := k.empties + n }

/-- The next three bundles are the branch's shadow, which its own bundle is not in (R180): it begins as the bundle ends. -/
def openShadow (s : State) : State := emit 1 .shadow s

/-- `BR` (R180, R201): hint taken. A wrong prediction costs four cycles without effect (log 7). -/
def execBr (imm : BitVec 18) (s : State) : Out :=
  if s.guard then slotDone (openShadow (takeBranch (jTarget s imm) s)) else slotDone (owe 4 s)

/-- `BR.N` (R180, R201): hint not taken. -/
def execBrN (imm : BitVec 18) (s : State) : Out :=
  if s.guard then slotDone (owe 4 (takeBranch (jTarget s imm) s)) else slotDone (openShadow s)

/-- `CALL` (R202). -/
def execCall (imm : BitVec 18) (s : State) : Out :=
  if s.guard then slotDone (emitA 1 31 (zx s.tk.npc) (openShadow (takeBranch (jTarget s imm) s))) else slotDone (owe 4 s)

/-- YTVAL of the encoding causes (R170). -/
def encTval (s : State) (addr : BitVec 18) : Word :=
  BitVec.ofNat 64 (packNat [(s.slotWord.toNat, 32), (s.slot.toNat, 3), (0, 1), (addr.toNat, 18)])

/-- Address of the executing slot's own word (R170). -/
def slotAddr (s : State) : BitVec 18 := s.tk.pc + BitVec.ofNat 18 (4 * s.slot.toNat)

/-- Whether an address lies where fetch may go: the current half, or the monitor region in monitor mode (R147, R155). -/
def inFetchRange (s : State) (a : Nat) : Bool :=
  match s.tk.mode with
  | .monitor => decide (0x20000 ≤ a ∧ a < 0x22000)
  | .task => decide (halfBase s.me.cur ≤ a ∧ a < halfBase s.me.cur + 0x10000)

/-- `JR` (R203). -/
def execJr (a : BitVec 5) (s : State) : Out :=
  runSlot [] (fun s =>
    let t := readA s.tk a
    if field t 0 2 ≠ 0 ∨ !inFetchRange s t.toNat then .trap .fetchBound (encTval s (field t 0 18))
    else .ok (owe 3 (takeBranch (field t 0 18) s))) s

/-- `BSWAP` (R152): the halves change as its bundle ends. -/
def execBswap (imm : BitVec 18) (s : State) : Out :=
  runSlot [] (fun s =>
    let o := !s.me.cur
    let h := getHalf s.me o
    if h.st ≠ .overlay ∨ h.owner ≠ s.tk.ctx ∨ h.wr then .trap .bswapState (encTval s (jTarget s imm))
    else .ok (owe 3 (takeBranch (jTarget s imm) (s.modTask fun k => { k with swaps := true })))) s

/-- Whether an uncompleted command is a copy into the instruction scratchpad, from this tile or of its task, which may have
issued it on another tile (R151, R290, R293). -/
def cmdToScratchpad (t : TileId) (u : Nat) (c : Cmd) : Bool :=
  (c.tile == t || c.task == u) && intoScratchpad c

/-- `IFENCE` (R151), never predicated. -/
def execIfence (s : State) : Out :=
  if s.cmds.any (cmdToScratchpad s.cur s.tk.uid) then slotFreeze .fence s
  else
    let fix (h : Half) : Half := if h.st = .overlay then { h with wr := false } else h
    slotDone (owe 1 (s.modTile s.cur fun x => { x with half0 := fix x.half0, half1 := fix x.half1 }))

/-- `NOP` (R167, R204): no visible state changes. -/
def execNop (s : State) : Out := runSlot [] (fun s => .ok s) s

/-- `NOPN` (R204): its bundle occupies km1 + 1 issue cycles. -/
def execNopn (km1 : BitVec 12) (s : State) : Out := runSlot [] (fun s => .ok (owe km1.toNat s)) s

/-! ### Giving up the tile -/

/-- The outcome of a slot that has completed its own bundle. -/
def bundleDone (s : State) : Out := .next { s with sig := .closed }

/-- `YIELD` (R137, R138, R205), never predicated: its bundle completes, the overrun count restarts, and a task of gang
size 1 arbitrates. -/
def execYield (imm : BitVec 18) (s : State) : Out :=
  let n := 4 * (imm.toNat + 1)
  let s1 := (completeBundle s).modTask fun k => { k with overCount := 0, declared := n, overrun := false }
  bundleDone (if s.tk.gsize = 0 ∧ s.tk.mode = .task then arbitrate s.cur n s1 else s1)

/-- `END` (R206, R374): the writes in flight land, and the retirement sequence may begin with the PC at the `END`
bundle. -/
def execEnd (s : State) : Out :=
  if !s.guard then slotDone s
  else
    bundleDone ((settle (resolveShadow (issueCycle s))).modTile s.cur fun x =>
      { x with status := .ending, task := { firstIssueOver x.task with
        bundle := x.task.bundle + 1, npc := x.task.pc, endAgain := some x.task.pc } })

/-- `TRAP` (R343): the bundle completes, then the trap is taken with B the next bundle; in monitor mode MONITOR_FAULT
names the `TRAP` bundle (R341). -/
def execTrap (n : BitVec 4) (s : State) : Out :=
  if !s.guard then slotDone s
  else
    let s1 := completeBundle s
    let addr := match s.tk.mode with | .task => s1.tk.pc | .monitor => s.tk.pc
    bundleDone (takeTrap s.cur (causeCode (.softTrap n)) false 0 0 addr 0 0 s1)

/-- The writes of the monitor land, and the return of R344 follows; in task mode the instruction is PRIVILEGED (R168). -/
def eret (ret : State → State) (s : State) : Out :=
  match s.tk.mode with
  | .task => slotTrap .privileged (encTval s (slotAddr s)) s
  | .monitor =>
    bundleDone (ret ((settle (issueCycle s)).modTask fun k => { k with bundle := k.bundle + 1 }))

/-- `ERET` (R344). -/
def execEret (s : State) : Out := eret (fun s => resumeOn s.cur false s) s

/-- `ERET.SKIP` (R344). -/
def execEretSkip (s : State) : Out := eret (fun s => resumeOn s.cur true s) s

/-- `ERET.RAISE` (R344): the task stops with the record as it stands. -/
def execEretRaise (s : State) : Out :=
  eret (fun s => stopUnrouted s.cur ((endMonitorLoops 4 s).modTask fun k => { k with mode := .task, pc := field k.yepc 0 18 })) s

/-! ### Loops -/

/-- The first check of R186 that a loop instruction fails. -/
def loopFails (k : Task) (n : BitVec 2) (last : BitVec 18) : Option (BitVec 4) :=
  if k.loops.length ≥ 4 then some 1
  else if k.loops.any fun f => f.n == n then some 2
  else if k.loops.any fun f => inBody f k.pc && decide (f.last.toNat < last.toNat) then some 3
  else if swpActive k then some 4
  else none

/-- A loop instruction issues (R183, R185, R186): its frame becomes the innermost, its body begins with the bundle after its own,
and its first pass starts when its bundle completes. -/
def startLoop (n : BitVec 2) (swp : Option (Fin 4)) (imm : BitVec 12) (s : State) : Out :=
  let last := s.tk.pc.toNat + 4 * imm.toNat
  if !inFetchRange s last then slotTrap .fetchBound (encTval s (slotAddr s)) s
  else match loopFails s.tk n (BitVec.ofNat 18 last) with
  | some c => slotTrap .loopForm (wordTval s c) s
  | none =>
    slotDone (s.modTask fun k => { k with
      newLoop := true
      loops := { n, own := k.pc, first := bundleEnd s.me.imem k.pc, last := BitVec.ofNat 18 last, swp, started := 0, drain := false
                 filled := 0, nops := 0, frozen := 0, passes := 0 } :: k.loops })

/-- `LOOP` (R183). -/
def execLoop (n : BitVec 2) (imm : BitVec 12) (s : State) : Out := startLoop n none imm s

/-- `LOOP.SWP` (R188). -/
def execLoopSwp (n : BitVec 2) (sm1 : BitVec 2) (imm : BitVec 12) (s : State) : Out := startLoop n (some sm1.toFin) imm s

/-! ### Y-registers (R208, R345) -/

/-- YTASK (R135). -/
def ytask (k : Task) : Word :=
  BitVec.ofNat 64 (packNat [(k.tmpl.toNat, 16), (k.queue.toNat, 7), (k.ctx.toNat, 6), (k.stage.toNat, 4), (k.gidx.toNat, 4),
    (k.gsize.toNat, 4), (b2n k.resumed, 1)])

/-- State of a half as its task sees it (R150). -/
def halfCode (k : Task) (h : Half) : Nat :=
  match h.st with
  | .idle => 0
  | .active => 1
  | .overlay => if h.task = k.uid then 2 else 3
  | _ => 3

/-- YIHALF (R150). -/
def yihalf (x : Tile) : Word :=
  BitVec.ofNat 64 (packNat [(b2n x.cur, 1), (halfCode x.task x.half0, 2), (halfCode x.task x.half1, 2), (b2n x.half0.wr, 1),
    (b2n x.half1.wr, 1)])

/-- YLWBN (R345). -/
def ylwbn (k : Task) : Word :=
  BitVec.ofNat 64 (packNat [((k.lwb.filter isRegWrite).length, 6), (0, 2), ((k.lwb.filter isRowLanding).length, 7)])

/-- Y-register n as it reads (R345). -/
def readY (s : State) (n : BitVec 12) : Word :=
  let k := s.tk
  match n.toNat with
  | 0x000 => k.fflags
  | 0x001 => k.movf
  | 0x002 => s.ftime
  | 0x003 => zx k.cmdseq
  | 0x004 => ytask k
  | 0x005 => zx k.ctx
  | 0x006 => yihalf s.me
  | 0x007 => BitVec.ofNat 64 ((s.me.sliceLen - s.me.slice) % 2 ^ 25)
  | 0x010 => k.ycause
  | 0x011 => k.yepc
  | 0x012 => k.ytval
  | 0x013 => ylwbn k
  | m => k.yms.toList.getD (m - 0x18) 0

/-- Whether the map marks a Y-register as monitor-only (R345). -/
def yMonitorOnly (n : BitVec 12) : Bool := decide (0x010 ≤ n.toNat)

/-- `SRD` (R208): a read of YMOVF claims the vector class. -/
def execSrd (d : BitVec 6) (y : BitVec 12) (s : State) : Out :=
  runSlot [d] (fun s =>
    if yMonitorOnly y && s.tk.mode == .task then .trap .privileged (encTval s (slotAddr s))
    else
      let body (s : State) : SlotRes := .ok (emitS 1 d (readY s y) s)
      if y = 0x001 then needClass .vector body s else body s) s

/-- `SWR` (R208): writes to read-only registers and fields are ignored. -/
def execSwr (d : BitVec 6) (y : BitVec 12) (s : State) : Out :=
  runSlot [d] (fun s =>
    if yMonitorOnly y && s.tk.mode == .task then .trap .privileged (encTval s (slotAddr s))
    else .ok (emit 1 (.yreg y (readS s.tk d)) s)) s

/-! ### Records from a running task -/

/-- Fields of a launch word (R126). -/
def lwTmpl (w : Word) : BitVec 16 := field w 0 16
def lwQueue (w : Word) : BitVec 7 := field w 16 7
def lwBase (w : Word) : BitVec 32 := field w 32 32

/-- Low and high word of a scalar register as two arguments. -/
def argPair (v : Word) : List (BitVec 32) := [field v 0 32, field v 32 32]

/-- The checks of R126 on a launch word, then the body. -/
def checkLaunch (lw : Word) (body : State → SlotRes) (s : State) : SlotRes :=
  if field lw 23 9 ≠ 0 then .trap .launchWord 0
  else if qOwner (s.queue (lwQueue lw)).desc ≠ s.tk.ctx then .trap .queueOwner 0
  else body s

/-- Records are decided at issue, or in a branch shadow at its resolution (R126, R181); S[d] takes the status at c+4. -/
def sendRecords (q : BitVec 7) (recs : List (BitVec 256)) (spawn : Bool) (d : BitVec 6) (s : State) : State :=
  if s.tk.shadow > 0 then
    let o := s.ordNow
    s.modTask fun k => { k with held := k.held ++ [.enq q recs spawn d (s.me.ic + 4) o] }
  else
    let (s', v) := enqueueRecords q recs spawn s
    emitS 4 d v s'

/-- `ENQ` (R126, R207). -/
def execEnq (d a b : BitVec 6) (s : State) : Out :=
  runSlot [d, a, b, b + 1, b + 2] (fun s =>
    let k := s.tk
    let lw := readS k a
    checkLaunch lw (fun s =>
      .ok (sendRecords (lwQueue lw)
        [mkRecord (lwTmpl lw) (lwQueue lw) k.ctx (lwBase lw)
          (argPair (readS k b) ++ argPair (readS k (b + 1)) ++ argPair (readS k (b + 2)))] false d s)) s) s

/-- The records of a `SPAWNV`: one for each non-zero lane, in rising order (R127). -/
def spawnRecords (ctx : CtxId) (lw arg : Word) (v : VReg) : List (BitVec 256) :=
  (List.finRange 256).filterMap fun i =>
    let x := laneLow v.lanes[i]
    if x = 0 then none
    else some (mkRecord (lwTmpl lw) (lwQueue lw) ctx (lwBase lw + BitVec.ofNat 32 i.val)
      ([BitVec.ofNat 32 i.val, x] ++ argPair arg))

/-- `SPAWNV` (R127, R207): its read of V[a] touches the vector class (R139; log 13). -/
def execSpawnv (d a b : BitVec 6) (s : State) : Out :=
  runClaiming [.vector] [d, b, b + 1] (fun s =>
    let k := s.tk
    let v := readV k a
    let lw := readS k b
    checkTags [⟨0, v.tag, false, acceptIndex v.tag⟩]
      (checkLaunch lw fun s =>
        .ok (sendRecords (lwQueue lw) (spawnRecords k.ctx lw (readS k (b + 1)) v) true d s)) s) s

end Sys2Proof.Machine
end

