-- ==== Sys2Proof/Machine/GlobalMem.lean ====
section
/-! DEFINITION. Scalar global accesses as they issue (R283 to R286), fences (R308) and bank release (R145). What the queues
then do is in Machine/Scalars.lean. -/

namespace Sys2Proof.Machine

/-- YTVAL of R282. -/
def transTval (va : Word) (type : BitVec 2) (imp : Bool) (level : BitVec 3) (logIdx : BitVec 6) : Word :=
  BitVec.ofNat 64 (packNat [((field va 0 48).toNat, 48), (type.toNat, 2), (b2n imp, 1), (level.toNat, 3), (logIdx.toNat, 6)])

/-- Bytes of an access size (R283). -/
def sizeBytes : MemSize → Nat
  | .b => 1 | .h => 2 | .w => 4 | .d => 8

/-- The checks of R283, then the body. -/
def checkGlobal (va : Word) (z : Nat) (type : BitVec 2) (body : State → SlotRes) (s : State) : SlotRes :=
  if field va 48 16 ≠ 0 then .trap .vaddrRange (transTval va type false 0 0)
  else if va.toNat % z ≠ 0 then .trap .gaddrAlign (transTval va type false 0 0)
  else body s

/-- Whether an access of the acting tile finds a queue that it needs full (R284). -/
def queueFull (s : State) (toLoad toStore : Bool) : Bool :=
  (toLoad && decide (s.tk.loadQ.length ≥ 32)) || (toStore && decide (s.me.storeQ.length ≥ 32))

/-- An access issues: it enters its queue at once, or in a branch shadow after a right resolution (R181, R284). -/
def issueAccess (toLoad toStore : Bool) (op : ScalarOp) (va : Word) (z : Nat) (d : BitVec 6) (acq rel : Option Scope)
    (s : State) : SlotRes :=
  if s.tk.shadow = 0 ∧ queueFull s toLoad toStore then .freeze .queueFull
  else
    let e : QEntry := { op, va, size := z, d, acq, rel, ord := s.me.accOrd, waits := false, ctx := s.tk.ctx, uid := s.tk.uid
                        bundle := s.tk.bundle, walked := false }
    let s1 := s.modTile s.cur fun t => { t with accOrd := t.accOrd + 1 }
    if s.tk.shadow > 0 then .ok (s1.modTask fun k => { k with held := k.held ++ [.access toLoad toStore e] })
    else .ok (enterAccess toLoad toStore e s1)

/-- The watchpoints of a core store to global memory (R366), then the body. -/
def checkWatch (c : Cause) (va : Word) (z : Nat) (body : State → SlotRes) (s : State) : SlotRes :=
  match coreWatch s false [(va.toNat, z)] with
  | some tv => .trap c tv
  | none => body s

/-- Address of the scaled forms (R283). -/
def scaledVa (s : State) (z : MemSize) (a imm : BitVec 6) : Word :=
  readS s.tk a + BitVec.ofNat 64 (sizeBytes z) * sx imm

def loadAt (va : Word) (z : Nat) (d : BitVec 6) (acq : Option Scope) (s : State) : SlotRes :=
  checkGlobal va z 0 (issueAccess true false .load va z d acq none) s

def storeAt (va : Word) (z : Nat) (v : Word) (rel : Option Scope) (s : State) : SlotRes :=
  checkGlobal va z 1 (checkWatch .watchStore va z (issueAccess false true (.store v) va z 0 none rel)) s

def amoAt (o : AmoOp) (va v e : Word) (d : BitVec 6) (acq rel : Option Scope) (s : State) : SlotRes :=
  checkGlobal va 8 2 (checkWatch .watchAtomic va 8
    (issueAccess (decide (d ≠ 0)) (decide (d = 0)) (.amo o v e) va 8 d acq rel)) s

/-- `LD.G` (R283). -/
def execLdG (z : MemSize) (d a imm : BitVec 6) (s : State) : Out :=
  runSlot [d, a] (fun s => loadAt (scaledVa s z a imm) (sizeBytes z) d none s) s

/-- `ST.G` (R283). -/
def execStG (z : MemSize) (d a imm : BitVec 6) (s : State) : Out :=
  runSlot [d, a] (fun s => storeAt (scaledVa s z a imm) (sizeBytes z) (readS s.tk d) none s) s

/-- `LD.G.ACQ` (R283, R307). -/
def execLdGAcq (d a : BitVec 6) (sc : Scope) (s : State) : Out :=
  runSlot [d, a] (fun s => loadAt (readS s.tk a) 8 d (some sc) s) s

/-- `ST.G.REL` (R283, R307). -/
def execStGRel (d a : BitVec 6) (sc : Scope) (s : State) : Out :=
  runSlot [d, a] (fun s => storeAt (readS s.tk a) 8 (readS s.tk d) (some sc) s) s

/-- `AMO.G` (R285). -/
def execAmoG (o : AmoOp) (d a b : BitVec 6) (s : State) : Out :=
  runSlot [d, a, b] (fun s => amoAt o (readS s.tk a) (readS s.tk b) (readS s.tk d) d none none s) s

/-- The ordered forms of `AMO.G` (R285): v is S[d], for `CAS` S[d+1]. -/
def orderedAmo (o : AmoOp) (d a : BitVec 6) (acq rel : Option Scope) (s : State) : Out :=
  runSlot (if o = .cas then [d, d + 1, a] else [d, a]) (fun s =>
    amoAt o (readS s.tk a) (if o = .cas then readS s.tk (d + 1) else readS s.tk d) (readS s.tk d) d acq rel s) s

/-- `AMO.G.op.ACQ` (R285, R307). -/
def execAmoGAcq (o : AmoOp) (d a : BitVec 6) (sc : Scope) (s : State) : Out := orderedAmo o d a (some sc) none s

/-- `AMO.G.op.REL` (R285, R307). -/
def execAmoGRel (o : AmoOp) (d a : BitVec 6) (sc : Scope) (s : State) : Out := orderedAmo o d a none (some sc) s

/-- `AMO.G.op.AR` (R285, R307). -/
def execAmoGAr (o : AmoOp) (d a : BitVec 6) (sc : Scope) (s : State) : Out := orderedAmo o d a (some sc) (some sc) s

/-- `QMARK` (R286). -/
def execQmark (s : State) : Out := runSlot [] (issueAccess true true .mark 0 1 0 none none) s

/-- Whether an entry is an access, not a marker. -/
def isAccess (e : QEntry) : Bool := e.op != .mark

/-- Whether a scope waits for host-link completions (R305). -/
def hostScope : Scope → Bool
  | .sys => true | .fab => true | _ => false

/-- Whether every scalar access of the acting tile with an order below n has performed at a scope, and its side log is
empty (R305, R307, R308). -/
def performedBefore (x : Tile) (n : Nat) (sc : Scope) : Bool :=
  (x.task.loadQ.all fun e => !isAccess e || decide (e.ord ≥ n)) && (x.storeQ.all fun e => !isAccess e || decide (e.ord ≥ n))
    && x.sideLog.isEmpty && (!hostScope sc || x.hostPend.all fun w => decide (w.e.ord ≥ n))

/-- `FENCE` (R308). -/
def execFence (sc : Scope) (s : State) : Out :=
  runSlot [] (fun s => if performedBefore s.me s.me.accOrd sc then .ok s else .freeze .fence) s

/-! ### Bank release -/

/-- A release of a region's banks (R145), held in a branch shadow. -/
def relbBody (reg stg : BitVec 4) (free : Bool) (s : State) : SlotRes :=
  let e := s.tk.regions[reg.toNat]'reg.isLt
  if !regEn e then .trap .regionOff 0
  else if s.tk.shadow > 0 then .ok (s.modTask fun k => { k with held := k.held ++ [.relb reg stg free] })
  else .ok (releaseBanks e free stg s)

/-- `RELB` (R145): each bank's word changes after the bundle, by the next cycle of the tile. -/
def execRelb (reg stg : BitVec 4) (s : State) : Out := runSlot [] (relbBody reg stg false) s

/-- `RELB.FREE` (R145). -/
def execRelbFree (reg : BitVec 4) (s : State) : Out := runSlot [] (relbBody reg 0 true) s

end Sys2Proof.Machine
end

