-- ==== Sys2Proof/Machine/Params.lean ====
section
/-! DEFINITION. The parameter sets of the copy channels (R290): their fields, and what the kinds of command make of them. -/

namespace Sys2Proof.Machine

/-! ### Fields of a parameter set (R290) -/

abbrev Par := Vector Word 8

def parKind (p : Par) : BitVec 4 := field p[0] 0 4
def parDir (p : Par) : Nat := (field p[0] 4 2).toNat
def parDims (p : Par) : Nat := (field p[0] 6 2).toNat
def parWaitx (p : Par) : BitVec 6 := field p[0] 8 6
def parHs (p : Par) : Bool := bit p[0] 14
def parHidx (p : Par) : BitVec 4 := field p[0] 15 4
def parAdv (p : Par) : Bool := bit p[0] 19
def parFmt (p : Par) : BitVec 6 := field p[0] 20 6
def parMode (p : Par) : Nat := (field p[0] 26 3).toNat
def parTopk (p : Par) : Nat := (field p[0] 29 3).toNat
def parTk (p : Par) : Bool := bit p[0] 32
def parDlv (p : Par) : Bool := bit p[0] 33
def parArr (p : Par) : Bool := bit p[0] 34
def parCell (p : Par) : BitVec 16 := field p[0] 38 16
def parGaddr (p : Par) : Word := p[1]
def parLaddr (p : Par) : Word := p[2]
/-- LEN0, row bytes, or bytes of a remote command. -/
def parLen0 (p : Par) : Nat := (field p[3] 0 24).toNat
/-- CNT1, or NROWS. -/
def parCnt1 (p : Par) : Nat := (field p[3] 24 24).toNat
def parCnt2 (p : Par) : Nat := (field p[3] 48 16).toNat
/-- GS1, or the table's row stride. -/
def parGs1 (p : Par) : Nat := (field p[4] 0 32).toNat
def parGs2 (p : Par) : Nat := (field p[4] 32 32).toNat
def parLs1 (p : Par) : Nat := (field p[5] 0 24).toNat
def parLs2 (p : Par) : Nat := (field p[5] 24 24).toNat
def parRow0 (p : Par) : Nat := (field p[6] 0 6).toNat
def parRows (p : Par) : Nat := (field p[6] 6 7).toNat + 1
def parIbase (p : Par) : BitVec 32 := field p[6] 32 32
def parIndexLa (p : Par) : Word := zx (field p[6] 0 28)
def parNidx (p : Par) : Nat := (field p[6] 32 20).toNat
def parBagLa (p : Par) : Word := zx (field p[7] 0 28)
def parNbag (p : Par) : Nat := (field p[7] 32 20).toNat
def parChip (p : Par) : BitVec 10 := field p[7] 0 10
def parTc (p : Par) : BitVec 3 := field p[7] 10 3
def parRecordLa (p : Par) : Word := zx (field p[7] 16 28)

/-- Width of an output row of a `POOL` (R297). -/
def poolRowBytes (p : Par) : Nat := if parMode p = 1 then 2 * parLen0 p else parLen0 p

/-- Bytes that a command moves at its Sward side (R290, R296 to R300). -/
def cmdBytes (kind : Nat) (p : Par) : Nat :=
  match kind with
  | 1 => parLen0 p * Nat.max 1 (parCnt1 p) * Nat.max 1 (parCnt2 p)
  | 2 => if parTk p then 8 * (parTopk p + 1) * parRows p else 1024 * parRows p
  | 3 => parNidx p * parLen0 p
  | 4 => parNbag p * poolRowBytes p
  | 9 => 0
  | _ => parLen0 p

/-- Bytes from LADDR to the end of a command's Sward side (R295). -/
def cmdSpan (kind : Nat) (p : Par) : Nat :=
  if cmdBytes kind p = 0 then 0
  else if kind = 1 then (Nat.max 1 (parCnt2 p) - 1) * parLs2 p + (Nat.max 1 (parCnt1 p) - 1) * parLs1 p + parLen0 p
  else if kind = 7 ∧ parMode p = 7 then 16
  else cmdBytes kind p

/-- Bytes from GADDR to the end of a command's global side (R295, R297). -/
def globalSpan (kind : Nat) (p : Par) : Nat :=
  match kind with
  | 1 => if cmdBytes 1 p = 0 then 0
    else (Nat.max 1 (parCnt2 p) - 1) * parGs2 p + (Nat.max 1 (parCnt1 p) - 1) * parGs1 p + parLen0 p
  | 3 => if parCnt1 p = 0 then 0 else (parCnt1 p - 1) * parGs1 p + parLen0 p
  | 4 => if parCnt1 p = 0 then 0 else (parCnt1 p - 1) * parGs1 p + parLen0 p
  | _ => 0

/-- Whether a kind reads its Sward side, and whether it writes it. -/
def cmdReadsSward (kind : Nat) (p : Par) : Bool := (kind == 1 && parDir p == 1) || kind == 6 || kind == 7 || kind == 8
def cmdWritesSward (kind : Nat) (p : Par) : Bool :=
  (kind == 1 && parDir p == 0) || kind == 2 || kind == 3 || kind == 4 || kind == 5 || kind == 7

end Sys2Proof.Machine
end

