-- ==== Sys2Proof/Machine/Flags.lean ====
section
/-! DEFINITION. The flag computations that several families share: integer narrowing with QS (R49), lane-wise float
operations of both arithmetic formats with their flags (R45), and the drains from I40 (R58). -/

namespace Sys2Proof.Machine

/-- Narrowing to an integer type's range: `.SAT` clamps and sets QS, `.WRAP` is modular (R49). -/
def narrow (t : ITy) (sat : Bool) (v : Int) : Int × Flags :=
  if sat then (satInt v (ityLo t) (ityHi t), flagIf (decide (v < ityLo t ∨ v > ityHi t)) flagQS) else (v, 0)

/-- Both halves of a packed BF16x2 lane (R45). -/
def bfHalves (x : BitVec 32) : BitVec 16 × BitVec 16 := (field x 0 16, field x 16 16)

/-- A float operation of two operands in one lane of format f under mode m (R45, R220). -/
def fLane2 (f : FTy) (m : RMode) (op : FVal → FVal → Nat × Flags) (x y : BitVec 32) : BitVec 32 × Flags :=
  match f with
  | .f32 => fBits 32 (op (f32 x) (f32 y))
  | .bf16 =>
    let lo := toBF16 m (op (bf16 (bfHalves x).1) (bf16 (bfHalves y).1))
    let hi := toBF16 m (op (bf16 (bfHalves x).2) (bf16 (bfHalves y).2))
    (hi.1 ++ lo.1, lo.2 ||| hi.2)

/-- The same with three operands. -/
def fLane3 (f : FTy) (m : RMode) (op : FVal → FVal → FVal → Nat × Flags) (x y z : BitVec 32) : BitVec 32 × Flags :=
  match f with
  | .f32 => fBits 32 (op (f32 x) (f32 y) (f32 z))
  | .bf16 =>
    let lo := toBF16 m (op (bf16 (bfHalves x).1) (bf16 (bfHalves y).1) (bf16 (bfHalves z).1))
    let hi := toBF16 m (op (bf16 (bfHalves x).2) (bf16 (bfHalves y).2) (bf16 (bfHalves z).2))
    (hi.1 ++ lo.1, lo.2 ||| hi.2)

/-- An exact selection in one lane (R199, R221). -/
def fLaneSel (f : FTy) (wantMax : Bool) (x y : BitVec 32) : BitVec 32 × Flags :=
  match f with
  | .f32 => fBits 32 (fMinMax fmtF32 wantMax x.toNat y.toNat)
  | .bf16 =>
    let lo := fBits 16 (fMinMax fmtBF16 wantMax (bfHalves x).1.toNat (bfHalves y).1.toNat)
    let hi := fBits 16 (fMinMax fmtBF16 wantMax (bfHalves x).2.toNat (bfHalves y).2.toNat)
    (hi.1 ++ lo.1, lo.2 ||| hi.2)

/-- A mask of w ones or zeros. -/
def maskBits (w : Nat) (b : Bool) : BitVec w := if b then BitVec.allOnes w else 0

/-- A float compare in one lane: −1 where the relation holds (R219). -/
def fLaneCmp (f : FTy) (r : FRel) (x y : BitVec 32) : BitVec 32 × Flags :=
  match f with
  | .f32 => let c := fRelate r (f32 x) (f32 y); (maskBits 32 c.1, c.2)
  | .bf16 =>
    let lo := fRelate r (bf16 (bfHalves x).1) (bf16 (bfHalves y).1)
    let hi := fRelate r (bf16 (bfHalves x).2) (bf16 (bfHalves y).2)
    (maskBits 16 hi.1 ++ maskBits 16 lo.1, lo.2 ||| hi.2)

/-- An I40 cell drained to I32: clamped with QS, or wrapped (R58). -/
def drainI40 (sat : Bool) (x : Lane) : BitVec 32 × Flags :=
  if sat then
    (BitVec.ofInt 32 (satInt x.toInt (-2 ^ 31) (2 ^ 31 - 1)),
     flagIf (decide (x.toInt < -2 ^ 31 ∨ x.toInt > 2 ^ 31 - 1)) flagQS)
  else (laneLow x, 0)

end Sys2Proof.Machine
end

