-- ==== Sys2Proof/Machine/VecInt.lean ====
section
/-! DEFINITION. Integer arithmetic, shifts, minimum and maximum, integer compares and integer reductions of the vector units (R215, R219, R223, R224). -/

namespace Sys2Proof.Machine

/-- Checks and landing of a two-source vector instruction whose result is computed lane by lane from bits [31:0]. -/
def vec2 (lat : Nat) (d a b : BitVec 6) (okA okB : BitVec 6 → Bool) (tag : BitVec 6 → BitVec 6)
    (f : BitVec 32 → BitVec 32 → BitVec 32 × Flags) (s : State) : Out :=
  runClaiming [.vector] [] (fun s =>
    let x := readV s.tk a
    let y := readV s.tk b
    checkTags [⟨0, x.tag, true, okA x.tag⟩, ⟨1, y.tag, true, okB y.tag⟩] (fun s =>
      let r := ofLanesF (tag x.tag) fun i => f (laneLow x.lanes[i]) (laneLow y.lanes[i])
      .ok (emitF lat r.2 (emitV lat d r.1 s))) s) s

/-- An integer operation on the sub-elements of one lane, narrowed each (R49, R215). -/
def intLane (t : ITy) (sat : Bool) (op : Int → Int → Int) (x y : BitVec 32) : BitVec 32 × Flags :=
  let w := ityBits t
  let rs := (List.range (32 / w)).map fun e =>
    narrow t sat (op (subInt (itySigned t) w x e) (subInt (itySigned t) w y e))
  (packSubs w (rs.map (·.1)), rs.foldl (fun f r => f ||| r.2) 0)

/-- A shift of the sub-elements of one lane by the low log2(w) bits of the other lane's elements (R215). -/
def shiftLane (t : ITy) (op : Int → Nat → Int) (x y : BitVec 32) : BitVec 32 × Flags :=
  let w := ityBits t
  (packSubs w ((List.range (32 / w)).map fun e => op (subInt (itySigned t) w x e) (subNat w y e % w)), 0)

/-- An integer compare of the sub-elements of one lane: −1 where the relation holds (R219). -/
def cmpLane (t : ITy) (rel : Int → Int → Bool) (x y : BitVec 32) : BitVec 32 × Flags :=
  let w := ityBits t
  (packSubs w ((List.range (32 / w)).map fun e =>
    if rel (subInt (itySigned t) w x e) (subInt (itySigned t) w y e) then -1 else 0), 0)

/-- An arithmetic instruction of R215 on type t. -/
def vecArith (t : ITy) (sat : Bool) (d a b : BitVec 6) (op : Int → Int → Int) (s : State) : Out :=
  vec2 2 d a b (acceptTag (ityTag t)) (acceptTag (ityTag t)) id (intLane t sat op) s

/-- A compare of R219 on type t. -/
def vecCmp (t : ITy) (d a b : BitVec 6) (rel : Int → Int → Bool) (s : State) : Out :=
  vec2 2 d a b (acceptTag (ityTag t)) (acceptTag (ityTag t)) (fun _ => ityTag (signedOf t)) (cmpLane t rel) s

/-- `VADD.t.s` (R215). -/
def execVaddInt (t : ITy) (sat : Bool) (d a b : BitVec 6) (s : State) : Out :=
  vecArith t sat d a b (fun x y => x + y) s

/-- `VSUB.t.s` (R215). -/
def execVsubInt (t : ITy) (sat : Bool) (d a b : BitVec 6) (s : State) : Out :=
  vecArith t sat d a b (fun x y => x - y) s

/-- `VMUL.t.s` (R215). -/
def execVmulInt (t : ITy) (sat : Bool) (d a b : BitVec 6) (s : State) : Out :=
  vecArith t sat d a b (fun x y => x * y) s

/-- `VMIN.t` (R215). -/
def execVmin (t : ITy) (d a b : BitVec 6) (s : State) : Out :=
  vecArith t false d a b (fun x y => if x ≤ y then x else y) s

/-- `VMAX.t` (R215). -/
def execVmax (t : ITy) (d a b : BitVec 6) (s : State) : Out :=
  vecArith t false d a b (fun x y => if x ≤ y then y else x) s

/-- `VSHL.w` (R215): high bits drop without a flag. -/
def execVshl (w : IWidth) (d a b : BitVec 6) (s : State) : Out :=
  vec2 2 d a b (acceptWidth (widthTy w)) (acceptWidth (widthTy w)) id (shiftLane (widthTy w) fun x n => x * 2 ^ n) s

/-- `VSHR.t` (R215): arithmetic for I types, logical for N types. -/
def execVshr (t : ITy) (d a b : BitVec 6) (s : State) : Out :=
  vec2 2 d a b (acceptTag (ityTag t)) (acceptWidth t) id (shiftLane t fun x n => x / 2 ^ n) s

/-- `VCMPEQ.w` (R219): bit equality. -/
def execVcmpeq (w : IWidth) (d a b : BitVec 6) (s : State) : Out :=
  vec2 2 d a b (acceptWidth (widthTy w)) (acceptWidth (widthTy w)) (fun _ => ityTag (widthTy w))
    (cmpLane (widthTy w) fun x y => x == y) s

/-- `VCMPLT.t` (R219). -/
def execVcmplt (t : ITy) (d a b : BitVec 6) (s : State) : Out :=
  vecCmp t d a b (fun x y => decide (x < y)) s

/-- `VCMPLE.t` (R219). -/
def execVcmple (t : ITy) (d a b : BitVec 6) (s : State) : Out :=
  vecCmp t d a b (fun x y => decide (x ≤ y)) s

/-- Checks and landing of a reduction: one result in every lane at c+8 (R223, R224). -/
def vecReduce (d a : BitVec 6) (ok : BitVec 6) (tag : BitVec 6) (f : VReg → BitVec 32 × Flags)
    (s : State) : Out :=
  runClaiming [.vector] [] (fun s =>
    let x := readV s.tk a
    checkTags [⟨0, x.tag, true, x.tag == ok⟩] (fun s =>
      let r := f x
      .ok (emitF 8 r.2 (emitV 8 d (ofLanes tag fun _ => r.1) s))) s) s

/-- Exact sum of all elements of a register of type t (R59, R223). -/
def elemSum (t : ITy) (v : VReg) : Int :=
  v.lanes.toList.foldl (fun acc x => (List.range (32 / ityBits t)).foldl
    (fun acc e => acc + subInt (itySigned t) (ityBits t) (laneLow x) e) acc) 0

/-- `VREDSUM.t.s` (R223): narrowed once, to I32 or N32. -/
def execVredsum (t : ITy) (sat : Bool) (d a : BitVec 6) (s : State) : Out :=
  let r32 : ITy := if itySigned t then .i32 else .n32
  vecReduce d a (ityTag t) (ityTag r32) (fun v =>
    let r := narrow r32 sat (elemSum t v)
    (BitVec.ofInt 32 r.1, r.2)) s

/-- Largest signed lane value of bits [31:0] (R224). -/
def maxLane (v : VReg) : Int := v.lanes.toList.foldl (fun m x => if m < (laneLow x).toInt then (laneLow x).toInt else m) (-2 ^ 31)

/-- `VREDMAX.I32` (R224). -/
def execVredmaxI32 (d a : BitVec 6) (s : State) : Out :=
  vecReduce d a tagI32 tagI32 (fun v => (BitVec.ofInt 32 (maxLane v), 0)) s

/-- `VARGMAX.I32` (R224): the lowest lane holding the maximum. -/
def execVargmaxI32 (d a : BitVec 6) (s : State) : Out :=
  vecReduce d a tagI32 tagI32 (fun v =>
    (BitVec.ofNat 32 (v.lanes.toList.findIdx fun x => (laneLow x).toInt == maxLane v), 0)) s

end Sys2Proof.Machine
end

