-- ==== Sys2Proof/Machine/VecMem.lean ====
section
/-! DEFINITION. Vector loads and stores of the Sward (R235 to R238, R260). -/

namespace Sys2Proof.Machine

/-- A vector access: the local address, the exact offset of each lane moved, the footprint in bytes. -/
structure VAccess where
  la : Word
  offs : List Nat
  foot : Nat
  store : Bool

/-- Bytes of a lane in memory (R235). -/
def footOf (tag : BitVec 6) : Nat := if tag = tagI40 then 8 else 4

/-- Lanes that an access of this tag moves (R235). -/
def lanesOf (tag : BitVec 6) : Nat := if isPL tag then 8 * plPlanes tag else 256

/-- YTVAL of R236. -/
def swardTval (off : Nat) (reg : BitVec 4) (lane : Nat) (store : Bool) : Word :=
  BitVec.ofNat 64 (packNat [(off, 36), (reg.toNat, 4), (lane, 8), (b2n store, 1)])

/-- SGAs of the lanes, checked in ascending order (R236): the first failing lane's trap. -/
def accessLanes (regions : Vector (BitVec 32) 16) (x : VAccess) : List (Nat × Nat) → Except (Cause × Word) (List Nat)
  | [] => .ok []
  | (i, off) :: rest =>
    match regionCheck (regions[(laReg x.la).toNat]'(laReg x.la).isLt) off x.foot (!x.store) x.store with
    | .error c => .error (c, swardTval off (laReg x.la) i x.store)
    | .ok sga =>
      if off % x.foot ≠ 0 then .error (.swardAlign, swardTval off (laReg x.la) i x.store)
      else match accessLanes regions x rest with
        | .error e => .error e
        | .ok l => .ok (sga :: l)

/-- The checks of an access before any lane performs (R236), then the body with the lanes' SGAs. -/
def withAccess (x : VAccess) (body : List Nat → State → SlotRes) (s : State) : SlotRes :=
  if field x.la 28 36 ≠ 0 then .trap .laddrHigh x.la
  else match accessLanes s.tk.regions x (List.range x.offs.length |>.zip x.offs) with
  | .error (c, v) => .trap c v
  | .ok sgas => body sgas s

/-- Extra frozen cycles of an access: its lines beyond 16, and the distance of its cluster (R238, R260). -/
def accessFreeze (t : TileId) (sgas : List Nat) (foot : Nat) : Nat :=
  (ceilDiv (rangeLines (sgas.map fun a => (a, foot))).length 16 - 1) +
    (match sgas with | [] => 0 | a :: _ => distantFreeze t a)

/-- Banks admitted and freeze counted (R141, R238), then the body. -/
def withBanks (sgas : List Nat) (foot : Nat) (body : State → SlotRes) (s : State) : SlotRes :=
  match admitBanks (taskAccessor s.tk) (rangeBanks (sgas.map fun a => (a, foot))) s with
  | none => .freeze .bank
  | some s' => body (addFreeze (accessFreeze s.cur sgas foot) s')

/-- A lane from its bytes (R235). -/
def loadLane (tag : BitVec 6) (bs : List Byte) : Lane :=
  if tag = tagI40 then BitVec.ofNat 40 (leNat (bs.take 5)) else lane32 (BitVec.ofNat 32 (leNat bs))

/-- The bytes of a lane (R235): an I40 lane's bytes 5 to 7 copy bit 39. -/
def storeLane (tag : BitVec 6) (x : Lane) : List Byte :=
  if tag = tagI40 then leBytes 8 (x.signExtend 64).toNat else leBytes 4 (laneLow x).toNat

/-- A load of the given lanes into V[d] under a tag, landing at c+5 (R235); a poisoned line leaves the register and
raises POISONED_DATA imprecisely (R261, R383). -/
def vecLoad (d tag : BitVec 6) (x : VAccess) (s : State) : SlotRes :=
  withAccess x (fun sgas => withBanks sgas x.foot (fun s =>
    if sgas.any fun a => poisonedRange s.swardPoison a x.foot then
      .ok (addImpFault s.cur ⟨s.eng, causeCode .poisonedData, 0, 0, 0, 0, none⟩ s)
    else .ok (emitV 5 d ⟨Vector.ofFn fun i =>
      match sgas[i.val]? with
      | some a => loadLane tag (s.slotRead a x.foot)
      | none => 0, tag⟩ s))) s

/-- The bytes of a store's lanes, each with its SGA, in lane order. -/
def storeBytes (v : VReg) (sgas : List Nat) : List (Nat × Byte) :=
  (sgas.zip v.lanes.toList).flatMap fun al =>
    let bs := storeLane v.tag al.2
    ((List.range bs.length).map (al.1 + ·)).zip bs

/-- A store of the given lanes of a register, in ascending order (R235, R237), after the watchpoints (R366). Lanes that lie
side by side are written together, so that a line that they fill is written whole (R261). -/
def vecStore (v : VReg) (x : VAccess) (s : State) : SlotRes :=
  withAccess x (fun sgas s =>
    match coreWatch s true (sgas.map fun a => (a, x.foot)) with
    | some tv => .trap .watchStore tv
    | none => withBanks sgas x.foot (fun s =>
      .ok ((groupRuns (storeBytes v sgas)).foldl (fun s r => s.slotWrite r.1 r.2) s)) s) s

/-- Offsets of consecutive lanes. -/
def packedOffs (la : Word) (tag : BitVec 6) (stride : Nat) : List Nat :=
  (List.range (lanesOf tag)).map fun i => laOff la + stride * i

/-- `VLD` (R235). -/
def execVld (d : BitVec 6) (a : BitVec 5) (fmt : BitVec 6) (s : State) : Out :=
  runClaiming [.vector] [] (fun s =>
    let la := readA s.tk a
    if isReservedTag fmt then .trap .tagReserved (tagTval s fmt 3)
    else vecLoad d fmt ⟨la, packedOffs la fmt (footOf fmt), footOf fmt, false⟩ s) s

/-- `VST` (R235). -/
def execVst (d : BitVec 6) (a : BitVec 5) (s : State) : Out :=
  runClaiming [.vector] [] (fun s =>
    let la := readA s.tk a
    let v := readV s.tk d
    checkTags [⟨2, v.tag, false, true⟩]
      (vecStore v ⟨la, packedOffs la v.tag (footOf v.tag), footOf v.tag, true⟩) s) s

/-- STRIDE of a strided access's control word (R235). -/
def strideOf (cw : Word) : Nat := (field cw 8 24).toNat
/-- Whether the control word's reserved bits are zero (R235). -/
def strideOk (cw : Word) : Bool := field cw 6 2 == 0 && field cw 32 32 == 0

/-- `VLDS` (R235). -/
def execVlds (d : BitVec 6) (a b : BitVec 5) (s : State) : Out :=
  runClaiming [.vector] [] (fun s =>
    let la := readA s.tk a
    let cw := readA s.tk b
    let tag := field cw 0 6
    if isReservedTag tag then .trap .tagReserved (tagTval s tag 3)
    else if !strideOk cw then .trap .vecArg (wordTval s 2)
    else vecLoad d tag ⟨la, packedOffs la tag (strideOf cw), footOf tag, false⟩ s) s

/-- `VSTS` (R235): TAG is ignored. -/
def execVsts (d : BitVec 6) (a b : BitVec 5) (s : State) : Out :=
  runClaiming [.vector] [] (fun s =>
    let la := readA s.tk a
    let cw := readA s.tk b
    let v := readV s.tk d
    checkTags [⟨2, v.tag, false, true⟩] (fun s =>
      if !strideOk cw then .trap .vecArg (wordTval s 2)
      else vecStore v ⟨la, packedOffs la v.tag (strideOf cw), footOf v.tag, true⟩ s) s) s

/-- Tags that the indexed forms accept for V[d] (R235). -/
def acceptIndexed : BitVec 6 → Bool := fun t => t != tagEmpty && t != tagI40 && !isPL t

/-- Offsets of the indexed forms (R235). -/
def indexedOffs (la : Word) (v : VReg) : List Nat := v.lanes.toList.map fun x => laOff la + 4 * (laneLow x).toNat

/-- `VLDX` (R235): keeps V[d]'s tag. -/
def execVldx (d : BitVec 6) (a : BitVec 5) (b : BitVec 6) (s : State) : Out :=
  runClaiming [.vector] [] (fun s =>
    let la := readA s.tk a
    let ix := readV s.tk b
    let v := readV s.tk d
    checkTags [⟨1, ix.tag, false, acceptIndex ix.tag⟩, ⟨2, v.tag, false, acceptIndexed v.tag⟩] (fun s =>
      vecLoad d v.tag ⟨la, indexedOffs la ix, 4, false⟩ s) s) s

/-- `VSTX` (R235). -/
def execVstx (d : BitVec 6) (a : BitVec 5) (b : BitVec 6) (s : State) : Out :=
  runClaiming [.vector] [] (fun s =>
    let la := readA s.tk a
    let ix := readV s.tk b
    let v := readV s.tk d
    checkTags [⟨1, ix.tag, false, acceptIndex ix.tag⟩, ⟨2, v.tag, false, acceptIndexed v.tag⟩] (fun s =>
      vecStore v ⟨la, indexedOffs la ix, 4, true⟩ s) s) s

end Sys2Proof.Machine
end

