-- ==== Sys2Proof/Machine/Handles.lean ====
section
/-! DEFINITION. Ring handles: their layout (R263), counts (R264) and the handle instructions (R287 to R289). -/

namespace Sys2Proof.Machine

/-- A handle from its 32 bytes (R263). -/
def handleOf (w : BitVec 256) : Handle :=
  { base := field w 0 28, slotsz := field w 32 14, tag := field w 46 6, logs := field w 64 4, fill := field w 96 32
    head := field w 128 32, res := field w 160 32, valid := bit w 192
    tags := List.replicate (field w 96 32 - field w 128 32).toNat (field w 46 6) }

def handleSlots (h : Handle) : Nat := 2 ^ h.logs.toNat
def slotBytes (h : Handle) : Nat := 64 * (h.slotsz.toNat + 1)
def filledSlots (h : Handle) : Nat := (h.fill - h.head).toNat
def reservedSlots (h : Handle) : Nat := (h.res - h.fill).toNat
def freeSlotCount (h : Handle) : Nat := handleSlots h - (h.res - h.head).toNat

/-- Local address of absolute slot n (R264). -/
def slotLa (h : Handle) (n : BitVec 32) : Word := zx h.base + BitVec.ofNat 64 (slotBytes h * (n.toNat % handleSlots h))

/-- The first condition of R287 that a descriptor fails. -/
def handleFails (regions : Vector (BitVec 32) 16) (w : BitVec 256) : Option (BitVec 4) :=
  let h := handleOf w
  if field w 28 4 ≠ 0 ∨ field w 52 12 ≠ 0 ∨ field w 68 28 ≠ 0 ∨ field w 193 63 ≠ 0 ∨ field h.base 0 6 ≠ 0 then some 1
  else if h.logs.toNat > 12 ∨ isReservedTag h.tag then some 2
  else if (match laCheck regions (zx h.base) (handleSlots h * slotBytes h) false false with
    | .ok _ => false | .error _ => true) then some 3
  else if filledSlots h > (h.res - h.head).toNat ∨ (h.res - h.head).toNat > handleSlots h then some 4
  else none

/-- Whether a command names handle h of a task (R290). -/
def cmdNames (u : Nat) (h : BitVec 4) (c : Cmd) : Bool :=
  c.task == u && bit c.par[0] 14 && field c.par[0] 15 4 == h

/-- Whether a command's Sward side is a destination (R295 to R300). -/
def cmdWrites (c : Cmd) : Bool :=
  match c.kind.toNat with
  | 1 => field c.par[0] 4 2 == 0
  | 2 => true | 3 => true | 4 => true | 5 => true | _ => false

/-- Whether a matrix load or feed from handle h is in flight (R287). -/
def matrixReads (m : Matrix) (h : BitVec 4) : Bool :=
  (match m.load with | some l => l.handle == h | none => false) || m.feeds.any fun f => f.handle == h

/-- Why the commands of the acting tile's task that name handle h and that `p` takes hold a slot back: all of them are held by
the branch shadow, or one is under way (R176, R181). -/
def handleWhy (s : State) (h : BitVec 4) (p : Cmd → Bool) : FreezeWhy :=
  let l := s.cmds.filter fun c => cmdNames s.tk.uid h c && p c
  if !l.isEmpty && l.all (fun c => c.phase == .held) && !matrixReads s.tk.mat h then .shadow else .handle

/-- `HSET` (R287). -/
def execHset (h : BitVec 4) (a : BitVec 5) (s : State) : Out :=
  runSlot [] (fun s =>
    let la := readA s.tk a
    if s.cmds.any (cmdNames s.tk.uid h) || matrixReads s.tk.mat h then .freeze (handleWhy s h fun _ => true)
    else
      withAccess ⟨la, [laOff la], 32, false⟩ (fun sgas => withBanks sgas 32 (fun s =>
        let sga := sgas.headD 0
        if poisonedRange s.swardPoison sga 32 then
          .ok (addImpFault s.cur ⟨s.eng, causeCode .poisonedData, 0, 0, 0, 0, none⟩ s)
        else
          let w := BitVec.ofNat 256 (leNat (s.slotRead sga 32))
          if !bit w 192 then .ok (emit 1 (.hset h Handle.reset) s)
          else match handleFails s.tk.regions w with
            | some r => .trap .handleForm (wordTval s r)
            | none => .ok (emit 1 (.hset h (handleOf w)) s))) s) s

/-- A valid handle, else HANDLE_INVALID (R288). -/
def needHandle (h : BitVec 4) (body : Handle → State → SlotRes) (s : State) : SlotRes :=
  let x := readH s.tk h
  if x.valid then body x s else .trap .handleInvalid (wordTval s 0)

/-- Whether an uncompleted command writes into handle h (R289). -/
def handleProduced (s : State) (h : BitVec 4) : Bool := s.cmds.any fun c => cmdNames s.tk.uid h c && cmdWrites c

/-- `HALLOC` (R288, R289): the freeze for a command that writes the handle comes first. -/
def execHalloc (d : BitVec 6) (h : BitVec 4) (b : BitVec 6) (s : State) : Out :=
  runSlot [d, b] (needHandle h fun x s =>
    let n := (readS s.tk b).toNat
    if handleProduced s h then .freeze (handleWhy s h cmdWrites)
    else if n = 0 ∨ n > handleSlots x then .trap .handleArg (wordTval s 0)
    else if freeSlotCount x < n then .freeze .handle
    else .ok (emit 1 (.hres h (BitVec.ofNat 32 n)) (emitS 1 d (zx x.res) s))) s

/-- `HPUB` (R288, R289). -/
def execHpub (h : BitVec 4) (b : BitVec 6) (s : State) : Out :=
  runSlot [b] (needHandle h fun x s =>
    let w := readS s.tk b
    let n := field w 0 32
    let t := field w 32 6
    if handleProduced s h then .freeze (handleWhy s h cmdWrites)
    else if field w 38 26 ≠ 0 ∨ n = 0 ∨ n.toNat > reservedSlots x then .trap .handleArg (wordTval s 0)
    else if isReservedTag t then .trap .tagReserved (tagTval s t 3)
    else .ok (emit 1 (.hpub h n t) s)) s

/-- Slots of handle h that its matrix reads in flight will pass (R242, R245). -/
def matrixAdvance (m : Matrix) (h : BitVec 4) : BitVec 32 :=
  BitVec.ofNat 32 ((m.feeds.filter fun f => f.handle == h && f.adv).length
    + b2n (match m.load with | some l => l.handle == h && l.adv | none => false))

/-- Slots of handle h that the commands of a task that run with ADV have still to pass (R265, R290). -/
def copyAdvance (cmds : List Cmd) (k : Task) (h : BitVec 4) : BitVec 32 :=
  let n := slotBytes (readH k h)
  BitVec.ofNat 32 ((cmds.filter fun c => c.phase == .running && parAdv c.par && cmdNames k.uid h c).foldl
    (fun m c => m + (cmdBytes c.kind.toNat c.par / n - c.pos / n)) 0)

/-- Head advances of handle h that have issued in an earlier bundle and wait for reads (R7, R242, R245, R265, R288). -/
def pendingAdvance (cmds : List Cmd) (k : Task) (h : BitVec 4) : BitVec 32 :=
  k.headAdv.foldl (fun n e => if e.handle = h ∧ e.at_ < k.icyc then n + e.n else n) (matrixAdvance k.mat h + copyAdvance cmds k h)

/-- Whether reads of a handle's slots that issued before a waiting advance are outstanding (R288). -/
def earlierReadsOut (s : State) (k : Task) (w : HeadWait) : Bool :=
  (match k.mat.load with | some l => l.handle == w.handle && decide (l.at_ < w.at_) | none => false)
    || (k.mat.feeds.any fun f => f.handle == w.handle && decide (f.at_ < w.at_))
    || s.cmds.any fun c => cmdNames k.uid w.handle c && !cmdWrites c && decide (c.id < w.cmds)

/-- Whether reads of a handle's slots are outstanding (R288). -/
def handleReadsOut (s : State) (h : BitVec 4) : Bool :=
  matrixReads s.tk.mat h || s.cmds.any fun c => cmdNames s.tk.uid h c && !cmdWrites c

/-- `HADV` (R288): the advance waits for the reads issued before it. -/
def execHadv (h : BitVec 4) (b : BitVec 6) (s : State) : Out :=
  runSlot [b] (needHandle h fun x s =>
    let n := (readS s.tk b).toNat
    if n = 0 ∨ n + (pendingAdvance s.cmds s.tk h).toNat > filledSlots x then .trap .handleArg (wordTval s 0)
    else if handleReadsOut s h || decide (pendingAdvance s.cmds s.tk h ≠ 0) then
      .ok (s.modTask fun k => { k with headAdv := k.headAdv ++ [⟨h, BitVec.ofNat 32 n, s.tk.icyc, s.cmdIds⟩] })
    else .ok (emit 1 (.hadv h (BitVec.ofNat 32 n)) s)) s

/-- `HRD` (R288): zeros for an invalid handle. -/
def execHrd (d : BitVec 6) (h : BitVec 4) (s : State) : Out :=
  runSlot [d, d + 1] (fun s =>
    let x := readH s.tk h
    let x := if x.valid then x else Handle.reset
    .ok (emitS 1 (d + 1) (BitVec.ofNat 64 (packNat [(x.res.toNat, 32), (x.tag.toNat, 6), (b2n x.valid, 1)]))
      (emitS 1 d (x.head ++ x.fill) s))) s

end Sys2Proof.Machine
end

