-- ==== Sys2Proof/Machine/Copy.lean ====
section
/-! DEFINITION. Copy-channel instructions as they issue (R290 to R296): parameter sets, form checks, the checks over a
command's whole extent, tokens. What a command then does is in Machine/Commands.lean. -/

namespace Sys2Proof.Machine

/-! ### Form checks (R292) -/

/-- A code of R157 that names nothing or a token. -/
def tokenCodeOk (c : BitVec 6) : Bool := decide (c = 0 ∨ 32 ≤ c.toNat)

/-- Reason 1: a reserved code or bit. -/
def formReserved (kind : Nat) (p : Par) : Bool :=
  decide (kind = 0 ∨ kind > 9) || parDir p == 3 || parDims p == 3 || !tokenCodeOk (parWaitx p) || isReservedTag (parFmt p)
    || field p[0] 54 10 != 0 || (kind == 2 && (decide (parMode p > 3) || (parTk p && parMode p != 3)))
    || (kind == 4 && decide (parMode p > 2))

/-- Fields of CTL that a kind leaves unused. -/
def ctlUnused (kind : Nat) (p : Par) : Bool :=
  (kind != 1 && (parDir p != 0 || parDims p != 0))
    || ((kind == 7 || kind == 9 || (kind == 1 && parDir p == 2)) && parHs p)
    || (kind == 1 && parDir p == 2 && parDims p != 0)
    || (!parHs p && parHidx p != 0)
    || (parAdv p && !(parHs p && (kind == 6 || kind == 8 || (kind == 1 && parDir p == 1))))
    || (parFmt p != 0 && !(kind == 3 || kind == 5 || (kind == 1 && parDir p == 0)))
    || (parMode p != 0 && !(kind == 2 || kind == 4 || kind == 7))
    || (parTk p && kind != 2)
    || (parTopk p != 0 && !(kind == 2 && parTk p))
    || (decide (kind ≥ 6) && field p[0] 33 21 != 0)

/-- Fields of the other doublewords that a kind leaves unused. -/
def wordsUnused (kind : Nat) (p : Par) : Bool :=
  match kind with
  | 1 =>
    (parDims p == 0 && (parCnt1 p != 0 || parGs1 p != 0 || parLs1 p != 0))
      || (decide (parDims p < 2) && (parCnt2 p != 0 || parGs2 p != 0 || parLs2 p != 0))
      || (parHs p && p[5] != 0) || field p[5] 48 16 != 0 || p[6] != 0 || p[7] != 0 || (parDir p == 2 && field p[2] 18 46 != 0)
  | 2 =>
    p[1] != 0 || p[3] != 0 || p[4] != 0 || p[5] != 0 || field p[6] 13 19 != 0 || field p[7] 28 36 != 0
      || (!parTk p && p[7] != 0)
  | 3 => field p[3] 48 16 != 0 || field p[4] 32 32 != 0 || p[5] != 0 || field p[6] 28 4 != 0 || field p[6] 52 12 != 0
      || p[7] != 0
  | 4 => field p[3] 48 16 != 0 || field p[4] 32 32 != 0 || p[5] != 0 || field p[6] 28 4 != 0 || field p[6] 52 12 != 0
      || field p[7] 28 4 != 0 || field p[7] 52 12 != 0
  | n =>
    (if n = 9 then field p[1] 16 48 != 0 || p[2] != 0 else field p[1] 48 16 != 0)
      || field p[3] 24 40 != 0 || p[4] != 0 || p[5] != 0 || field p[7] 13 3 != 0 || field p[7] 44 20 != 0
      || (n != 8 && field p[7] 16 28 != 0)

/-- Reason 3: a count, length or row number out of its range. -/
def formRange (kind : Nat) (p : Par) : Bool :=
  match kind with
  | 1 => (decide (parDims p ≥ 1) && parCnt1 p == 0) || (parDims p == 2 && parCnt2 p == 0)
  | 2 => decide (parRow0 p + parRows p > 64)
  | 3 => decide (parLen0 p < 4 ∨ parLen0 p > 65536) || parNidx p == 0
  | 4 => (if parMode p = 1 then decide (parLen0 p < 2 ∨ parLen0 p > 32768) else decide (parLen0 p < 4 ∨ parLen0 p > 65536))
      || parNidx p == 0 || parNbag p == 0
  | 7 => parLen0 p != 8
  | 8 => decide (parLen0 p = 0 ∨ parLen0 p > 4096)
  | 9 => decide (parLen0 p = 0 ∨ parLen0 p > 65536)
  | _ => parLen0 p == 0

/-- Reason 4: misalignment (R295, R297, R298). -/
def formAlign (kind : Nat) (p : Par) : Bool :=
  match kind with
  | 1 => decide (parLen0 p % 4 ≠ 0 ∨ parGs1 p % 4 ≠ 0 ∨ parGs2 p % 4 ≠ 0 ∨ parLs1 p % 4 ≠ 0 ∨ parLs2 p % 4 ≠ 0
      ∨ (parGaddr p).toNat % 4 ≠ 0 ∨ (!parHs p ∧ (parLaddr p).toNat % 4 ≠ 0))
  | 3 => decide (parLen0 p % 4 ≠ 0)
  | 4 => decide (parLen0 p % (if parMode p = 1 then 2 else 4) ≠ 0)
  | 7 => decide ((parGaddr p).toNat % 8 ≠ 0)
  | _ => false

/-- The first form check that fails. -/
def formFails (kind : Nat) (p : Par) : Option (BitVec 4) :=
  if formReserved kind p then some 1
  else if ctlUnused kind p || wordsUnused kind p then some 2
  else if formRange kind p then some 3
  else if formAlign kind p then some 4
  else none

/-! ### Checks over the whole extent (R292) -/

/-- R29 over n bytes at a local address; nothing for n = 0. -/
def extentFails (regions : Vector (BitVec 32) 16) (la : Word) (n : Nat) (rd wr : Bool) : Option Cause :=
  if n = 0 then none else match laCheck regions la n rd wr with | .ok _ => none | .error c => some c

/-- The lists of a command. -/
def listFails (rg : Vector (BitVec 32) 16) (kind : Nat) (p : Par) : Option Cause :=
  match kind with
  | 2 => if parTk p then extentFails rg (parBagLa p) 1024 false true else none
  | 3 => extentFails rg (parIndexLa p) (4 * parNidx p) true false
  | 4 => match extentFails rg (parIndexLa p) (4 * parNidx p) true false with
    | some c => some c
    | none => extentFails rg (parBagLa p) (4 * (parNbag p + 1)) true false
  | 8 => extentFails rg (parRecordLa p) 32 false true
  | _ => none

/-- The Sward side, then the lists, then the handle of a command, in the order of R292. The side that an invalid handle names
has no extent to check. -/
def swardFails (s : State) (kind : Nat) (p : Par) : Option Cause :=
  let rg := s.tk.regions
  let h := readH s.tk (parHidx p)
  let side :=
    if kind = 9 ∨ (kind = 1 ∧ parDir p = 2) ∨ (parHs p ∧ !h.valid) then none
    else if parHs p then extentFails rg (zx h.base) (handleSlots h * slotBytes h) (cmdReadsSward kind p) (cmdWritesSward kind p)
    else extentFails rg (parLaddr p) (cmdSpan kind p) (cmdReadsSward kind p) (cmdWritesSward kind p)
  match side with
  | some c => some c
  | none =>
    match listFails rg kind p with
    | some c => some c
    | none => if kind ≠ 9 ∧ !(kind = 1 ∧ parDir p = 2) ∧ parHs p ∧ !h.valid then some .handleInvalid else none

/-- Whether a scratchpad destination obeys R149. -/
def imemTargetOk (x : Tile) (p : Par) : Bool :=
  let o := !x.cur
  let d := (field (parLaddr p) 0 18).toNat
  let h := getHalf x o
  decide (halfBase o ≤ d ∧ d + cmdBytes 1 p ≤ halfBase o + 0x10000) &&
    (h.st == .idle || h.st == .resident || (h.st == .overlay && h.task == x.task.uid))

/-- Whether the half that a copy into the scratchpad takes must be saved first: it is RESIDENT and `CPY` has written it
(R139). -/
def halfToSave (x : Tile) : Bool := (getHalf x (!x.cur)).st == .resident && (getHalf x (!x.cur)).dirty

/-- First byte of the global extent with an address above 2^48. -/
def highByte (p : Par) : Word := if (parGaddr p).toNat ≥ 2 ^ 48 then parGaddr p else BitVec.ofNat 64 (2 ^ 48)

/-- Every check of R292, or the state in which the command issues. -/
def checkCommand (kind : Nat) (p : Par) (body : State → SlotRes) (s : State) : SlotRes :=
  match formFails kind p with
  | some r => .trap .cmdForm (wordTval s r)
  | none =>
    match swardFails s kind p with
    | some .handleInvalid => .trap .handleInvalid (wordTval s 0)
    | some c => .trap c 0
    | none =>
      if kind = 1 ∧ parDir p = 2 ∧ !imemTargetOk s.me p then .trap .imemTarget (encTval s (field (parLaddr p) 0 18))
      else if parHs p ∧ cmdBytes kind p % slotBytes (readH s.tk (parHidx p)) ≠ 0 then .trap .cmdForm (wordTval s 5)
      else if globalSpan kind p ≠ 0 ∧ (parGaddr p).toNat + globalSpan kind p > 2 ^ 48 then
        .trap .vaddrRange (transTval (highByte p) (if kind = 1 ∧ parDir p = 1 then 1 else 0) false 0 0)
      else body s

/-! ### What `CPY.AS` reads at issue (R270, R296) -/

/-- The F32 value of a lane of an accepted row, converted to nearest even (R46). -/
def asF32 (tag : BitVec 6) (x : Lane) : BitVec 32 :=
  if tag = tagF32 then laneLow x
  else if tag = tagI40 then BitVec.ofNat 32 (intToF fmtF32 .rne x.toInt).1
  else BitVec.ofNat 32 (intToF fmtF32 .rne (laneLow x).toInt).1

/-- A lane as `CPY.AS` writes it (R296). -/
def asLane (mode : Nat) (tag : BitVec 6) (x : Lane) : BitVec 32 :=
  match mode with
  | 0 => laneLow x
  | 1 => BitVec.ofInt 32 (satInt x.toInt (-2 ^ 31) (2 ^ 31 - 1))
  | 2 => laneLow x
  | _ => asF32 tag x

/-- Whether a row's tag is accepted (R270, R296); `first` is the tag of the first row. -/
def asAccepts (mode : Nat) (first tag : BitVec 6) : Bool :=
  match mode with
  | 0 => tag != tagEmpty && tag != tagI40 && tag == first
  | 1 => tag == tagI40
  | 2 => tag == tagI40
  | _ => tag == tagI40 || tag == tagI32 || tag == tagF32

/-- Whether value a at element i ranks before value b at element j (R270). -/
def ranksBefore (a : BitVec 32) (i : Nat) (b : BitVec 32) (j : Nat) : Bool :=
  let x := f32 a
  let y := f32 b
  if isNaNF x then isNaNF y && decide (i < j)
  else if isNaNF y then true
  else match fCompare x y with
    | some .gt => true
    | some .lt => false
    | _ => decide (i < j)

/-- Insertion of (value, element) by rank. -/
def insertRank (e : BitVec 32 × Nat) : List (BitVec 32 × Nat) → List (BitVec 32 × Nat)
  | [] => [e]
  | x :: xs => if ranksBefore e.1 e.2 x.1 x.2 then e :: x :: xs else x :: insertRank e xs

/-- The k best elements of a row, best first (R270). -/
def topOf (k : Nat) (v : VReg) : List (BitVec 32 × Nat) :=
  (List.finRange 256).foldl (fun best i => (insertRank (asF32 v.tag v.lanes[i], i.val) best).take k) []

/-- The bytes of a row's pairs (R270). -/
def pairBytes (ibase : BitVec 32) (l : List (BitVec 32 × Nat)) : List Byte :=
  l.flatMap fun e => leBytes 4 (if isNaNF (f32 e.1) then 0x7FC00000 else e.1.toNat)
    ++ leBytes 4 (ibase + BitVec.ofNat 32 e.2).toNat

/-- The rows that `CPY.AS` reads. -/
def asRows (k : Task) (p : Par) : List VReg := (List.range (parRows p)).map fun i => readV k (BitVec.ofNat 6 (parRow0 p + i))

/-- Its sources for the checks of R65: a reserved tag traps at issue, under OPND 3, and a tag that the mode does not accept
stops the command instead (R270, R296). -/
def asSources (k : Task) (p : Par) : List Src := (asRows k p).map fun v => ⟨3, v.tag, false, true⟩

/-- The bytes that `CPY.AS` will write, up to the first row that is not accepted (R296). -/
def asBytes (k : Task) (p : Par) : List Byte :=
  let rows := asRows k p
  let first := match rows with | v :: _ => v.tag | [] => 0
  (rows.takeWhile fun v => asAccepts (parMode p) first v.tag).flatMap fun v =>
    if parTk p then pairBytes (parIbase p) (topOf (parTopk p + 1) v)
    else v.lanes.toList.flatMap fun x => leBytes 4 (asLane (parMode p) v.tag x).toNat

/-- The tag that a command publishes with its slots (R265, R270, R290, R296, R297). -/
def publishTag (k : Task) (kind : Nat) (p : Par) : BitVec 6 :=
  match kind with
  | 2 =>
    if parTk p then tagN32
    else match parMode p with
      | 0 => (readV k (BitVec.ofNat 6 (parRow0 p))).tag
      | 1 => tagI32
      | 2 => tagI32
      | _ => tagF32
  | 4 => if parMode p = 2 then tagI32 else tagF32
  | _ => parFmt p

/-! ### The instructions -/

/-- Channel 0 from C0, channel 1 from C1 (R156). -/
def channelOf (s : State) : Fin 2 := if s.eng = 7 then 1 else 0

/-- Tokens that the two fields and WAITX name (R292). -/
def consumed (kx ky : Option (BitVec 5)) (p : Par) : List (BitVec 5) :=
  [kx, ky, if (parWaitx p).toNat ≥ 32 then some (field (parWaitx p) 0 5) else none].filterMap id

/-- The command that a channel takes on (R292). A consumed token stands for its producer at issue. -/
def newCmd (s : State) (ch : Fin 2) (kind : BitVec 4) (kp kx ky : Option (BitVec 5)) (p : Par) : Cmd :=
  let ks := consumed kx ky p
  { id := s.cmdIds, tile := s.cur, chan := ch, task := s.tk.uid, ctx := s.tk.ctx, kind, par := p, seq := s.tk.cmdseq, kp
    kx := ks.filter fun k => (readK s.tk k).pend
    upstream := ks.any fun k => !(readK s.tk k).pend && (readK s.tk k).status != 0
    regions := s.tk.regions, saveSlot := s.tk.gangSlot, stage := s.tk.stage
    phase := if s.tk.shadow > 0 then .held else .waiting, accepted := false, pos := 0, slotRes := 0, firstSlot := 0
    rowBytes := if kind = 2 then asBytes s.tk p else [], rowPoison := false
    tag := publishTag s.tk kind.toNat p, status := 0, detail := 0, fva := 0, ftype := 3, reqs := [], nextPart := 0, early := []
    done_ := 0, failed := [], watchHeld := false, reported := [], pageWait := false, accNum := 0, used := [], lines := []
    recorded := false, histPos := 0 }

/-- The parameters that a command takes on: the shadow set with KIND from the opcode (R290, R292). -/
def activeSet (kind : BitVec 4) (p : Par) : Par := p.set 0 (putField p[0] 0 4 kind)

/-- A command issues: sequence number, active set, busy channel (R292). Its token becomes PENDING as a write of the bundle,
which the bundle's other slots do not see (R7, R177). -/
def issueCmd (ch : Fin 2) (kind : BitVec 4) (kp kx ky : Option (BitVec 5)) (p : Par) (s : State) : State :=
  let c := newCmd s ch kind kp kx ky p
  let s1 := if kind = 1 ∧ parDir p = 2 ∧ s.tk.shadow = 0 then claimHalf s else s
  let s2 := match kp with | some r => emit 1 (.token r ⟨true, 0, 0, s.tk.cmdseq⟩) s1 | none => s1
  State.modTask { s2 with cmds := s2.cmds ++ [c], cmdIds := s2.cmdIds + 1 } fun k : Task =>
    { k with
      cmdseq := k.cmdseq + 1
      ch := k.ch.set ch { k.ch[ch] with active := activeSet kind p, busy := some c.id }
      held := if k.shadow > 0 then k.held ++ [Held.cmd c.id] else k.held }

/-- Whether a named token is PENDING. -/
def tokenPending (k : Task) : Option (BitVec 5) → Bool
  | some r => (readK k r).pend
  | none => false

/-- Whether the branch shadow holds the command that keeps channel ch busy (R181). -/
def channelHeld (s : State) (ch : Fin 2) : Bool :=
  s.cmds.any fun c => s.tk.ch[ch].busy == some c.id && c.phase == .held

/-- Whether the branch shadow holds the producer of a token (R181). -/
def tokenHeld (s : State) (r : BitVec 5) : Bool :=
  s.cmds.any fun c => c.task == s.tk.uid && c.kp == some r && c.seq == (readK s.tk r).seq && c.phase == .held

/-- Why pending tokens hold a slot back (R176, R181). -/
def tokenWhy (s : State) (l : List (Option (BitVec 5))) : FreezeWhy :=
  if l.all fun x => !tokenPending s.tk x || (match x with | some r => tokenHeld s r | none => true) then .shadow else .token

/-- A command instruction (R292): the channel and the produced token must be free, then the checks. A written half that
another task left RESIDENT is saved before a copy takes it (R139). -/
def command (kind : BitVec 4) (kp kx ky : Option (BitVec 5)) (s : State) : SlotRes :=
  let ch := channelOf s
  let x := s.tk.ch[ch]
  let issue (s : State) : SlotRes :=
    checkCommand kind.toNat x.shadow (fun s =>
      if kind = 1 ∧ parDir x.shadow = 2 ∧ halfToSave s.me then .freeze (.classClaim .half)
      else checkTags (if kind = 2 then asSources s.tk x.shadow else [])
        (fun s => .ok (issueCmd ch kind kp kx ky x.shadow s)) s) s
  if x.busy.isSome then .freeze (if channelHeld s ch then .shadow else .channel)
  else if tokenPending s.tk kp then .freeze (tokenWhy s [kp])
  else if kind = 2 then needClass .vector issue s
  else issue s

/-- `CGO` (R292): the kind that the shadow set names. -/
def execCgo (kp kx ky : Option (BitVec 5)) (s : State) : Out :=
  runSlot [] (fun s => command (parKind s.tk.ch[channelOf s].shadow) kp kx ky s) s

/-- `CPY` (R292, R295). -/
def execCpy (kp kx ky : Option (BitVec 5)) (s : State) : Out := runSlot [] (command 1 kp kx ky) s

/-- `CPY.AS` (R292, R296). -/
def execCpyAs (kp kx ky : Option (BitVec 5)) (s : State) : Out := runSlot [] (command 2 kp kx ky) s

/-- `GATH` (R292, R297). -/
def execGath (kp kx ky : Option (BitVec 5)) (s : State) : Out := runSlot [] (command 3 kp kx ky) s

/-- `POOL` (R292, R297). -/
def execPool (kp kx ky : Option (BitVec 5)) (s : State) : Out := runSlot [] (command 4 kp kx ky) s

/-- `RLD` (R292, R298). -/
def execRld (kp kx ky : Option (BitVec 5)) (s : State) : Out := runSlot [] (command 5 kp kx ky) s

/-- `RST` (R292, R298). -/
def execRst (kp kx ky : Option (BitVec 5)) (s : State) : Out := runSlot [] (command 6 kp kx ky) s

/-- `RAMO` (R292, R298). -/
def execRamo (kp kx ky : Option (BitVec 5)) (s : State) : Out := runSlot [] (command 7 kp kx ky) s

/-- `MCST` (R292, R299). -/
def execMcst (kp kx ky : Option (BitVec 5)) (s : State) : Out := runSlot [] (command 8 kp kx ky) s

/-- `RARRIVE` (R292, R300). -/
def execRarrive (kp kx ky : Option (BitVec 5)) (s : State) : Out := runSlot [] (command 9 kp kx ky) s

/-- `CNOP` (R167): no visible state changes. -/
def execCnop (s : State) : Out := runSlot [] (fun s => .ok s) s

/-- `CSET` (R291). -/
def execCset (j : BitVec 2) (a b : BitVec 6) (s : State) : Out :=
  runSlot [a, b] (fun s => .ok (emit 1 (.cset (channelOf s) j (readS s.tk a) (readS s.tk b)) s)) s

/-- `CCLR` (R291). -/
def execCclr (s : State) : Out := runSlot [] (fun s => .ok (emit 1 (.cclr (channelOf s)) s)) s

/-- `CWAIT` (R294). -/
def execCwait (kp kx ky : Option (BitVec 5)) (s : State) : Out :=
  runSlot [] (fun s =>
    if tokenPending s.tk kp || tokenPending s.tk kx || tokenPending s.tk ky then .freeze (tokenWhy s [kp, kx, ky])
    else .ok s) s

/-- `CSTAT` (R294). -/
def execCstat (d : BitVec 6) (k : BitVec 5) (s : State) : Out :=
  runSlot [d] (fun s =>
    let t := readK s.tk k
    .ok (emitS 1 d (BitVec.ofNat 64 (packNat [(b2n t.pend, 1), (0, 7), (t.status.toNat, 8), (t.detail.toNat, 8),
      (t.seq.toNat, 40)])) s)) s

end Sys2Proof.Machine
end

