-- ==== Sys2Proof/Machine/Xlate.lean ====
section
/-! DEFINITION. Translation: the memory spaces (R419), page walks (R273 to R275), leased entries (R276, R278), memory classes
(R271) and reads and writes through them. -/

namespace Sys2Proof.Machine

/-! ### Spaces (R419) -/

/-- Whether n bytes at a lie within one die's HBM4 range. -/
def inHbm (a n : Nat) : Bool :=
  decide (a + n ≤ 0x3000000000) || (decide (0x4000000000 ≤ a) && decide (a + n ≤ 0x7000000000))

/-! ### Walks (R273 to R275) -/

/-- Index of an address at a level, and the bits that a leaf of the level maps (R273). -/
def walkIndex (va : Nat) (lev : Nat) : Nat :=
  match lev with
  | 4 => va / 2 ^ 39 % 512 | 3 => va / 2 ^ 30 % 512 | 2 => va / 2 ^ 21 % 512 | _ => va / 2 ^ 16 % 32

def leafBits (lev : Nat) : Nat :=
  match lev with
  | 3 => 30 | 2 => 21 | _ => 16

/-- Bytes of the table that level `lev` indexes. -/
def tableBytes (lev : Nat) : Nat := if lev = 1 then 256 else 4096

def pteV (e : Word) : Bool := bit e 0
def pteLeaf (e : Word) : Bool := bit e 4
def pteClass (e : Word) : BitVec 3 := field e 5 3
def pteAddr (e : Word) : Nat := (field e 16 44).toNat * 256

/-- What a walk finds: a leaf with its level, an entry with V = 0, a malformed entry, or a poisoned line (R346, log 137). -/
inductive WalkEnd where
  | leaf (e : Word) (lev : Nat)
  | absent (lev : Nat)
  | bad (lev : Nat)
  | poisoned
  deriving DecidableEq, Repr

/-- Whether a valid entry at a level has the form of R274 and R275. -/
def pteOk (s : State) (ctx : CtxId) (e : Word) (lev : Nat) : Bool :=
  field e 12 4 == 0 && field e 60 4 == 0 &&
  (if pteLeaf e then
    lev != 4 && decide ((pteClass e).toNat ≤ 4) && decide (pteAddr e % 2 ^ leafBits lev = 0) &&
    (match (pteClass e).toNat with
      | 0 => inHbm (pteAddr e) (2 ^ leafBits lev)
      | 3 => lev == 1 && (let w := s.bank (sgaBank (pteAddr e)); bankOwner w == ctx && !bankSys w)
      | _ => true)
  else lev != 1 && field e 1 3 == 0 && field e 5 7 == 0 && decide (pteAddr e % tableBytes (lev - 1) = 0))

/-- The walk from the table at a (R275). -/
def walkFrom (s : State) (ctx : CtxId) (va : Nat) : Nat → Nat → WalkEnd
  | 0, _ => .bad 1
  | lev + 1, a =>
    let at_ := a + 8 * walkIndex va (lev + 1)
    if !inHbm at_ 8 then .bad (lev + 1)
    else if poisonedRange s.hbmPoison at_ 8 then .poisoned
    else
      let e : Word := BitVec.ofNat 64 (memReadLE s.hbm at_ 8)
      if !pteV e then .absent (lev + 1)
      else if !pteOk s ctx e (lev + 1) then .bad (lev + 1)
      else if pteLeaf e then .leaf e (lev + 1)
      else walkFrom s ctx va lev (pteAddr e)

/-- The walk of an address in a context's tree. -/
def walk (s : State) (ctx : CtxId) (va : Nat) : WalkEnd := walkFrom s ctx va 4 (ctxPtRoot (s.ctx ctx).desc * 4096)

/-- Lease of a class in nanoseconds (R276). -/
def leaseNs (c : BitVec 3) : Nat :=
  match c.toNat with
  | 0 => 1000 | 1 => 4000 | 2 => 16000 | 3 => 64000 | 4 => 256000 | 5 => 1000000 | 6 => 4000000 | _ => 16000000

/-- The effective class of a leaf (R20, R276). -/
def leaseClass (cap c : BitVec 3) : BitVec 3 := if cap.toNat < c.toNat then cap else c

/-- The entry that a leaf becomes, stamped with YFTIME (R276). -/
def leaseOf (s : State) (ctx : CtxId) (va : Nat) (e : Word) (lev : Nat) : Lease :=
  let c := leaseClass (ctxLeaseCap (s.ctx ctx).desc) (field e 9 3)
  { ctx, page := va / 2 ^ leafBits lev, pageBits := leafBits lev, pa := pteAddr e, cls := pteClass e, r := bit e 1
    w := bit e 2, at_ := bit e 3, snap := bit e 8, lclass := c, expiry := s.timeNs + leaseNs c }

/-- Whether an entry translates an address now. -/
def leaseHits (s : State) (ctx : CtxId) (va : Nat) (l : Lease) : Bool :=
  l.ctx == ctx && va / 2 ^ l.pageBits == l.page && decide (s.timeNs < l.expiry)

/-- Whether a leaf grants a kind of access (R275). -/
def leaseGrants (l : Lease) : AccessKind → Bool
  | .read => l.r
  | .write => l.w && !l.snap
  | .atomic => l.r && l.w && l.at_ && !l.snap

/-- Whether a scalar operation is permitted on a class (R271). -/
def classAllows (cls : BitVec 3) : ScalarOp → Bool
  | .amo o _ _ =>
    match cls.toNat with
    | 0 => true
    | 2 => o == .add || o == .swap || o == .cas
    | 3 => true
    | _ => false
  | _ => cls != 4

/-- Physical address of an address that an entry translates. -/
def leasePa (l : Lease) (va : Nat) : Nat := l.pa + va % 2 ^ l.pageBits

/-- TYPE of R282 for a kind. -/
def kindType : AccessKind → BitVec 2
  | .read => 0 | .write => 1 | .atomic => 2

/-! ### The units' caches -/

def unitTlb (s : State) : XUnit → List Lease
  | .tile t => (s.tile t).tlb
  | .gather c => (s.cluster c).tlb
  | .fabric p => (s.port p).tlb
  | _ => []

def setUnitTlb (u : XUnit) (f : List Lease → List Lease) (s : State) : State :=
  match u with
  | .tile t => s.modTile t fun x => { x with tlb := f x.tlb }
  | .gather c => s.modCluster c fun x => { x with tlb := f x.tlb }
  | .fabric p => s.modPort p fun x => { x with tlb := f x.tlb }
  | _ => s

def unitOut (s : State) : XUnit → Bool
  | .tile t => (s.tile t).outOfStep
  | .gather c => (s.cluster c).outOfStep
  | .fabric p => (s.port p).outOfStep
  | u => s.targetsOut.contains u

def setUnitOut (u : XUnit) (b : Bool) (s : State) : State :=
  match u with
  | .tile t => s.modTile t fun x => { x with outOfStep := b }
  | .gather c => s.modCluster c fun x => { x with outOfStep := b }
  | .fabric p => s.modPort p fun x => { x with outOfStep := b }
  | u => { s with targetsOut := (s.targetsOut.filter fun x => x != u) ++ (if b then [u] else []) }

/-- The entry with which a unit translates an address; none while it is out of step (R276, R279). -/
def translate (s : State) (u : XUnit) (ctx : CtxId) (va : Nat) : Option Lease :=
  if unitOut s u then none else (unitTlb s u).find? (leaseHits s ctx va)

/-- Die of a unit. -/
def unitDie : XUnit → BitVec 1
  | .tile t => tileDie t
  | .gather c => field c 3 1
  | .fabric p => field p 4 1
  | .hbm d => d
  | .bank b => field b 10 1
  | .hostLink => 0

/-- Identifier under which a unit reports; `eng` is the engine a tile's memory unit acts for (R14, R420). A target has no
identifier of its own, and Kenval reports for it (DESIGN CHOICE, log 126). -/
def unitName (u : XUnit) (eng : BitVec 3) : BitVec 16 :=
  match u with
  | .tile t => tileUnit t eng
  | .gather c => unitId (field c 3 1) (field c 0 3) 0 0x10
  | .fabric p => unitId (field p 4 1) 0 0 (0x40 + p.setWidth 8)
  | _ => 0x0080

/-! ### Memories by class (R271, R305) -/

/-- n bytes of a class at a physical address. -/
def classRead (s : State) (cls : BitVec 3) (pa n : Nat) : List Byte :=
  match cls.toNat with
  | 0 => memRead s.hbm pa n
  | 1 => memRead s.cxlMem pa n
  | 2 => memRead s.hostMem pa n
  | _ => memRead s.sward (pa % 2 ^ 29) n

/-- Whether the home of n bytes takes no access now: a Sward bank under scrub (R262), or a target out of step, which refuses
every stamped request (R279). -/
def homeWaits (s : State) (cls : BitVec 3) (pa n : Nat) : Bool :=
  match cls.toNat with
  | 0 => unitOut s (.hbm (if pa < 0x4000000000 then 0 else 1))
  | 3 => (extentBanks (pa % 2 ^ 29) n).any fun b => s.scrubbing.contains b || unitOut s (.bank (BitVec.ofNat 11 b))
  | 4 => false
  | _ => unitOut s .hostLink

/-- Whether a class lies beyond the host link. -/
def beyondHost (cls : BitVec 3) : Bool := cls == 1 || cls == 2

/-- Whether two ranges of bytes of two classes meet. -/
def rangesOverlap (c1 : BitVec 3) (a1 n1 : Nat) (c2 : BitVec 3) (a2 n2 : Nat) : Bool :=
  c1 == c2 && decide (a1 < a2 + n2 ∧ a2 < a1 + n1)

/-- Whether an access meets bytes that an accepted write of a tile has still to change at their home (R286, R305). -/
def hostWaits (x : Tile) (cls : BitVec 3) (pa n : Nat) : Bool :=
  x.hostPend.any fun w => rangesOverlap w.cls w.pa w.e.size cls pa n

/-- Whether an access of the package to class 1 or 2 meets bytes of a write that the egress has accepted before it, so that it
leaves after that (R305). -/
def egressHolds (s : State) (cls : BitVec 3) (pa n : Nat) : Bool :=
  beyondHost cls && s.tiles.any fun x => hostWaits x cls pa n

/-- Bytes written to a class at a physical address; whole lines clear poison (R261). -/
def classWrite (cls : BitVec 3) (pa : Nat) (bs : List Byte) (s : State) : State :=
  match cls.toNat with
  | 0 => { s with hbm := memWrite s.hbm pa bs, hbmPoison := clearPoison s.hbmPoison pa bs.length }
  | 1 => { s with cxlMem := memWrite s.cxlMem pa bs }
  | 2 => { s with hostMem := memWrite s.hostMem pa bs }
  | _ => s.swardWrite (pa % 2 ^ 29) bs

/-- Whether n bytes of a class meet a poisoned line (R261). -/
def classPoisoned (s : State) (cls : BitVec 3) (pa n : Nat) : Bool :=
  match cls.toNat with
  | 0 => poisonedRange s.hbmPoison pa n
  | 3 => poisonedRange s.swardPoison (pa % 2 ^ 29) n
  | _ => false

/-- Lines written poisoned: only Sward and HBM4 lines are (R261, R326, R383). -/
def classPoison (cls : BitVec 3) (pa n : Nat) (s : State) : State :=
  match cls.toNat with
  | 0 => { s with hbmPoison := addPoison s.hbmPoison pa n }
  | 3 => { s with swardPoison := addPoison s.swardPoison (pa % 2 ^ 29) n }
  | _ => s

/-- What an atomic writes (R285): nothing for a `CAS` that fails. -/
def amoNew (o : AmoOp) (old v e : Word) : Option Word :=
  match o with
  | .add => some (old + v)
  | .and => some (old &&& v)
  | .or => some (old ||| v)
  | .xor => some (old ^^^ v)
  | .min => some (if old.toInt < v.toInt then old else v)
  | .max => some (if old.toInt < v.toInt then v else old)
  | .swap => some v
  | .cas => if old = e then some v else none

/-- Entries whose lease has run out are dropped (R276). -/
def dropExpired (s : State) (ls : List Lease) : List Lease := ls.filter fun l => decide (s.timeNs < l.expiry)

/-- `LEASE_EXPIRY` (R276). -/
def execLeaseExpiry (u : XUnit) (s : State) : Out := slotDone (setUnitTlb u (dropExpired s) s)

/-- `CLOCK_SKEW` (R279): the unit translates nothing, or refuses every stamped request, and the die's queue names it; a tile's
memory unit is named by the tile's S slot (DESIGN CHOICE, log 126: R420 names what the unit does for a slot or channel). -/
def execClockSkew (u : XUnit) (s : State) : Out :=
  slotDone (enterFault (unitDie u) (faultEntry (causeCode .clockSkew) 0 3 (unitName u 0) 0 0 0 s.timeNs)
    (setUnitOut u true (setUnitTlb u (fun _ => []) s)))

/-- `BACK_IN_STEP` (R279). -/
def execBackInStep (u : XUnit) (s : State) : Out := slotDone (setUnitOut u false s)

end Sys2Proof.Machine
end

