-- ==== Sys2Proof/Machine/Commands.lean ====
section
/-! DEFINITION. Engine commands as they run (R265 to R270, R289, R293, R295 to R300, R367): their start, the beats of their
byte streams, their remote requests, and their completion. -/

namespace Sys2Proof.Machine

/-! ### Commands and their tasks -/

def State.cmd? (s : State) (id : Nat) : Option Cmd := s.cmds.find? fun c => c.id == id
def modCmd (id : Nat) (f : Cmd → Cmd) (s : State) : State :=
  { s with cmds := s.cmds.map fun c => if c.id = id then f c else c }

/-- The command's ring handle. -/
def cmdHandle (s : State) (c : Cmd) : Handle := readH (taskOf s c.task) (parHidx c.par)

/-- The unit whose translations a command uses (R276). -/
def cmdXUnit (c : Cmd) : XUnit := if c.kind = 3 ∨ c.kind = 4 then .gather (tileCluster c.tile) else .tile c.tile

/-- The unit under which a command reports (R367, R420): its channel, or the gather engine. -/
def cmdUnit (c : Cmd) : BitVec 16 := unitName (cmdXUnit c) (if c.chan = 0 then 6 else 7)

/-- The accessor of a command's Sward side (R141). -/
def cmdAccessor (c : Cmd) : Accessor := ⟨c.ctx, c.saveSlot, c.stage⟩

/-- Kinds that another engine accepts (R266). -/
def isGather (c : Cmd) : Bool := c.kind == 3 || c.kind == 4
def isRemote (c : Cmd) : Bool := decide (c.kind.toNat ≥ 5)

/-- Whether a `CPY` writes its global side, and whether it writes the scratchpad. -/
def toGlobal (c : Cmd) : Bool := c.kind == 1 && parDir c.par == 1
def toScratch (c : Cmd) : Bool := c.kind == 1 && parDir c.par == 2

/-- Bytes of a command's stream. -/
def cmdTotal (c : Cmd) : Nat := cmdBytes c.kind.toNat c.par

/-- A channel without the command that kept it busy. -/
def releaseChannel (id : Nat) (x : Channel) : Channel := if x.busy = some id then { x with busy := none } else x

/-- The command's channel is free again (R266). -/
def freeChannel (c : Cmd) (s : State) : State :=
  modUid c.task (fun k => { k with ch := k.ch.set c.chan (releaseChannel c.id k.ch[c.chan]) }) s

/-- A command stops with a status (R268): its channel is free, and nothing more of it lands. The first status stays. -/
def stopCmd (c : Cmd) (status detail : BitVec 8) (va : Nat) (type : BitVec 2) (s : State) : State :=
  freeChannel c (modCmd c.id (fun x =>
    if x.phase = .stopping then x
    else { x with phase := .stopping, status := status, detail := detail, fva := BitVec.ofNat 64 va, ftype := type
                  early := [] }) s)

/-- A command has moved its last byte or sent its last request. -/
def endStream (c : Cmd) (s : State) : State := freeChannel c (modCmd c.id (fun x => { x with phase := .stopping }) s)

/-- Whether a request of a command has neither been answered nor timed out (R298, R302). -/
def awaits (c : Cmd) : Bool := c.reqs.any fun r => !r.late

/-! ### The byte stream (R268, R295 to R297) -/

/-- Row and byte of stream position p of a `CPY`: i2, i1, b (R295). -/
def cpyRow (p : Par) (n : Nat) : Nat × Nat × Nat :=
  let r := n / parLen0 p
  (r / Nat.max 1 (parCnt1 p), r % Nat.max 1 (parCnt1 p), n % parLen0 p)

/-- Global address of stream position n of a `CPY`. -/
def cpyGlobal (p : Par) (n : Nat) : Nat :=
  let (i2, i1, b) := cpyRow p n
  (parGaddr p).toNat + i2 * parGs2 p + i1 * parGs1 p + b

/-- Local address of stream position n at a command's Sward side (R264, R295). -/
def cmdLocal (s : State) (c : Cmd) (n : Nat) : Word :=
  if parHs c.par then
    let h := cmdHandle s c
    slotLa h (c.firstSlot + BitVec.ofNat 32 (n / slotBytes h)) + BitVec.ofNat 64 (n % slotBytes h)
  else if c.kind = 1 then
    let (i2, i1, b) := cpyRow c.par n
    parLaddr c.par + BitVec.ofNat 64 (i2 * parLs2 c.par + i1 * parLs1 c.par + b)
  else parLaddr c.par + BitVec.ofNat 64 n

/-- SGA of a local address under the command's region table, whose checks have passed at issue (R292). -/
def cmdSga (c : Cmd) (la : Word) : Nat :=
  match laCheck c.regions la 1 false false with
  | .ok a => a
  | .error _ => 0

/-- What a place of the stream yields: bytes, with whether they are poisoned; a missing translation; a fault; a
remote-window page; or nothing yet. -/
inductive Got where
  | got (bs : List Byte) (poison : Bool)
  | page (va : Nat) (k : AccessKind)
  | fail (c : Cause) (va : Nat) (k : AccessKind)
  | remote (l : Lease) (va : Nat)
  | wait
  deriving DecidableEq, Repr

/-- One byte read at a global address. -/
def globalByte (s : State) (c : Cmd) (va : Nat) : Got :=
  match translate s (cmdXUnit c) c.ctx va with
  | none => .page va .read
  | some l =>
    if !leaseGrants l .read then .fail .pageRights va .read
    else if l.cls = 4 then (if isGather c then .fail .classOp va .read else .remote l va)
    else if homeWaits s l.cls (leasePa l va) 1 || egressHolds s l.cls (leasePa l va) 1 then .wait
    else .got (classRead s l.cls (leasePa l va) 1) (classPoisoned s l.cls (leasePa l va) 1)

/-- One byte of a gather's row at list position i: from the memory line that the engine has fetched for it (R269). -/
def gatherByte (s : State) (c : Cmd) (i va : Nat) : Got :=
  match c.lines.find? fun e => e.1 == (i, va / 64) with
  | some (_, bs, p) => .got [byteAt bs (va % 64)] p
  | none => globalByte s c va

/-- n bytes of a row at list position i. -/
def gatherBytes (s : State) (c : Cmd) (i va : Nat) : Nat → Got
  | 0 => .got [] false
  | n + 1 =>
    match gatherByte s c i va with
    | .got b p =>
      match gatherBytes s c i (va + 1) n with
      | .got bs q => .got (b ++ bs) (p || q)
      | x => x
    | x => x

/-- Entry i of the captured index list, and of the bag offsets that follow it. -/
def listEntry (c : Cmd) (i : Nat) : Nat := leNat (bytesAt c.rowBytes (4 * i) 4)
def bagOffset (c : Cmd) (b : Nat) : Nat := listEntry c (parNidx c.par + b)

/-- Global address of table row i. -/
def tableRow (c : Cmd) (i : Nat) : Nat := (parGaddr c.par).toNat + i * parGs1 c.par

/-- One addition of a `POOL` (R61). -/
def poolAdd (mode : Nat) (acc : BitVec 32) (bs : List Byte) : BitVec 32 :=
  let x := BitVec.ofNat 32 (leNat bs)
  match mode with
  | 0 => addRne32 acc x
  | 1 => addRne32 acc (x <<< 16)
  | _ => acc + x

/-- Element at byte `off` of the pooled row of list positions i .. i+n−1, in list order (R61, R269). -/
def poolSum (s : State) (c : Cmd) (off size : Nat) : Nat → Nat → BitVec 32 → Bool → Got
  | _, 0, acc, p => .got (leBytes 4 acc.toNat) p
  | i, n + 1, acc, p =>
    if listEntry c i ≥ parCnt1 c.par then .fail .indexRange 0 .read
    else match gatherBytes s c i (tableRow c (listEntry c i) + off) size with
      | .got bs q => poolSum s c off size (i + 1) n (poolAdd (parMode c.par) acc bs) (p || q)
      | x => x

/-- Whether an index at a list position from a on, before b, is at or above NROWS (R297). -/
def indexBad (c : Cmd) (a b : Nat) : Bool := (List.range (b - a)).any fun i => decide (listEntry c (a + i) ≥ parCnt1 c.par)

/-- Stream position n of a `POOL`, a multiple of 4: an output element (R297). Every index of its bag, for the first bag every
index before it too, is in range before any of the row is summed. -/
def poolAt (s : State) (c : Cmd) (n : Nat) : Got :=
  let row := poolRowBytes c.par
  let b := n / row
  let size := if parMode c.par = 1 then 2 else 4
  let first := bagOffset c b
  let len := bagOffset c (b + 1) - first
  if indexBad c (if b = 0 then 0 else first) (first + len) then .fail .indexRange 0 .read
  else poolSum s c (size * (n % row / 4)) size first len 0 false

/-- Stream position n of a `GATH` (R297). -/
def gathAt (s : State) (c : Cmd) (n : Nat) : Got :=
  let j := n / parLen0 c.par
  if listEntry c j ≥ parCnt1 c.par then .fail .indexRange 0 .read
  else gatherByte s c j (tableRow c (listEntry c j) + n % parLen0 c.par)

/-- Stream position n of a `CPY` that writes its global side: the Sward byte, where the global address takes it. -/
def outByte (s : State) (c : Cmd) (n : Nat) : Got :=
  let va := cpyGlobal c.par n
  match translate s (cmdXUnit c) c.ctx va with
  | none => .page va .write
  | some l =>
    if !leaseGrants l .write then .fail .pageRights va .write
    else if l.cls = 4 then .remote l va
    else if homeWaits s l.cls (leasePa l va) 1 || egressHolds s l.cls (leasePa l va) 1 then .wait
    else
      let a := cmdSga c (cmdLocal s c n)
      .got (s.swardRead a 1) (poisonedRange s.swardPoison a 1)

/-- Early read data that holds stream position n (R298). -/
def earlyAt (c : Cmd) (n : Nat) : Option (List Byte × Bool) :=
  (c.early.find? fun e => e.1 == n / 4096 * 4096).map fun e => e.2

/-- What stream position n yields. -/
def streamAt (s : State) (c : Cmd) (n : Nat) : Got :=
  match c.kind.toNat with
  | 1 => if parDir c.par = 1 then outByte s c n else globalByte s c (cpyGlobal c.par n)
  | 2 => if n < c.rowBytes.length then .got [byteAt c.rowBytes n] false else .fail .tagMismatch 0 .read
  | 3 => gathAt s c n
  | 4 => poolAt s c n
  | _ => match earlyAt c n with
    | some (bs, _) => .got [byteAt bs (n % 4096)] false
    | none => .wait

/-- Bytes of the stream from position n, up to the first place that yields no good byte, and what that place yields. Fuel:
places. -/
def collect (s : State) (c : Cmd) : Nat → Nat → List Byte × Option Got
  | 0, _ => ([], none)
  | k + 1, n =>
    match streamAt s c n with
    | .got bs false =>
      let (r, w) := collect s c k (n + bs.length)
      (bs ++ r, w)
    | x => ([], some x)

/-- End of the beat at hand (R268). -/
def beatEnd (c : Cmd) : Nat := Nat.min (cmdTotal c) (64 * (c.pos / 64) + 64)

/-- What the beat at hand yields. -/
def beatStream (s : State) (c : Cmd) : List Byte × Option Got :=
  let n := beatEnd c - c.pos
  collect s c (if c.kind = 4 then n / 4 else n) c.pos

/-! ### Landing -/

/-- SGAs of n bytes of the Sward side from stream position p. -/
def sideSgas (s : State) (c : Cmd) (p n : Nat) : List Nat :=
  (List.range n).map fun i => cmdSga c (cmdLocal s c (p + i))

/-- Physical address of a global destination byte with its class above it, so that one run stays in one class. -/
def destKey (s : State) (c : Cmd) (va : Nat) : Nat :=
  match translate s (cmdXUnit c) c.ctx va with
  | some l => l.cls.toNat * 2 ^ 60 + leasePa l va
  | none => 0

def writeRun (s : State) (r : Nat × List Byte) : State :=
  classWrite (BitVec.ofNat 3 (r.1 / 2 ^ 60)) (r.1 % 2 ^ 60) r.2 s

/-- Bytes written to the scratchpad half that a `CPY` claimed (R148, R149): on the tile of its task, in the half that a
suspended task left resident, or among the halves saved with the task, a STOPPED one on its tile too (R355). -/
def scratchWrite (c : Cmd) (a : Nat) (bs : List Byte) (s : State) : State :=
  let upper := decide (a ≥ 0x10000)
  let put (x : Tile) : Tile := { x with imem := memWrite x.imem a bs }
  let saved (s : State) : State := modUid c.task (fun k => { k with halves := k.halves.map fun h =>
    if h.upper = upper then { h with bytes := memWrite h.bytes (a % 0x10000) bs } else h }) s
  match tileOf s c.task with
  | some t => if (s.tile t).task.halves.any fun h => h.upper == upper then saved s else s.modTile t put
  | none =>
    match ((List.range 256).map (BitVec.ofNat 8)).find? fun t =>
        (getHalf (s.tile t) upper).task == c.task && (getHalf (s.tile t) upper).st == .resident with
    | some t => s.modTile t put
    | none => saved s

/-- Bytes land at the stream position at hand. -/
def landBytes (c : Cmd) (bs : List Byte) (s : State) : State :=
  if toScratch c then scratchWrite c ((field (parLaddr c.par) 0 18).toNat + c.pos) bs s
  else if toGlobal c then
    (groupRuns (((List.range bs.length).map fun i => destKey s c (cpyGlobal c.par (c.pos + i))).zip bs)).foldl writeRun s
  else (groupRuns ((sideSgas s c c.pos bs.length).zip bs)).foldl (fun (s : State) r => s.swardWrite r.1 r.2) s

/-- The destination line of stream position n is marked poisoned (R261, R383). -/
def poisonDest (c : Cmd) (n : Nat) (s : State) : State :=
  if toScratch c then s
  else if toGlobal c then
    let k := destKey s c (cpyGlobal c.par n)
    classPoison (BitVec.ofNat 3 (k / 2 ^ 60)) (k % 2 ^ 60) 1 s
  else { s with swardPoison := addPoison s.swardPoison (cmdSga c (cmdLocal s c n)) 1 }

/-! ### Watchpoints on commands (R365, R367) -/

/-- One watchpoint's report of a command's write: WATCH_COPY with no beat landed since, and the hold (R367). -/
def watchOne (id : Nat) (space : Bool) (rs : List (Nat × Nat)) (s : State) (i : Fin 4) : State :=
  match s.cmd? id with
  | none => s
  | some c =>
    let w := (s.ctx c.ctx).watch[i]
    let n := BitVec.ofNat 2 i.val
    match watchRanges w space rs with
    | none => s
    | some a =>
      if c.reported.contains n then s
      else
        let hold := bit w 2
        let e := faultEntry (causeCode .watchCopy) c.ctx 1 (cmdUnit c) (BitVec.ofNat 32 (i.val + 16 * b2n hold))
          (BitVec.ofNat 48 a) c.seq s.timeNs
        let d := tileDie c.tile
        traceWatch d (cmdUnit c) (taskOf s c.task) c.seq e (enterFault d e (modCmd id (fun x =>
          { x with reported := n :: x.reported, watchHeld := x.watchHeld || hold }) s))

/-- The reports of a command's write of ranges in a space (0 VA, 1 SGA). -/
def watchCmd (c : Cmd) (space : Bool) (rs : List (Nat × Nat)) (s : State) : State :=
  (List.finRange 4).foldl (watchOne c.id space rs) s

/-- Ranges of single bytes. -/
def byteRanges (l : List Nat) : List (Nat × Nat) := l.map fun a => (a, 1)

/-- The reports of bytes that have landed from the stream position at hand. -/
def watchLanded (c : Cmd) (n : Nat) (s : State) : State :=
  if toScratch c then s
  else if toGlobal c then watchCmd c false (byteRanges ((List.range n).map fun i => cpyGlobal c.par (c.pos + i))) s
  else watchCmd c true (byteRanges (sideSgas s c c.pos n)) s

/-! ### Progress of the stream -/

/-- The handle of a command's task changed. -/
def modHandle (c : Cmd) (f : Handle → Handle) (s : State) : State :=
  modUid c.task (fun k => setH k (parHidx c.par) (f (readH k (parHidx c.par)))) s

/-- Slot ends between stream positions a and b. -/
def slotsEnded (s : State) (c : Cmd) (a b : Nat) : Nat :=
  let n := slotBytes (cmdHandle s c)
  b / n - a / n

/-- Slots completed between two stream positions: published with the command's tag, or passed by HEAD (R265, R295). -/
def turnSlots (c : Cmd) (a b : Nat) (s : State) : State :=
  let n := BitVec.ofNat 32 (slotsEnded s c a b)
  if !parHs c.par ∨ n = 0 then s
  else if cmdWrites c then modHandle c (fun h => publishSlots h n c.tag) s
  else if parAdv c.par then modHandle c (fun h => passSlots h n) s
  else s

/-- Delivery of the beat that ends at stream position n; a refusal or fault stops the command (R33, R268). -/
def beatDelivery (c : Cmd) (n : Nat) (s : State) : State :=
  if !parDlv c.par then s
  else
    match cellOpReport c.ctx (parCell c.par) (.delivery (n - 64 * ((n - 1) / 64))) (cmdUnit c) c.seq s with
    | (s1, some f) => stopCmd c (causeCode f) 0 0 3 s1
    | (s1, none) => s1

/-- n bytes at the position at hand have landed: their reports, their slots, and the delivery of a beat that is whole. -/
def progress (c : Cmd) (k : Nat) (s : State) : State :=
  let n := c.pos + k
  let s1 := turnSlots c c.pos n (modCmd c.id (fun x => { x with pos := n }) (watchLanded c k s))
  if n = beatEnd c then beatDelivery c n s1 else s1

/-- Bytes that are ready land. -/
def landed (c : Cmd) (bs : List Byte) (s : State) : State :=
  if bs = [] then s else progress c bs.length (landBytes c bs s)

/-- Whether the slot of stream position n is filled (R265). -/
def slotFilled (s : State) (c : Cmd) (n : Nat) : Bool :=
  let h := cmdHandle s c
  let d := (h.fill - (c.firstSlot + BitVec.ofNat 32 (n / slotBytes h))).toNat
  decide (0 < d ∧ d ≤ handleSlots h)

/-- The slot that a command needs at its position: reserved just before it is written, or filled (R265); none: it waits. -/
def takeSlot (c : Cmd) (s : State) : Option State :=
  if !parHs c.par then some s
  else if !cmdWrites c then (if slotFilled s c c.pos then some s else none)
  else if c.pos / slotBytes (cmdHandle s c) < c.slotRes then some s
  else if freeSlotCount (cmdHandle s c) = 0 then none
  else some (modCmd c.id (fun x => { x with slotRes := x.slotRes + 1 }) (modHandle c (fun h => { h with res := h.res + 1 }) s))

/-- The banks that n bytes of the Sward side from position p need (R141, R262). -/
def sideBanks (s : State) (c : Cmd) (p n : Nat) : List Nat := distinct ((sideSgas s c p n).map sgaBank)

/-- The Sward side of n bytes at the position is admitted, with its slot. -/
def admitSide (c : Cmd) (n : Nat) (s : State) : Option State :=
  if toScratch c then some s
  else match takeSlot c s with
    | none => none
    | some s1 => admitBanks (cmdAccessor c) (sideBanks s1 c c.pos n) s1

/-- The bytes of a command's histogram: how many rows' pairs include each element (R270). -/
def histogram (c : Cmd) : List Byte :=
  let es := (List.range (c.rowBytes.length / 8)).map fun i =>
    (BitVec.ofNat 32 (leNat (bytesAt c.rowBytes (8 * i + 4) 4)) - parIbase c.par).toNat
  (List.range 256).flatMap fun e => leBytes 4 (es.filter fun x => x == e).length

/-- Whether a command still has beats of its histogram to write, after every pair (R270). -/
def histogramDue (c : Cmd) : Bool := c.kind == 2 && parTk c.par && c.pos == cmdTotal c && decide (c.histPos < 1024)

/-- The stream ends once its last byte has landed and no watchpoint holds the command (R367); indices behind a `POOL`'s last bag
are in range, or it stops (R297). -/
def tryEnd (id : Nat) (s : State) : State :=
  match s.cmd? id with
  | none => s
  | some c =>
    if c.phase = .running ∧ c.pos = cmdTotal c ∧ !c.watchHeld ∧ !histogramDue c then
      if c.kind = 4 ∧ indexBad c (bagOffset c (parNbag c.par)) (parNidx c.par) then
        stopCmd c (causeCode .indexRange) 0 0 3 s
      else endStream c s
    else s

/-- The next beat of a command's histogram is written (R270, R367); nothing where its bank does not admit it. -/
def histogramBeat (c : Cmd) (s : State) : State :=
  let a := cmdSga c (parBagLa c.par) + c.histPos
  match admitBanks (cmdAccessor c) (extentBanks a 64) s with
  | none => s
  | some s1 =>
    tryEnd c.id (watchCmd c true [(a, 64)] (modCmd c.id (fun x => { x with histPos := x.histPos + 64 })
      (s1.swardWrite a (bytesAt (histogram c) c.histPos 64))))

/-- TYPE of a status entry: the access of a translation cause (R347). -/
def statusType (c : Cause) (k : AccessKind) : BitVec 2 := if isTranslationCause (causeCode c) then kindType k else 3

/-- What follows the good bytes of a beat. -/
def beatStop (id : Nat) (why : Option Got) (s : State) : State :=
  match s.cmd? id with
  | none => s
  | some c =>
    if c.phase ≠ .running then s
    else match why with
      | some (.fail f va k) => stopCmd c (causeCode f) 0 va (statusType f k) s
      | some (.got _ true) => stopCmd c (causeCode .poisonedData) 0 0 3 (poisonDest c c.pos s)
      | _ => s

/-! ### Remote requests (R298 to R301, R321, R421) -/

/-- The port whose fabric engine accepts a tile's remote commands (R421). -/
def enginePort (t : TileId) : BitVec 5 := tileDie t ++ field t 5 2 ++ (0 : BitVec 2)

/-- A frame of this package for a fabric engine: to that port's own engine where it is the destination, else by the
routing table of the port group; dropped where no hop is live (R318, R421). -/
def sendFrame (p : BitVec 5) (bytes : List Byte) (s : State) : State :=
  if ytDst (ytHeader bytes) = s.chipId then
    s.modPort p fun x => { x with fab := x.fab ++ [⟨⟨noRef, bytes, true, s.timeNs, false, false⟩, none, false, false⟩] }
  else match sendRouted (pipeOf (p.setWidth 6)) 63 noRef bytes false false s with
    | some s1 => s1
    | none => count (p.setWidth 6) .drop s

/-- TOKID of a command's requests: the issuing channel and bits [15:0] of its sequence number (R368). -/
def cmdTokid (c : Cmd) : BitVec 32 := field c.seq 0 16 ++ tileUnit c.tile (if c.chan = 0 then 6 else 7)

/-- A request of a command is sent, in the even class of its pair (R316). -/
def sendReq (c : Cmd) (chip : BitVec 10) (tc : BitVec 3) (opc : BitVec 9) (grant : Word) (off : BitVec 48) (poison : Bool)
    (payload : List Byte) (part len : Nat) (s : State) : State :=
  sendFrame (enginePort c.tile) (mkYt chip s.chipId (tc &&& 6) opc grant off poison (cmdTokid c) payload)
    (modCmd c.id (fun x => { x with reqs := x.reqs ++ [⟨chip, off, part, len, s.timeNs, false⟩], nextPart := x.nextPart + 1 }) s)

/-- Requests of a command of a remote kind: 4 KiB each of `RLD` and `RST`, one of `RAMO` and `RARRIVE`, one for each
member of `MCST`. -/
def groupDesc (s : State) (c : Cmd) : BitVec 128 := smGet 0 s.fabGroups (parChip c.par).toNat

def remoteParts (s : State) (c : Cmd) : Nat :=
  match c.kind.toNat with
  | 5 => ceilDiv (parLen0 c.par) 4096
  | 6 => ceilDiv (parLen0 c.par) 4096
  | 8 => (field (groupDesc s c) 1 10).toNat + 1
  | _ => 1

/-- n bytes of the Sward side from position p, read for a request where the banks admit them: the state, the bytes, and whether
they are poisoned. -/
def sourceBytes (s : State) (c : Cmd) (p n : Nat) : Option (State × List Byte × Bool) :=
  let as_ := sideSgas s c p n
  (admitBanks (cmdAccessor c) (distinct (as_.map sgaBank)) s).map fun s1 =>
    (s1, as_.map (memGet s1.sward), as_.any fun a => poisonedRange s1.swardPoison a 1)

/-- A source that is a handle is read slot by slot, each once it is filled; HEAD passes each as it has been read (R265, R290,
R298). The bytes up to stream position n gather in the command. -/
def readSlot (c : Cmd) (n : Nat) (s : State) : State :=
  let b := slotBytes (cmdHandle s c)
  let e := Nat.min n (b * (c.pos / b) + b)
  if !slotFilled s c c.pos then s
  else match sourceBytes s c c.pos (e - c.pos) with
    | none => s
    | some (s1, bs, bad) => turnSlots c c.pos e (modCmd c.id (fun x =>
        { x with pos := e, rowBytes := x.rowBytes ++ bs, rowPoison := x.rowPoison || bad }) s1)

/-- The n bytes of a request from stream position p: through a handle those that have gathered, else read now. -/
def requestBytes (s : State) (c : Cmd) (p n : Nat) : Option (State × List Byte × Bool) :=
  if parHs c.par then some (s, c.rowBytes, c.rowPoison) else sourceBytes s c p n

/-- Stream position up to which a command's source must have been read before its next request goes. -/
def sourceEnd (c : Cmd) : Nat :=
  match c.kind.toNat with
  | 6 => Nat.min (4096 * c.nextPart + 4096) (parLen0 c.par)
  | 8 => parLen0 c.par
  | _ => 0

/-- A request whose source is poisoned is the command's last (R298, R383). -/
def afterPoison (c : Cmd) (bad : Bool) (s : State) : State :=
  if bad then stopCmd c (causeCode .poisonedData) 0 0 3 s else s

/-- Place in HBM4 of member i of a multicast group (R329). -/
def memberAt (s : State) (c : Cmd) (i : Nat) : Nat := (field (groupDesc s c) 16 48).toNat * 16 + 16 * i

/-- Member i of a multicast group: its 16 bytes (R329). -/
def groupMember (s : State) (c : Cmd) (i : Nat) : BitVec 128 := BitVec.ofNat 128 (memReadLE s.hbm (memberAt s c i) 16)

/-- The next member of an `MCST` is sent its write; the source is read once (R299, R329). A poisoned line of the list stops
the command (R346). -/
def sendMember (c : Cmd) (s : State) : State :=
  let n := parLen0 c.par
  if poisonedRange s.hbmPoison (memberAt s c c.nextPart) 16 then stopCmd c (causeCode .poisonedData) 0 0 3 s else
  let src := if c.nextPart = 0 then requestBytes s c 0 n else some (s, c.rowBytes, c.rowPoison)
  match src with
  | none => s
  | some (s1, bs, bad) =>
    let m := groupMember s c c.nextPart
    let tok : Word := field m 64 64
    afterPoison c bad (sendReq c (field m 0 10) (field m 10 3) 4 (if tok = 0 then c.par[6] else tok)
      (field (parGaddr c.par) 0 48) bad bs c.nextPart n
      (modCmd c.id (fun x => { x with rowBytes := bs, rowPoison := bad }) s1))

/-- Operand doublewords of a `RAMO`: e and v (R298). -/
def ramoOperands (c : Cmd) (bs : List Byte) : List Byte :=
  if parMode c.par = 7 then bytesAt bs 0 16 else List.replicate 8 0 ++ bytesAt bs 0 8

/-- The request of a `RAMO`: its operands are read, and poison among them stops it (R261, R298). -/
def sendAtomic (c : Cmd) (s : State) : State :=
  match sourceBytes s c 0 (if parMode c.par = 7 then 16 else 8) with
  | none => s
  | some (s1, bs, bad) =>
    if bad then stopCmd c (causeCode .poisonedData) 0 0 3 s1
    else sendReq c (parChip c.par) (parTc c.par) 3 c.par[6] (field (parGaddr c.par) 0 48) false
      (leBytes 8 (parMode c.par) ++ ramoOperands c bs) 0 8 s1

/-- The next request of a command of a remote kind (R298 to R300). -/
def sendPart (c : Cmd) (s : State) : State :=
  let i := c.nextPart
  let off : BitVec 48 := field (parGaddr c.par) 0 48 + BitVec.ofNat 48 (4096 * i)
  let n := Nat.min 4096 (parLen0 c.par - 4096 * i)
  match c.kind.toNat with
  | 5 => sendReq c (parChip c.par) (parTc c.par) 1 c.par[6] off false (leBytes 8 n) (4096 * i) n s
  | 6 =>
    match requestBytes s c (4096 * i) n with
    | none => s
    | some (s1, bs, bad) => afterPoison c bad (sendReq c (parChip c.par) (parTc c.par) 2 c.par[6] off bad bs (4096 * i) n
        (modCmd c.id (fun x => { x with rowBytes := [] }) s1))
  | 7 => sendAtomic c s
  | 8 => sendMember c s
  | _ => sendReq c (parChip c.par) (parTc c.par) 5 c.par[6] ((field (parGaddr c.par) 0 16).setWidth 48) false
      (leBytes 8 (parLen0 c.par)) 0 0 s

/-- A remote command ends once it has sent every request, each is answered, and every byte has landed (R298). -/
def tryEndRemote (id : Nat) (s : State) : State :=
  match s.cmd? id with
  | none => s
  | some c =>
    if c.phase = .running ∧ isRemote c ∧ !awaits c ∧ c.nextPart = remoteParts s c ∧ (c.kind ≠ 5 ∨ c.pos = cmdTotal c) then
      endStream c s
    else s

/-- Bytes of a `CPY` from the position at hand that one remote request carries: consecutive in one page, within the
beat. -/
def remoteRun (c : Cmd) (l : Lease) (va : Nat) : Nat :=
  ((List.range (beatEnd c - c.pos)).takeWhile fun i =>
    cpyGlobal c.par (c.pos + i) == va + i && (va + i) / 2 ^ l.pageBits == l.page).length

/-- The request of a `CPY` whose global side is a remote-window page (R295, R321); with its last request issued the channel is
free (R266). -/
def sendCopy (c : Cmd) (l : Lease) (va : Nat) (s : State) : State :=
  let w := smGet 0 s.windows ((field (BitVec.ofNat 64 l.pa) 8 16).toNat)
  let n := remoteRun c l va
  let off : BitVec 48 := field w 16 48 + BitVec.ofNat 48 (va % 2 ^ l.pageBits)
  let send (opc : BitVec 9) (bad : Bool) (bs : List Byte) (s : State) : State :=
    (if c.pos + n = cmdTotal c then freeChannel c else id) <| sendReq c (field w 4 10) (field w 1 3) opc (field w 64 64) off bad bs c.pos n s
  if toGlobal c then
    (let as_ := sideSgas s c c.pos n
     let bad := as_.any fun a => poisonedRange s.swardPoison a 1
     afterPoison c bad (send 2 bad (as_.map (memGet s.sward)) s))
  else send 1 false (leBytes 8 n) s

/-! ### Renewal (R278) -/

/-- A walk with the check of a remote-window leaf: a disabled entry, or one with an odd TC, is malformed (R321). -/
def walkChecked (s : State) (ctx : CtxId) (va : Nat) : WalkEnd :=
  match walk s ctx va with
  | .leaf e lev =>
    if pteClass e = 4 then
      let w := smGet 0 s.windows (field (BitVec.ofNat 64 (pteAddr e)) 8 16).toNat
      if bit w 0 && !bit w 1 then .leaf e lev else .bad lev
    else .leaf e lev
  | x => x

/-- A unit keeps a lease; entries that have run out go. -/
def addLease (u : XUnit) (l : Lease) (s : State) : State := setUnitTlb u (fun ls => dropExpired s ls ++ [l]) s

/-- List positions of a gather's beat at hand, with the global addresses of their rows that it reads. -/
def gatherTouch (c : Cmd) : List (Nat × Nat) :=
  let all :=
    if c.kind = 3 then
      (List.range (beatEnd c - c.pos)).map fun j =>
        let i := (c.pos + j) / parLen0 c.par
        (i, tableRow c (listEntry c i) + (c.pos + j) % parLen0 c.par)
    else
      let size := if parMode c.par = 1 then 2 else 4
      (List.range ((beatEnd c - c.pos) / 4)).flatMap fun j =>
        let n := c.pos + 4 * j
        let b := n / poolRowBytes c.par
        (List.range (bagOffset c (b + 1) - bagOffset c b)).flatMap fun i =>
          let a := tableRow c (listEntry c (bagOffset c b + i)) + size * (n % poolRowBytes c.par / 4)
          [(bagOffset c b + i, a), (bagOffset c b + i, a + size - 1)]
  all.filter fun e => decide (listEntry c e.1 < parCnt1 c.par)

/-- Global addresses and kind of access of the beat at hand. -/
def beatVas (c : Cmd) : List Nat × AccessKind :=
  match c.kind.toNat with
  | 1 => ((List.range (beatEnd c - c.pos)).map fun i => cpyGlobal c.par (c.pos + i), if toGlobal c then .write else .read)
  | 3 => ((gatherTouch c).map fun e => e.2, .read)
  | 4 => ((gatherTouch c).map fun e => e.2, .read)
  | _ => ([], .read)

/-- Whether a lease is due for renewal. -/
def renewalDue (s : State) (l : Lease) : Bool :=
  decide (s.timeNs < l.expiry ∧ 8 * (l.expiry - s.timeNs) < leaseNs l.lclass)

/-- Whether a leaf agrees with a lease in address, class and the rights that the command needs. -/
def leaseAgrees (k : AccessKind) (old new : Lease) : Bool :=
  old.pa == new.pa && old.cls == new.cls && (!leaseGrants old k || leaseGrants new k)

/-- The translation of an address that a command has used. -/
def usedLease (c : Cmd) (va : Nat) : Option Lease := c.used.find? fun l => va / 2 ^ l.pageBits == l.page

/-- A command uses a translation. -/
def useLease (id : Nat) (l : Lease) (s : State) : State :=
  modCmd id (fun x => { x with used := (x.used.filter fun y => !(y.page == l.page && y.pageBits == l.pageBits)) ++ [l] }) s

/-- One address of a command: the entry that serves it is one that the command uses; where it is due, it takes the new stamp
and class, or the command stops. -/
def renewOne (k : AccessKind) (id : Nat) (s : State) (va : Nat) : State :=
  match s.cmd? id with
  | none => s
  | some c =>
    if c.phase ≠ .running then s
    else match translate s (cmdXUnit c) c.ctx va with
      | none => s
      | some l =>
        if !renewalDue s l then useLease id l s
        else match walkChecked s c.ctx va with
          | .leaf w lev =>
            let n := leaseOf s c.ctx va w lev
            let l' := { l with expiry := n.expiry, lclass := n.lclass }
            if leaseAgrees k l n then
              useLease id l' (setUnitTlb (cmdXUnit c) (fun ls => ls.map fun x => if x = l then l' else x) s)
            else stopCmd c (causeCode .leaseChanged) 0 va (kindType k) s
          | .poisoned => stopCmd c (causeCode .poisonedData) 0 0 3 s
          | _ => stopCmd c (causeCode .leaseChanged) 0 va (kindType k) s

/-- The entries that a command needs next are renewed where they are due. -/
def renewBeat (c : Cmd) (s : State) : State := (beatVas c).1.foldl (renewOne (beatVas c).2 c.id) s

/-- The memory line that holds an address, whole, where it can be read (R269). -/
def lineAt (s : State) (c : Cmd) (va : Nat) : Option (List Byte × Bool) :=
  match translate s (cmdXUnit c) c.ctx va with
  | none => none
  | some l =>
    let pa := leasePa l (64 * (va / 64))
    if !leaseGrants l .read || l.cls == 4 || homeWaits s l.cls pa 64 || egressHolds s l.cls pa 64 then none
    else some (classRead s l.cls pa 64, classPoisoned s l.cls pa 64)

/-- The memory lines that a gather's beat reads are fetched, each whole, once for each row; lines of rows that it has left go
(R269). -/
def fetchLines (c : Cmd) (s : State) : State :=
  let touch := gatherTouch c
  let first := touch.foldl (fun n e => Nat.min n e.1) (parNidx c.par)
  let add (ls : List ((Nat × Nat) × List Byte × Bool)) (e : Nat × Nat) : List ((Nat × Nat) × List Byte × Bool) :=
    if ls.any fun x => x.1 == (e.1, e.2 / 64) then ls
    else match lineAt s c e.2 with
      | some (bs, p) => ls ++ [((e.1, e.2 / 64), bs, p)]
      | none => ls
  modCmd c.id (fun x => { x with lines := touch.foldl add (x.lines.filter fun e => decide (first ≤ e.1.1)) }) s

/-! ### Beats (R268) -/

/-- A beat of a command whose bytes this package moves. -/
def localBeat (c : Cmd) (s : State) : State :=
  let (bs, why) := beatStream s c
  match why with
  | some (.page _ _) => s
  | some .wait => s
  | some (.remote l va) =>
    (match admitSide c (if bs = [] then remoteRun c l va else bs.length) s with
      | none => s
      | some s1 => if bs = [] then sendCopy c l va s1 else landed c bs s1)
  | why =>
    match (if bs = [] then some s else admitSide c bs.length s) with
    | none => s
    | some s1 => tryEnd c.id (beatStop c.id why (landed c bs s1))

/-- A beat of read data that has come (R298): poisoned data marks its lines and stops the command with its last beat. -/
def readBeat (c : Cmd) (s : State) : State :=
  let n := beatEnd c
  match earlyAt c c.pos, admitSide c (n - c.pos) s with
  | some (_, bad), some s1 =>
    let (bs, _) := beatStream s c
    let s2 := landed c bs s1
    let s3 := if bad then (sideSgas s c c.pos bs.length).foldl (fun (s : State) a =>
      { s with swardPoison := addPoison s.swardPoison a 1 }) s2 else s2
    if n % 4096 ≠ 0 ∧ n ≠ cmdTotal c then s3
    else
      let s4 := modCmd c.id (fun x => { x with early := x.early.filter fun e => e.1 ≠ c.pos / 4096 * 4096 }) s3
      tryEndRemote c.id (if bad then stopCmd c (causeCode .poisonedData) 0 0 3 s4 else s4)
  | _, _ => s

/-- The next beat of a command that runs: nothing while a watchpoint, a page or a full replay log holds it, or the scrub of its
cell's bank (R262, R280, R367, R371). -/
def copyBeat (c : Cmd) (s : State) : State :=
  if c.phase ≠ .running ∨ c.watchHeld ∨ c.pageWait ∨ (parDlv c.par ∧ (logFull s c.ctx 1 ∨ cellScrubs s c.ctx (parCell c.par))) then s
  else if histogramDue c then histogramBeat c s
  else if !isRemote c then
    (if awaits c then s
    else
      let s1 := renewBeat c s
      match s1.cmd? c.id with
      | some x =>
        if x.phase ≠ .running then s1
        else if isGather x then (match (fetchLines x s1).cmd? c.id with | some y => localBeat y (fetchLines x s1) | none => s1)
        else localBeat x s1
      | none => s1)
  else if c.kind = 5 ∧ c.pos < cmdTotal c ∧ (earlyAt c c.pos).isSome then readBeat c s
  else if c.nextPart < remoteParts s c then
    (if parHs c.par ∧ c.kind ≠ 5 ∧ c.pos < sourceEnd c then readSlot c (sourceEnd c) s else sendPart c s)
  else s

/-- `COPY_BEAT` (R268, R298). -/
def execCopyBeat (id : Nat) (s : State) : Out :=
  slotDone (match s.cmd? id with
    | some c => tidyPorts (copyBeat c s)
    | none => s)

/-! ### Completion (R267, R293, R303) -/

/-- The token of a command that completes, where it is still the token's producer: commands that consume it go on, and its
status travels (R267, R293). -/
def giveToken (c : Cmd) (status detail : BitVec 8) (s : State) : State :=
  match c.kp with
  | none => s
  | some r =>
    let mine := taskOf s c.task
    if !(readK mine r).pend || (readK mine r).seq != c.seq then s
    else
    let s1 := modUid c.task (fun k => setK k r ⟨false, status, detail, c.seq⟩) s
    { s1 with cmds := s1.cmds.map fun x =>
        if x.task = c.task ∧ x.kx.contains r then
          { x with kx := x.kx.filter (· ≠ r), upstream := x.upstream || status != 0 }
        else x }

/-- The completion record of an `MCST` (R299). -/
def mcstRecord (c : Cmd) : List Byte :=
  let ids := c.failed.mergeSort fun a b => decide (a.toNat ≤ b.toNat)
  leBytes 32 (packNat ([(c.done_, 16), (c.failed.length, 16), (b2n (decide (c.failed.length > 8)), 1), (0, 31)]
    ++ (List.range 8).map fun j => (match ids[j]? with | some i => i.toNat | none => 0xFFFF, 16)))

/-- The record is written; none where its bank does not admit it (R141). -/
def writeRecord (c : Cmd) (s : State) : Option State :=
  if c.kind ≠ 8 ∨ c.status ≠ 0 ∨ c.recorded then some s
  else
    let a := cmdSga c (parRecordLa c.par)
    (admitBanks (cmdAccessor c) (extentBanks a 32) s).map fun s1 =>
      watchCmd c true [(a, 32)] (modCmd c.id (fun x => { x with recorded := true }) (s1.swardWrite a (mcstRecord c)))

/-- The arrive that a command makes once all is done (R290, R314). -/
def cmdArrive (c : Cmd) (s : State) : State × BitVec 8 :=
  let st := if c.kind = 8 ∧ c.failed ≠ [] ∧ c.status = 0 then causeCode .mcastPartial else c.status
  if st ≠ 0 ∨ !parArr c.par then (s, st)
  else match cellOpReport c.ctx (parCell c.par) (.arrive 1) (cmdUnit c) c.seq s with
    | (s1, some f) => (s1, causeCode f)
    | (s1, none) => (s1, 0)

/-- A status enters the queue of the command's die, but for a cell's cause where the cell lies on that die, whose queue has it
(R38, R303). -/
def statusEntry (c : Cmd) (st : BitVec 8) (s : State) : State :=
  if st = 0 ∨ (0x60 ≤ st.toNat ∧ st.toNat ≤ 0x66 ∧ sgaDie (ctxCellBase (s.ctx c.ctx).desc) = tileDie c.tile) then s
  else enterFault (tileDie c.tile) (faultEntry st c.ctx c.ftype (cmdUnit c) (c.detail.setWidth 32)
    (if isTranslationCause st then field c.fva 0 48 else 0) c.seq s.timeNs) s

/-- The next command that writes the handle of a command: it starts as if it consumed the command's token (R289). -/
def heir (s : State) (c : Cmd) : Option Nat :=
  if parHs c.par && cmdWrites c then
    (s.cmds.find? fun x => decide (c.id < x.id) && cmdNames c.task (parHidx c.par) x && cmdWrites x).map fun x => x.id
  else none

/-- A status other than 0 travels to the heir of a command (R289, R293). -/
def passStatus (c : Cmd) (st : BitVec 8) (s : State) : State :=
  match heir s c with
  | some id => if st = 0 then s else modCmd id (fun x => { x with upstream := true }) s
  | none => s

/-- The command completes: nothing of it is outstanding, and no watchpoint holds it. -/
def completeCmd (id : Nat) (s : State) : State :=
  match s.cmd? id with
  | none => s
  | some c =>
    if c.phase ≠ .stopping ∨ awaits c ∨ c.watchHeld ∨ (parArr c.par ∧ (logFull s c.ctx 1 ∨ cellScrubs s c.ctx (parCell c.par))) then s
    else match writeRecord c s with
      | none => s
      | some s1 =>
        if s1.cmds.any fun x => x.id == id && x.watchHeld then s1
        else
          let (s2, st) := cmdArrive c s1
          giveToken c st c.detail (statusEntry c st (passStatus c st { s2 with cmds := s2.cmds.filter fun x => x.id ≠ id }))

/-- `COMMAND_COMPLETION` (R267, R293). -/
def execCommandCompletion (id : Nat) (s : State) : Out := slotDone (completeCmd id s)

/-! ### Start (R267, R269, R289) -/

/-- Commands that a cluster's gather engine holds (R269). -/
def gatherHolds (s : State) (g : BitVec 4) : Nat :=
  (s.cmds.filter fun c => isGather c && c.accepted && tileCluster c.tile == g).length

/-- A gather or fabric engine accepts a command, whose channel is then free (R266, R269, R421). -/
def acceptCmd (c : Cmd) (s : State) : State :=
  if c.accepted ∨ !(isGather c || isRemote c) ∨ (isGather c ∧ gatherHolds s (tileCluster c.tile) ≥ 32) then s
  else freeChannel c (modCmd c.id (fun x => { x with accepted := true, accNum := s.accepts }) { s with accepts := s.accepts + 1 })

/-- Whether a command may start: its tokens are COMPLETE; a destination handle has RES = FILL and no earlier command
that writes it; an engine has accepted it, and started those that it accepted earlier from the tile (R267, R269, R289). -/
def startReady (s : State) (c : Cmd) : Bool :=
  c.kx.isEmpty && (!(isGather c || isRemote c) || c.accepted) &&
    (c.upstream || (
      (!(parHs c.par && cmdWrites c) || (decide (reservedSlots (cmdHandle s c) = 0) &&
        !s.cmds.any fun x => decide (x.id < c.id) && cmdNames c.task (parHidx c.par) x && cmdWrites x)) &&
      (!isGather c || !s.cmds.any fun x => x.accepted && isGather x && decide (x.accNum < c.accNum) && x.phase == .waiting
        && x.tile == c.tile)))

/-- Whether a `POOL`'s bag offsets never decrease and stay within the list (R297). -/
def bagsOk (c : Cmd) : Bool :=
  ((List.range (parNbag c.par)).all fun b => decide (bagOffset c b ≤ bagOffset c (b + 1)))
    && decide (bagOffset c (parNbag c.par) ≤ parNidx c.par)

/-- Extents of a gather's lists: the indices, then the bag offsets (R297). -/
def listExtents (c : Cmd) : List (Nat × Nat) :=
  if !isGather c then []
  else (cmdSga c (parIndexLa c.par), 4 * parNidx c.par) ::
    (if c.kind = 4 then [(cmdSga c (parBagLa c.par), 4 * (parNbag c.par + 1))] else [])

/-- A gather's lists are captured (R297); none where a bank does not admit the reads. -/
def captureLists (c : Cmd) (s : State) : Option State :=
  (admitBanks (cmdAccessor c) (distinct ((listExtents c).flatMap fun e => extentBanks e.1 e.2)) s).map fun s1 =>
    if (listExtents c).any fun e => poisonedRange s1.swardPoison e.1 e.2 then
      stopCmd c (causeCode .poisonedData) 0 0 3 s1
    else
      let c1 := if isGather c then { c with rowBytes := (listExtents c).flatMap fun e => s1.swardRead e.1 e.2 } else c
      let s2 := modCmd c.id (fun x => { x with rowBytes := c1.rowBytes }) s1
      if c.kind = 4 ∧ !bagsOk c1 then stopCmd c (causeCode .indexRange) 0 0 3 s2 else s2

/-- The command starts (R267): a status behind it travels; a copy of nothing is done at once; a multicast to a disabled
group is refused (R290, R293, R329). -/
def startCmd (c : Cmd) (s : State) : State :=
  if c.upstream then completeCmd c.id (stopCmd c (causeCode .upstream) 0 0 3 s)
  else if c.kind = 1 ∧ cmdTotal c = 0 then completeCmd c.id (endStream c s)
  else if c.kind = 8 ∧ !bit (groupDesc s c) 0 then stopCmd c (causeCode .remoteRefused) 3 0 3 s
  else
    let h := cmdHandle s c
    match captureLists c (modCmd c.id (fun x =>
        { x with phase := .running
                 firstSlot := if cmdWrites c then h.res else h.head + pendingAdvance s.cmds (taskOf s c.task) (parHidx c.par) }) s) with
    | some s1 => s1
    | none => s

/-- `COMMAND_START` (R267, R293). -/
def execCommandStart (id : Nat) (s : State) : Out :=
  slotDone (match s.cmd? id with
    | none => s
    | some c =>
      if c.phase ≠ .waiting then s
      else
        let s1 := acceptCmd c s
        match s1.cmd? id with
        | some c1 => if startReady s1 c1 then startCmd c1 s1 else s1
        | none => s1)

/-- `WATCH_COPY_RELEASE` (R367): the command goes on, to its end where its last byte has landed. -/
def execWatchCopyRelease (id : Nat) (s : State) : Out :=
  slotDone (tryEnd id (modCmd id (fun x => { x with watchHeld := false, reported := [] }) s))

/-- Whether a local copy can have issued its last request to memory: it runs, nothing holds it, and every page that it still needs
is translated and in this package's memories (R266). -/
def requestsOut (s : State) (c : Cmd) : Bool :=
  c.phase == .running && !c.watchHeld && !c.pageWait && (c.kind == 2 ||
    (c.kind == 1 && (List.range (cmdTotal c - c.pos)).all fun i =>
      match translate s (cmdXUnit c) c.ctx (cpyGlobal c.par (c.pos + i)) with
      | some l => l.cls != 4
      | none => false))

/-- A local copy has issued its last request: its channel is free before its writes perform, so that the writes of two commands of
one channel may interleave (R266, R267). -/
def lastRequest (id : Nat) (s : State) : State :=
  match s.cmd? id with
  | some c => if requestsOut s c then freeChannel c s else s
  | none => s

end Sys2Proof.Machine
end

