-- ==== Sys2Proof/Machine/Keccak.lean ====
section
/-! DEFINITION. SHAKE256 of FIPS 202, which measures (R378) and makes the identity key (R379), and KMAC128 of NIST SP 800-185,
which tags grants (R324). The offsets of ρ and the constants of ι are computed as FIPS 202 defines them. -/

namespace Sys2Proof.Machine

/-- The state of Keccak-f[1600]: the lane of column x and row y at place x + 5y. -/
abbrev Lanes := Vector (BitVec 64) 25

/-- Place of a lane, coordinates modulo 5. -/
def lanePlace (x y : Nat) : Fin 25 := ⟨x % 5 + 5 * (y % 5), by omega⟩

def laneOf (a : Lanes) (x y : Nat) : BitVec 64 := a[lanePlace x y]

/-- Steps from a place p to a place q of the walk (x, y) ↦ (y, 2x + 3y) that ρ follows. -/
def rhoSteps : Nat → Nat × Nat → Nat × Nat → Nat
  | 0, _, _ => 0
  | n + 1, p, q => if p = q then 0 else rhoSteps n (p.2, (2 * p.1 + 3 * p.2) % 5) q + 1

/-- Rotations of ρ: the triangular numbers along its walk from (1, 0), and none at (0, 0). -/
def rhoOffsets : Vector Nat 25 :=
  Vector.ofFn fun i =>
    let t := rhoSteps 24 (1, 0) (i.val % 5, i.val / 5)
    if i.val = 0 then 0 else (t + 1) * (t + 2) / 2 % 64

/-- Step t of the register that gives ι its bits: x^t modulo x^8 + x^6 + x^5 + x^4 + 1. -/
def iotaRegister : Nat → Nat
  | 0 => 1
  | t + 1 =>
    let r := 2 * iotaRegister t
    if r < 256 then r else r ^^^ 0x171

/-- Constant of round i: bit 2^j − 1 from step j + 7i of the register. -/
def iotaConstant (i : Nat) : BitVec 64 :=
  BitVec.ofNat 64 ((List.range 7).foldl (fun n j => n + 2 ^ (2 ^ j - 1) * (iotaRegister (j + 7 * i) % 2)) 0)

/-- Parity of a column. -/
def columnParity (a : Lanes) (x : Nat) : BitVec 64 := (List.range 5).foldl (fun c y => c ^^^ laneOf a x y) 0

/-- θ, ρ and π together: place (x, y) takes the lane (x + 3y, x). -/
def spread (a : Lanes) : Lanes :=
  let par : Vector (BitVec 64) 5 := Vector.ofFn fun x => columnParity a x.val
  let at5 (x : Nat) : BitVec 64 := par[x % 5]'(by omega)
  Vector.ofFn fun i =>
    let x := i.val % 5
    let u := x + 3 * (i.val / 5)
    (laneOf a u x ^^^ at5 (u + 4) ^^^ (at5 (u + 1)).rotateLeft 1).rotateLeft rhoOffsets[lanePlace u x]

/-- Round i, with χ and ι. -/
def permuteRound (a : Lanes) (i : Nat) : Lanes :=
  let b := spread a
  Vector.ofFn fun p =>
    let x := p.val % 5
    let y := p.val / 5
    b[p] ^^^ (laneOf b (x + 2) y &&& ~~~(laneOf b (x + 1) y)) ^^^ (if p.val = 0 then iotaConstant i else 0)

/-- Keccak-f[1600]. -/
def permute (a : Lanes) : Lanes := (List.range 24).foldl permuteRound a

/-- Bytes exclusive-ored into the state from its first byte, and the permutation. -/
def takeBlock (a : Lanes) (block : List Byte) : Lanes :=
  permute (a.zipWith (fun x y => x ^^^ y) (Vector.ofFn fun i => BitVec.ofNat 64 (leNat (bytesAt block (8 * i.val) 8))))

/-- The first r bytes of the state, then those of each of the n states that follow. -/
def giveBlocks (r : Nat) : Nat → Lanes → List Byte
  | n, a =>
    let out := (a.toList.flatMap fun w => leBytes 8 w.toNat).take r
    match n with
    | 0 => out
    | m + 1 => out ++ giveBlocks r m (permute a)

/-- A message with its domain suffix, filled with zeros to k blocks of r bytes, the last bit set. -/
def padBlocks (r k : Nat) (suffix : Byte) (msg : List Byte) : List Byte :=
  let body := bytesAt (msg ++ [suffix]) 0 (r * k - 1)
  body ++ [byteAt (msg ++ [suffix]) (r * k - 1) ||| 0x80]

/-- n bytes of the sponge of rate r over a message with a domain suffix. -/
def sponge (r : Nat) (suffix : Byte) (msg : List Byte) (n : Nat) : List Byte :=
  let k := msg.length / r + 1
  let bs := padBlocks r k suffix msg
  let a := (List.range k).foldl (fun a j => takeBlock a (bytesAt bs (r * j) r)) (Vector.replicate 25 0)
  (giveBlocks r (n / r) a).take n

/-- SHAKE256 with n bytes of output (R378, R379). -/
def shake256 (msg : List Byte) (n : Nat) : List Byte := sponge 136 0x1F msg n

/-- Big-endian bytes of v, at least one; fuel: the most bytes. -/
def minBytes : Nat → Nat → List Byte
  | 0, _ => []
  | f + 1, v => if v < 256 then [BitVec.ofNat 8 v] else minBytes f (v / 256) ++ [BitVec.ofNat 8 v]

def leftEncode (v : Nat) : List Byte := let b := minBytes 8 v; BitVec.ofNat 8 b.length :: b
def rightEncode (v : Nat) : List Byte := let b := minBytes 8 v; b ++ [BitVec.ofNat 8 b.length]
def encodeString (bs : List Byte) : List Byte := leftEncode (8 * bs.length) ++ bs
def bytePad (bs : List Byte) (w : Nat) : List Byte :=
  let x := leftEncode w ++ bs
  bytesAt x 0 (w * ceilDiv x.length w)

/-- KMAC128(K, M, 8n, S): n bytes (R324). -/
def kmac128 (key msg custom : List Byte) (n : Nat) : List Byte :=
  sponge 168 0x04 (bytePad (encodeString [0x4B, 0x4D, 0x41, 0x43] ++ encodeString custom) 168
    ++ bytePad (encodeString key) 168 ++ msg ++ rightEncode (8 * n)) n

end Sys2Proof.Machine
end

