-- ==== Sys2Proof/Machine/Ports.lean ====
section
/-! DEFINITION. Ports and the host ingress window: configuration and modes (R67, R68), reception (R69 to R72, R76), the fabric
clock (R330), lanes and links (R331, R332), and frames that wait too long for credits (R320). -/

namespace Sys2Proof.Machine

/-! ### Configuration (R68) -/

/-- Bits of the configuration register that exist. -/
def portCfgMask : Word := 0x3FF03FF

/-- `PORT_CONFIG_WRITE` (R67, R68): a write of MODE 3 is ignored; a new mode waits for the ingress buffer; any write of MODE
brings back a port that is down (R332). -/
def execPortConfigWrite (p : BitVec 5) (v : Word) (s : State) : Out :=
  let m := field v 0 2
  slotDone (if m = 3 then s
    else s.modPort p fun x =>
      { x with cfg := putField (v &&& portCfgMask) 0 2 x.mode, newMode := if m = x.mode then none else some m, down := false })

/-- Flits of each class that a port's ingress buffer holds for its peer: an eighth of 512 KiB. -/
def initialCredits : Nat := 1024

/-- A frame dropped at an egress counts at its ingress port, one of this package itself at the egress (R74, R318). -/
def dropAt (p : BitVec 5) (s : State) (f : OutFrame) : State :=
  count (if f.ref.port = 63 then p.setWidth 6 else f.ref.port) .drop s

/-- A port begins in a mode. -/
def setMode (m : BitVec 2) (x : Port) : Port :=
  { x with
    cfg := putField x.cfg 0 2 m, newMode := none, credits := Vector.replicate 8 (if m = 2 then initialCredits else 0)
    taken := Vector.replicate 8 0, egress := [], pauseUntil := Vector.replicate 8 0, pfcOut := Vector.replicate 8 false
    swap := none }

/-- `PORT_MODE_CHANGE` (R68): once the ingress buffer is empty. Frames still to be sent in the old mode are dropped. -/
def execPortModeChange (p : BitVec 5) (s : State) : Out :=
  slotDone (match (s.port p).newMode with
    | none => s
    | some m =>
      if (bufRefs s (p.setWidth 6)).isEmpty then
        (s.port p).egress.foldl (dropAt p) (s.modPort p (setMode m))
      else s)

/-! ### Ethernet (R69) -/

/-- Priority of an Ethernet frame: the PCP of its first 802.1Q or 802.1ad tag. -/
def ethPriority (bs : List Byte) : BitVec 3 :=
  let t := beNat (bytesAt bs 12 2)
  if t = 0x8100 ∨ t = 0x88A8 then field (byteAt bs 14) 5 3 else 0

/-- Nanoseconds of pause quanta of 512 bit times at 800 Gb/s. -/
def quantaNs (q : Nat) : Nat := ceilDiv (q * 512) 800

/-- A MAC control frame is consumed: PAUSE holds every priority, PFC those that it names, where PFCEN is 1. -/
def macControl (p : BitVec 5) (bs : List Byte) (s : State) : State :=
  let op := beNat (bytesAt bs 14 2)
  let until_ (i : Nat) : Nat := s.timeNs + quantaNs (beNat (bytesAt bs i 2))
  s.modPort p fun x =>
    if op = 0x0001 then { x with pauseUntil := Vector.replicate 8 (until_ 16) }
    else if op = 0x0101 ∧ bit x.cfg 2 then
      { x with pauseUntil := Vector.ofFn fun i => if bit (byteAt bs 17) i.val then until_ (18 + 2 * i.val) else x.pauseUntil[i] }
    else x

/-- An Ethernet-mode port receives bytes with their FCS. A buffer is full for a frame that it has no room for (DESIGN CHOICE,
log 128). -/
def receiveEth (p : BitVec 5) (wire : List Byte) (s : State) : State :=
  let n := wire.length
  let bs := wire.take (n - 4)
  let q : BitVec 6 := p.setWidth 6
  if n < 4 ∨ leNat (wire.drop (n - 4)) ≠ (ethFcs bs).toNat then count q .rxbad s
  else if n < 64 then count q .runt s
  else if n > 9216 then count q .giant s
  else if beNat (bytesAt bs 12 2) = 0x8808 then macControl p bs s
  else if bufUsed s q + ceilDiv bs.length 64 > 8192 then count q .overrun s
  else present q bs false false (ethPriority bs) s

/-! ### Fabric (R70, R72, R81) -/

/-- The credits of a trailer are taken, and the frame's own flits are owed (R70). -/
def takeCredits (p : BitVec 5) (tr : BitVec 256) (tc : BitVec 3) (n : Nat) (s : State) : State :=
  s.modPort p fun x =>
    { x with
      credits := Vector.ofFn fun t => x.credits[t] + (field tr (40 + 8 * t.val) 8).toNat
      taken := x.taken.set tc.toNat ((x.taken[tc.toNat]'tc.isLt) + n) tc.isLt }

/-- A fabric-mode port receives bytes with their trailer (R70, R72). The credits of a frame in error are taken, and its flits charged
to the class of its header; a frame whose length is not that of its LEN counts as one in error; a link-local frame is the port's
own whatever its DST (DESIGN CHOICE, logs 128, 144). -/
def receiveYt (p : BitVec 5) (wire : List Byte) (s : State) : State :=
  let n := wire.length
  let body := wire.take (n - 32)
  let h := ytHeader body
  let tr : BitVec 256 := BitVec.ofNat 256 (leNat (wire.drop (n - 32)))
  let q : BitVec 6 := p.setWidth 6
  if n % 64 ≠ 0 ∨ n < 64 ∨ n > 4160 then count q .rxbad s
  else
    let bad := field tr 0 32 ≠ crc32c body ∨ bit tr 32 ∨ n ≠ 64 + 64 * ceilDiv (ytLen h) 64
    let link := ytOpc h = 0x30 ∨ ytOpc h = 0x31
    let s1 := takeCredits p tr (ytTc h) (n / 64) s
    if link then (if bad then count q .rxbad s1 else s1)
    else if ytDst h ≠ s.chipId then
      (if ytHops h = 0 then count q .hopexp s1 else present q body true (decide bad) (ytTc h) s1)
    else if bad then count q .rxbad s1
    else if !ytOpcAssigned (ytOpc h) then count q .badop s1
    else present q body true false (ytTc h) s1

/-- A frame arrives at a port, which reads it in the framing of its own mode; an Ethernet frame fails the LCRC check of a
fabric-mode port (R67). -/
def receive (p : BitVec 5) (eth : Bool) (wire : List Byte) (s : State) : State :=
  let x := s.port p
  if x.mode = 0 ∨ x.down then s
  else if x.newMode.isSome then count (p.setWidth 6) .disc s
  else tidyPorts (if x.mode = 1 then receiveEth p wire s else if eth then count (p.setWidth 6) .rxbad s else receiveYt p wire s)

/-- `ETHERNET_FRAME_RECEIVE` (R67, R69). -/
def execEthernetFrameReceive (p : BitVec 5) (bytes : List Byte) (s : State) : Out := slotDone (receive p true bytes s)

/-- `FABRIC_FRAME_RECEIVE` (R67, R70). -/
def execFabricFrameReceive (p : BitVec 5) (bytes : List Byte) (s : State) : Out := slotDone (receive p false bytes s)

/-! ### The host ingress window (R75, R76) -/

/-- Length word of a slot. -/
def hostLength (s : State) (slot : BitVec 7) : Word := BitVec.ofNat 64 (memReadLE s.hostWin (8192 * slot.toNat) 8)

/-- A write to one slot: discarded where the slot is busy; a length word that becomes non-zero takes its place among the
frames to take. -/
def hostSlotWrite (slot : BitVec 7) (a : Nat) (bs : List Byte) (s : State) : State :=
  if bs.isEmpty then s
  else if hostLength s slot ≠ 0 then count 32 .hostbusy s
  else
    let s1 := { s with hostWin := memWrite s.hostWin a bs }
    if hostLength s1 slot ≠ 0 then { s1 with hostOrder := s1.hostOrder ++ [slot] } else s1

/-- `HOST_INGRESS_WRITE` (R75, R76): the part of the write that falls in each slot. -/
def execHostIngressWrite (addr : BitVec 20) (bytes : List Byte) (s : State) : Out :=
  slotDone ((List.range 128).foldl (fun (s : State) i =>
    let lo := Nat.max addr.toNat (8192 * i)
    let hi := Nat.min (addr.toNat + bytes.length) (8192 * (i + 1))
    if lo < hi then hostSlotWrite (BitVec.ofNat 7 i) lo (bytesAt bytes (lo - addr.toNat) (hi - lo)) s else s) s)

/-- A host frame that passes its checks is presented (R76). A link-local opcode is one that no virtual port handles: it counts in
BADOP where DST is this package, and is in transit like any other where it is not (DESIGN CHOICE, log 128). -/
def presentHost (yt : Bool) (bs : List Byte) (s : State) : State :=
  if !yt then present 32 bs false false 0 s
  else
    let h := ytHeader bs
    if ytDst h ≠ s.chipId then
      (if ytHops h = 0 then count 32 .hopexp s else present 32 bs true false (ytTc h) s)
    else if !ytOpcAssigned (ytOpc h) ∨ ytOpc h = 0x30 ∨ ytOpc h = 0x31 then count 32 .badop s
    else present 32 bs true false (ytTc h) s

/-- `HOST_FRAME_TAKE` (R76): the frame whose length word came first. A KIND 1 frame whose header's LEN is above 4,096 is taken like
any other whose size agrees with it (DESIGN CHOICE, log 128). -/
def execHostFrameTake (s : State) : Out :=
  slotDone (match s.hostOrder with
    | [] => s
    | slot :: rest =>
      let w := hostLength s slot
      let len := (field w 0 13).toNat
      let yt := bit w 13
      let bs := memRead s.hostWin (8192 * slot.toNat + 64) len
      let s1 := { s with hostOrder := rest, hostWin := memZero s.hostWin (8192 * slot.toNat) 8 }
      if len < 64 ∨ len > 8128 ∨ field w 14 50 ≠ 0 ∨ (yt ∧ 32 + ytLen (ytHeader bs) ≠ len) then count 32 .hostbad s1
      else presentHost yt bs s1)

/-! ### Credits (R320) -/

/-- A frame in transit that has waited for 1 ms. -/
def overdue (s : State) (f : OutFrame) : Bool := f.transit && decide (s.timeNs ≥ f.since + 1000000)

/-- `CREDIT_WAIT_DISCARD` (R320). -/
def execCreditWaitDiscard (p : BitVec 5) (s : State) : Out :=
  let gone := (s.port p).egress.filter (overdue s)
  slotDone (tidyPorts (gone.foldl (fun (s : State) f => count f.ref.port .drop s)
    (s.modPort p fun x => { x with egress := x.egress.filter fun f => !overdue s f })))

/-! ### The fabric clock (R330) -/

/-- Identifier of a port's fabric engine (R14). -/
def portUnit (p : BitVec 5) : BitVec 16 := unitId (field p 4 1) 0 0 (0x40 + p.setWidth 8)

/-- A fault of a port enters the queue of its die. -/
def portFault (p : BitVec 5) (c : Cause) (s : State) : State :=
  enterFault (field p 4 1) (faultEntry (causeCode c) 0 3 (portUnit p) 0 0 0 s.timeNs) s

/-- Whether an offset is out of bound. -/
def offBound (o : Int) : Bool := decide (o > 40 ∨ o < -40)

/-- `TIMESYNC` (R330): the root's time less this package's, as estimated; the package slews towards it unless it is out of
step and still out of bound. -/
def execTimesync (p : BitVec 5) (offset : Int) (s : State) : Out :=
  slotDone (if (s.port p).mode ≠ 2 ∨ (s.port p).down then s
    else
      let out := offBound offset
      { s with
        lastSync := s.timeNs
        offsetSince := if out then some (s.offsetSince.getD s.timeNs) else none
        unsynced := s.unsynced && out
        slew := if s.unsynced && out then 0 else offset })

/-- A frame between the two ends of a link (R72). -/
def linkFrame (s : State) (opc : BitVec 9) : OutFrame :=
  ⟨noRef, mkYt 0 s.chipId 0 opc 0 0 false 0 ((Config.linkPayload s.freeCount).take 4096), true, 0, false, false, none, 0⟩

/-- A link frame is sent. -/
def sendLink (p : BitVec 5) (opc : BitVec 9) (s : State) : State :=
  toEgress p (linkFrame s opc) { s with freeCount := s.freeCount + 1 }

/-- `TIMESYNC_SEND` (R330): every 10 µs on each fabric link. -/
def execTimesyncSend (p : BitVec 5) (s : State) : Out :=
  let x := s.port p
  slotDone (if x.mode = 2 ∧ !x.down ∧ s.timeNs ≥ x.lastSync + 10000 then
      sendLink p 0x30 (s.modPort p fun y => { y with lastSync := s.timeNs })
    else s)

/-- `TIME_UNSYNC` (R330): out of bound for 100 µs, or no TIMESYNC for 1 ms. -/
def execTimeUnsync (s : State) : Out :=
  let long : Bool := match s.offsetSince with | some t => decide (s.timeNs ≥ t + 100000) | none => false
  slotDone (if !s.unsynced ∧ (long ∨ s.timeNs ≥ s.lastSync + 1000000) then
      enterFault 0 (faultEntry (causeCode .timeUnsync) 0 3 0 0 0 0 s.timeNs) { s with unsynced := true, slew := 0 }
    else s)

/-! ### Lanes and links (R331, R332) -/

/-- Corrected symbol errors of a lane are counted (R331). -/
def laneErrors (p : BitVec 5) (lane : Fin 4) (n : Nat) (s : State) : State :=
  s.modPort p fun x => { x with laneErr := x.laneErr.set lane (x.laneErr[lane] + n) }

/-- A window of 1 ms ends at a port with the eye margins sampled: the lanes above Kenval's threshold and below Kenval's floor
(R331). -/
def laneWindow (p : BitVec 5) (margins : Vector Nat 4) (s : State) : State :=
  if s.timeNs < (s.port p).laneFrom + 1000000 then s
  else s.modPort p fun x =>
    { x with
      laneErr := Vector.replicate 4 0, laneFrom := s.timeNs
      laneOver := Vector.ofFn fun i => if x.laneErr[i] > x.laneThresh then x.laneOver[i] + 1 else 0
      laneLow := Vector.ofFn fun i => decide (margins[i] < x.laneFloor) }

/-- Whether a lane is weak: above the threshold in three windows in a row, or below the floor (R331). -/
def laneWeak (x : Port) (lane : BitVec 3) : Bool :=
  if h : lane.toNat < 4 then decide (x.laneOver[lane.toNat] ≥ 3) || x.laneLow[lane.toNat] else false

/-- The spare takes a lane's place, whose counts begin again. -/
def spareIn (lane : BitVec 3) (x : Port) : Port :=
  { x with
    swap := none, spareUsed := true, laneErr := x.laneErr.setIfInBounds lane.toNat 0
    laneOver := x.laneOver.setIfInBounds lane.toNat 0, laneLow := x.laneLow.setIfInBounds lane.toNat false }

/-- `LANE_WEAK` (R331): the handshake begins with a time at least 20 µs ahead; with no spare left both ends go on as they are,
the peer told so; with a swap of the port under way nothing begins (log 123). -/
def execLaneWeak (p : BitVec 5) (lane : BitVec 3) (s : State) : Out :=
  let x := s.port p
  slotDone (if x.mode = 0 ∨ x.swap.isSome ∨ !laneWeak x lane then s
    else if x.spareUsed then portFault p .laneDegraded (sendLink p 0x31 s)
    else
      let ts := BitVec.ofNat 64 (s.timeNs + 20000 + Config.swapDelay s.freeCount)
      sendLink p 0x31 (s.modPort p fun y => { y with swap := some (lane, ts, false) }))

/-- `LANESWAP` (R331): the peer's answer to this port's own request, which accepts its lane and its Ts, the peer's word that it has no spare left, or a request of
the peer, which is answered: with a refusal while the spare is in use or a swap is under way (log 123). -/
def execLaneswap (p : BitVec 5) (lane : BitVec 3) (accept : Bool) (ts : Word) (s : State) : Out :=
  let x := s.port p
  slotDone (match x.swap with
    | some (l, t, false) =>
      if accept then
        if l = lane ∧ ts = t then s.modPort p fun y => { y with swap := some (l, t, true) }
        else portFault p .laneDegraded (sendLink p 0x31 s)
      else if l = lane then portFault p .laneDegraded (s.modPort p fun y => { y with swap := none })
      else s
    | some (l, t, true) => if accept ∧ (l ≠ lane ∨ ts ≠ t) then portFault p .laneDegraded (sendLink p 0x31 s) else s
    | none =>
      if !accept then portFault p .laneDegraded s
      else if x.spareUsed then portFault p .laneDegraded (sendLink p 0x31 s)
      else sendLink p 0x31 (s.modPort p fun y => { y with swap := some (lane, ts, true) }))

/-- `LANE_SWAPPED` (R331): at Ts the spare takes the lane's place. -/
def execLaneSwapped (p : BitVec 5) (s : State) : Out :=
  slotDone (match (s.port p).swap with
    | some (l, ts, true) =>
      if s.timeNs ≥ ts.toNat then portFault p .laneSwapped (s.modPort p (spareIn l))
      else s
    | _ => s)

/-- A frame that waits at port `at_`, which has gone down: steered to another live hop of its entry, or dropped (R332). -/
def resteer (at_ : BitVec 5) (s : State) (f : OutFrame) : State :=
  let h := ytHeader f.bytes
  match f.route.bind fun q => chooseRoute s q (ytDst h) (ytSrc h) (ytTc h) f.ref.port with
  | some (p, dl) =>
    let tc := datelineTc dl f.tc
    toEgress p { f with tc := tc, bytes := withHeader f.bytes (putField h 20 3 (datelineTc dl (ytTc h))) } s
  | none => dropAt at_ s f

/-- `LINK_DOWN` (R332). -/
def execLinkDown (p : BitVec 5) (s : State) : Out :=
  let x := s.port p
  slotDone (if x.mode = 0 ∨ x.down then s
    else portFault p .linkDown (x.egress.foldl (resteer p)
      (s.modPort p fun y => { y with down := true, egress := [], swap := none })))

end Sys2Proof.Machine
end

