-- ==== Sys2Proof/Machine/Fabric.lean ====
section
/-! DEFINITION. The fabric engines: grants (R322 to R325), the service of remote requests (R326 to R328, R368), their answers at
the initiator (R298 to R302), and Kenval's drains (R277, R328). -/

namespace Sys2Proof.Machine

/-! ### Requests -/

def reqHeader (f : FabReq) : BitVec 256 := ytHeader f.frame.bytes
def reqPayload (f : FabReq) : List Byte := ytPayload f.frame.bytes

/-- Opcodes that request. -/
def isRequest (o : BitVec 9) : Bool := decide (1 ≤ o.toNat ∧ o.toNat ≤ 5)

/-- The first frame of an opcode at a port's engine, of those that wait for no page. -/
def fabFirst (s : State) (p : BitVec 5) (opc : BitVec 9) : Option FabReq :=
  (s.port p).fab.find? fun f => ytOpc (reqHeader f) == opc && !f.waits

/-- Frame i of a port's engine comes to the front: the target performs requests in any order (R319, R326). The frames of the
link-local and response opcodes go where they stand. -/
def fabricOrder (p : BitVec 5) (i : Nat) (s : State) : State :=
  s.modPort p fun x =>
    match x.fab[i]? with
    | some f => if isRequest (ytOpc (reqHeader f)) then { x with fab := f :: x.fab.eraseIdx i } else x
    | none => x

/-- Frame f leaves a port's engine, or is replaced there. -/
def fabRemove (p : BitVec 5) (f : FabReq) (s : State) : State := s.modPort p fun x => { x with fab := x.fab.erase f }
def replaceFirst (f g : FabReq) : List FabReq → List FabReq
  | [] => []
  | x :: xs => if x = f then g :: xs else x :: replaceFirst f g xs
def fabReplace (p : BitVec 5) (f g : FabReq) (s : State) : State := s.modPort p fun x => { x with fab := replaceFirst f g x.fab }

/-- Bytes that a request touches in the window (R298, R326). -/
def reqLength (f : FabReq) : Nat :=
  match (ytOpc (reqHeader f)).toNat with
  | 1 => leNat ((reqPayload f).take 8)
  | 3 => 8
  | _ => ytLen (reqHeader f)

/-- Kind of access of a request (R326). -/
def reqKind (f : FabReq) : AccessKind :=
  match (ytOpc (reqHeader f)).toNat with
  | 1 => .read | 3 => .atomic | _ => .write

/-- Operation, e and v of an atomic request (R301). -/
def reqWord (f : FabReq) (i : Nat) : Word := BitVec.ofNat 64 (leNat (bytesAt (reqPayload f) (8 * i) 8))
def reqOp (f : FabReq) : AmoOp :=
  match (field (reqWord f 0) 0 3).toNat with
  | 0 => .add | 1 => .and | 2 => .or | 3 => .xor | 4 => .min | 5 => .max | 6 => .swap | _ => .cas

/-! ### Responses (R301, R316, R421) -/

/-- An answer goes back by the table of the request's ingress port group, in the class of the request; an answer to this
package takes no route. -/
def respond (p : BitVec 5) (f : FabReq) (opc : BitVec 9) (off : BitVec 48) (poison : Bool) (payload : List Byte)
    (s : State) : State :=
  let h := reqHeader f
  let bytes := mkYt (ytSrc h) s.chipId (ytTc h &&& 6) opc 0 off poison (ytTokid h) payload
  if ytSrc h = s.chipId then
    s.modPort p fun x => { x with fab := x.fab ++ [⟨⟨noRef, bytes, true, s.timeNs, false, false⟩, none, false, false⟩] }
  else match sendRouted (pipeOf f.frame.ref.port) 63 noRef bytes false false s with
    | some s1 => s1
    | none => count f.frame.ref.port .drop s

/-- A request is refused: DETAIL below the request's OFFSET[47:8]. -/
def refuse (p : BitVec 5) (f : FabReq) (detail : BitVec 8) (s : State) : State :=
  respond p f 0x28 (putField (ytOffset (reqHeader f)) 0 8 detail) false [] (fabRemove p f s)

/-- A request is answered. -/
def answer (p : BitVec 5) (f : FabReq) (opc : BitVec 9) (poison : Bool) (payload : List Byte) (s : State) : State :=
  respond p f opc (ytOffset (reqHeader f)) poison payload (fabRemove p f s)

/-! ### Grants (R322 to R325, R327) -/

def tokIndex (t : Word) : BitVec 16 := field t 0 16
def tokRights (t : Word) : BitVec 4 := field t 16 4
def tokExp (t : Word) : BitVec 16 := field t 20 16
def tokTag (t : Word) : BitVec 28 := field t 36 28
def grantEn (g : BitVec 256) : Bool := bit g 0
def grantCtx (g : BitVec 256) : CtxId := field g 1 6
def grantRmax (g : BitVec 256) : BitVec 4 := field g 7 4
def grantGen (g : BitVec 256) : BitVec 16 := field g 16 16
def grantBase (g : BitVec 256) : Nat := (field g 32 48).toNat
def grantLen (g : BitVec 256) : Nat := (field g 80 48).toNat
def State.grant (s : State) (t : Word) : BitVec 256 :=
  BitVec.ofNat 256 (memReadLE s.hbm (grantPlace s (tokIndex t)) 32)

/-- The tag of a token (R324). -/
def grantTag (key : BitVec 256) (t : Word) (chip : BitVec 10) (gen : BitVec 16) : BitVec 28 :=
  let m := leBytes 8 (packNat [((field t 0 36).toNat, 36), (chip.toNat, 10), (gen.toNat, 16), (0, 2)])
  BitVec.ofNat 28 (leNat (kmac128 (leBytes 32 key.toNat) m [0x59, 0x54, 0x20, 0x67, 0x72, 0x61, 0x6E, 0x74] 4))

/-- Rights bit that an opcode needs (R322). -/
def rightBit (o : BitVec 9) : Nat :=
  match o.toNat with
  | 1 => 0 | 3 => 2 | 5 => 3 | _ => 1

/-- The checks of R325 from the second on: DETAIL of the first that fails, 0 where none does. -/
def grantCheck (s : State) (f : FabReq) : BitVec 8 :=
  let h := reqHeader f
  let t := ytGrant h
  let g := s.grant t
  let n := (ytOffset h).toNat + reqLength f
  let left := (tokExp t - BitVec.ofNat 16 (s.timeNs / 65536)).toNat
  if !grantEn g ∨ tokTag t ≠ grantTag (s.ctx (grantCtx g)).key t s.chipId (grantGen g) then 1
  else if left = 0 ∨ left > 32767 then 2
  else if !s.ctxLive (grantCtx g) then 5
  else if !(bit (tokRights t) (rightBit (ytOpc h)) && bit (grantRmax g) (rightBit (ytOpc h))) then 4
  else if ytOpc h ≠ 5 ∧ (n > grantLen g ∨ grantBase g + n > 2 ^ 48) then 3
  else 0

/-- TYPE of a GRANT_REFUSED entry (R422). -/
def refusedType (o : BitVec 9) : BitVec 2 :=
  match o.toNat with
  | 1 => 0 | 3 => 2 | 5 => 3 | _ => 1

/-- The GRANT_REFUSED entry of a refusal (R325, R422). -/
def refusedEntry (s : State) (p : BitVec 5) (f : FabReq) (detail : BitVec 8) : BitVec 256 :=
  let h := reqHeader f
  let g := s.grant (ytGrant h)
  faultEntry (causeCode .grantRefused) (if grantEn g then grantCtx g else 0) (refusedType (ytOpc h)) (portUnit p)
    (BitVec.ofNat 32 ((ytSrc h).toNat + 65536 * detail.toNat)) ((tokIndex (ytGrant h)).setWidth 48)
    ((ytTokid h).setWidth 48) s.timeNs

/-- The ingress port whose rate limit a request comes under (R327): none for this package's own and the host's. -/
def limitPort (f : FabReq) : Option (BitVec 5) :=
  if f.frame.ref.port.toNat < 32 then some (field f.frame.ref.port 0 5) else none

/-- A refusal of R325: MACF counts DETAIL 1, and a limited port enters at most one GRANT_REFUSED in 1 ms (R327). -/
def grantRefuse (p : BitVec 5) (f : FabReq) (detail : BitVec 8) (limited : Bool) (s : State) : State :=
  let e := enterFault (field p 4 1) (refusedEntry s p f detail)
  refuse p f detail (match limitPort f with
    | none => e s
    | some q =>
      let s1 := if detail = 1 then s.modPort q fun x => { x with macf := if x.macf = 0xFFFF then x.macf else x.macf + 1 } else s
      if limited ∧ s.timeNs < (s.port q).lastRefusal + 1000000 then s1
      else e (s1.modPort q fun x => { x with lastRefusal := s.timeNs }))

/-- A request whose grant has not been checked is (R325, R327): it is refused, or goes on with its context and
address. -/
def checkRequest (p : BitVec 5) (f : FabReq) (s : State) : State × Option FabReq :=
  let limited : Bool := match limitPort f with | some q => decide ((s.port q).macf.toNat ≥ 64) | none => false
  let soon : Bool := match limitPort f with | some q => decide (s.timeNs < (s.port q).lastMac + 10000) | none => false
  if limited ∧ soon then (grantRefuse p f 6 limited s, none)
  else
    let s1 := match limitPort f with
      | some q => s.modPort q fun x => { x with lastMac := s.timeNs }
      | none => s
    let d := grantCheck s f
    if d ≠ 0 then (grantRefuse p f d limited s1, none)
    else
      let g := s.grant (ytGrant (reqHeader f))
      let f' := { f with checked := some (grantCtx g, grantBase g + (ytOffset (reqHeader f)).toNat) }
      (fabReplace p f f' s1, some f')

/-! ### Service (R326) -/

/-- First bytes of a range in each 64 KiB piece of the address space. -/
def pageStarts (va n : Nat) : List Nat :=
  if n = 0 then [] else (List.range ((va + n - 1) / 65536 - va / 65536 + 1)).map fun i =>
    if i = 0 then va else (va / 65536 + i) * 65536

/-- Whether a leaf serves a request: its rights and its class (R271, R275). -/
def leafServes (f : FabReq) (l : Lease) : Bool :=
  leaseGrants l (reqKind f) && (if reqKind f = .atomic then classAllows l.cls (.amo (reqOp f) 0 0) else l.cls != 4)

/-- What translation gives a request: a page to walk, a home that takes nothing now (R262, R279), a refusal, or nothing in its
way. -/
inductive FabPage where
  | walk (va : Nat)
  | hold
  | bad
  | ready
  deriving DecidableEq, Repr

def fabPages (s : State) (p : BitVec 5) (ctx : CtxId) (f : FabReq) : List Nat → FabPage
  | [] => .ready
  | va :: rest =>
    match translate s (.fabric p) ctx va with
    | none => .walk va
    | some l =>
      if !leafServes f l then .bad
      else if homeWaits s l.cls (leasePa l va) (Nat.min (reqLength f) (65536 - va % 65536))
          || egressHolds s l.cls (leasePa l va) (Nat.min (reqLength f) (65536 - va % 65536)) then .hold
      else fabPages s p ctx f rest

/-- (class and physical address, as one number) of a byte that a fabric engine's translations reach. -/
def fabKey (s : State) (p : BitVec 5) (ctx : CtxId) (va : Nat) : Nat :=
  match translate s (.fabric p) ctx va with
  | some l => l.cls.toNat * 2 ^ 60 + leasePa l va
  | none => 0

def keyByte (s : State) (k : Nat) : List Byte := classRead s (BitVec.ofNat 3 (k / 2 ^ 60)) (k % 2 ^ 60) 1
def keyPoisoned (s : State) (k : Nat) : Bool := classPoisoned s (BitVec.ofNat 3 (k / 2 ^ 60)) (k % 2 ^ 60) 1
def keyPoison (s : State) (k : Nat) : State := classPoison (BitVec.ofNat 3 (k / 2 ^ 60)) (k % 2 ^ 60) 1 s

/-- WATCH_REMOTE of a served write or atomic (R368); ADDR names the lowest byte struck (log 97). -/
def watchRemote (p : BitVec 5) (f : FabReq) (ctx : CtxId) (va n : Nat) (type : BitVec 2) (s : State) : State :=
  match watchMatch (s.ctx ctx) false [(va, n)] with
  | none => s
  | some (a, w) =>
    let h := reqHeader f
    enterFault (field p 4 1) (faultEntry (causeCode .watchRemote) ctx type (portUnit p)
      (BitVec.ofNat 32 (packNat [((ytSrc h).toNat, 10), (w.toNat, 2), ((field (ytTokid h) 0 16).toNat, 16)])) (BitVec.ofNat 48 a)
      ((field (ytTokid h) 16 16).setWidth 48) s.timeNs) s

/-- A read is served. -/
def serveRead (p : BitVec 5) (f : FabReq) (ctx : CtxId) (va : Nat) (s : State) : State :=
  let ks := (List.range (reqLength f)).map fun i => fabKey s p ctx (va + i)
  answer p f 0x20 (ks.any (keyPoisoned s)) (ks.flatMap (keyByte s)) s

/-- A write, or a multicast write, is served; data that is poisoned or fails its check is written, its lines marked, and
the request refused. -/
def serveWrite (p : BitVec 5) (f : FabReq) (ack : BitVec 9) (ctx : CtxId) (va : Nat) (s : State) : State :=
  let bs := reqPayload f
  let ks := (List.range bs.length).map fun i => fabKey s p ctx (va + i)
  let s1 := watchRemote p f ctx va bs.length 1 ((groupRuns (ks.zip bs)).foldl writeRun s)
  if ytPoison (reqHeader f) ∨ crc32c bs ≠ ytE2e (reqHeader f) then refuse p f 7 (ks.foldl keyPoison s1)
  else answer p f ack false [] s1

/-- An atomic is served (R285, R326). -/
def serveAtomic (p : BitVec 5) (f : FabReq) (ctx : CtxId) (va : Nat) (s : State) : State :=
  let ks := (List.range 8).map fun i => fabKey s p ctx (va + i)
  if ks.any (keyPoisoned s) then refuse p f 7 s
  else
    let old : Word := BitVec.ofNat 64 (leNat (ks.flatMap (keyByte s)))
    let s1 := match amoNew (reqOp f) old (reqWord f 2) (reqWord f 1) with
      | some w => watchRemote p f ctx va 8 2 ((groupRuns (ks.zip (leBytes 8 w.toNat))).foldl writeRun s)
      | none => s
    answer p f 0x22 false (leBytes 8 old.toNat) s1

/-- An arrive is applied at its bank and acknowledged, or refused with the cell's cause (R300, R326); it waits for room in the
replay log of its context (R371). A k outside the range of
R33 is applied under R34 as it comes (DESIGN CHOICE, log 130). -/
def serveArrive (p : BitVec 5) (f : FabReq) (ctx : CtxId) (s : State) : State :=
  let i := field (ytOffset (reqHeader f)) 0 16
  let op := CellOp.remoteArrive (leNat ((reqPayload f).take 8))
  if cellStalls s ctx i op then s
  else match cellOpReport ctx i op (portUnit p) 0 s with
  | (s1, some c) => refuse p f (causeCode c) s1
  | (s1, none) => answer p f 0x24 false [] s1

/-- A checked request is served, once its pages are translated; one of a context that is no longer live is abandoned
(R351). A read of more than a frame carries is refused as outside the window. -/
def serveChecked (p : BitVec 5) (f : FabReq) (ctx : CtxId) (va : Nat) (s : State) : State :=
  let o := (ytOpc (reqHeader f)).toNat
  if !s.ctxLive ctx then fabRemove p f s
  else if o = 5 then serveArrive p f ctx s
  else if reqLength f > 4096 then refuse p f 3 s
  else match fabPages s p ctx f (pageStarts va (reqLength f)) with
    | .walk _ => s
    | .hold => s
    | .bad => refuse p f 4 s
    | .ready =>
      match o with
      | 1 => serveRead p f ctx va s
      | 2 => serveWrite p f 0x21 ctx va s
      | 3 => serveAtomic p f ctx va s
      | _ => serveWrite p f 0x23 ctx va s

/-- The oldest request of an opcode at a port's engine is checked and served. -/
def serve (p : BitVec 5) (opc : BitVec 9) (s : State) : Out :=
  slotDone (match fabFirst s p opc with
    | none => s
    | some f =>
      tidyPorts (match f.checked with
        | some (ctx, va) => serveChecked p f ctx va s
        | none =>
          match checkRequest p f s with
          | (s1, some f') => (match f'.checked with | some (ctx, va) => serveChecked p f' ctx va s1 | none => s1)
          | (s1, none) => s1))

/-- `READ_REQUEST` (R326). -/
def execReadRequest (p : BitVec 5) (s : State) : Out := serve p 1 s

/-- `WRITE_REQUEST` (R326). -/
def execWriteRequest (p : BitVec 5) (s : State) : Out := serve p 2 s

/-- `ATOMIC_REQUEST` (R326). -/
def execAtomicRequest (p : BitVec 5) (s : State) : Out := serve p 3 s

/-- `MULTICAST_WRITE` (R326, R329). -/
def execMulticastWrite (p : BitVec 5) (s : State) : Out := serve p 4 s

/-- `REMOTE_ARRIVE` (R300, R326). -/
def execRemoteArrive (p : BitVec 5) (s : State) : Out := serve p 5 s

/-! ### Answers at the initiator (R298 to R302) -/

/-- Whether an answer is to a request of this kind of command (R301). -/
def answers (c : Cmd) (opc : BitVec 9) : Bool :=
  match opc.toNat with
  | 0x20 => c.kind == 5 || (c.kind == 1 && !toGlobal c)
  | 0x21 => c.kind == 6 || toGlobal c
  | 0x22 => c.kind == 7
  | 0x23 => c.kind == 8
  | 0x24 => c.kind == 9
  | _ => true

/-- Whether an answer is to this request: by SRC and OFFSET[47:8] (R301). -/
def reqMatches (h : BitVec 256) (r : RemoteReq) : Bool := r.chip == ytSrc h && field r.off 8 40 == field (ytOffset h) 8 40

/-- The command and the request that an answer is to. -/
def answered (s : State) (f : FabReq) : Option (Cmd × RemoteReq) :=
  let h := reqHeader f
  s.cmds.findSome? fun c =>
    if cmdTokid c = ytTokid h ∧ answers c (ytOpc h) then (c.reqs.find? (reqMatches h)).map fun r => (c, r) else none

/-- The answer and its request are gone. -/
def settleReq (p : BitVec 5) (f : FabReq) (c : Cmd) (r : RemoteReq) (s : State) : State :=
  modCmd c.id (fun x => { x with reqs := x.reqs.erase r }) (fabRemove p f s)

/-- What a log record of a command's returned data is about: the command of its task, and the part (log 19). -/
def cmdLogOwner (c : Cmd) (k : Task) (part : Nat) : LogOwner :=
  ⟨k.gidx, field c.seq 16 32, (field c.seq 0 16).toNat + 65536 * part⟩

/-- Log records that an answer may make: its data, and a fire for each beat of it (R371). -/
def answerRecords (f : FabReq) : Nat := 2 + (reqPayload f).length / logBytes + (reqPayload f).length / 64

/-- The oldest answer of an opcode at a port's engine: to a command whose token has completed it is late; to a command that
has stopped, or a request that has timed out, it is discarded; else the command takes it (R298, R302). -/
def takeAnswer (p : BitVec 5) (opc : BitVec 9) (take : FabReq → Cmd → RemoteReq → State → State) (s : State) : Out :=
  slotDone (match fabFirst s p opc with
    | none => s
    | some f =>
      match answered s f with
      | none => count f.frame.ref.port .latecpl (fabRemove p f s)
      | some (c, r) =>
        if logFull s c.ctx (answerRecords f) ∨ (parDlv c.par ∧ cellScrubs s c.ctx (parCell c.par)) then s
        else if c.phase = .stopping ∨ r.late then settleReq p f c r s else tidyPorts (take f c r s))

/-- Whether response data passes its end-to-end check, and is as long as it was asked for (R71, R298). -/
def dataGood (f : FabReq) (r : RemoteReq) : Bool :=
  decide (crc32c (reqPayload f) = ytE2e (reqHeader f) ∧ (reqPayload f).length = r.len)

/-- Read data of an `RLD` is held and lands in ascending order as far as it can (R298); replay takes its bytes from the
log (R372). -/
def takeRead (f : FabReq) (c : Cmd) (r : RemoteReq) (s : State) : State :=
  let (s1, bs) := recordBytes c.ctx (cmdLogOwner c (taskOf s c.task) r.part) (reqPayload f).length (reqPayload f) s
  let s2 := modCmd c.id (fun x => { x with early := x.early ++ [(r.part, bs, ytPoison (reqHeader f))] }) s1
  (List.range 64).foldl (fun (s : State) _ =>
    match s.cmd? c.id with
    | some x =>
      if x.phase = .running ∧ !x.watchHeld ∧ x.pos < cmdTotal x ∧ (earlyAt x x.pos).isSome then readBeat x s else s
    | none => s) s2

/-- Bytes of a `CPY` come from a remote window (R295, R298). -/
def takeCopied (f : FabReq) (c : Cmd) (s : State) : State :=
  let bs := reqPayload f
  let bad := ytPoison (reqHeader f)
  if bad ∧ toScratch c then stopCmd c (causeCode .poisonedData) 0 0 3 s
  else
    let s1 := landed c bs s
    if bad then
      stopCmd c (causeCode .poisonedData) 0 0 3 ((List.range bs.length).foldl (fun (s : State) i => poisonDest c (c.pos + i) s) s1)
    else tryEnd c.id s1

/-- `READ_DATA` (R298). -/
def execReadData (p : BitVec 5) (s : State) : Out :=
  takeAnswer p 0x20 (fun f c r s =>
    let s1 := settleReq p f c r s
    if !dataGood f r then stopCmd c (causeCode .remoteData) 0 0 3 s1
    else if c.kind = 5 then takeRead f c r s1
    else takeCopied f c s1) s

/-- `WRITE_ACKNOWLEDGEMENT` (R298). -/
def execWriteAcknowledgement (p : BitVec 5) (s : State) : Out :=
  takeAnswer p 0x21 (fun f c r s =>
    let s1 := settleReq p f c r s
    if c.kind = 1 then tryEnd c.id (progress c r.len s1) else tryEndRemote c.id s1) s

/-- `ATOMIC_RESULT` (R298): the old value goes to LADDR; it waits where the bank does not admit it (R141). -/
def execAtomicResult (p : BitVec 5) (s : State) : Out :=
  takeAnswer p 0x22 (fun f c r s =>
    if !dataGood f r then stopCmd c (causeCode .remoteData) 0 0 3 (settleReq p f c r s)
    else
      let a := cmdSga c (parLaddr c.par)
      match admitBanks (cmdAccessor c) (extentBanks a 8) s with
      | none => s
      | some s1 =>
        let (s2, v) := recordValue c.ctx (cmdLogOwner c (taskOf s c.task) 0) (BitVec.ofNat 64 (leNat (reqPayload f))) (settleReq p f c r s1)
        tryEndRemote c.id (watchCmd c true [(a, 8)] (s2.swardWrite a (leBytes 8 v.toNat)))) s

/-- `MULTICAST_MEMBER_ACKNOWLEDGEMENT` (R299). -/
def execMulticastMemberAcknowledgement (p : BitVec 5) (s : State) : Out :=
  takeAnswer p 0x23 (fun f c r s =>
    tryEndRemote c.id (modCmd c.id (fun x => { x with done_ := x.done_ + 1 }) (settleReq p f c r s))) s

/-- `ARRIVE_ACKNOWLEDGEMENT` (R300). -/
def execArriveAcknowledgement (p : BitVec 5) (s : State) : Out :=
  takeAnswer p 0x24 (fun f c r s => tryEndRemote c.id (settleReq p f c r s)) s

/-- A member of an `MCST` has failed (R299). -/
def failMember (c : Cmd) (r : RemoteReq) (s : State) : State :=
  modCmd c.id (fun x => { x with failed := x.failed ++ [r.chip] }) s

/-- `REFUSAL` (R301). -/
def execRefusal (p : BitVec 5) (s : State) : Out :=
  takeAnswer p 0x28 (fun f c r s =>
    let s1 := settleReq p f c r s
    if c.kind = 8 then tryEndRemote c.id (failMember c r s1)
    else stopCmd c (causeCode .remoteRefused) (field (ytOffset (reqHeader f)) 0 8) 0 3 s1) s

/-- An unanswered request of a command times out (R302); an answer that still comes finds it. -/
def timeoutReq (c : Cmd) (s : State) (r : RemoteReq) : State :=
  let s1 := modCmd c.id (fun x => { x with reqs := x.reqs.map fun y => if y = r then { y with late := true } else y }) s
  if c.phase = .stopping then s1
  else if c.kind = 8 then failMember c r s1
  else stopCmd c (causeCode .remoteTimeout) 0 0 3 s1

/-- `REMOTE_TIMEOUT` (R302): requests of the command that have gone unanswered for the package's timeout. -/
def execRemoteTimeout (id : Nat) (s : State) : Out :=
  slotDone (match s.cmd? id with
    | none => s
    | some c =>
      let late := c.reqs.filter fun r => !r.late && decide (r.sent + s.remoteTimeout ≤ s.timeNs)
      tryEndRemote id (late.foldl (timeoutReq c) s))

/-! ### Drains -/

/-- A drain begins: it waits for the requests that the fabric engines hold now. -/
def beginDrain (s : State) : State :=
  { s with
    draining := true
    ports := s.ports.map fun x => { x with fab := x.fab.map fun f => { f with drains := isRequest (ytOpc (reqHeader f)) } } }

/-- A drain returns once every request that it waits for has performed or been refused. -/
def drainOver (s : State) : State :=
  let isOver := s.ports.all fun x => x.fab.all fun f => !f.drains
  { s with drained := isOver, draining := !isOver }

/-- `FABRIC_DRAIN` (R328): a drain begins, or one that is under way returns once every request accepted before it is done. -/
def execFabricDrain (s : State) : Out := slotDone (drainOver (if s.draining then s else beginDrain s))

/-- `HOST_LINK_DRAIN` (R277): a drain begins, or one that is under way returns once every write accepted before it has completed. -/
def execHostLinkDrain (s : State) : Out :=
  let n := s.hostDrain.getD s.accepts
  let isOver := s.tiles.all fun x => x.hostPend.all fun w => decide (w.num ≥ n)
  slotDone { s with drained := isOver, hostDrain := if isOver then none else some n }

end Sys2Proof.Machine
end

