-- ==== Sys2Proof/Machine/Scalars.lean ====
section
/-! DEFINITION. The tile's memory unit: scalar accesses perform (R284 to R286, R305 to R307), faults and the side log (R280,
R281), imprecise traps, and the matrix and handle engines' landings (R244, R247, R288). -/

namespace Sys2Proof.Machine

/-! ### Faults of scalar accesses (R280, R281) -/

/-- Kind of access of an operation. -/
def opKind : ScalarOp → AccessKind
  | .load => .read | .store _ => .write | .amo .. => .atomic | .mark => .read

/-- Level of the leaf behind an entry (R282). -/
def leaseLevel (l : Lease) : BitVec 3 := if l.pageBits = 30 then 3 else if l.pageBits = 21 then 2 else 1

/-- Where a scalar access stands. -/
inductive ScalarPos where
  | load | store | log
  deriving DecidableEq, Repr

/-- The first entry of a queue of a tile. -/
def posHead (x : Tile) : ScalarPos → Option QEntry
  | .load => x.task.loadQ.head?
  | .store => x.storeQ.head?
  | .log => x.sideLog.head?

/-- The first entry leaves. -/
def popPos (p : ScalarPos) (x : Tile) : Tile :=
  match p with
  | .load => { x with task := { x.task with loadQ := x.task.loadQ.drop 1 } }
  | .store => { x with storeQ := x.storeQ.drop 1 }
  | .log => { x with sideLog := x.sideLog.drop 1 }

/-- The first entry is replaced. -/
def replaceHead (p : ScalarPos) (e : QEntry) (x : Tile) : Tile :=
  match p with
  | .load => { x with task := { x.task with loadQ := e :: x.task.loadQ.drop 1 } }
  | .store => { x with storeQ := e :: x.storeQ.drop 1 }
  | .log => { x with sideLog := e :: x.sideLog.drop 1 }

/-- A fault other than a page fault: a failed load keeps its destination scoreboarded, as an entry of no bytes, until the
trap; a failed store is gone; a failed replay takes the rest of the log with it. A task that has been suspended takes the
trap when it runs again; one that has gone takes none, and the fault enters the queue (log 50). -/
def failScalar (t : TileId) (p : ScalarPos) (e : QEntry) (c : Cause) (type : BitVec 2) (level : BitVec 3) (s : State) :
    State :=
  let f : ImpFault := ⟨0, causeCode c, e.va, type, level, 0, if p = .load then some e.d else none⟩
  let s1 := s.modTile t fun x =>
    match p with
    | .load => replaceHead .load { e with size := 0 } x
    | .store => popPos .store x
    | .log => { x with sideLog := [] }
  if ((s.tile t).task.uid = e.uid ∧ (s.tile t).status ≠ .free) ∨ (uidCtx s e.uid).isSome then
    modUid e.uid (fun k => { k with impFaults := k.impFaults ++ [f] }) s1
  else enterFault (tileDie t) (faultEntry (causeCode c) e.ctx (if type = 3 then 0 else type) (tileUnit t 0) 0
    (field e.va 0 48) 0 s.timeNs) s1

/-- A page that is not mapped: the entry waits for the paging service, or a store enters the side log (R280, R281). -/
def absentScalar (t : TileId) (p : ScalarPos) (e : QEntry) (s : State) : State :=
  let s1 := enterFault (tileDie t) (faultEntry (causeCode .pageFault) e.ctx (kindType (opKind e.op)) (tileUnit t 0) 0
    (field e.va 0 48) (taskOf s e.uid).cmdseq s.timeNs) s
  match p with
  | .store =>
    if (s.tile t).sideLog.length ≥ 64 then s1.modTile t (replaceHead .store { e with waits := true })
    else s1.modTile t fun x => { popPos .store x with sideLog := x.sideLog ++ [{ e with waits := true }] }
  | p => s1.modTile t (replaceHead p { e with waits := true })

/-- Whether the first entry at a place waits for a walk of this page (R275). -/
def scalarNeeds (s : State) (t : TileId) (p : ScalarPos) (ctx : CtxId) (va : Word) (k : AccessKind) : Option QEntry :=
  match posHead (s.tile t) p with
  | none => none
  | some e =>
    if isAccess e && e.size != 0 && !e.waits && e.ctx == ctx && field e.va 16 32 == field va 16 32 && opKind e.op == k
      && (translate s (.tile t) ctx e.va.toNat).isNone then some e else none

/-! ### Performing -/

/-- The bytes of a value of a size. -/
def sizedBytes (n : Nat) (v : Word) : List Byte := leBytes n v.toNat

/-- An access performs at its home, an address of a class: the state, and the value that it returns. -/
def performAt (cls : BitVec 3) (pa : Nat) (e : QEntry) (s : State) : State × Word :=
  match e.op with
  | .load => (s, BitVec.ofNat 64 (leNat (classRead s cls pa e.size)))
  | .store v => (classWrite cls pa (sizedBytes e.size v) s, 0)
  | .amo o v c =>
    let old : Word := BitVec.ofNat 64 (leNat (classRead s cls pa 8))
    let s1 := match amoNew o old v c with
      | some w => classWrite cls pa (sizedBytes 8 w) s
      | none => s
    let k := taskOf s e.uid
    if e.d = 0 then (s1, old) else recordValue e.ctx ⟨k.gidx, k.cmdbase, e.bundle⟩ old s1
  | .mark => (s, 0)

/-- Whether an access reads memory, so that poison concerns it (R261). -/
def readsMemory : ScalarOp → Bool
  | .load => true | .amo .. => true | _ => false

/-- Whether an access is an atomic, whose old value the replay log takes (R371). -/
def isAmo : ScalarOp → Bool
  | .amo .. => true | _ => false

/-- Whether a release may perform: everything before it has (R307). -/
def releaseOk (x : Tile) (p : ScalarPos) (e : QEntry) : Bool :=
  match e.rel with
  | none => true
  | some sc =>
    (x.task.loadQ.all fun y => !isAccess y || decide (y.ord ≥ e.ord)) &&
      (p != .load || ((x.storeQ.all fun y => !isAccess y || decide (y.ord ≥ e.ord)) && x.sideLog.isEmpty)) &&
      (!hostScope sc || x.hostPend.all fun y => decide (y.e.ord ≥ e.ord))

/-- An access whose leaf permits it performs, or is accepted by the host-link egress if it writes class 1 or 2, and leaves its
queue. One that reads bytes of an accepted write follows it (R305). -/
def performEntry (t : TileId) (load : Bool) (l : Lease) (e : QEntry) (pop : Tile → Tile) (s : State) : State :=
  let pa := leasePa l e.va.toNat
  if homeWaits s l.cls pa e.size || (if load then egressHolds s l.cls pa e.size else hostWaits (s.tile t) l.cls pa e.size) then s
  else if !load && beyondHost l.cls then
    ({ s with accepts := s.accepts + 1 } : State).modTile t fun x =>
      let y := pop x
      { y with hostPend := y.hostPend ++ [⟨e, l.cls, pa, s.accepts⟩] }
  else
    let (s1, v) := performAt l.cls pa e s
    let s2 := s1.modTile t pop
    if load then s2.modTaskAt t fun k => writeS k e.d v else s2

/-- LEVEL of a fault that a leaf gives an access: its level, or 0 where a cached entry served and no walk ran (R282). -/
def faultLevel (l : Lease) (e : QEntry) : BitVec 3 := if e.walked then leaseLevel l else 0

/-- The first access at a place performs, where its translation stands; a fault of R275 instead, where its leaf has one. -/
def performHead (t : TileId) (p : ScalarPos) (s : State) : State :=
  let x := s.tile t
  match posHead x p with
  | none => s
  | some e =>
    if !isAccess e || e.size == 0 || e.waits || !releaseOk x p e || (isAmo e.op && logFull s e.ctx 1) then s
    else match translate s (.tile t) e.ctx e.va.toNat with
      | none => s
      | some l =>
        let kind := opKind e.op
        if !leaseGrants l kind then failScalar t p e .pageRights (kindType kind) (faultLevel l e) s
        else if !classAllows l.cls e.op then failScalar t p e .classOp (kindType kind) (faultLevel l e) s
        else if readsMemory e.op && classPoisoned s l.cls (leasePa l e.va.toNat) e.size then
          failScalar t p e .poisonedData (kindType kind) 0 s
        else performEntry t (p == .load) l e (popPos p) s

/-- A queue of a tile, and the tile without the entry at a place of it. -/
def queueAt (load : Bool) (x : Tile) : List QEntry := if load then x.task.loadQ else x.storeQ
def popAt (load : Bool) (i : Nat) (x : Tile) : Tile :=
  if load then { x with task := { x.task with loadQ := x.task.loadQ.eraseIdx i } } else { x with storeQ := x.storeQ.eraseIdx i }

/-- Whether an access of a tile that stands earlier in its store queue writes bytes of l's page that e writes too: the egress
accepts both in order (R284, R305). -/
def sameBytesAhead (s : State) (t : TileId) (l : Lease) (e y : QEntry) : Bool :=
  (y.ctx == e.ctx && decide (y.va.toNat < e.va.toNat + e.size ∧ e.va.toNat < y.va.toNat + y.size)) ||
    match translate s (.tile t) y.ctx y.va.toNat with
    | some m => rangesOverlap m.cls (leasePa m y.va.toNat) y.size l.cls (leasePa l e.va.toNat) e.size
    | none => false

/-- A plain load or store of class 1 or 2 performs before earlier accesses of its queue (R306; log 134): none of them a marker
or an acquire, nor for a store one of the same bytes, and where its leaf permits it and its page is translated. While the side
log holds an entry, stores go there (R281). -/
def performEarly (t : TileId) (load : Bool) (i : Nat) (s : State) : State :=
  let q := queueAt load (s.tile t)
  let plain (e : QEntry) : Bool := match e.op with | .load => load | .store _ => !load && e.rel.isNone | _ => false
  match q[i]? with
  | none => s
  | some e =>
    if !plain e || e.size == 0 || e.waits || (!load && !(s.tile t).sideLog.isEmpty) || ((q.take i).any fun y => y.acq.isSome || (load && y.op == .mark)) then s
    else match translate s (.tile t) e.ctx e.va.toNat with
      | none => s
      | some l =>
        if beyondHost l.cls && leaseGrants l (opKind e.op) && (load || !(q.take i).any (sameBytesAhead s t l e)) then
          performEntry t load l e (popAt load i) s
        else s

/-- The completion of an accepted write returns: it has performed at its home, after every earlier accepted write to the same
bytes (R305, R306). -/
def hostComplete (t : TileId) (i : Nat) (s : State) : State :=
  match (s.tile t).hostPend[i]? with
  | none => s
  | some w =>
    if homeWaits s w.cls w.pa w.e.size || s.tiles.any fun x => x.hostPend.any fun y =>
        decide (y.num < w.num) && rangesOverlap y.cls y.pa y.e.size w.cls w.pa w.e.size then s
    else (performAt w.cls w.pa w.e s).1.modTile t fun y => { y with hostPend := y.hostPend.eraseIdx i }

/-- `SCALAR_ACCESS_PERFORM` (R281, R284, R286, R305). -/
def execScalarAccessPerform (t : TileId) (q : QueueSel) (s : State) : Out :=
  let x := s.tile t
  slotDone (match q with
    | .load =>
      match x.task.loadQ.head? with
      | some e =>
        if e.op = .mark then
          (if (x.storeQ.all fun y => decide (y.ord ≥ e.ord)) && x.sideLog.isEmpty then s.modTile t (popPos .load) else s)
        else performHead t .load s
      | none => s
    | .store =>
      match x.storeQ.head? with
      | some e =>
        if e.op = .mark then s.modTile t (popPos .store)
        else if !x.sideLog.isEmpty then
          (if x.sideLog.length < 64 then s.modTile t fun y => { popPos .store y with sideLog := y.sideLog ++ [e] } else s)
        else performHead t .store s
      | none => s
    | .host => hostComplete t 0 s
    | .loadAt i => performEarly t true i s
    | .storeAt i => performEarly t false i s
    | .hostAt i => hostComplete t i s)

/-- `SIDE_LOG_REPLAY` (R281). -/
def execSideLogReplay (t : TileId) (s : State) : Out := slotDone (performHead t .log s)

/-! ### Imprecise traps (R280, R334) -/

/-- YTVAL of an imprecise fault (R282). -/
def impTval (f : ImpFault) : Word :=
  if isTranslationCause f.cause then transTval f.va f.type true f.level f.logIdx else 0

/-- Whether a task is at a bundle boundary outside a branch shadow at which its next bundle would issue (R182, R334). -/
def atBoundary (x : Tile) : Bool :=
  decide (x.task.shadow = 0 ∧ x.task.empties = 0 ∧ x.freeze = 0)

/-- The first imprecise fault of a tile is taken at the bundle boundary at which its task stands, if it stands at one. The
destination of a failed load is released. -/
def takeImprecise (t : TileId) (s : State) : State :=
  let x := s.tile t
  match x.task.impFaults with
  | [] => s
  | f :: rest =>
    if (x.status ≠ .running ∧ x.status ≠ .ending) ∨ !atBoundary x then s
    else
      let s1 := s.modTile t fun y =>
        { y with
          status := .running
          task := { y.task with impFaults := rest, loadQ := y.task.loadQ.filter fun e => !isAccess e || e.size != 0 } }
      takeTrap t f.cause true f.eng 0 x.task.pc (impTval f) 0 s1

/-- `IMPRECISE_TRAP` (R280). -/
def execImpreciseTrap (t : TileId) (s : State) : Out := slotDone (takeImprecise t s)

/-! ### Landings of the matrix and handle engines -/

/-- A change of the task whose matrix class stands on tile t: a suspended task's that stayed there, else the tile's own
(R139, R251). -/
def modMatrixTask (t : TileId) (f : Task → Task) (s : State) : State :=
  match (s.tile t).resident.find? fun e => e.2 == .matrix with
  | some e => modUid e.1 f s
  | none => s.modTaskAt t f

/-- `MATRIX_LOAD_COMPLETE` (R244). -/
def execMatrixLoadComplete (t : TileId) (s : State) : Out := slotDone (modMatrixTask t completeLoad s)

/-- `MFEED_LANDING` (R247): one entry of the oldest feed lands, no earlier than c+4 by the task's issue cycles (R5); the
handle's head advances with the last (R242). -/
def execMfeedLanding (t : TileId) (s : State) : Out :=
  slotDone (modMatrixTask t (fun k =>
    match k.mat.feeds with
    | f :: _ => if f.at_ + 4 ≤ k.icyc then landFeed k else k
    | [] => k) s)

/-- `HEAD_ADVANCE` (R288): the oldest waiting advance of a handle, once the reads issued before it have completed. -/
def execHeadAdvance (t : TileId) (h : BitVec 4) (s : State) : Out :=
  slotDone (
    let k := (s.tile t).task
    match k.headAdv.find? fun e => e.handle == h with
    | none => s
    | some e =>
      if earlierReadsOut s k e then s
      else s.modTaskAt t fun k => setH { k with headAdv := k.headAdv.erase e } h (passSlots (readH k h) e.n))

end Sys2Proof.Machine
end

