-- ==== Sys2Proof/Machine/Stops.lean ====
section
/-! DEFINITION. Stops that no bundle raises: machine checks, imprecise traps, debug stops, gang stops and pre-emption
(R334, R335, R352, R363, R364), what Kenval does with a stopped task (R342), and the steps of the opcode table that
request or take them. -/

namespace Sys2Proof.Machine

/-! ### Gangs -/

/-- Tiles that hold members of the task of tile t, in member order. -/
def gangTiles (s : State) (t : TileId) : List TileId :=
  let g := (s.tile t).task.gang
  sortTiles (fun u => (s.tile u).task.gidx.toNat) (((List.range 256).map (BitVec.ofNat 8)).filter fun u =>
    (s.tile u).status != .free && (s.tile u).task.gang == g)

/-- A tile's task is to be pre-empted; a member held at its `END` stands at a stop point (R375). -/
def orderPreempt (x : Tile) : Tile :=
  { x with preempt := true, status := if x.status = .held ∧ !x.preempt then .ending else x.status }

/-- Every member of the gang of tile t is to be pre-empted (R140). -/
def preemptGang (t : TileId) (s : State) : State :=
  (gangTiles s t).foldl (fun s u => s.modTile u orderPreempt) s

/-! ### Stop points -/

/-- Whether a drain of an active `LOOP.SWP` is still owed before a pre-emption stop (R352). -/
def drainOwed (k : Task) : Bool :=
  !k.refill && match k.loops with
    | f :: _ => f.swp.isSome && (f.drain || decide (readLC k f.n ≠ 0))
    | [] => false

/-- Whether the task's queue has room in its resume list (R140). -/
def resumeRoom (s : State) (k : Task) : Bool := decide ((s.queue k.queue).resume.length < 16)

/-- Whether a pre-emption stops the task of tile t now (R140, R352). -/
def preemptDue (s : State) (t : TileId) : Bool :=
  let x := s.tile t
  x.preempt && x.task.mode == .task && (x.status == .running || x.status == .ending) && !drainOwed x.task
    && resumeRoom s x.task

/-- The member of tile t stops; when every member of its gang has, the gang enters its queue's resume list with its last
declared run (R140, R352). A STOP trace record is written (R361). -/
def preemptStop (t : TileId) (s : State) : State :=
  let s1 := traceStop t 0 (s.modTile t fun x =>
    { x with status := .held, task := stopAt x.ic x.task.refill x.task })
  let g := gangTiles s1 t
  if g.all fun u => (s1.tile u).status == .held && (s1.tile u).preempt then
    suspendTiles g (s1.tile t).task.declared s1
  else s1

/-- The member of tile t takes its gang stop: STOPPED with `YCAUSE` 0 (R334, R342). A drain under way goes on when the task does
(R352). -/
def gangStopNow (t : TileId) (s : State) : State :=
  traceStop t 0 (s.modTile t fun x =>
    let k := stopAt x.ic x.task.refill x.task
    { x with status := .stopped, gangStop := false, preempt := false, task := { k with ycause := 0, ytval := 0 } })

/-- A member that has stopped for a pre-emption takes its gang's stop where it stands (R342). -/
def heldGangStop (x : Tile) : Tile :=
  { x with status := .stopped, gangStop := false, preempt := false, task := { x.task with ycause := 0, ytval := 0 } }

/-- A machine check or debug trap that no bundle raises, at the boundary (R334, R346, R363). -/
def boundaryTrap (t : TileId) (c : Cause) (s : State) : State :=
  takeTrap t (causeCode c) false 0 0 (s.tile t).task.pc 0 0 s

/-- The stop that is due on tile t before its next bundle issues: a parity error first, then an imprecise fault, both
also in monitor mode (R341); in task mode a step, a stop request, a gang stop and a pre-emption. -/
def stopDue (s : State) (t : TileId) : Option State :=
  let x := s.tile t
  let k := x.task
  let task := k.mode == .task
  if x.parity then some (boundaryTrap t .stateParity (s.modTile t fun y => { y with parity := false }))
  else if !x.task.impFaults.isEmpty then some (takeImprecise t s)
  else if k.stepDue && task then some (boundaryTrap t .step (s.modTaskAt t fun k => { k with stepDue := false }))
  else if k.stopReq && task then some (boundaryTrap t .debugStop (s.modTaskAt t fun k => { k with stopReq := false }))
  else if x.gangStop && task then some (gangStopNow t s)
  else if preemptDue s t then some (preemptStop t s)
  else none

/-- The steps of the table that take a stop: the stop happens if the tile's task stands where it may. -/
def takeIf (t : TileId) (due : Bool) (f : State → State) (s : State) : State :=
  let x := s.tile t
  if due && atBoundary x && (x.status == .running || x.status == .ending) then f (applyReleases t (fun _ => true) s)
  else s

/-- `GANG_STOP` (R334, R342). -/
def execGangStop (t : TileId) (s : State) : Out :=
  slotDone (takeIf t ((s.tile t).gangStop && (s.tile t).task.mode == .task) (gangStopNow t) s)

/-- `PREEMPTION_STOP` (R352). -/
def execPreemptionStop (t : TileId) (s : State) : Out := slotDone (takeIf t (preemptDue s t) (preemptStop t) s)

/-- `STATE_PARITY` (R346, R383): the error is detected, and taken at the tile's next bundle boundary; the class in which it stands,
a free value, is marked poisoned by its save. A free tile holds no state but the classes that stayed on it. -/
def execStateParity (t : TileId) (s : State) : Out :=
  let c := Config.parityClass s.freeCount
  let stands (x : Tile) : List (Nat × ResClass) :=
    match x.resident.find? fun e => e.2 == c with
    | some e => [e]
    | none => if x.status = TStatus.free then [] else [(x.task.uid, c)]
  slotDone ({ s with freeCount := s.freeCount + 1 }.modTile t fun x =>
    { x with
      parity := x.parity || x.status != TStatus.free
      badClasses := (x.badClasses.filter fun e => !(stands x).contains e) ++ stands x })

/-- `DEBUG_STOP` (R363): a request for the tile's task, which goes where the task goes. -/
def execDebugStop (t : TileId) (s : State) : Out :=
  slotDone (if (s.tile t).status = .free ∨ (s.tile t).status = .stopped then s
    else s.modTaskAt t fun k => { k with stopReq := true })

/-- `KENVAL_PREEMPT_REQUEST` (R140): the named task, with its gang. -/
def execKenvalPreemptRequest (t : TileId) (s : State) : Out :=
  slotDone (if (s.tile t).status = .free ∨ (s.tile t).status = .stopped then s else preemptGang t s)

/-! ### Kenval and a stopped task (R342) -/

/-- The STOPPED task of tile t runs again, its slice from 0 (R136); halves that an order of R355 has saved come back first (R139,
R148). -/
def resumeStopped (t : TileId) (skip : Bool) (s : State) : State :=
  let poisoned := savePoisoned s (s.tile t).task .half
  (resumeOn t skip s).modTile t fun x =>
    let x1 := x.task.halves.foldl (fun x v => restoreHalf false x.task v x) x
    { x1 with task := { reclaim poisoned false x x.task with halves := [] }, status := if isLoading x1 then .loading else .running, slice := 0 }

/-- A task with the saved state of k (R335, R342, R354): its registers, its late writes, its unsent loads, its loops and its other
classes. -/
def savedAs (k old : Task) : Task :=
  { old with
    s := k.s, a := k.a, lc := k.lc, p := k.p, k := k.k, h := k.h, v := k.v, pt := k.pt, spill := k.spill, fflags := k.fflags
    movf := k.movf, cmdseq := k.cmdseq, ycause := k.ycause, yepc := k.yepc, ytval := k.ytval, yms := k.yms, mat := k.mat
    xp := k.xp, ch := k.ch, loops := k.loops, rot := k.rot, lwb := k.lwb
    loadQ := k.loadQ.map fun e => { e with ctx := old.ctx, uid := old.uid } }

/-- Kenval changes the saved state of a STOPPED task before it resumes it (R342). -/
def changeStopped (t : TileId) (k : Task) (s : State) : State :=
  if (s.tile t).status = .stopped then s.modTaskAt t (savedAs k) else s

/-- `KENVAL_RESUME` (R342): as `ERET` with mode 0 or 1. -/
def execKenvalResume (t : TileId) (skip : Bool) (s : State) : Out :=
  slotDone (if (s.tile t).status = .stopped ∧ s.ctxActive (s.tile t).task.ctx then
    resumeStopped t skip s else s)

/-- A task is discarded: it frees its tile and its banks, and counts as ended without `END` (R342, R376). Its
commands are complete. -/
def discardTask (t : TileId) (s : State) : State :=
  let k := (s.tile t).task
  freeBanks (taskAccessor k) ((freeTile false t s).modCtx k.ctx fun c =>
    if k.gidx = 0 then { c with endless := c.endless + 1 } else c)

/-- Tiles of the members that a discard of tile t's task ends: a discard of member 0 discards the whole gang (R375). -/
def discardedWith (s : State) (t : TileId) : List TileId := if (s.tile t).task.gidx = 0 then gangTiles s t else [t]

/-- Whether every command of the tasks on some tiles is complete. -/
def commandsOver (s : State) (ts : List TileId) : Bool :=
  ts.all fun t => !s.cmds.any fun c => c.task == (s.tile t).task.uid

/-- `KENVAL_DISCARD` (R342); a discard of member 0 discards the whole gang (R375). -/
def execKenvalDiscard (t : TileId) (s : State) : Out :=
  slotDone (if (s.tile t).status ≠ .stopped ∨ !commandsOver s (discardedWith s t) then s
    else (discardedWith s t).foldl (fun s u => discardTask u s) s)

/-- `KENVAL_TERMINATE` (R342). -/
def execKenvalTerminate (t : TileId) (s : State) : Out :=
  slotDone (if (s.tile t).status = .stopped then endContext (s.tile t).task.ctx 3 s else s)

/-! ### The hang watchdog and save stalls (R356, R357) -/

/-- The fault-queue entry of a watchdog: ADDR is the address at which the task would resume, its `YEPC` while the monitor
runs (R356). -/
def watchdogEntry (t : TileId) (s : State) : State :=
  let k := (s.tile t).task
  let addr := match k.mode with | .task => k.pc | .monitor => field k.yepc 0 18
  enterFault (tileDie t) (faultEntry (causeCode .watchdog) k.ctx 3 (tileUnit t 0) 0 (addr.setWidth 48) k.cmdseq s.timeNs) s

/-- Whether the save engine saves or restores a class of context c for a claim on tile x (R139), one whose task the watchdog has
ended among them (R356). -/
def claimOf (s : State) (c : CtxId) (x : Tile) : Bool :=
  (match x.finishing with | some f => f.2 == c | none => false) || match x.claiming with
  | none => false
  | some .half => [x.half0, x.half1].any fun h => h.st == .resident && h.owner == c
  | some cl =>
    (x.resident.any fun e => e.2 == cl && e.1 != x.task.uid && uidCtx s e.1 == some c)
      || (x.status != .free && x.task.ctx == c && x.task.restore.contains cl)

/-- Whether a save or restore of a class of a context is under way (R139, R355). -/
def saveUnderWay (s : State) (c : CtxId) : Bool := (s.ctx c).saving || s.tiles.any (claimOf s c)

/-- A context whose watchdog has expired becomes TERMINATING, at once, or when the saves of it that are under way are done
(R356). -/
def endAfterSaves (c : CtxId) (s : State) : State :=
  if saveUnderWay s c then s.modCtx c fun x => { x with dying := true } else endContext c 3 s

/-- The restore of a class for the task of a tile that is under way, which is finished without the task (R356). -/
def restoreLeft (x : Tile) : Option (ResClass × CtxId) :=
  match x.claiming with
  | some c => if c != .half && x.task.restore.contains c && !(x.resident.any fun e => e.2 == c && e.1 != x.task.uid) then
      some (c, x.task.ctx) else none
  | none => none

/-- `WATCHDOG` (R356): due when the count, in nanoseconds, has reached the limit. A tile frozen at a class claim stops with
its task. -/
def execWatchdog (t : TileId) (s : State) : Out :=
  let x := s.tile t
  slotDone (if (x.status = .running ∨ x.status = .ending) ∧ x.watchdog * 10 / 21 ≥ x.watchLimit then
    let s1 := watchdogEntry t s
    endAfterSaves x.task.ctx (if saveUnderWay s1 x.task.ctx then
      (dropTask t s1).modTile t fun y => { y with finishing := restoreLeft x } else s1) else s)

/-- Whether a claim on tile x has made no progress for 1 ms (R357). -/
def claimStalled (x : Tile) : Bool := decide (x.claimStall * 10 / 21 ≥ 1000000)

/-- The tile at which a save or restore of a class of a context stalls, if one does (R357). -/
def stallTile (s : State) (c : CtxId) : Option TileId :=
  ((List.range 256).map (BitVec.ofNat 8)).find? fun t => claimOf s c (s.tile t) && claimStalled (s.tile t)

/-- Whether a save order of a context has made no progress for 1 ms with a class before it, none of it spent on a page (R355,
R357). -/
def orderStalled (s : State) (c : CtxId) : Bool := (s.ctx c).saving && decide ((s.ctx c).saveStall * 10 / 21 ≥ 1000000)

/-- Every bank that a context owns (R141). -/
def ownedBanks (s : State) (c : CtxId) : List Nat :=
  (List.range 2048).filter fun b => bankOwner (s.bank b) == c

/-- A bank starts to be scrubbed and its hold ends (R262). -/
def beginScrub (b : Nat) (s : State) : State :=
  let w := s.bank b
  { s.setBank b (putField w 8 18 (0 : BitVec 18)) with scrubbing := setAdd b s.scrubbing }

/-- Die of the save engine that stalls on a context: that of the tile at which it does; for an order, of the lowest tile
on which the context holds state (log 56). -/
def lostDie (s : State) (c : CtxId) : BitVec 1 :=
  match stallTile s c with
  | some t => tileDie t
  | none => match ((List.range 256).map (BitVec.ofNat 8)).find? fun t =>
      (s.tile t).task.ctx == c && (s.tile t).status != .free || (s.tile t).resident.any fun e => uidCtx s e.1 == some c with
    | some t => tileDie t
    | none => 0

/-- `CTX_LOST` (R357): due when a save or restore of the context has stalled for 1 ms; the entry names the save engine that
stalls, in the queue of its die. -/
def execCtxLost (c : CtxId) (s : State) : Out :=
  slotDone (if (stallTile s c).isSome || orderStalled s c then
    let d := lostDie s c
    let s1 := endContext c 4 s
    let s2 := (ownedBanks s1 c).foldl (fun s b => beginScrub b s) s1
    enterFault d (faultEntry (causeCode .ctxLost) c 3 (unitId d 0 0 0x61) 0 0 0 s.timeNs) s2
  else s)

end Sys2Proof.Machine
end

