-- ==== Sys2Proof/Machine/LaunchEvents.lean ====
section
/-! DEFINITION. The launcher's and the save engine's steps: records landing (R36, R128), held records (R36), selections
with forced pre-emption (R129, R140), image loads (R133, R148), slices and overruns (R136, R138, R140), class saves (R139),
timed launches (R142), and Kenval's writes of context, queue and bank descriptors (R21, R22, R124, R262, R355). -/

namespace Sys2Proof.Machine

/-! ### Records -/

/-- Whether the release that a record waits for has been met (R128): by the tile's stores, and by the issuing task's fetching
atomics, wherever that task now is. -/
def landReady (s : State) (r : LandRec) : Bool :=
  match r.after with
  | none => true
  | some (t, u, n) => performedBefore (s.tile t) n .pkg
      && (taskOf s u).loadQ.all fun e => !isAccess e || decide (e.ord ≥ n)

/-- `RECORD_LANDING` (R36, R128, R132): the oldest record in flight to the queue lands in its slot, once that is in no bank under
scrub (R262). -/
def execRecordLanding (q : BitVec 7) (s : State) : Out :=
  let x := s.queue q
  slotDone (match x.landing with
    | [] => s
    | r :: rest =>
      if landReady s r ∧ !s.scrubbing.contains (sgaBank (qBase x.desc + 32 * r.slot)) then
        { s with sward := memWriteLE s.sward (qBase x.desc + 32 * r.slot) 32 r.rec_.toNat }.modQueue q
          fun y => { y with landing := rest }
      else s)

/-- The record that a held cell keeps (R32). -/
def heldRecord (c : BitVec 256) : BitVec 256 :=
  mkRecord (cellTmpl c) (cellQueue c) (cellOwner c) (field c 224 32) [field c 192 32, b2v 32 (!cellPhase c)]

/-- The queue of a held record. -/
def heldQueue (s : State) (ctx : CtxId) (i : BitVec 16) : Option (BitVec 7) :=
  (cellAddr s ctx i.toNat).map fun a => cellQueue (cellRead s a)

/-- `HELD_RECORD_MOVE` (R36): the oldest record held for its queue takes a freed slot. A cell that has met its firing condition
since, and still stands at it, fires as HELD clears; one that later operations have taken away from it does not (DESIGN CHOICE,
log 33). -/
def execHeldRecordMove (ctx : CtxId) (i : BitVec 16) (s : State) : Out :=
  slotDone (match cellAddr s ctx i.toNat with
    | none => s
    | some a =>
      let c := cellRead s a
      let q := s.queue (cellQueue c)
      let first := s.heldRecs.find? fun h => heldQueue s h.1 h.2.1 == some (cellQueue c)
      match first with
      | none => s
      | some h =>
        if h.1 ≠ ctx ∨ h.2.1 ≠ i ∨ !qEn q.desc ∨ qFree q = 0 ∨ cellScrubs s ctx i
            ∨ (h.2.2 ∧ logFull s ctx 1) then s
        else
          let s1 := { s with heldRecs := s.heldRecs.erase h }.modQueue (cellQueue c) (qReserve none [heldRecord c])
          let c1 := putField (putField c 120 1 (0 : BitVec 1)) 192 64 (0 : BitVec 64)
          if h.2.2 && cellReady c1 then fireCell ctx i a c1 s1 else cellWrite s1 a c1)

/-! ### Selections -/

/-- Whether a head could be placed on some tiles once they are free, with the free tiles of their cluster (R140). -/
def fitsOn (s : State) (tiles : List TileId) (q : BitVec 7) (h : Head) : Bool :=
  match tiles with
  | [] => false
  | t :: _ =>
    decide ((headReq s h).n ≤ ((tiles.filter fun u => tileOffered s (headId q h) none u) ++
      (freeTiles s (headId q h) none false (tileCluster t))).length)

/-- Running tasks of a die by first tile: tiles of each gang. -/
def runningGangs (s : State) (die : BitVec 1) : List (List TileId) :=
  (((List.range 256).map (BitVec.ofNat 8)).filter fun t =>
    tileDie t == die && taskRuns (s.tile t) && (s.tile t).task.gidx == 0).map (gangTiles s)

/-- Rank of the task on some tiles. -/
def gangRank (s : State) (g : List TileId) : Nat := queueRank s (s.tile (g.headD 0)).task.queue

/-- First tile of a gang. -/
def gangFirst (g : List TileId) : Nat := g.foldl (fun n t => Nat.min n t.toNat) 256

/-- The gang of lowest rank below 15, then of lowest first tile, among those that would let the head be placed (R140). -/
def victim (s : State) (die : BitVec 1) (q : BitVec 7) (h : Head) : Option (List TileId) :=
  ((runningGangs s die).filter fun g => decide (gangRank s g < 15) && fitsOn s g q h).foldl (fun best g =>
    match best with
    | none => some g
    | some b =>
      if gangRank s g < gangRank s b ∨ (gangRank s g = gangRank s b ∧ gangFirst g < gangFirst b) then some g else some b) none

/-- Whether a tile of a die is free (R129). -/
def dieFree (s : State) (die : BitVec 1) : Bool :=
  s.tiles.toList.zipIdx.any fun x => x.1.status == .free && tileDie (BitVec.ofNat 8 x.2) == die

/-- Whether a timed launch of a die has fallen due (R129, R142). -/
def timedDue (s : State) (die : BitVec 1) : Bool :=
  (s.die die).timed.any fun e => bit e.v 71 && decide ((field e.v 0 64).toNat ≤ s.timeNs)

/-- A head of rank 15 that cannot be placed while no tile of the die is free pre-empts a task (R140). -/
def rank15 (die : BitVec 1) (s : State) : State :=
  if dieFree s die then s
  else
    match ((queueOrder s die).filter fun q => queueRank s q == 15).findSome? fun q =>
        (headOf s q).bind fun h => victim s die q h with
    | some (t :: _) => preemptGang t s
    | _ => s

/-- `LAUNCHER_SELECTION` (R129, R140, R143): a selection runs where a tile of the die is free or a timed launch has fallen
due. -/
def execLauncherSelection (die : BitVec 1) (s : State) : Out :=
  slotDone (rank15 die (if dieFree s die || timedDue s die then selection die s else s))

/-! ### Image loads -/

/-- A LOADING half takes its image, its rest zero, and is ACTIVE for the task being placed, else IDLE (R133, R148). -/
def completeHalf (s : State) (u : Bool) (x : Tile) : Tile :=
  let h := getHalf x u
  if h.st ≠ .loading then x
  else
    let bs := (imageBytes s h.owner h.image).getD []
    let x1 := putHalfBytes u ((bs.take 0x10000).zipIdx.map fun b => (b.2, b.1)) x
    setHalf u { h with st := if h.task = x.task.uid then .active else .idle } x1

/-- `IMAGE_LOAD_COMPLETE` (R133, R148): the launch goes on when no tile of it loads (R131). -/
def execImageLoadComplete (t : TileId) (s : State) : Out :=
  let s1 := s.modTile t fun x => completeHalf s true (completeHalf s false x)
  slotDone (if (s1.tile t).status = .loading then startTiles (gangTiles s1 t) s1 else s1)

/-! ### Slices -/

/-- Whether a head of rank at least the task's own can be placed on its tiles (R140). -/
def sliceRival (s : State) (t : TileId) : Bool :=
  let g := gangTiles s t
  (queueOrder s (tileDie t)).any fun q =>
    decide (queueRank s q ≥ gangRank s g) && match headOf s q with | some h => fitsOn s g q h | none => false

/-- `SLICE_EXPIRY` (R136, R138, R140): of a slice that has run out, or of an overrun task at any cycle. -/
def execSliceExpiry (t : TileId) (s : State) : Out :=
  let x := s.tile t
  let expired := decide (x.slice ≥ x.sliceLen)
  slotDone (if !taskRuns x ∨ (!expired ∧ !x.task.overrun) then s
    else if sliceRival s t && resumeRoom s x.task then preemptGang t s
    else if expired then s.modTile t fun y => { y with slice := 0 }
    else s)

/-- `YIELD_OVERRUN` (R138). -/
def execYieldOverrun (t : TileId) (s : State) : Out :=
  let x := s.tile t
  let k := x.task
  slotDone (if taskRuns x ∧ !k.overrun ∧ k.overCount > k.declared then
    enterFault (tileDie t) (faultEntry (causeCode .yieldOverrun) k.ctx 3 (tileUnit t 0) (k.queue.setWidth 32) 0 k.cmdseq
      s.timeNs) (s.modTaskAt t fun k => { k with overrun := true })
    else s)

/-! ### Class saves (R139) -/

/-- The save engine has got on at tile t: no claim stands until the tile makes it again (R357). -/
def claimServed (t : TileId) (s : State) : State := s.modTile t fun x => { x with claiming := none, claimStall := 0 }

/-- Whether data is in flight to a task's matrix class that still lands while the task is suspended: its load, and the rows of a
feed that its issue cycles have brought to c+4; a feed that they have not yet lands with the save (R5, R247, R251; log 142). -/
def matrixLands (k : Task) : Bool :=
  k.mat.load.isSome || match k.mat.feeds with
    | f :: _ => decide (f.at_ + 4 ≤ k.icyc)
    | [] => false

/-- A class of another task that stands on tile t is saved, where it may be: every store of the task has performed, and
nothing still lands in its matrix class (R251, R354). -/
def saveForClaim (t : TileId) (e : Nat × ResClass) (s : State) : State :=
  if (e.2 = .core ∧ !coreSavable s e.1) ∨ (e.2 = .matrix ∧ matrixLands (taskOf s e.1)) then s
  else claimServed t (saveResident t e s)

/-- The task of tile t has a class of its own back, but for a poisoned save, which its claim traps on (R139, R346). -/
def restoreForClaim (t : TileId) (c : ResClass) (s : State) : State :=
  let k := (s.tile t).task
  if !k.restore.contains c ∨ (c = .core ∧ !coreSavable s k.uid) ∨ savePoisoned s k c then s
  else claimServed t (s.modTaskAt t fun k => { k with restore := k.restore.erase c })

/-- Contexts that wait for their saves to end, now that they have (R356). -/
def endDying (s : State) : State :=
  (List.range 64).foldl (fun s c =>
    let c := BitVec.ofNat 6 c
    if (s.ctx c).dying && !saveUnderWay s c then endContext c 3 s else s) s

/-- `CLASS_SAVE_COMPLETE` (R139): what the tile's task claims, or an order of R355 asks for: the class of another task is
saved; else the claimant's own class is restored; a claimed half is saved. A restore goes on to its end though the watchdog has
ended its task (R356). -/
def execClassSaveComplete (t : TileId) (c : ResClass) (s : State) : Out :=
  let x := s.tile t
  let claimed := x.claiming == some c
  let asked (e : Nat × ResClass) : Bool :=
    e.2 == c && (x.status == .free || e.1 != x.task.uid) &&
      (claimed || match uidCtx s e.1 with | some d => (s.ctx d).saving | none => false)
  let done := match x.finishing with | some f => f.1 == c | none => false
  slotDone (endDying (
    if done then claimServed t (s.modTile t fun y => { y with finishing := none })
    else if c = .half then (if claimed then claimServed t (evictHalf t (!x.cur) s) else s)
    else match x.resident.find? asked with
      | some e =>
        (match uidCtx s e.1 with | some d => flushSaves d (saveForClaim t e s) | none => saveForClaim t e s)
      | none => if claimed then restoreForClaim t c s else s))

/-! ### Timed launches (R142) -/

def State.timed (s : State) (die : BitVec 1) (i : BitVec 4) : Timed := (s.die die).timed[i.toNat]'i.isLt
def State.modTimed (s : State) (die : BitVec 1) (i : BitVec 4) (f : Timed → Timed) : State :=
  s.modDie die fun d => { d with timed := d.timed.set i.toNat (f (d.timed[i.toNat]'i.isLt)) i.isLt }

/-- The tiles that an entry holds are released (R142). -/
def releaseTimed (die : BitVec 1) (i : BitVec 4) (s : State) : State :=
  let s1 := (s.timed die i).tiles.foldl (fun s t => s.modTile t fun x =>
    if x.reservedFor = some i.toNat then { x with reservedFor := none } else x) s
  s1.modTimed die i fun e => { e with tiles := [] }

/-- The head that an entry's queue presents, if the queue may launch on this die. -/
def timedHead (s : State) (die : BitVec 1) (i : BitVec 4) : Option Head :=
  let q := tlQueue (s.timed die i).v
  if qDie (s.queue q).desc = die ∧ queueReady s q then headOf s q else none

/-- `TIMED_LAUNCH_LEAD` (R142): from T − LEAD the tiles are chosen, their tasks pre-empted, and each tile held. -/
def execTimedLaunchLead (die : BitVec 1) (i : BitVec 4) (s : State) : Out :=
  let e := s.timed die i
  slotDone (if !tlEn e.v ∨ e.tiles ≠ [] ∨ s.timeNs + 1000 * tlLead e.v < tlStart e.v then s
    else match timedHead s die i with
      | none => s
      | some h =>
        match chooseTiles s (tlQueue e.v) (some i.toNat) true h with
        | none => s
        | some ts =>
          let s1 := ts.foldl (fun s t =>
            let s' := if (s.tile t).status = .free then s else preemptGang t s
            s'.modTile t fun x => { x with reservedFor := some i.toNat }) s
          s1.modTimed die i fun y => { y with tiles := ts })

/-- The tiles on which an entry's head is placed at T: those held, when they serve the head and are all free (R142). -/
def timedTiles (s : State) (die : BitVec 1) (i : BitVec 4) (h : Head) : Option (List TileId) :=
  let held := (s.timed die i).tiles
  if held.any fun t => (s.tile t).status != .free then none
  else if held.length = (headReq s h).n then some held
  else chooseTiles s (tlQueue (s.timed die i).v) (some i.toNat) false h

/-- An entry's part, the gang g, has started (R142): DONE, EN cleared, its tiles released; a start after T is LATE. TACT is
written when the gang's first bundle issues. -/
def timedDone (die : BitVec 1) (i : BitVec 4) (late : Bool) (g : Nat) (s : State) : State :=
  let v := (s.timed die i).v
  let q := tlQueue v
  let v1 := putField (putField (putField v 71 1 (0 : BitVec 1)) 84 1 (1 : BitVec 1)) 85 1 (b2v 1 late)
  let s1 := ((releaseTimed die i s).modTimed die i fun e => { e with v := v1 }).modDie die fun d =>
    { d with tactWait := (d.tactWait.filter fun w => w.1 ≠ i) ++ [(i, g)] }
  if late then
    enterFault die (faultEntry (causeCode .gangLate) (qOwner (s.queue q).desc) 3 (unitId die 0 0 0x60) 0 0 0 s.timeNs) s1
  else s1

/-- `TIMED_LAUNCH_START` (R142): at or after T; a head that fails R25 is discarded and the next becomes the part. -/
def execTimedLaunchStart (die : BitVec 1) (i : BitVec 4) (s : State) : Out :=
  let e := s.timed die i
  slotDone (if !tlEn e.v ∨ s.timeNs < tlStart e.v then s
    else match timedHead s die i with
      | none => s
      | some h =>
        match timedTiles s die i h with
        | none => s
        | some ts =>
          let (s1, ok) := launchHead (tlQueue e.v) h ts s
          if ok then timedDone die i (decide (s.timeNs > tlStart e.v)) (s1.tile (ts.headD 0)).task.gang s1 else s1)

/-- `TIMED_LAUNCH_DISARM` (R142). -/
def execTimedLaunchDisarm (die : BitVec 1) (i : BitVec 4) (s : State) : Out :=
  slotDone ((releaseTimed die i s).modTimed die i fun e => { e with v := putField e.v 71 1 (0 : BitVec 1) })

/-! ### Kenval's descriptors -/

/-- A write that a window refuses: nothing changes but the window's error status (R21). -/
def refuseWrite (s : State) : State := { s with winErr := true }

/-- R21's tests of a context descriptor. -/
def ctxDescOk (v : BitVec 512) : Bool :=
  decide ((field v 0 3).toNat ≤ 4) && field v 3 1 == 0 && field v 35 29 == 0 && field v 104 24 == 0
    && field v 157 35 == 0 && field v 238 18 == 0 && field v 292 28 == 0 && field v 323 189 == 0
    && decide (ctxTmplN v ≤ 1024) && decide (ctxCellN v ≤ 65536) && field v 128 7 == 0 && field v 192 5 == 0

/-- `CONTEXT_DESCRIPTOR_WRITE` (R20 to R22): a state other than ACTIVE or HALTED ends the context's work, FREE as TERMINATING does
(DESIGN CHOICE, log 114); HALTED orders its tasks pre-empted. -/
def execContextDescriptorWrite (c : CtxId) (v : BitVec 512) (s : State) : Out :=
  slotDone (if !ctxDescOk v then refuseWrite s
    else
      let st := field v 0 3
      let s1 := if st = 1 ∨ st = 2 then s else endContext c st s
      let s2 := if st = 1 ∧ s.ctxActive c then s1 else stopHolding c s1
      s2.modCtx c fun x => { x with desc := v })

/-- A tile keeps nothing of the task with identity u. -/
def forgetTask (u : Nat) (x : Tile) : Tile :=
  { x with
    resident := x.resident.filter fun e => e.1 ≠ u
    badClasses := x.badClasses.filter fun e => e.1 ≠ u
    half0 := endHalf false u x.half0
    half1 := endHalf false u x.half1 }

/-- The suspended tasks and records of a queue are discarded (R124): their classes and save slots go, each task counting as
ended without `END` (R376). -/
def discardQueue (q : BitVec 7) (s : State) : State :=
  let ms := (s.queue q).resume.flatMap fun v => v.members
  let s1 := ms.foldl (fun (s : State) (m : TileId × Task) =>
    let k := m.2
    freeBanks (taskAccessor k) ({ s with tiles := s.tiles.map (forgetTask k.uid)
                                         cmds := s.cmds.filter fun m => m.task ≠ k.uid }.modCtx k.ctx fun c =>
      { c with
        slots := setRemove k.saveSlot.toNat c.slots
        endless := if k.gidx = 0 then c.endless + 1 else c.endless })) s
  s1.modQueue q fun x => { x with headp := 0, tailp := 0, landing := [], resume := [], passes := 0 }

/-- R21's and R124's tests of a queue descriptor. -/
def queueDescOk (v : BitVec 128) : Bool :=
  field v 45 19 == 0 && field v 101 27 == 0 && decide (4 ≤ qLogN v) && field v 16 5 == 0
    && decide (qBase v / 2 ^ 25 = (qBase v + 32 * 2 ^ qLogN v - 1) / 2 ^ 25)

/-- `QUEUE_DESCRIPTOR_WRITE` (R124): the hardware keeps HEADP, TAILP and RESN; a change of OWNER, BASE or LOGN discards
what the queue holds; a rewrite ends its head's reservation (R131). -/
def execQueueDescriptorWrite (q : BitVec 7) (v : BitVec 128) (s : State) : Out :=
  slotDone (if !queueDescOk v then refuseWrite s
    else
      let d := (s.queue q).desc
      let s1 := if qOwner d ≠ qOwner v ∨ qBase d ≠ qBase v ∨ qLogN d ≠ qLogN v then discardQueue q s else s
      let s2 := s1.modQueue q fun x =>
        { x with desc := putField v 64 37 (0 : BitVec 37), passes := 0, resume := x.resume.map fun v => { v with passes := 0 } }
      { s2 with dies := s2.dies.map fun d => { d with reserving := d.reserving.filter fun e => e.1 ≠ q } })

/-- `BANK_OWNER_WRITE` (R141, R262): the hold fields stay unless OWNER changes, which clears them and scrubs the bank;
reserved bits stay zero. -/
def execBankOwnerWrite (b : BitVec 11) (v : BitVec 32) (s : State) : Out :=
  let w := s.bank b.toNat
  let new := putField (putField v 8 18 (field w 8 18)) 26 6 (0 : BitVec 6)
  slotDone (if bankOwner w = bankOwner v then s.setBank b.toNat new else beginScrub b.toNat (s.setBank b.toNat new))

/-- `BANK_SCRUB_COMPLETE` (R262): every byte is zero, poison is gone, accesses go on. -/
def execBankScrubComplete (b : BitVec 11) (s : State) : Out :=
  let n := b.toNat
  slotDone (if s.scrubbing.contains n then
    { s with
      sward := memZero s.sward (n * 2 ^ 18) (2 ^ 18)
      swardPoison := s.swardPoison.filter fun l => decide (l / 4096 ≠ n)
      scrubbing := setRemove n s.scrubbing }
    else s)

/-- `CONTEXT_SAVE` (R355): running tasks are pre-empted; classes are saved as their tasks stop. -/
def execContextSave (c : CtxId) (s : State) : Out :=
  let s1 := s.modCtx c fun x => { x with saving := true, saveStall := 0 }
  slotDone (flushSaves c { s1 with tiles := s1.tiles.map fun x =>
    if x.task.ctx = c ∧ x.status ≠ .free ∧ x.status ≠ .stopped then orderPreempt x else x })

end Sys2Proof.Machine
end

