-- ==== Sys2Proof/Machine/Ed448.lean ====
section
/-! DEFINITION. Ed448 signatures (R379, R380) as RFC 8032 defines them: the curve x² + y² = 1 + d·x²·y² modulo p, its base
point, and the signature of a message under a context string (log 15). -/

namespace Sys2Proof.Machine

/-- The field's prime. -/
def edPrime : Nat := 2 ^ 448 - 2 ^ 224 - 1

/-- Order of the base point. -/
def edOrder : Nat := 2 ^ 446 - 13818066809895115352007386748515426880336692474882178609894547503885

/-- The curve's d, −39081. -/
def edD : Nat := edPrime - 39081

/-- A point of the curve in projective coordinates, x = X/Z and y = Y/Z. -/
structure EdPoint where
  x : Nat
  y : Nat
  z : Nat
  deriving DecidableEq, Repr

/-- The base point. -/
def edBase : EdPoint :=
  ⟨224580040295924300187604334099896036246789641632564134246125461686950415467406032909029192869357953282578032075146446173674602635247710,
   298819210078481492676017930443930673437544040154080242095928241372331506189835876003536878655418784733982303233503462500531545062832660, 1⟩

/-- Sum of two points. -/
def edAdd (p q : EdPoint) : EdPoint :=
  let m (a b : Nat) := a * b % edPrime
  let a := m p.z q.z
  let b := m a a
  let c := m p.x q.x
  let d := m p.y q.y
  let e := m (m edD c) d
  let f := b + edPrime - e
  let g := b + e
  ⟨m (m a f) ((p.x + p.y) * (q.x + q.y) + 2 * edPrime - c - d), m (m a g) (d + edPrime - c), m f g⟩

/-- k times a point; fuel: the bits of k. -/
def edTimes : Nat → Nat → EdPoint → EdPoint
  | 0, _, _ => ⟨0, 1, 1⟩
  | n + 1, k, p => if k % 2 = 1 then edAdd p (edTimes n (k / 2) (edAdd p p)) else edTimes n (k / 2) (edAdd p p)

/-- b^e modulo p; fuel: the bits of e. -/
def edPow : Nat → Nat → Nat → Nat
  | 0, _, _ => 1
  | n + 1, b, e => (if e % 2 = 1 then b else 1) * edPow n (b * b % edPrime) (e / 2) % edPrime

/-- A point as 57 bytes: y, with the lowest bit of x as the highest bit. -/
def edEncode (p : EdPoint) : List Byte :=
  let i := edPow 448 p.z (edPrime - 2)
  leBytes 57 (p.y * i % edPrime + 2 ^ 455 * (p.x * i % edPrime % 2))

/-- Bytes of a text in ASCII. -/
def asciiBytes (t : String) : List Byte := t.toList.map fun c => BitVec.ofNat 8 c.toNat

/-- The hash of Ed448 over a context string and a message, as a number. -/
def edHash (context msg : List Byte) : Nat :=
  leNat (shake256 (asciiBytes "SigEd448" ++ [0, BitVec.ofNat 8 context.length]
    ++ context ++ msg) 114)

/-- The secret scalar of a private key. -/
def edScalar (key : List Byte) : Nat := leNat ((shake256 key 114).take 56) / 4 * 4 % 2 ^ 447 + 2 ^ 447

/-- The 57-byte public key. -/
def edPublic (key : List Byte) : List Byte := edEncode (edTimes 448 (edScalar key) edBase)

/-- The signature of a message under a context string: 114 bytes. -/
def edSign (key context msg : List Byte) : List Byte :=
  let r := edHash context ((shake256 key 114).drop 57 ++ msg) % edOrder
  let first := edEncode (edTimes 446 r edBase)
  let k := edHash context (first ++ edPublic key ++ msg)
  first ++ leBytes 57 ((r + k * edScalar key) % edOrder)

/-- The device identity key: SHAKE256 of the fused seed and its label, 456 bits (R379). -/
def identityKey : List Byte := shake256 (leBytes 32 Config.identitySeed.toNat ++ asciiBytes "KV8 identity") 57

/-- Signature of a report (R380). -/
def signReport (body : List Byte) : List Byte := edSign identityKey (asciiBytes "KV8 attest") body

end Sys2Proof.Machine
end

