-- ==== Sys2Proof/Machine/Walks.lean ====
section
/-! DEFINITION. Page walks for whatever waits on them (R275, R280, R321, R326), renewal of leases (R278), and the paging
service's replies (R351). -/

namespace Sys2Proof.Machine

/-! ### Walks -/

/-- Whether two addresses lie in one 64 KiB piece: equal VA[47:16]. -/
def samePage (a b : Nat) : Bool := decide (a / 65536 = b / 65536)

/-- The page that the command's next beat needs and has no translation for. -/
def cmdPage (s : State) (c : Cmd) : Option (Nat × AccessKind) :=
  if c.phase ≠ .running ∨ c.watchHeld ∨ c.pageWait ∨ isRemote c ∨ awaits c then none
  else match (beatStream s c).2 with
    | some (.page va k) => some (va, k)
    | _ => none

/-- The command of a unit that waits for a walk. -/
def cmdNeeds (s : State) (u : XUnit) (ctx : CtxId) (va : Nat) (k : AccessKind) : Option (Cmd × Nat) :=
  s.cmds.findSome? fun c =>
    if cmdXUnit c = u ∧ c.ctx = ctx then
      match cmdPage s c with
      | some (a, k') => if samePage a va ∧ k' = k then some (c, a) else none
      | none => none
    else none

/-- The page that a checked request needs and has no translation for. -/
def reqPage (s : State) (p : BitVec 5) (f : FabReq) : Option (CtxId × Nat) :=
  match f.checked with
  | some (ctx, va) =>
    match fabPages s p ctx f (pageStarts va (reqLength f)) with
    | .walk a => some (ctx, a)
    | _ => none
  | none => none

/-- The request at a port's engine that waits for a walk. -/
def reqNeeds (s : State) (p : BitVec 5) (ctx : CtxId) (va : Nat) (k : AccessKind) : Option (FabReq × Nat) :=
  (s.port p).fab.findSome? fun f =>
    match reqPage s p f with
    | some (c, a) => if c = ctx ∧ samePage a va ∧ reqKind f = k ∧ !f.waits then some (f, a) else none
    | none => none

/-- A walk for a scalar access. -/
def walkScalar (t : TileId) (p : ScalarPos) (e : QEntry) (s : State) : State :=
  match walkChecked s e.ctx e.va.toNat with
  | .leaf w lev =>
    addLease (.tile t) (leaseOf s e.ctx e.va.toNat w lev) (s.modTile t (replaceHead p { e with walked := true }))
  | .absent _ => absentScalar t p e s
  | .bad lev => failScalar t p e .pteForm (kindType (opKind e.op)) (BitVec.ofNat 3 lev) s
  | .poisoned => failScalar t p e .poisonedData (kindType (opKind e.op)) 0 s

/-- A walk for a command: an absent page holds it, a malformed or poisoned entry stops it (R280, R346). A page that the command has used, whose
entry ran out before it was renewed, must still agree (R278). -/
def walkCmd (c : Cmd) (va : Nat) (k : AccessKind) (s : State) : State :=
  let changed := stopCmd c (causeCode .leaseChanged) 0 va (kindType k) s
  match walkChecked s c.ctx va, usedLease c va with
  | .leaf w lev, old =>
    let n := leaseOf s c.ctx va w lev
    if (old.map fun l => leaseAgrees k l n) = some false then changed
    else addLease (cmdXUnit c) n s
  | .poisoned, _ => stopCmd c (causeCode .poisonedData) 0 0 3 s
  | _, some _ => changed
  | .absent _, none =>
    enterFault (unitDie (cmdXUnit c)) (faultEntry (causeCode .pageFault) c.ctx (kindType k) (cmdUnit c) 0
      (BitVec.ofNat 48 va) c.seq s.timeNs) (modCmd c.id (fun x => { x with pageWait := true, fva := BitVec.ofNat 64 va }) s)
  | .bad _, none => stopCmd c (causeCode .pteForm) 0 va (kindType k) s

/-- A walk for a remote request (R326); one that meets a poisoned line is refused like a malformed entry (DESIGN CHOICE, log
137). -/
def walkReq (p : BitVec 5) (f : FabReq) (ctx : CtxId) (va : Nat) (s : State) : State :=
  match walkChecked s ctx va with
  | .leaf w lev => addLease (.fabric p) (leaseOf s ctx va w lev) s
  | .absent _ =>
    enterFault (field p 4 1) (faultEntry (causeCode .pageFault) ctx (kindType (reqKind f)) (portUnit p) 0
      (BitVec.ofNat 48 va) 0 s.timeNs) (fabReplace p f { f with waits := true } s)
  | .bad _ => refuse p f 4 s
  | .poisoned => refuse p f 4 s

/-- The first scalar access of a tile that waits for a walk, with its place. -/
def tileNeeds (s : State) (t : TileId) (ctx : CtxId) (va : Word) (k : AccessKind) : Option (ScalarPos × QEntry) :=
  [ScalarPos.load, ScalarPos.store, ScalarPos.log].findSome? fun p => (scalarNeeds s t p ctx va k).map fun e => (p, e)

/-- `PAGE_WALK` (R275, R280): a unit walks for what waits on the page; none while it is out of step (R279). -/
def execPageWalk (u : XUnit) (ctx : CtxId) (va : Word) (k : AccessKind) (s : State) : Out :=
  let byCmd (s : State) : State :=
    match cmdNeeds s u ctx va.toNat k with
    | some (c, a) => walkCmd c a k s
    | none => s
  slotDone (
    if unitOut s u then s
    else match u with
      | .tile t =>
        match tileNeeds s t ctx va k with
        | some (p, e) => walkScalar t p e s
        | none => byCmd s
      | .gather _ => byCmd s
      | .fabric p =>
        match reqNeeds s p ctx va.toNat k with
        | some (f, a) => walkReq p f ctx a s
        | none => s
      | _ => s)

/-! ### Renewal (R278) -/

/-- `LEASE_RENEWAL` (R278): at the point at which the command next needs its entries. -/
def execLeaseRenewal (id : Nat) (s : State) : Out :=
  slotDone (match s.cmd? id with
    | none => s
    | some c =>
      if c.phase ≠ .running then s
      else renewBeat c s)

/-! ### Paging replies (R351) -/

/-- Whether a waiting access is one of a context and page. -/
def entryOn (ctx : CtxId) (page : BitVec 32) (e : QEntry) : Bool := e.waits && e.ctx == ctx && field e.va 16 32 == page

/-- A list of accesses with those of the page no longer waiting. -/
def wakeEntries (ctx : CtxId) (page : BitVec 32) (l : List QEntry) : List QEntry :=
  l.map fun e => if entryOn ctx page e then { e with waits := false } else e

def wakeTask (ctx : CtxId) (page : BitVec 32) (k : Task) : Task := { k with loadQ := wakeEntries ctx page k.loadQ }

def wakeTile (ctx : CtxId) (page : BitVec 32) (x : Tile) : Tile :=
  { x with task := wakeTask ctx page x.task, storeQ := wakeEntries ctx page x.storeQ
           sideLog := wakeEntries ctx page x.sideLog }

/-- Whether a held fault is a page fault of a context and page. -/
def isPageFault (ctx : CtxId) (page : BitVec 32) (e : BitVec 256) : Bool :=
  field e 0 8 == 0x30 && field e 8 6 == ctx && field e 80 32 == page

/-- Requests of a port's engine that wait for the page go on. -/
def wakeReq (s : State) (p : BitVec 5) (ctx : CtxId) (page : BitVec 32) (f : FabReq) : FabReq :=
  match reqPage s p f with
  | some (c, a) => if c = ctx ∧ a / 65536 = page.toNat then { f with waits := false } else f
  | none => f

/-- A MAPPED reply (R351): every walk of the die that waits on the page is retried. -/
def replyMapped (die : BitVec 1) (ctx : CtxId) (page : BitVec 32) (s : State) : State :=
  let v : Word := BitVec.ofNat 64 (packNat [(ctx.toNat, 6), (0, 10), (page.toNat, 32)])
  { s.modDie die fun d => { d with fqHeld := d.fqHeld.filter fun e => !isPageFault ctx page e, reply := v } with
    tiles := Vector.ofFn fun i : Fin 256 =>
      if tileDie (BitVec.ofNat 8 i.val) = die then wakeTile ctx page s.tiles[i] else s.tiles[i]
    queues := s.queues.map fun q =>
      if qDie q.desc = die then { q with resume := q.resume.map (modSusp (wakeTask ctx page)) } else q
    cmds := s.cmds.map fun c =>
      if unitDie (cmdXUnit c) = die ∧ c.pageWait ∧ c.ctx = ctx ∧ field c.fva 16 32 = page then
        { c with pageWait := false } else c
    ports := Vector.ofFn fun i : Fin 32 =>
      let x := s.ports[i]
      if i.val / 16 = die.toNat then { x with fab := x.fab.map (wakeReq s (BitVec.ofNat 5 i.val) ctx page) } else x }

/-- `PAGING_REPLY_MAPPED` (R351). -/
def execPagingReplyMapped (die : BitVec 1) (ctx : CtxId) (page : BitVec 32) (s : State) : Out :=
  slotDone (replyMapped die ctx page s)

/-- A tile without the waiting accesses of a context. -/
def abandonTile (ctx : CtxId) (x : Tile) : Tile :=
  abandonLog ctx { x with storeQ := x.storeQ.filter fun e => !(e.waits && e.ctx == ctx) }

/-- A port without the waiting requests of a context. -/
def abandonPort (ctx : CtxId) (x : Port) : Port :=
  { x with fab := x.fab.filter fun f => !(f.waits && (f.checked.map fun c => c.1) == some ctx) }

/-- A FAIL reply (R351): the context ends, its waiting accesses are abandoned, and one entry names the page. -/
def replyFail (die : BitVec 1) (ctx : CtxId) (page : BitVec 32) (s : State) : State :=
  let v : Word := BitVec.ofNat 64 (packNat [(ctx.toNat, 6), (0, 2), (1, 1), (0, 7), (page.toNat, 32)])
  let s1 := endContext ctx 3 (s.modDie die fun d => { d with reply := v })
  enterFault die (faultEntry (causeCode .memExhausted) ctx 3 0x80 0 (page ++ (0 : BitVec 16)) 0 s.timeNs)
    { s1 with tiles := s1.tiles.map (abandonTile ctx), ports := s1.ports.map (abandonPort ctx) }

/-- `PAGING_REPLY_FAIL` (R351). -/
def execPagingReplyFail (die : BitVec 1) (ctx : CtxId) (page : BitVec 32) (s : State) : Out :=
  slotDone (replyFail die ctx page s)

/-- A write of the paging reply register (R351). -/
def writeReply (die : BitVec 1) (v : Word) (s : State) : State :=
  if bit v 8 then replyFail die (field v 0 6) (field v 16 32) s else replyMapped die (field v 0 6) (field v 16 32) s

end Sys2Proof.Machine
end

