-- ==== Sys2Proof/WellFormed.lean ====
section
/-! DEFINITION. Which instructions an encoding may carry: the operand limits that a field's width does not settle.
Parser words (R105), action words (R110), tile slots (R154 and the rules of the instructions). The steps of the
engines carry typed arguments and have no encoding to limit. -/

namespace Sys2Proof

/-- A field that a parser word may write: F32 to F127 (R105). -/
def parserDest (f : Nat) : Bool := decide (32 ≤ f ∧ f ≤ 127)

/-- A field that a field instruction, `AC.SRD` or `AC.SADD` may write: F8, F10, F12 to F29, F32 to F127 (R110). -/
def actionDest (f : Nat) : Bool :=
  decide (f = 8 ∨ f = 10 ∨ (12 ≤ f ∧ f ≤ 29) ∨ (32 ≤ f ∧ f ≤ 127))

/-- A predicate that a compare or predicate logic may write: P1 to P7 (R154). -/
def predDest (p : BitVec 3) : Bool := decide (p ≠ 0)

/-- A number in the map of Y-registers (R345). -/
def yRegister (n : BitVec 12) : Bool :=
  decide (n.toNat ≤ 0x007 ∨ (0x010 ≤ n.toNat ∧ n.toNat ≤ 0x013) ∨ (0x018 ≤ n.toNat ∧ n.toNat ≤ 0x027))

/-- The pair of fields of a stateful read: both may be written; a pair at F127 is left to R115's fault. -/
def pairDest (v : BitVec 7) : Bool :=
  actionDest v.toNat && (decide (v.toNat = 127) || actionDest (v.toNat + 1))

/-- The limits that an encoding's operands obey. -/
def Instr.wf : Instr → Bool
  -- parser words (R105)
  | .pExt d _ n _ => parserDest d.toNat && decide (d.toNat + n.toNat ≤ 127)
  | .pExtb d _ l w => parserDest d.toNat && decide (l.toNat + w.toNat + 1 ≤ 16)
  | .pSet d _ => parserDest d.toNat
  | .pAdv n => decide (n.toNat ≤ 256)
  | .pAdvf _ l w _ => decide (l.toNat + w.toNat + 1 ≤ 16)
  | .pPayld n => decide (n.toNat ≤ 256)
  -- action words (R110)
  | .acMov d _ => actionDest d.toNat
  | .acAdd d _ _ _ => actionDest d.toNat
  | .acSub d _ _ _ => actionDest d.toNat
  | .acAnd d _ _ => actionDest d.toNat
  | .acOr d _ _ => actionDest d.toNat
  | .acXor d _ _ => actionDest d.toNat
  | .acShl d _ w => actionDest d.toNat && decide (w.toNat ≤ 15)
  | .acShr d _ w => actionDest d.toNat && decide (w.toNat ≤ 15)
  | .acMin d _ _ => actionDest d.toNat
  | .acMax d _ _ => actionDest d.toNat
  | .acSlt d _ _ => actionDest d.toNat
  | .acMovi d _ => actionDest d.toNat
  | .acAddi d _ _ => actionDest d.toNat
  | .acAndi d _ _ => actionDest d.toNat
  | .acOri d _ _ => actionDest d.toNat
  | .acMovh d _ => actionDest d.toNat
  | .acSeqi d _ _ => actionDest d.toNat
  | .acSkipz _ n => decide (1 ≤ n.toNat)
  | .acSkipnz _ n => decide (1 ≤ n.toNat)
  | .acLdd d o _ n =>
    (List.range (n.toNat + 1)).all (fun i => decide (127 < d.toNat + i) || actionDest (d.toNat + i))
      && decide (o.toNat % 2 = 0) && decide (o.toNat + 2 * (n.toNat + 1) ≤ 56)
  | .acHit d _ => actionDest d.toNat
  | .acSrd _ _ v _ => pairDest v
  | .acSadd _ _ v _ => pairDest v
  | .acArrive _ a _ one => !one || decide (a = 0)
  | .acPayWrite _ _ v dlv arr => decide (v = 0) || dlv || arr
  | .acPayAddw _ _ v dlv arr => decide (v = 0) || dlv || arr
  | .acPayAdds _ _ v dlv arr => decide (v = 0) || dlv || arr
  | .acPayAddf _ _ v dlv arr => decide (v = 0) || dlv || arr
  -- tile slots (R154)
  | .cmpeq d _ _ => predDest d
  | .cmpne d _ _ => predDest d
  | .cmplt d _ _ => predDest d
  | .cmpltu d _ _ => predDest d
  | .cmple d _ _ => predDest d
  | .cmpleu d _ _ => predDest d
  | .cmpeqi d _ _ => predDest d
  | .cmplti d _ _ => predDest d
  | .cmplei d _ _ => predDest d
  | .pand d _ _ => predDest d
  | .por d _ _ => predDest d
  | .pxor d _ _ => predDest d
  | .pnot d _ => predDest d
  | .fcmpeq d _ _ => predDest d
  | .fcmplt d _ _ => predDest d
  | .fcmple d _ _ => predDest d
  | .srd _ y => yRegister y                                                     -- R345
  | .swr _ y => yRegister y
  | .enq _ _ b => decide (b.toNat ≤ 61)                                         -- R207
  | .spawnv _ _ b => decide (b.toNat ≤ 62)
  | .amoGAcq o d _ _ => decide (o ≠ .cas ∨ d.toNat ≤ 62)                        -- R285
  | .amoGRel o d _ _ => decide (o ≠ .cas ∨ d.toNat ≤ 62)
  | .amoGAr o d _ _ => decide (o ≠ .cas ∨ d.toNat ≤ 62)
  | .loop _ imm => decide (imm ≠ 0)                                               -- R185
  | .loopSwp _ _ imm => decide (imm ≠ 0)
  | .hrd d _ => decide (d.toNat ≤ 62)                                           -- R288
  | .vplane _ _ pl _ => decide (2 ≤ pl.toNat ∧ pl.toNat ≤ 8)                    -- R233
  | .vscale _ _ _ b => decide (b.toNat ≤ 62)                                    -- R231
  | .mmul d m => decide (d.toNat + m.toNat + 1 ≤ 64)                            -- R248
  | .mmac d m => decide (d.toNat + m.toNat + 1 ≤ 64)
  | .mmulMid d m => decide (d.toNat + m.toNat + 1 ≤ 64)
  | .mmacMid d m => decide (d.toNat + m.toNat + 1 ≤ 64)
  | .mregroup d _ b => decide (b.toNat ≤ 62 ∧ d ≠ b ∧ d.toNat ≠ b.toNat + 1)     -- R256
  | _ => true

end Sys2Proof
end

