-- ==== Sys2Proof/Decode.lean ====
section
/-! DEFINITION. The three instruction encodings and their inverse: parser words (R100, R105), action words (R108 to
R110), tile slots (R153, R154, R157, R160 to R168) by the rows of opcode map 0, each total and rejecting by name; then
the encoder. -/

namespace Sys2Proof

open Machine (field bit b2v b2n)

/-! ### The instruction word of a tile slot (R153) -/

/-- The fields of a slot but its stop bit. -/
structure Fields where
  opc : BitVec 10
  pred : BitVec 3
  d : BitVec 6
  a : BitVec 6
  b : BitVec 6
  deriving DecidableEq, Repr

/-- STOP (R153). -/
def slotStop (w : BitVec 32) : Bool := bit w 31

/-- The fields of a word (R153). -/
def splitWord (w : BitVec 32) : Fields := ⟨field w 21 10, field w 18 3, field w 12 6, field w 6 6, field w 0 6⟩

/-- The word of a stop bit and fields (R153). -/
def joinWord (stop : Bool) (f : Fields) : BitVec 32 := b2v 1 stop ++ f.opc ++ f.pred ++ f.d ++ f.a ++ f.b

/-- imm12 (R153). -/
def Fields.imm12 (f : Fields) : BitVec 12 := f.a ++ f.b

/-- imm18 (R153). -/
def Fields.imm18 (f : Fields) : BitVec 18 := f.d ++ f.a ++ f.b

/-- Why a word is not an instruction (R168). -/
inductive EncErr where
  | illegalOpcode | reservedField | illegalOperand
  deriving DecidableEq, Repr

/-- Format codes of R153. -/
inductive Fmt where
  | rrr | rri | rl | j | c
  deriving DecidableEq, Repr

def fmtCode : Fmt → Nat
  | .rrr => 0 | .rri => 1 | .rl => 2 | .j => 3 | .c => 4

/-! ### Operand ranges (R154, R157) -/

def zext6 {n : Nat} (x : BitVec n) : BitVec 6 := x.setWidth 6
def hi6 (x : BitVec 12) : BitVec 6 := field x 6 6
def lo6 (x : BitVec 12) : BitVec 6 := field x 0 6

/-- The low bits of x where the rest is zero. -/
def lowBits (n : Nat) {m : Nat} (x : BitVec m) : Option (BitVec n) :=
  if x.toNat < 2 ^ n then some (x.setWidth n) else none

def aReg (x : BitVec 6) : Option (BitVec 5) := lowBits 5 x
def hReg (x : BitVec 6) : Option (BitVec 4) := lowBits 4 x
def low4 (x : BitVec 6) : Option (BitVec 4) := lowBits 4 x
def pReg (x : BitVec 6) : Option (BitVec 3) := lowBits 3 x
def lcReg (x : BitVec 6) : Option (BitVec 2) := lowBits 2 x
def low10 (x : BitVec 12) : Option (BitVec 10) := lowBits 10 x
def low7 (x : BitVec 12) : Option (BitVec 7) := lowBits 7 x
def low6 (x : BitVec 12) : Option (BitVec 6) := lowBits 6 x
def low4of12 (x : BitVec 12) : Option (BitVec 4) := lowBits 4 x
def low3of12 (x : BitVec 12) : Option (BitVec 3) := lowBits 3 x

/-- A scope code, 0 to 5 (R26, R154). -/
def scopeOf (x : BitVec 6) : Option Scope :=
  match x.toNat with
  | 0 => some .tile | 1 => some .clus | 2 => some .die | 3 => some .pkg | 4 => some .sys | 5 => some .fab | _ => none

def scopeCode : Scope → BitVec 6
  | .tile => 0 | .clus => 1 | .die => 2 | .pkg => 3 | .sys => 4 | .fab => 5

/-- A token field: 0 for none, 32 + k for Kk (R157). -/
def tokOf (x : BitVec 6) : Option (Option (BitVec 5)) :=
  if x = 0 then some none else if 32 ≤ x.toNat then some (some (x.setWidth 5)) else none

def tokCode : Option (BitVec 5) → BitVec 6
  | none => 0
  | some k => (1 : BitVec 1) ++ k

/-! ### Indices in opcodes (R160, R164) -/

def rOf : Nat → RMode | 0 => .rne | 1 => .rz | 2 => .rd | _ => .ru
def rIdx : RMode → Nat | .rne => 0 | .rz => 1 | .rd => 2 | .ru => 3
def tOf : Nat → ITy | 0 => .i32 | 1 => .i16 | 2 => .i8 | 3 => .i4 | 4 => .n32 | 5 => .n16 | 6 => .n8 | _ => .n4
def tIdx : ITy → Nat | .i32 => 0 | .i16 => 1 | .i8 => 2 | .i4 => 3 | .n32 => 4 | .n16 => 5 | .n8 => 6 | .n4 => 7
def wOf : Nat → IWidth | 0 => .w32 | 1 => .w16 | 2 => .w8 | _ => .w4
def wIdx : IWidth → Nat | .w32 => 0 | .w16 => 1 | .w8 => 2 | .w4 => 3
def fOf : Nat → FTy | 0 => .f32 | _ => .bf16
def fIdx : FTy → Nat | .f32 => 0 | .bf16 => 1
def eOf : Nat → ETy | 0 => .fp16 | 1 => .e4m3 | _ => .e5m2
def eIdx : ETy → Nat | .fp16 => 0 | .e4m3 => 1 | .e5m2 => 2
def sizeOf : Nat → MemSize | 0 => .b | 1 => .h | 2 => .w | _ => .d
def sizeIdx : MemSize → Nat | .b => 0 | .h => 1 | .w => 2 | .d => 3
def amoOf : Nat → AmoOp
  | 0 => .add | 1 => .and | 2 => .or | 3 => .xor | 4 => .min | 5 => .max | 6 => .swap | _ => .cas
def amoIdx : AmoOp → Nat
  | .add => 0 | .and => 1 | .or => 2 | .xor => 3 | .min => 4 | .max => 5 | .swap => 6 | .cas => 7

/-- The conversion-only forms at k of 0x220 + 4e + k (R165). -/
def eForm (k : Nat) (e : ETy) (d a b : BitVec 6) : Instr :=
  match k with
  | 0 => .vaddE e d a b | 1 => .vsubE e d a b | 2 => .vmulE e d a b | _ => .vfmaE e d a b

/-- The float compares (R165). -/
def cmpForm (k : Nat) (f : FTy) (d a b : BitVec 6) : Instr :=
  match k with
  | 0 => .vcmpeqF f d a b | 1 => .vcmpltF f d a b | _ => .vcmpleF f d a b

/-- The forms of `MCLR` by mask (R252). -/
def mclrForm (m : BitVec 3) : Option Instr :=
  if bit m 0 then some (.mclrW (bit m 1) (bit m 2))
  else if bit m 1 then some (.mclrRb (bit m 2))
  else if bit m 2 then some .mclrCfg
  else none

/-! ### Opcode map 0 (R160 to R166) -/

/-- One row of the opcode tables: its opcodes, its format, what must be zero (R154), and the instruction of the k-th
opcode; none where an operand is out of range. -/
structure OpRow where
  base : Nat
  count : Nat
  fmt : Fmt
  zero : Fields → Bool
  build : Nat → Fields → Option Instr

/-- Fields that a row does not use are zero; PRED is one where the instruction may not be predicated (R154). -/
def zeroBut (p d a b : Bool) (f : Fields) : Bool :=
  (p || f.pred == 0) && (d || f.d == 0) && (a || f.a == 0) && (b || f.b == 0)

/-- The bits of `RELB` that raise the reserved-field cause (R145). -/
def relbZero (f : Fields) : Bool :=
  f.d == 0 && field f.imm12 9 3 == 0 && (!bit f.imm12 8 || field f.imm12 4 4 == 0)

def onlyNone : Fields → Bool := zeroBut false false false false
def onlyB : Fields → Bool := zeroBut false false false true
def onlyDAB : Fields → Bool := zeroBut false true true true
def onlyP : Fields → Bool := zeroBut true false false false
def onlyPA : Fields → Bool := zeroBut true false true false
def onlyPAB : Fields → Bool := zeroBut true false true true
def onlyPB : Fields → Bool := zeroBut true false false true
def onlyPD : Fields → Bool := zeroBut true true false false
def onlyPDA : Fields → Bool := zeroBut true true true false
def onlyPDAB : Fields → Bool := zeroBut true true true true

/-- R161: S integer and scalar FP. -/
def pageS0 : List OpRow := [
  ⟨0x0, 1, .rrr, onlyPDAB, fun _ f => some (.add f.d f.a f.b)⟩,
  ⟨0x1, 1, .rrr, onlyPDAB, fun _ f => some (.sub f.d f.a f.b)⟩,
  ⟨0x2, 1, .rrr, onlyPDAB, fun _ f => some (.and f.d f.a f.b)⟩,
  ⟨0x3, 1, .rrr, onlyPDAB, fun _ f => some (.or f.d f.a f.b)⟩,
  ⟨0x4, 1, .rrr, onlyPDAB, fun _ f => some (.xor f.d f.a f.b)⟩,
  ⟨0x5, 1, .rrr, onlyPDAB, fun _ f => some (.sll f.d f.a f.b)⟩,
  ⟨0x6, 1, .rrr, onlyPDAB, fun _ f => some (.srl f.d f.a f.b)⟩,
  ⟨0x7, 1, .rrr, onlyPDAB, fun _ f => some (.sra f.d f.a f.b)⟩,
  ⟨0x8, 1, .rrr, onlyPDAB, fun _ f => some (.min f.d f.a f.b)⟩,
  ⟨0x9, 1, .rrr, onlyPDAB, fun _ f => some (.max f.d f.a f.b)⟩,
  ⟨0xa, 1, .rrr, onlyPDAB, fun _ f => some (.minu f.d f.a f.b)⟩,
  ⟨0xb, 1, .rrr, onlyPDAB, fun _ f => some (.maxu f.d f.a f.b)⟩,
  ⟨0xc, 1, .rrr, onlyPDAB, fun _ f => some (.mul f.d f.a f.b)⟩,
  ⟨0xd, 1, .rrr, onlyPDAB, fun _ f => some (.mulh f.d f.a f.b)⟩,
  ⟨0xe, 1, .rrr, onlyPDAB, fun _ f => some (.mulhu f.d f.a f.b)⟩,
  ⟨0xf, 1, .rrr, onlyPDAB, fun _ f => some (.div f.d f.a f.b)⟩,
  ⟨0x10, 1, .rrr, onlyPDAB, fun _ f => some (.divu f.d f.a f.b)⟩,
  ⟨0x11, 1, .rrr, onlyPDAB, fun _ f => some (.rem f.d f.a f.b)⟩,
  ⟨0x12, 1, .rrr, onlyPDAB, fun _ f => some (.remu f.d f.a f.b)⟩,
  ⟨0x20, 1, .rri, onlyPDAB, fun _ f => some (.addi f.d f.a f.b)⟩,
  ⟨0x21, 1, .rri, onlyPDAB, fun _ f => some (.andi f.d f.a f.b)⟩,
  ⟨0x22, 1, .rri, onlyPDAB, fun _ f => some (.ori f.d f.a f.b)⟩,
  ⟨0x23, 1, .rri, onlyPDAB, fun _ f => some (.xori f.d f.a f.b)⟩,
  ⟨0x24, 1, .rri, onlyPDAB, fun _ f => some (.slli f.d f.a f.b)⟩,
  ⟨0x25, 1, .rri, onlyPDAB, fun _ f => some (.srli f.d f.a f.b)⟩,
  ⟨0x26, 1, .rri, onlyPDAB, fun _ f => some (.srai f.d f.a f.b)⟩,
  ⟨0x28, 1, .rl, onlyPDAB, fun _ f => some (.movi f.d f.imm12)⟩,
  ⟨0x29, 1, .rl, onlyPDAB, fun _ f => some (.movk f.d f.imm12)⟩,
  ⟨0x30, 1, .rrr, onlyPDAB, fun _ f => do let d ← pReg f.d; pure (.cmpeq d f.a f.b)⟩,
  ⟨0x31, 1, .rrr, onlyPDAB, fun _ f => do let d ← pReg f.d; pure (.cmpne d f.a f.b)⟩,
  ⟨0x32, 1, .rrr, onlyPDAB, fun _ f => do let d ← pReg f.d; pure (.cmplt d f.a f.b)⟩,
  ⟨0x33, 1, .rrr, onlyPDAB, fun _ f => do let d ← pReg f.d; pure (.cmpltu d f.a f.b)⟩,
  ⟨0x34, 1, .rrr, onlyPDAB, fun _ f => do let d ← pReg f.d; pure (.cmple d f.a f.b)⟩,
  ⟨0x35, 1, .rrr, onlyPDAB, fun _ f => do let d ← pReg f.d; pure (.cmpleu d f.a f.b)⟩,
  ⟨0x38, 1, .rri, onlyPDAB, fun _ f => do let d ← pReg f.d; pure (.cmpeqi d f.a f.b)⟩,
  ⟨0x39, 1, .rri, onlyPDAB, fun _ f => do let d ← pReg f.d; pure (.cmplti d f.a f.b)⟩,
  ⟨0x3a, 1, .rri, onlyPDAB, fun _ f => do let d ← pReg f.d; pure (.cmplei d f.a f.b)⟩,
  ⟨0x3c, 1, .rrr, onlyPDAB, fun _ f => do let d ← pReg f.d; let a ← pReg f.a; let b ← pReg f.b; pure (.pand d a b)⟩,
  ⟨0x3d, 1, .rrr, onlyPDAB, fun _ f => do let d ← pReg f.d; let a ← pReg f.a; let b ← pReg f.b; pure (.por d a b)⟩,
  ⟨0x3e, 1, .rrr, onlyPDAB, fun _ f => do let d ← pReg f.d; let a ← pReg f.a; let b ← pReg f.b; pure (.pxor d a b)⟩,
  ⟨0x3f, 1, .rrr, onlyPDA, fun _ f => do let d ← pReg f.d; let a ← pReg f.a; pure (.pnot d a)⟩,
  ⟨0x40, 4, .rrr, onlyPDAB, fun k f => some (.fadd (rOf k) f.d f.a f.b)⟩,
  ⟨0x44, 4, .rrr, onlyPDAB, fun k f => some (.fsub (rOf k) f.d f.a f.b)⟩,
  ⟨0x48, 4, .rrr, onlyPDAB, fun k f => some (.fmul (rOf k) f.d f.a f.b)⟩,
  ⟨0x4c, 4, .rrr, onlyPDAB, fun k f => some (.fdiv (rOf k) f.d f.a f.b)⟩,
  ⟨0x50, 4, .rrr, onlyPDAB, fun k f => some (.fma (rOf k) f.d f.a f.b)⟩,
  ⟨0x54, 4, .rrr, onlyPDA, fun k f => some (.fsqrt (rOf k) f.d f.a)⟩,
  ⟨0x58, 1, .rrr, onlyPDAB, fun _ f => some (.fmin f.d f.a f.b)⟩,
  ⟨0x59, 1, .rrr, onlyPDAB, fun _ f => some (.fmax f.d f.a f.b)⟩,
  ⟨0x5a, 1, .rrr, onlyPDAB, fun _ f => do let d ← pReg f.d; pure (.fcmpeq d f.a f.b)⟩,
  ⟨0x5b, 1, .rrr, onlyPDAB, fun _ f => do let d ← pReg f.d; pure (.fcmplt d f.a f.b)⟩,
  ⟨0x5c, 1, .rrr, onlyPDAB, fun _ f => do let d ← pReg f.d; pure (.fcmple d f.a f.b)⟩,
  ⟨0x60, 4, .rrr, onlyPDA, fun k f => some (.fcvtI64 (rOf k) f.d f.a)⟩,
  ⟨0x64, 4, .rrr, onlyPDA, fun k f => some (.cvtF32 (rOf k) f.d f.a)⟩]

/-- R162: S control, global memory, synchronisation and system. -/
def pageS1 : List OpRow := [
  ⟨0x80, 1, .j, onlyPDAB, fun _ f => some (.br f.imm18)⟩,
  ⟨0x81, 1, .j, onlyPDAB, fun _ f => some (.brN f.imm18)⟩,
  ⟨0x82, 1, .j, onlyPDAB, fun _ f => some (.call f.imm18)⟩,
  ⟨0x83, 1, .rrr, onlyPA, fun _ f => do let a ← aReg f.a; pure (.jr a)⟩,
  ⟨0x84, 1, .j, onlyPDAB, fun _ f => some (.bswap f.imm18)⟩,
  ⟨0x85, 1, .rrr, onlyNone, fun _ _ => some (.ifence)⟩,
  ⟨0x86, 1, .rl, onlyPAB, fun _ f => some (.nopn f.imm12)⟩,
  ⟨0x87, 1, .j, onlyDAB, fun _ f => some (.yield f.imm18)⟩,
  ⟨0x88, 1, .rrr, onlyP, fun _ _ => some (.endTask)⟩,
  ⟨0x89, 1, .rl, onlyPAB, fun _ f => do let n ← low4of12 f.imm12; pure (.trap n)⟩,
  ⟨0x8a, 1, .rrr, onlyB, fun _ f => if f.b = 0 then some .eret else if f.b = 1 then some .eretSkip else if f.b = 2 then some .eretRaise else none⟩,
  ⟨0x8b, 1, .rl, onlyPDAB, fun _ f => some (.srd f.d f.imm12)⟩,
  ⟨0x8c, 1, .rl, onlyPDAB, fun _ f => some (.swr f.d f.imm12)⟩,
  ⟨0x8d, 1, .rrr, onlyPDAB, fun _ f => some (.enq f.d f.a f.b)⟩,
  ⟨0x8e, 1, .rrr, onlyPDAB, fun _ f => some (.spawnv f.d f.a f.b)⟩,
  ⟨0x8f, 1, .rrr, onlyNone, fun _ _ => some (.nop)⟩,
  ⟨0x90, 4, .rri, onlyPDAB, fun k f => some (.ldG (sizeOf k) f.d f.a f.b)⟩,
  ⟨0x94, 4, .rri, onlyPDAB, fun k f => some (.stG (sizeOf k) f.d f.a f.b)⟩,
  ⟨0x98, 1, .rri, onlyPDAB, fun _ f => do let sc ← scopeOf f.b; pure (.ldGAcq f.d f.a sc)⟩,
  ⟨0x99, 1, .rri, onlyPDAB, fun _ f => do let sc ← scopeOf f.b; pure (.stGRel f.d f.a sc)⟩,
  ⟨0xa0, 1, .rrr, onlyP, fun _ _ => some (.qmark)⟩,
  ⟨0xa1, 1, .rri, onlyPB, fun _ f => do let sc ← scopeOf f.b; pure (.fence sc)⟩,
  ⟨0xa8, 8, .rrr, onlyPDAB, fun k f => some (.amoG (amoOf k) f.d f.a f.b)⟩,
  ⟨0xb0, 8, .rri, onlyPDAB, fun k f => do let sc ← scopeOf f.b; pure (.amoGAcq (amoOf k) f.d f.a sc)⟩,
  ⟨0xb8, 8, .rri, onlyPDAB, fun k f => do let sc ← scopeOf f.b; pure (.amoGRel (amoOf k) f.d f.a sc)⟩,
  ⟨0xc0, 8, .rri, onlyPDAB, fun k f => do let sc ← scopeOf f.b; pure (.amoGAr (amoOf k) f.d f.a sc)⟩,
  ⟨0xc8, 1, .rl, relbZero, fun _ f => if bit f.imm12 8 then some (.relbFree (field f.imm12 0 4)) else some (.relb (field f.imm12 0 4) (field f.imm12 4 4))⟩,
  ⟨0xc9, 1, .rrr, onlyPDA, fun _ f => some (.arrive f.d f.a)⟩,
  ⟨0xca, 1, .rri, onlyPDAB, fun _ f => do let sc ← scopeOf f.b; pure (.arriveRel f.d f.a sc)⟩,
  ⟨0xcb, 1, .rri, onlyPDAB, fun _ f => do let sc ← scopeOf f.b; pure (.waitc f.d f.a sc)⟩,
  ⟨0xcc, 1, .rrr, onlyPDAB, fun _ f => some (.expect f.d f.a f.b)⟩]

/-- R163: A. -/
def pageA : List OpRow := [
  ⟨0x100, 1, .rrr, onlyPDAB, fun _ f => do let d ← aReg f.d; let a ← aReg f.a; let b ← aReg f.b; pure (.aadd d a b)⟩,
  ⟨0x101, 1, .rrr, onlyPDAB, fun _ f => do let d ← aReg f.d; let a ← aReg f.a; let b ← aReg f.b; pure (.asub d a b)⟩,
  ⟨0x102, 1, .rri, onlyPDAB, fun _ f => do let d ← aReg f.d; let a ← aReg f.a; pure (.aaddi d a f.b)⟩,
  ⟨0x103, 1, .rl, onlyPDAB, fun _ f => do let d ← aReg f.d; pure (.amovi d f.imm12)⟩,
  ⟨0x104, 1, .rrr, onlyPDA, fun _ f => do let d ← aReg f.d; pure (.amovs d f.a)⟩,
  ⟨0x105, 1, .rrr, onlyPDA, fun _ f => do let a ← aReg f.a; pure (.smova f.d a)⟩,
  ⟨0x106, 1, .rri, onlyPDAB, fun _ f => do let d ← aReg f.d; let a ← aReg f.a; pure (.ashli d a f.b)⟩,
  ⟨0x107, 1, .rri, onlyPDAB, fun _ f => do let d ← aReg f.d; let a ← aReg f.a; let j ← low4 f.b; pure (.areg d a j)⟩,
  ⟨0x108, 1, .rrr, onlyPDAB, fun _ f => do let d ← aReg f.d; let a ← aReg f.a; pure (.anode d a f.b)⟩,
  ⟨0x110, 1, .rrr, onlyPDA, fun _ f => do let d ← lcReg f.d; pure (.lcset d f.a)⟩,
  ⟨0x111, 1, .rl, onlyDAB, fun _ f => do let n ← lcReg f.d; pure (.loop n f.imm12)⟩,
  ⟨0x112, 1, .rl, onlyDAB, fun _ f => do let ns ← low4 f.d; pure (.loopSwp (field ns 0 2) (field ns 2 2) f.imm12)⟩,
  ⟨0x113, 1, .rrr, onlyPDA, fun _ f => do let a ← lcReg f.a; pure (.lcrd f.d a)⟩,
  ⟨0x118, 1, .rl, onlyPDAB, fun _ f => do let idx ← low10 f.imm12; pure (.spld f.d idx)⟩,
  ⟨0x119, 1, .rl, onlyPDAB, fun _ f => do let idx ← low10 f.imm12; pure (.spst f.d idx)⟩,
  ⟨0x11a, 1, .rl, onlyPDAB, fun _ f => do let d ← aReg f.d; let idx ← low10 f.imm12; pure (.spldA d idx)⟩,
  ⟨0x11b, 1, .rl, onlyPDAB, fun _ f => do let d ← aReg f.d; let idx ← low10 f.imm12; pure (.spstA d idx)⟩,
  ⟨0x120, 1, .rrr, onlyPDA, fun _ f => do let h ← hReg f.d; let a ← aReg f.a; pure (.hset h a)⟩,
  ⟨0x121, 1, .rrr, onlyPDAB, fun _ f => do let h ← hReg f.a; pure (.halloc f.d h f.b)⟩,
  ⟨0x122, 1, .rrr, onlyPAB, fun _ f => do let h ← hReg f.a; pure (.hpub h f.b)⟩,
  ⟨0x123, 1, .rrr, onlyPAB, fun _ f => do let h ← hReg f.a; pure (.hadv h f.b)⟩,
  ⟨0x124, 1, .rrr, onlyPDA, fun _ f => do let h ← hReg f.a; pure (.hrd f.d h)⟩,
  ⟨0x17f, 1, .rrr, onlyNone, fun _ _ => some (.anop)⟩]

/-- R164: V page 0. -/
def pageV0 : List OpRow := [
  ⟨0x180, 16, .rrr, onlyPDAB, fun k f => some (.vaddInt (tOf (k / 2)) (k % 2 == 1) f.d f.a f.b)⟩,
  ⟨0x190, 16, .rrr, onlyPDAB, fun k f => some (.vsubInt (tOf (k / 2)) (k % 2 == 1) f.d f.a f.b)⟩,
  ⟨0x1a0, 16, .rrr, onlyPDAB, fun k f => some (.vmulInt (tOf (k / 2)) (k % 2 == 1) f.d f.a f.b)⟩,
  ⟨0x1b0, 8, .rrr, onlyPDAB, fun k f => some (.vmin (tOf k) f.d f.a f.b)⟩,
  ⟨0x1b8, 8, .rrr, onlyPDAB, fun k f => some (.vmax (tOf k) f.d f.a f.b)⟩,
  ⟨0x1c0, 4, .rrr, onlyPDAB, fun k f => some (.vshl (wOf k) f.d f.a f.b)⟩,
  ⟨0x1c4, 1, .rrr, onlyPDAB, fun _ f => do let a ← aReg f.a; pure (.vld f.d a f.b)⟩,
  ⟨0x1c5, 1, .rrr, onlyPDA, fun _ f => do let a ← aReg f.a; pure (.vst f.d a)⟩,
  ⟨0x1c6, 1, .rrr, onlyPDAB, fun _ f => do let a ← aReg f.a; let b ← aReg f.b; pure (.vlds f.d a b)⟩,
  ⟨0x1c7, 1, .rrr, onlyPDAB, fun _ f => do let a ← aReg f.a; let b ← aReg f.b; pure (.vsts f.d a b)⟩,
  ⟨0x1c8, 8, .rrr, onlyPDAB, fun k f => some (.vshr (tOf k) f.d f.a f.b)⟩,
  ⟨0x1d0, 4, .rrr, onlyPDAB, fun k f => some (.vcmpeq (wOf k) f.d f.a f.b)⟩,
  ⟨0x1d4, 1, .rrr, onlyPDAB, fun _ f => do let a ← aReg f.a; pure (.vldx f.d a f.b)⟩,
  ⟨0x1d5, 1, .rrr, onlyPDAB, fun _ f => do let a ← aReg f.a; pure (.vstx f.d a f.b)⟩,
  ⟨0x1d8, 8, .rrr, onlyPDAB, fun k f => some (.vcmplt (tOf k) f.d f.a f.b)⟩,
  ⟨0x1e0, 8, .rrr, onlyPDAB, fun k f => some (.vcmple (tOf k) f.d f.a f.b)⟩,
  ⟨0x1e8, 16, .rrr, onlyPDA, fun k f => some (.vredsum (tOf (k / 2)) (k % 2 == 1) f.d f.a)⟩,
  ⟨0x1f8, 1, .rrr, onlyPDAB, fun _ f => some (.vand f.d f.a f.b)⟩,
  ⟨0x1f9, 1, .rrr, onlyPDAB, fun _ f => some (.vor f.d f.a f.b)⟩,
  ⟨0x1fa, 1, .rrr, onlyPDAB, fun _ f => some (.vxor f.d f.a f.b)⟩,
  ⟨0x1fb, 1, .rrr, onlyPDA, fun _ f => some (.vnot f.d f.a)⟩,
  ⟨0x1fc, 1, .rrr, onlyPDAB, fun _ f => some (.vsel f.d f.a f.b)⟩,
  ⟨0x1fd, 1, .rrr, onlyPDA, fun _ f => some (.vmov f.d f.a)⟩,
  ⟨0x1fe, 1, .rrr, onlyNone, fun _ _ => some (.vnop)⟩]

/-- R165: V page 1. -/
def pageV1 : List OpRow := [
  ⟨0x200, 8, .rrr, onlyPDAB, fun k f => some (.vaddF (fOf (k / 4)) (rOf (k % 4)) f.d f.a f.b)⟩,
  ⟨0x208, 8, .rrr, onlyPDAB, fun k f => some (.vsubF (fOf (k / 4)) (rOf (k % 4)) f.d f.a f.b)⟩,
  ⟨0x210, 8, .rrr, onlyPDAB, fun k f => some (.vmulF (fOf (k / 4)) (rOf (k % 4)) f.d f.a f.b)⟩,
  ⟨0x218, 8, .rrr, onlyPDAB, fun k f => some (.vfmaF (fOf (k / 4)) (rOf (k % 4)) f.d f.a f.b)⟩,
  ⟨0x220, 12, .rrr, onlyPDAB, fun k f => some (eForm (k % 4) (eOf (k / 4)) f.d f.a f.b)⟩,
  ⟨0x22c, 4, .rrr, onlyPDAB, fun k f => some (if k % 2 = 0 then .vminF (fOf (k / 2)) f.d f.a f.b else .vmaxF (fOf (k / 2)) f.d f.a f.b)⟩,
  ⟨0x230, 6, .rrr, onlyPDAB, fun k f => some (cmpForm (k % 3) (fOf (k / 3)) f.d f.a f.b)⟩,
  ⟨0x238, 4, .rrr, onlyPDA, fun k f => some (.vredsumF32 (rOf k) f.d f.a)⟩,
  ⟨0x23c, 1, .rrr, onlyPDA, fun _ f => some (.vredmaxF32 f.d f.a)⟩,
  ⟨0x23d, 1, .rrr, onlyPDA, fun _ f => some (.vargmaxF32 f.d f.a)⟩,
  ⟨0x23e, 1, .rrr, onlyPDA, fun _ f => some (.vredmaxI32 f.d f.a)⟩,
  ⟨0x23f, 1, .rrr, onlyPDA, fun _ f => some (.vargmaxI32 f.d f.a)⟩,
  ⟨0x240, 1, .rrr, onlyPDA, fun _ f => some (.vexp2 f.d f.a)⟩,
  ⟨0x241, 1, .rrr, onlyPDA, fun _ f => some (.vlog2 f.d f.a)⟩,
  ⟨0x242, 1, .rrr, onlyPDA, fun _ f => some (.vrcp f.d f.a)⟩,
  ⟨0x243, 1, .rrr, onlyPDA, fun _ f => some (.vrsq f.d f.a)⟩,
  ⟨0x244, 1, .rrr, onlyPDA, fun _ f => some (.vtanh f.d f.a)⟩,
  ⟨0x245, 1, .rrr, onlyPDA, fun _ f => some (.vsin f.d f.a)⟩,
  ⟨0x246, 1, .rrr, onlyPDA, fun _ f => some (.vbcastF32 f.d f.a)⟩,
  ⟨0x247, 1, .rrr, onlyPDA, fun _ f => some (.vbcastI32 f.d f.a)⟩,
  ⟨0x248, 1, .rrr, onlyPDAB, fun _ f => some (.vperm f.d f.a f.b)⟩,
  ⟨0x249, 1, .rrr, onlyPDAB, fun _ f => some (.vrot f.d f.a f.b)⟩,
  ⟨0x24a, 1, .rl, onlyPDAB, fun _ f => do let t ← low6 f.imm12; pure (.vretag f.d t)⟩,
  ⟨0x24b, 1, .rri, onlyPDAB, fun _ f => some (.vplane f.d f.a (field f.b 0 4) (field f.b 4 2))⟩,
  ⟨0x24c, 1, .rrr, onlyPDAB, fun _ f => some (.vptmask f.d f.a f.b)⟩,
  ⟨0x24d, 1, .rrr, onlyPDA, fun _ f => some (.viota f.d f.a)⟩,
  ⟨0x24e, 1, .rrr, onlyPDA, fun _ f => some (.vcvtI32Sat f.d f.a)⟩,
  ⟨0x24f, 1, .rrr, onlyPDA, fun _ f => some (.vcvtI32Wrap f.d f.a)⟩,
  ⟨0x250, 4, .rrr, onlyPDAB, fun k f => some (.vscale (rOf k) f.d f.a f.b)⟩,
  ⟨0x254, 4, .rri, onlyPDAB, fun k f => do let part ← pReg f.b; pure (.vcvtF32 (rOf k) f.d f.a part)⟩,
  ⟨0x258, 4, .rri, onlyPDAB, fun k f => do let part ← pReg f.b; pure (.vcvtBf16x2 (rOf k) f.d f.a part)⟩,
  ⟨0x25c, 4, .rri, onlyPDAB, fun k f => do let part ← pReg f.b; pure (.vcvtFp16 (rOf k) f.d f.a part)⟩,
  ⟨0x260, 4, .rri, onlyPDAB, fun k f => do let part ← pReg f.b; pure (.vcvtE4m3 (rOf k) f.d f.a part)⟩,
  ⟨0x264, 4, .rri, onlyPDAB, fun k f => do let part ← pReg f.b; pure (.vcvtE5m2 (rOf k) f.d f.a part)⟩,
  ⟨0x268, 8, .rri, onlyPDAB, fun k f => do let part ← pReg f.b; pure (.vcvtInt (tOf k) f.d f.a part)⟩,
  ⟨0x270, 8, .rri, onlyPDAB, fun k f => do let part ← pReg f.b; pure (.vcvtIntRz (tOf k) f.d f.a part)⟩]

/-- R166: M. -/
def pageM : List OpRow := [
  ⟨0x280, 1, .rrr, onlyPA, fun _ f => some (.mcfg f.a)⟩,
  ⟨0x281, 1, .rrr, onlyPDA, fun _ f => do let h ← hReg f.d; pure (.mloadb h f.a)⟩,
  ⟨0x282, 1, .rrr, onlyPDA, fun _ f => do let h ← hReg f.d; pure (.mloadbs h f.a)⟩,
  ⟨0x283, 1, .rl, onlyPDAB, fun _ f => do let h ← hReg f.d; let x ← low7 f.imm12; pure (.mfeed h (field x 0 6) (bit x 6))⟩,
  ⟨0x284, 1, .rrr, onlyPA, fun _ f => some (.mpush f.a)⟩,
  ⟨0x285, 1, .rl, onlyPDAB, fun _ f => do let m ← low6 f.imm12; pure (.mmul f.d m)⟩,
  ⟨0x286, 1, .rl, onlyPDAB, fun _ f => do let m ← low6 f.imm12; pure (.mmac f.d m)⟩,
  ⟨0x287, 1, .rl, onlyPDAB, fun _ f => do let m ← low6 f.imm12; pure (.mmulMid f.d m)⟩,
  ⟨0x288, 1, .rl, onlyPDAB, fun _ f => do let m ← low6 f.imm12; pure (.mmacMid f.d m)⟩,
  ⟨0x289, 1, .rrr, onlyPDAB, fun _ f => some (.mdesc f.d f.a f.b)⟩,
  ⟨0x28a, 1, .rrr, onlyPDAB, fun _ f => some (.mregroup f.d f.a f.b)⟩,
  ⟨0x28b, 1, .rl, onlyPAB, fun _ f => do let m ← low3of12 f.imm12; mclrForm m⟩]

/-- R166: X. -/
def pageX : List OpRow := [
  ⟨0x300, 1, .rrr, onlyPA, fun _ f => some (.xpush f.a)⟩,
  ⟨0x301, 1, .rrr, onlyPD, fun _ f => some (.xpop f.d)⟩,
  ⟨0x302, 1, .rl, onlyPAB, fun _ f => do let n ← low6 f.imm12; pure (.xcfg n)⟩,
  ⟨0x303, 1, .rrr, onlyP, fun _ _ => some (.xclr)⟩,
  ⟨0x304, 1, .rrr, onlyPD, fun _ f => some (.xcnt f.d)⟩]

/-- R166: C. -/
def pageC : List OpRow := [
  ⟨0x380, 1, .c, onlyNone, fun _ _ => some (.cnop)⟩,
  ⟨0x381, 1, .c, onlyPDAB, fun _ f => do let j ← lcReg f.d; pure (.cset j f.a f.b)⟩,
  ⟨0x382, 1, .c, onlyPDAB, fun _ f => do let kp ← tokOf f.d; let kx ← tokOf f.a; let ky ← tokOf f.b; pure (.cgo kp kx ky)⟩,
  ⟨0x383, 1, .c, onlyPDAB, fun _ f => do let kp ← tokOf f.d; let kx ← tokOf f.a; let ky ← tokOf f.b; pure (.cwait kp kx ky)⟩,
  ⟨0x384, 1, .c, onlyPDAB, fun _ f => do let kp ← tokOf f.d; let kx ← tokOf f.a; let ky ← tokOf f.b; pure (.cpy kp kx ky)⟩,
  ⟨0x385, 1, .c, onlyPDAB, fun _ f => do let kp ← tokOf f.d; let kx ← tokOf f.a; let ky ← tokOf f.b; pure (.cpyAs kp kx ky)⟩,
  ⟨0x386, 1, .c, onlyPDAB, fun _ f => do let kp ← tokOf f.d; let kx ← tokOf f.a; let ky ← tokOf f.b; pure (.gath kp kx ky)⟩,
  ⟨0x387, 1, .c, onlyPDAB, fun _ f => do let kp ← tokOf f.d; let kx ← tokOf f.a; let ky ← tokOf f.b; pure (.pool kp kx ky)⟩,
  ⟨0x388, 1, .c, onlyPDAB, fun _ f => do let kp ← tokOf f.d; let kx ← tokOf f.a; let ky ← tokOf f.b; pure (.rld kp kx ky)⟩,
  ⟨0x389, 1, .c, onlyPDAB, fun _ f => do let kp ← tokOf f.d; let kx ← tokOf f.a; let ky ← tokOf f.b; pure (.rst kp kx ky)⟩,
  ⟨0x38a, 1, .c, onlyPDAB, fun _ f => do let kp ← tokOf f.d; let kx ← tokOf f.a; let ky ← tokOf f.b; pure (.ramo kp kx ky)⟩,
  ⟨0x38b, 1, .c, onlyPDAB, fun _ f => do let kp ← tokOf f.d; let kx ← tokOf f.a; let ky ← tokOf f.b; pure (.mcst kp kx ky)⟩,
  ⟨0x38c, 1, .c, onlyPDAB, fun _ f => do let kp ← tokOf f.d; let kx ← tokOf f.a; let ky ← tokOf f.b; pure (.rarrive kp kx ky)⟩,
  ⟨0x38d, 1, .c, onlyPDA, fun _ f => do let t ← tokOf f.a; let k ← t; pure (.cstat f.d k)⟩,
  ⟨0x38e, 1, .c, onlyP, fun _ _ => some (.cclr)⟩]

/-- The page of opcode[9:7] (R160). -/
def opPage : Nat → List OpRow
  | 0 => pageS0 | 1 => pageS1 | 2 => pageA | 3 => pageV0 | 4 => pageV1 | 5 => pageM | 6 => pageX | _ => pageC

/-- The row of map 0 that holds opcode o; none where o is unassigned. -/
def opRow (o : BitVec 10) : Option OpRow :=
  (opPage (o.toNat / 128)).find? fun r => decide (r.base ≤ o.toNat ∧ o.toNat < r.base + r.count)

/-- Class of an internal operation (R156, R160): S 0, A 1, V 2, M 3, X 4, C 5. -/
def opClass (o : BitVec 10) : Nat :=
  match o.toNat / 128 with
  | 0 => 0 | 1 => 0 | 2 => 1 | 3 => 2 | 4 => 2 | 5 => 3 | 6 => 4 | _ => 5

/-- Checks 3, 5 and 6 of R168 on a slot whose internal operation is f.opc, and the instruction it names. -/
def decodeFields (f : Fields) : Except EncErr Instr :=
  match opRow f.opc with
  | none => .error .illegalOpcode
  | some r =>
    if !r.zero f then .error .reservedField
    else match r.build (f.opc.toNat - r.base) f with
      | none => .error .illegalOperand
      | some i => if i.wf then .ok i else .error .illegalOperand

/-- The instruction of a slot's word under map 0. -/
def decodeSlot (w : BitVec 32) : Except EncErr Instr := decodeFields (splitWord w)

/-! ### Decode entries of maps 1 to 15 (R158, R159) -/

def entryIop (e : BitVec 16) : BitVec 10 := field e 0 10
def entryValid (e : BitVec 16) : Bool := bit e 15

/-- What the window requires of a loaded entry (R159). -/
def entryOk (e : BitVec 16) : Bool :=
  !entryValid e ||
    (field e 13 2 == 0 && match opRow (entryIop e) with
      | some r => (field e 10 3).toNat == fmtCode r.fmt
      | none => false)

/-- The internal operation of opcode o under a map; `none` is map 0 (R158, R159). -/
def mapIop (map : Option (List (BitVec 16))) (o : BitVec 10) : Option (BitVec 10) :=
  match map with
  | none => if (opRow o).isSome then some o else none
  | some m => let e := m.getD o.toNat 0; if entryValid e then some (entryIop e) else none

/-! ### Parser words (R100, R105) -/

/-- Bits lo to lo+n−1 of w are zero. -/
def zeros (w : BitVec 32) (lo n : Nat) : Bool := field w lo n == 0

/-- The instruction that a word's opcode and unnamed bits give (R100). -/
def pForm (w : BitVec 32) : Option Instr :=
  match (field w 28 4).toNat with
  | 0x0 => if zeros w 0 28 then some .pNop else none
  | 0x1 => if zeros w 0 8 then some (.pExt (field w 21 7) (field w 13 8) (field w 9 4) (bit w 8)) else none
  | 0x2 => if zeros w 0 5 then some (.pExtb (field w 21 7) (field w 13 8) (field w 9 4) (field w 5 4)) else none
  | 0x3 => if zeros w 16 5 then some (.pSet (field w 21 7) (field w 0 16)) else none
  | 0x4 => if zeros w 9 19 then some (.pAdv (field w 0 9)) else none
  | 0x5 => if zeros w 0 11 then some (.pAdvf (field w 21 7) (field w 17 4) (field w 13 4) (field w 11 2)) else none
  | 0x6 => if zeros w 16 5 then some (.pKey (field w 21 7) (field w 0 16)) else none
  | 0x7 => if zeros w 22 6 then some (.pCase (field w 16 6) (field w 0 16)) else none
  | 0x8 => if zeros w 6 22 then some (.pGoto (field w 0 6)) else none
  | 0x9 => if zeros w 9 19 then some (.pPayld (field w 0 9)) else none
  | 0xA => if zeros w 1 27 then some (.pEnd (bit w 0)) else none
  | _ => none

/-- The parser instruction of a word; none where the window refuses the word (R105). -/
def decodeP (w : BitVec 32) : Option Instr := (pForm w).filter Instr.wf

/-! ### Action words (R108 to R110) -/

def wD (w : BitVec 32) : BitVec 7 := field w 19 7
def wA (w : BitVec 32) : BitVec 7 := field w 12 7
def wB (w : BitVec 32) : BitVec 7 := field w 5 7
def wImm (w : BitVec 32) : BitVec 12 := field w 0 12
def wT (w : BitVec 32) : BitVec 6 := field w 13 6
def wV (w : BitVec 32) : BitVec 7 := field w 6 7

/-- A form F word with b unused but for SAT in w[0]. -/
def acSat (w : BitVec 32) (f : BitVec 7 → BitVec 7 → BitVec 7 → Bool → Instr) : Option Instr :=
  if zeros w 1 4 then some (f (wD w) (wA w) (wB w) (bit w 0)) else none

/-- A form F word of d, a and b. -/
def acDab (w : BitVec 32) (f : BitVec 7 → BitVec 7 → BitVec 7 → Instr) : Option Instr :=
  if zeros w 0 5 then some (f (wD w) (wA w) (wB w)) else none

/-- A form F shift. -/
def acShift (w : BitVec 32) (f : BitVec 7 → BitVec 7 → BitVec 5 → Instr) : Option Instr :=
  if zeros w 5 7 then some (f (wD w) (wA w) (field w 0 5)) else none

/-- A form F word of a alone. -/
def acJustA (w : BitVec 32) (f : BitVec 7 → Instr) : Option Instr :=
  if zeros w 19 7 && zeros w 0 12 then some (f (wA w)) else none

/-- A skip. -/
def acSkip (w : BitVec 32) (f : BitVec 7 → BitVec 4 → Instr) : Option Instr :=
  if zeros w 19 7 && zeros w 4 8 then some (f (wA w) (field w 0 4)) else none

/-- A stateful-cell word. -/
def acCell (w : BitVec 32) (f : BitVec 7 → BitVec 6 → BitVec 7 → BitVec 3 → Instr) : Option Instr :=
  if zeros w 3 3 then some (f (wD w) (wT w) (wV w) (field w 0 3)) else none

/-- A payload word. -/
def acPay (w : BitVec 32) : Option Instr :=
  if !zeros w 4 2 then none
  else match (field w 0 2).toNat with
    | 0 => some (.acPayWrite (wD w) (wT w) (wV w) (bit w 2) (bit w 3))
    | 1 => some (.acPayAddw (wD w) (wT w) (wV w) (bit w 2) (bit w 3))
    | 2 => some (.acPayAdds (wD w) (wT w) (wV w) (bit w 2) (bit w 3))
    | _ => some (.acPayAddf (wD w) (wT w) (wV w) (bit w 2) (bit w 3))

/-- The instruction that a word's opcode and unused bits name (R108, R109). -/
def acForm (w : BitVec 32) : Option Instr :=
  match (field w 26 6).toNat with
  | 0x00 => if zeros w 0 26 then some .acNop else none
  | 0x01 => if zeros w 0 12 then some (.acMov (wD w) (wA w)) else none
  | 0x02 => acSat w .acAdd
  | 0x03 => acSat w .acSub
  | 0x04 => acDab w .acAnd
  | 0x05 => acDab w .acOr
  | 0x06 => acDab w .acXor
  | 0x07 => acShift w .acShl
  | 0x08 => acShift w .acShr
  | 0x09 => acDab w .acMin
  | 0x0A => acDab w .acMax
  | 0x0B => acDab w .acSlt
  | 0x10 => if zeros w 12 7 then some (.acMovi (wD w) (wImm w)) else none
  | 0x11 => some (.acAddi (wD w) (wA w) (wImm w))
  | 0x12 => some (.acAndi (wD w) (wA w) (wImm w))
  | 0x13 => some (.acOri (wD w) (wA w) (wImm w))
  | 0x14 => if zeros w 4 15 then some (.acMovh (wD w) (field w 0 4)) else none
  | 0x15 => some (.acSeqi (wD w) (wA w) (wImm w))
  | 0x18 => acSkip w .acSkipz
  | 0x19 => acSkip w .acSkipnz
  | 0x1A => if zeros w 0 26 then some .acDone else none
  | 0x20 => if zeros w 12 7 then some (.acLdd (wD w) (field w 6 6) (field w 4 2) (field w 0 4)) else none
  | 0x21 => if zeros w 2 17 then some (.acHit (wD w) (field w 0 2)) else none
  | 0x22 => acJustA w .acFwd
  | 0x23 => acJustA w .acMcast
  | 0x24 => if zeros w 0 26 then some .acDrop else none
  | 0x25 => acJustA w .acRoute
  | 0x28 => acCell w .acSrd
  | 0x29 => acCell w .acSwr
  | 0x2A => acCell w .acSadd
  | 0x2C => if zeros w 2 10 then some (.acArrive (wD w) (wA w) (bit w 0) (bit w 1)) else none
  | 0x2D => if zeros w 0 12 then some (.acExpect (wD w) (wA w)) else none
  | 0x30 => acPay w
  | 0x31 => if zeros w 0 13 then some (.acAdmit (wD w) (wT w)) else none
  | 0x32 => if zeros w 0 13 then some (.acClose (wD w) (wT w)) else none
  | _ => none

/-- The action instruction of a word; none where the window refuses the word (R110). -/
def decodeAC (w : BitVec 32) : Option Instr := (acForm w).filter Instr.wf

/-! ### A word whose space is not said -/

/-- Which of the three words spaces a 32-bit word is read in, where nothing but the word is given (log 3). -/
inductive WordSpace where
  | parser | action | tile
  deriving DecidableEq, Repr

/-- The readings of a bare word, the first that succeeds standing (log 3): an action word or a parser word that its
window accepts, an action word or a parser word by opcode and unused bits, a tile slot of map 0. -/
def readWord (w : BitVec 32) : Option (WordSpace × Instr) :=
  let tile := match decodeSlot w with
    | .ok i => some (WordSpace.tile, i)
    | .error _ => none
  ((decodeAC w).map (WordSpace.action, ·)).orElse fun _ =>
    ((decodeP w).map (WordSpace.parser, ·)).orElse fun _ =>
      ((acForm w).map (WordSpace.action, ·)).orElse fun _ =>
        ((pForm w).map (WordSpace.parser, ·)).orElse fun _ => tile

/-- The instruction of an opcode-table word: every word is 32 bits. -/
def decodeTableWord (nbits w : Nat) : Option Instr :=
  if nbits = 32 then (readWord (BitVec.ofNat 32 w)).map (·.2) else none

/-! ### The encoder -/

/-- Fields of a slot. -/
def slotFields (opc : Nat) (p : BitVec 3) (d a b : BitVec 6) : Option Fields := some ⟨BitVec.ofNat 10 opc, p, d, a, b⟩

/-- The fields of a tile slot's word under predicate p, which the slots that may not be predicated do not hold (R153,
R154, R161 to R166); none for what is no tile slot. -/
def encodeFields : BitVec 3 → Instr → Option Fields
  | p, .add d a b => slotFields 0x0 p d a b
  | p, .sub d a b => slotFields 0x1 p d a b
  | p, .and d a b => slotFields 0x2 p d a b
  | p, .or d a b => slotFields 0x3 p d a b
  | p, .xor d a b => slotFields 0x4 p d a b
  | p, .sll d a b => slotFields 0x5 p d a b
  | p, .srl d a b => slotFields 0x6 p d a b
  | p, .sra d a b => slotFields 0x7 p d a b
  | p, .min d a b => slotFields 0x8 p d a b
  | p, .max d a b => slotFields 0x9 p d a b
  | p, .minu d a b => slotFields 0xa p d a b
  | p, .maxu d a b => slotFields 0xb p d a b
  | p, .mul d a b => slotFields 0xc p d a b
  | p, .mulh d a b => slotFields 0xd p d a b
  | p, .mulhu d a b => slotFields 0xe p d a b
  | p, .div d a b => slotFields 0xf p d a b
  | p, .divu d a b => slotFields 0x10 p d a b
  | p, .rem d a b => slotFields 0x11 p d a b
  | p, .remu d a b => slotFields 0x12 p d a b
  | p, .addi d a imm => slotFields 0x20 p d a imm
  | p, .andi d a imm => slotFields 0x21 p d a imm
  | p, .ori d a imm => slotFields 0x22 p d a imm
  | p, .xori d a imm => slotFields 0x23 p d a imm
  | p, .slli d a imm => slotFields 0x24 p d a imm
  | p, .srli d a imm => slotFields 0x25 p d a imm
  | p, .srai d a imm => slotFields 0x26 p d a imm
  | p, .movi d imm => slotFields 0x28 p d (hi6 imm) (lo6 imm)
  | p, .movk d imm => slotFields 0x29 p d (hi6 imm) (lo6 imm)
  | p, .cmpeq d a b => slotFields 0x30 p (zext6 d) a b
  | p, .cmpne d a b => slotFields 0x31 p (zext6 d) a b
  | p, .cmplt d a b => slotFields 0x32 p (zext6 d) a b
  | p, .cmpltu d a b => slotFields 0x33 p (zext6 d) a b
  | p, .cmple d a b => slotFields 0x34 p (zext6 d) a b
  | p, .cmpleu d a b => slotFields 0x35 p (zext6 d) a b
  | p, .cmpeqi d a imm => slotFields 0x38 p (zext6 d) a imm
  | p, .cmplti d a imm => slotFields 0x39 p (zext6 d) a imm
  | p, .cmplei d a imm => slotFields 0x3a p (zext6 d) a imm
  | p, .pand d a b => slotFields 0x3c p (zext6 d) (zext6 a) (zext6 b)
  | p, .por d a b => slotFields 0x3d p (zext6 d) (zext6 a) (zext6 b)
  | p, .pxor d a b => slotFields 0x3e p (zext6 d) (zext6 a) (zext6 b)
  | p, .pnot d a => slotFields 0x3f p (zext6 d) (zext6 a) 0
  | p, .fadd r d a b => slotFields (0x40 + rIdx r) p d a b
  | p, .fsub r d a b => slotFields (0x44 + rIdx r) p d a b
  | p, .fmul r d a b => slotFields (0x48 + rIdx r) p d a b
  | p, .fdiv r d a b => slotFields (0x4c + rIdx r) p d a b
  | p, .fma r d a b => slotFields (0x50 + rIdx r) p d a b
  | p, .fsqrt r d a => slotFields (0x54 + rIdx r) p d a 0
  | p, .fmin d a b => slotFields 0x58 p d a b
  | p, .fmax d a b => slotFields 0x59 p d a b
  | p, .fcmpeq d a b => slotFields 0x5a p (zext6 d) a b
  | p, .fcmplt d a b => slotFields 0x5b p (zext6 d) a b
  | p, .fcmple d a b => slotFields 0x5c p (zext6 d) a b
  | p, .fcvtI64 r d a => slotFields (0x60 + rIdx r) p d a 0
  | p, .cvtF32 r d a => slotFields (0x64 + rIdx r) p d a 0
  | p, .br imm => slotFields 0x80 p (field imm 12 6) (field imm 6 6) (field imm 0 6)
  | p, .brN imm => slotFields 0x81 p (field imm 12 6) (field imm 6 6) (field imm 0 6)
  | p, .call imm => slotFields 0x82 p (field imm 12 6) (field imm 6 6) (field imm 0 6)
  | p, .jr a => slotFields 0x83 p 0 (zext6 a) 0
  | p, .bswap imm => slotFields 0x84 p (field imm 12 6) (field imm 6 6) (field imm 0 6)
  | _, .ifence => slotFields 0x85 0 0 0 0
  | p, .nopn km1 => slotFields 0x86 p 0 (hi6 km1) (lo6 km1)
  | _, .yield imm => slotFields 0x87 0 (field imm 12 6) (field imm 6 6) (field imm 0 6)
  | p, .endTask => slotFields 0x88 p 0 0 0
  | p, .trap n => slotFields 0x89 p 0 0 (zext6 n)
  | _, .eret => slotFields 0x8a 0 0 0 0
  | _, .eretSkip => slotFields 0x8a 0 0 0 1
  | _, .eretRaise => slotFields 0x8a 0 0 0 2
  | p, .srd d y => slotFields 0x8b p d (hi6 y) (lo6 y)
  | p, .swr d y => slotFields 0x8c p d (hi6 y) (lo6 y)
  | p, .enq d a b => slotFields 0x8d p d a b
  | p, .spawnv d a b => slotFields 0x8e p d a b
  | _, .nop => slotFields 0x8f 0 0 0 0
  | p, .ldG z d a imm => slotFields (0x90 + sizeIdx z) p d a imm
  | p, .stG z d a imm => slotFields (0x94 + sizeIdx z) p d a imm
  | p, .ldGAcq d a sc => slotFields 0x98 p d a (scopeCode sc)
  | p, .stGRel d a sc => slotFields 0x99 p d a (scopeCode sc)
  | p, .qmark => slotFields 0xa0 p 0 0 0
  | p, .fence sc => slotFields 0xa1 p 0 0 (scopeCode sc)
  | p, .amoG o d a b => slotFields (0xa8 + amoIdx o) p d a b
  | p, .amoGAcq o d a sc => slotFields (0xb0 + amoIdx o) p d a (scopeCode sc)
  | p, .amoGRel o d a sc => slotFields (0xb8 + amoIdx o) p d a (scopeCode sc)
  | p, .amoGAr o d a sc => slotFields (0xc0 + amoIdx o) p d a (scopeCode sc)
  | p, .relb reg stg => slotFields 0xc8 p 0 (field ((0 : BitVec 4) ++ stg ++ reg) 6 6) (field ((0 : BitVec 4) ++ stg ++ reg) 0 6)
  | p, .relbFree reg => slotFields 0xc8 p 0 (field ((0x10 : BitVec 8) ++ reg) 6 6) (field ((0x10 : BitVec 8) ++ reg) 0 6)
  | p, .arrive d a => slotFields 0xc9 p d a 0
  | p, .arriveRel d a sc => slotFields 0xca p d a (scopeCode sc)
  | p, .waitc d a sc => slotFields 0xcb p d a (scopeCode sc)
  | p, .expect d a b => slotFields 0xcc p d a b
  | p, .aadd d a b => slotFields 0x100 p (zext6 d) (zext6 a) (zext6 b)
  | p, .asub d a b => slotFields 0x101 p (zext6 d) (zext6 a) (zext6 b)
  | p, .aaddi d a imm => slotFields 0x102 p (zext6 d) (zext6 a) imm
  | p, .amovi d imm => slotFields 0x103 p (zext6 d) (hi6 imm) (lo6 imm)
  | p, .amovs d a => slotFields 0x104 p (zext6 d) a 0
  | p, .smova d a => slotFields 0x105 p d (zext6 a) 0
  | p, .ashli d a imm => slotFields 0x106 p (zext6 d) (zext6 a) imm
  | p, .areg d a j => slotFields 0x107 p (zext6 d) (zext6 a) (zext6 j)
  | p, .anode d a b => slotFields 0x108 p (zext6 d) (zext6 a) b
  | p, .lcset d a => slotFields 0x110 p (zext6 d) a 0
  | _, .loop n imm => slotFields 0x111 0 (zext6 n) (hi6 imm) (lo6 imm)
  | _, .loopSwp n sm1 imm => slotFields 0x112 0 ((0 : BitVec 2) ++ sm1 ++ n) (hi6 imm) (lo6 imm)
  | p, .lcrd d a => slotFields 0x113 p d (zext6 a) 0
  | p, .spld d idx => slotFields 0x118 p d (hi6 (idx.setWidth 12)) (lo6 (idx.setWidth 12))
  | p, .spst d idx => slotFields 0x119 p d (hi6 (idx.setWidth 12)) (lo6 (idx.setWidth 12))
  | p, .spldA d idx => slotFields 0x11a p (zext6 d) (hi6 (idx.setWidth 12)) (lo6 (idx.setWidth 12))
  | p, .spstA d idx => slotFields 0x11b p (zext6 d) (hi6 (idx.setWidth 12)) (lo6 (idx.setWidth 12))
  | p, .hset h a => slotFields 0x120 p (zext6 h) (zext6 a) 0
  | p, .halloc d h b => slotFields 0x121 p d (zext6 h) b
  | p, .hpub h b => slotFields 0x122 p 0 (zext6 h) b
  | p, .hadv h b => slotFields 0x123 p 0 (zext6 h) b
  | p, .hrd d h => slotFields 0x124 p d (zext6 h) 0
  | _, .anop => slotFields 0x17f 0 0 0 0
  | p, .vaddInt t sat d a b => slotFields (0x180 + 2 * tIdx t + b2n sat) p d a b
  | p, .vsubInt t sat d a b => slotFields (0x190 + 2 * tIdx t + b2n sat) p d a b
  | p, .vmulInt t sat d a b => slotFields (0x1a0 + 2 * tIdx t + b2n sat) p d a b
  | p, .vmin t d a b => slotFields (0x1b0 + tIdx t) p d a b
  | p, .vmax t d a b => slotFields (0x1b8 + tIdx t) p d a b
  | p, .vshl w d a b => slotFields (0x1c0 + wIdx w) p d a b
  | p, .vld d a fmt => slotFields 0x1c4 p d (zext6 a) fmt
  | p, .vst d a => slotFields 0x1c5 p d (zext6 a) 0
  | p, .vlds d a b => slotFields 0x1c6 p d (zext6 a) (zext6 b)
  | p, .vsts d a b => slotFields 0x1c7 p d (zext6 a) (zext6 b)
  | p, .vshr t d a b => slotFields (0x1c8 + tIdx t) p d a b
  | p, .vcmpeq w d a b => slotFields (0x1d0 + wIdx w) p d a b
  | p, .vldx d a b => slotFields 0x1d4 p d (zext6 a) b
  | p, .vstx d a b => slotFields 0x1d5 p d (zext6 a) b
  | p, .vcmplt t d a b => slotFields (0x1d8 + tIdx t) p d a b
  | p, .vcmple t d a b => slotFields (0x1e0 + tIdx t) p d a b
  | p, .vredsum t sat d a => slotFields (0x1e8 + 2 * tIdx t + b2n sat) p d a 0
  | p, .vand d a b => slotFields 0x1f8 p d a b
  | p, .vor d a b => slotFields 0x1f9 p d a b
  | p, .vxor d a b => slotFields 0x1fa p d a b
  | p, .vnot d a => slotFields 0x1fb p d a 0
  | p, .vsel d a b => slotFields 0x1fc p d a b
  | p, .vmov d a => slotFields 0x1fd p d a 0
  | _, .vnop => slotFields 0x1fe 0 0 0 0
  | p, .vaddF f r d a b => slotFields (0x200 + 4 * fIdx f + rIdx r) p d a b
  | p, .vsubF f r d a b => slotFields (0x208 + 4 * fIdx f + rIdx r) p d a b
  | p, .vmulF f r d a b => slotFields (0x210 + 4 * fIdx f + rIdx r) p d a b
  | p, .vfmaF f r d a b => slotFields (0x218 + 4 * fIdx f + rIdx r) p d a b
  | p, .vaddE e d a b => slotFields (0x220 + 4 * eIdx e + 0) p d a b
  | p, .vsubE e d a b => slotFields (0x220 + 4 * eIdx e + 1) p d a b
  | p, .vmulE e d a b => slotFields (0x220 + 4 * eIdx e + 2) p d a b
  | p, .vfmaE e d a b => slotFields (0x220 + 4 * eIdx e + 3) p d a b
  | p, .vminF f d a b => slotFields (0x22c + 2 * fIdx f) p d a b
  | p, .vmaxF f d a b => slotFields (0x22d + 2 * fIdx f) p d a b
  | p, .vcmpeqF f d a b => slotFields (0x230 + 3 * fIdx f) p d a b
  | p, .vcmpltF f d a b => slotFields (0x231 + 3 * fIdx f) p d a b
  | p, .vcmpleF f d a b => slotFields (0x232 + 3 * fIdx f) p d a b
  | p, .vredsumF32 r d a => slotFields (0x238 + rIdx r) p d a 0
  | p, .vredmaxF32 d a => slotFields 0x23c p d a 0
  | p, .vargmaxF32 d a => slotFields 0x23d p d a 0
  | p, .vredmaxI32 d a => slotFields 0x23e p d a 0
  | p, .vargmaxI32 d a => slotFields 0x23f p d a 0
  | p, .vexp2 d a => slotFields 0x240 p d a 0
  | p, .vlog2 d a => slotFields 0x241 p d a 0
  | p, .vrcp d a => slotFields 0x242 p d a 0
  | p, .vrsq d a => slotFields 0x243 p d a 0
  | p, .vtanh d a => slotFields 0x244 p d a 0
  | p, .vsin d a => slotFields 0x245 p d a 0
  | p, .vbcastF32 d a => slotFields 0x246 p d a 0
  | p, .vbcastI32 d a => slotFields 0x247 p d a 0
  | p, .vperm d a b => slotFields 0x248 p d a b
  | p, .vrot d a b => slotFields 0x249 p d a b
  | p, .vretag d fmt => slotFields 0x24a p d 0 fmt
  | p, .vplane d a pl part => slotFields 0x24b p d a (part ++ pl)
  | p, .vptmask d a b => slotFields 0x24c p d a b
  | p, .viota d a => slotFields 0x24d p d a 0
  | p, .vcvtI32Sat d a => slotFields 0x24e p d a 0
  | p, .vcvtI32Wrap d a => slotFields 0x24f p d a 0
  | p, .vscale r d a b => slotFields (0x250 + rIdx r) p d a b
  | p, .vcvtF32 r d a part => slotFields (0x254 + rIdx r) p d a (zext6 part)
  | p, .vcvtBf16x2 r d a part => slotFields (0x258 + rIdx r) p d a (zext6 part)
  | p, .vcvtFp16 r d a part => slotFields (0x25c + rIdx r) p d a (zext6 part)
  | p, .vcvtE4m3 r d a part => slotFields (0x260 + rIdx r) p d a (zext6 part)
  | p, .vcvtE5m2 r d a part => slotFields (0x264 + rIdx r) p d a (zext6 part)
  | p, .vcvtInt t d a part => slotFields (0x268 + tIdx t) p d a (zext6 part)
  | p, .vcvtIntRz t d a part => slotFields (0x270 + tIdx t) p d a (zext6 part)
  | p, .mcfg a => slotFields 0x280 p 0 a 0
  | p, .mloadb h a => slotFields 0x281 p (zext6 h) a 0
  | p, .mloadbs h a => slotFields 0x282 p (zext6 h) a 0
  | p, .mfeed h mm1 adv => slotFields 0x283 p (zext6 h) (b2v 6 adv) mm1
  | p, .mpush a => slotFields 0x284 p 0 a 0
  | p, .mmul d mm1 => slotFields 0x285 p d 0 mm1
  | p, .mmac d mm1 => slotFields 0x286 p d 0 mm1
  | p, .mmulMid d mm1 => slotFields 0x287 p d 0 mm1
  | p, .mmacMid d mm1 => slotFields 0x288 p d 0 mm1
  | p, .mdesc d a b => slotFields 0x289 p d a b
  | p, .mregroup d a b => slotFields 0x28a p d a b
  | p, .mclrW rb cfg => slotFields 0x28b p 0 0 (zext6 (b2v 1 cfg ++ b2v 1 rb ++ (1 : BitVec 1)))
  | p, .mclrRb cfg => slotFields 0x28b p 0 0 (zext6 (b2v 1 cfg ++ (2 : BitVec 2)))
  | p, .mclrCfg => slotFields 0x28b p 0 0 4
  | p, .xpush a => slotFields 0x300 p 0 a 0
  | p, .xpop d => slotFields 0x301 p d 0 0
  | p, .xcfg rows => slotFields 0x302 p 0 0 rows
  | p, .xclr => slotFields 0x303 p 0 0 0
  | p, .xcnt d => slotFields 0x304 p d 0 0
  | _, .cnop => slotFields 0x380 0 0 0 0
  | p, .cset j a b => slotFields 0x381 p (zext6 j) a b
  | p, .cgo kp kx ky => slotFields 0x382 p (tokCode kp) (tokCode kx) (tokCode ky)
  | p, .cwait kp kx ky => slotFields 0x383 p (tokCode kp) (tokCode kx) (tokCode ky)
  | p, .cpy kp kx ky => slotFields 0x384 p (tokCode kp) (tokCode kx) (tokCode ky)
  | p, .cpyAs kp kx ky => slotFields 0x385 p (tokCode kp) (tokCode kx) (tokCode ky)
  | p, .gath kp kx ky => slotFields 0x386 p (tokCode kp) (tokCode kx) (tokCode ky)
  | p, .pool kp kx ky => slotFields 0x387 p (tokCode kp) (tokCode kx) (tokCode ky)
  | p, .rld kp kx ky => slotFields 0x388 p (tokCode kp) (tokCode kx) (tokCode ky)
  | p, .rst kp kx ky => slotFields 0x389 p (tokCode kp) (tokCode kx) (tokCode ky)
  | p, .ramo kp kx ky => slotFields 0x38a p (tokCode kp) (tokCode kx) (tokCode ky)
  | p, .mcst kp kx ky => slotFields 0x38b p (tokCode kp) (tokCode kx) (tokCode ky)
  | p, .rarrive kp kx ky => slotFields 0x38c p (tokCode kp) (tokCode kx) (tokCode ky)
  | p, .cstat d k => slotFields 0x38d p d (tokCode (some k)) 0
  | p, .cclr => slotFields 0x38e p 0 0 0
  | _, _ => none

/-- A form F action word. -/
def encF (opc : BitVec 6) (d a b : BitVec 7) (w : BitVec 5) : Option (BitVec 32) := some (opc ++ d ++ a ++ b ++ w)

/-- A form I action word. -/
def encI (opc : BitVec 6) (d a : BitVec 7) (imm : BitVec 12) : Option (BitVec 32) := some (opc ++ d ++ a ++ imm)

/-- A form S action word. -/
def encS (opc : BitVec 6) (x : BitVec 7) (t : BitVec 6) (v : BitVec 7) (sub : BitVec 6) : Option (BitVec 32) :=
  some (opc ++ x ++ t ++ v ++ sub)

/-- The word of a parser or action instruction (R100, R108, R109); none for what is neither. -/
def encodeWord : Instr → Option (BitVec 32)
  | .pNop => some 0
  | .pExt d off n le => some ((0x1 : BitVec 4) ++ d ++ off ++ n ++ b2v 1 le ++ (0 : BitVec 8))
  | .pExtb d off l w => some ((0x2 : BitVec 4) ++ d ++ off ++ l ++ w ++ (0 : BitVec 5))
  | .pSet d imm => some ((0x3 : BitVec 4) ++ d ++ (0 : BitVec 5) ++ imm)
  | .pAdv n => some ((0x4 : BitVec 4) ++ (0 : BitVec 19) ++ n)
  | .pAdvf a l w sc => some ((0x5 : BitVec 4) ++ a ++ l ++ w ++ sc ++ (0 : BitVec 11))
  | .pKey a m => some ((0x6 : BitVec 4) ++ a ++ (0 : BitVec 5) ++ m)
  | .pCase st v => some ((0x7 : BitVec 4) ++ (0 : BitVec 6) ++ st ++ v)
  | .pGoto st => some ((0x8 : BitVec 4) ++ (0 : BitVec 22) ++ st)
  | .pPayld n => some ((0x9 : BitVec 4) ++ (0 : BitVec 19) ++ n)
  | .pEnd e => some ((0xA : BitVec 4) ++ (0 : BitVec 27) ++ b2v 1 e)
  | .acNop => some 0
  | .acMov d a => encF 0x01 d a 0 0
  | .acAdd d a b s => encF 0x02 d a b (b2v 5 s)
  | .acSub d a b s => encF 0x03 d a b (b2v 5 s)
  | .acAnd d a b => encF 0x04 d a b 0
  | .acOr d a b => encF 0x05 d a b 0
  | .acXor d a b => encF 0x06 d a b 0
  | .acShl d a w => encF 0x07 d a 0 w
  | .acShr d a w => encF 0x08 d a 0 w
  | .acMin d a b => encF 0x09 d a b 0
  | .acMax d a b => encF 0x0A d a b 0
  | .acSlt d a b => encF 0x0B d a b 0
  | .acMovi d imm => encI 0x10 d 0 imm
  | .acAddi d a imm => encI 0x11 d a imm
  | .acAndi d a imm => encI 0x12 d a imm
  | .acOri d a imm => encI 0x13 d a imm
  | .acMovh d imm => encI 0x14 d 0 (imm.setWidth 12)
  | .acSeqi d a imm => encI 0x15 d a imm
  | .acSkipz a n => encI 0x18 0 a (n.setWidth 12)
  | .acSkipnz a n => encI 0x19 0 a (n.setWidth 12)
  | .acDone => encI 0x1A 0 0 0
  | .acLdd d o j n => encI 0x20 d 0 (o ++ j ++ n)
  | .acHit d j => encI 0x21 d 0 (j.setWidth 12)
  | .acFwd a => encF 0x22 0 a 0 0
  | .acMcast a => encF 0x23 0 a 0 0
  | .acDrop => encF 0x24 0 0 0 0
  | .acRoute a => encF 0x25 0 a 0 0
  | .acSrd x t v w => encS 0x28 x t v (w.setWidth 6)
  | .acSwr x t v w => encS 0x29 x t v (w.setWidth 6)
  | .acSadd x t v w => encS 0x2A x t v (w.setWidth 6)
  | .acArrive d a link one => encF 0x2C d a 0 ((0 : BitVec 3) ++ b2v 1 one ++ b2v 1 link)
  | .acExpect d a => encF 0x2D d a 0 0
  | .acPayWrite x t v dlv arr => encS 0x30 x t v ((0 : BitVec 2) ++ b2v 1 arr ++ b2v 1 dlv ++ (0 : BitVec 2))
  | .acPayAddw x t v dlv arr => encS 0x30 x t v ((0 : BitVec 2) ++ b2v 1 arr ++ b2v 1 dlv ++ (1 : BitVec 2))
  | .acPayAdds x t v dlv arr => encS 0x30 x t v ((0 : BitVec 2) ++ b2v 1 arr ++ b2v 1 dlv ++ (2 : BitVec 2))
  | .acPayAddf x t v dlv arr => encS 0x30 x t v ((0 : BitVec 2) ++ b2v 1 arr ++ b2v 1 dlv ++ (3 : BitVec 2))
  | .acAdmit x t => encS 0x31 x t 0 0
  | .acClose x t => encS 0x32 x t 0 0
  | _ => none

/-- The 32-bit word of an instruction that has one; `stop` and `p` are the stop bit and the predicate of a tile slot
and play no part in the other words. -/
def encode (stop : Bool) (p : BitVec 3) (i : Instr) : Option (BitVec 32) :=
  match encodeFields p i with
  | some f => some (joinWord stop f)
  | none => encodeWord i

end Sys2Proof
end

