-- ==== Sys2Proof/Machine/Windows.lean ====
section
/-! DEFINITION. Measurement (R378) and the windows through which Kenval loads the pipelines and the decode maps (R80, R83, R86,
R105, R106, R110, R159, R317): what each refuses, and what it stores. -/

namespace Sys2Proof.Machine

/-! ### Measurement (R378) -/

/-- The 64 bytes of a measurement register. -/
def measBytes (v : BitVec 512) : List Byte := leBytes 64 v.toNat

/-- The header of an extend: event type, context, length of the content, extend count (R378). -/
def measHeader (ty : Byte) (ctx : CtxId) (len : Nat) (n : Word) : List Byte :=
  leBytes 16 (packNat [(ty.toNat, 8), (ctx.toNat, 6), (0, 2), (len, 48), (n.toNat, 64)])

/-- An extend of register i. -/
def extend (i : Fin 16) (ty : Byte) (ctx : CtxId) (content : List Byte) (s : State) : State :=
  let d := shake256 content 64
  let v := shake256 (measBytes s.meas[i] ++ measHeader ty ctx content.length s.extends_ ++ d) 64
  { s with meas := s.meas.set i (BitVec.ofNat 512 (leNat v)), extends_ := s.extends_ + 1 }

/-- 32-bit words as bytes. -/
def wordBytes (ws : List (BitVec 32)) : List Byte := ws.flatMap fun w => leBytes 4 w.toNat

/-! ### Parser programs and action code (R105, R110) -/

/-- States that a program of n words holds. -/
def statesOf (n : Nat) : Nat := ceilDiv n 8

/-- Whether a word is one that the parser's window accepts in a program of n states (R105). -/
def parserWordOk (n : Nat) (w : BitVec 32) : Bool :=
  match decodeP w with
  | some (.pCase st _) => decide (st.toNat < n)
  | some (.pGoto st) => decide (st.toNat < n)
  | some _ => true
  | none => false

/-- Words stored from a key on. -/
def storeWords (k : Nat) : List (BitVec 32) → SMap (BitVec 32) → SMap (BitVec 32)
  | [], m => m
  | w :: ws, m => storeWords (k + 1) ws (smSet 0 m k w)

/-- `PARSER_PROGRAM_LOAD` (R102, R105). -/
def execParserProgramLoad (p : BitVec 3) (words : List (BitVec 32)) (s : State) : Out :=
  slotDone (if words.length > 512 ∨ !words.all (parserWordOk (statesOf words.length)) then refuseWrite s
    else extend 4 5 0 (wordBytes words) (s.modPipe p fun x =>
      { x with pmem := storeWords 0 words [], pstates := statesOf words.length }))

/-- `ACTION_CODE_LOAD` (R110): into a stage's action memory from word `base` on. -/
def execActionCodeLoad (p : BitVec 3) (stage : BitVec 4) (base : BitVec 12) (words : List (BitVec 32)) (s : State) : Out :=
  slotDone (if base.toNat + words.length > 4096 ∨ !words.all fun w => (decodeAC w).isSome then refuseWrite s
    else extend 5 6 0 (wordBytes words) (s.modPipe p fun x =>
      { x with amem := storeWords (4096 * stage.toNat + base.toNat) words x.amem }))

/-! ### Tables (R80, R83, R86) -/

/-- The pipelines of a die. -/
def diePipes (die : BitVec 1) : List (BitVec 3) := (List.range 4).map fun q => BitVec.ofNat 3 (4 * die.toNat + q)

/-- Tables that an enabled stage entry names. -/
def entryTables (e : BitVec 320) : List (BitVec 6) :=
  if seEn e then ((List.range 4).filter (seLookup e)).map (seTable e) else []

/-- Whether some stage entry of a die names a table. -/
def stageNames (s : State) (die : BitVec 1) (t : BitVec 6) : Bool :=
  (diePipes die).any fun p => (s.pipe p).entries.any fun e => (entryTables e.2).contains t

/-- Whether an enabled classification descriptor of a die names a table (R80). -/
def classNames (s : State) (die : BitVec 1) (t : BitVec 6) : Bool :=
  (diePipes die).any fun p => bit (s.pipe p).cls 70 && field (s.pipe p).cls 64 6 == t

/-- R80's tests of a classification descriptor. -/
def classDescOk (s : State) (p : BitVec 3) (v : BitVec 128) : Bool :=
  let die := field p 2 1
  let t := field v 64 6
  let d := s.table die t
  field v 59 5 == 0 && field v 71 57 == 0 &&
    (!bit v 70 || (tblEn d && tblKind d == 0 && field d 33 3 == field v 56 3
      && tblCluster d == BitVec.ofNat 4 (8 * die.toNat) && !stageNames s die t))

/-- `CLASSIFICATION_DESCRIPTOR_WRITE` (R80). -/
def execClassificationDescriptorWrite (p : BitVec 3) (v : BitVec 128) (s : State) : Out :=
  slotDone (if !classDescOk s p v then refuseWrite s else s.modPipe p fun x => { x with cls := v })

/-- R83's tests of a table descriptor. ESZ is for cell arrays only, so a lookup kind takes its code 3 too (DESIGN CHOICE, log 146). -/
def tableDescOk (v : BitVec 128) : Bool :=
  field v 3 5 == 0 && field v 14 2 == 0 && field v 36 4 == 0 && field v 66 62 == 0
    && !(tblKind v == 3 && field v 64 2 == 3) && decide (tblBank v % 128 + tblBanks v ≤ 128)
    && decide ((if tblKind v = 3 then tblEntn v * tblCell v else 64 * (tblEntn v + 1)) ≤ tblBanks v * 2 ^ 18)

/-- `TABLE_DESCRIPTOR_WRITE` (R83). -/
def execTableDescriptorWrite (die : BitVec 1) (i : BitVec 6) (v : BitVec 128) (s : State) : Out :=
  slotDone (if !tableDescOk v then refuseWrite s
    else s.modDie die fun d => { d with tables := d.tables.set i.toNat v i.isLt })

/-- The prefix of an entry of a table is now the one written last (R84). -/
def latestPrefix (t : BitVec 6) (i : Nat) (d : Die) : Die :=
  let mine := d.prefixes.filter fun e => e.table == t && e.entry == i
  { d with prefixes := (d.prefixes.filter fun e => !(e.table == t && e.entry == i)) ++ mine }

/-- The prefix of an entry of a table is written (R84). -/
def setPrefix (e : PrefixEntry) (d : Die) : Die :=
  { d with prefixes := (d.prefixes.filter fun x => !(x.table == e.table && x.entry == e.entry)) ++ [e] }

/-- `TABLE_ENTRY_WRITE` (R84, R86): entry `slot` of a lookup table, or its default area, replaced whole in a service slot of
the die's pipelines (R11; log 131). It waits for a scrub of its bank (R262). -/
def execTableEntryWrite (die : BitVec 1) (i : BitVec 6) (slot : Option (BitVec 24)) (v : BitVec 512) (s : State) : Out :=
  let d := s.table die i
  let n := match slot with | some k => k.toNat + 1 | none => 0
  slotDone (if tblKind d = 3 ∨ n > tblEntn d then refuseWrite s
    else if s.scrubbing.contains (sgaBank (tblBase d + 64 * n)) then s
    else
      let s1 := (inService (diePipes die) s).swardWrite (tblBase d + 64 * n) (leBytes 64 v.toNat)
      match slot with
      | some k => s1.modDie die (latestPrefix i k.toNat)
      | none => s1)

/-! ### Stage entries (R106) -/

/-- Words of a stage's action memory that an enabled entry covers. -/
def codeRange (e : BitVec 320) : Nat × Nat :=
  ((seCode e).toNat, if seEn e then 16 * ((seSeln e).toNat + 1) else 0)

/-- Whether two ranges share a word. -/
def rangesMeet (a b : Nat × Nat) : Bool := decide (0 < a.2 ∧ 0 < b.2 ∧ a.1 < b.1 + b.2 ∧ b.1 < a.1 + a.2)

/-- R106's tests of a stage entry. -/
def stageEntryOk (s : State) (p : BitVec 3) (stage : BitVec 4) (ctx : CtxId) (v : BitVec 320) : Bool :=
  field v 7 1 == 0 && field v 24 40 == 0 && ((List.range 4).all fun j => field v (70 + 64 * j) 2 == 0)
    && field v 8 4 == 0 && decide ((seCode v).toNat + 16 * ((seSeln v).toNat + 1) ≤ 4096)
    && !(stage == 0 && seLookup v 0)
    && !((entryTables v).any (classNames s (field p 2 1)))
    && (List.range 64).all fun c => c == ctx.toNat ||
        !rangesMeet (codeRange v) (codeRange (stageEntry (s.pipe p) stage.toNat (BitVec.ofNat 6 c)))

/-- `STAGE_ENTRY_WRITE` (R106). -/
def execStageEntryWrite (p : BitVec 3) (stage : BitVec 4) (ctx : CtxId) (v : BitVec 320) (s : State) : Out :=
  slotDone (if !stageEntryOk s p stage ctx v then refuseWrite s
    else extend 5 6 ctx (leBytes 40 v.toNat) (s.modPipe p fun x =>
      { x with entries := smSet 0 x.entries (64 * stage.toNat + ctx.toNat) v }))

/-! ### Decode maps and routes (R159, R317) -/

/-- `DECODE_MAP_WRITE` (R159): maps 1 to 15 of both dies; a map is 1,024 entries, unwritten ones zero. -/
def execDecodeMapWrite (map : BitVec 4) (entries : List (BitVec 16)) (s : State) : Out :=
  slotDone (if map = 0 ∨ entries.length > 1024 ∨ !entries.all entryOk then refuseWrite s
    else
      let e := entries ++ List.replicate (1024 - entries.length) 0
      extend 3 4 0 (BitVec.ofNat 8 map.toNat :: e.flatMap fun x => leBytes 2 x.toNat)
        { s with dies := s.dies.map fun d =>
            { d with maps := d.maps.setIfInBounds (map.toNat - 1) e, mapsOk := d.mapsOk ||| (1 <<< map.toNat) } })

/-- `ROUTING_ENTRY_WRITE` (R317): in a service slot of the pipeline (R11). -/
def execRoutingEntryWrite (p : BitVec 3) (dst : BitVec 10) (v : BitVec 32) (s : State) : Out :=
  slotDone (if field v 25 7 ≠ 0 then refuseWrite s
    else (inService [p] s).modPipe p fun x => { x with routes := smSet 0 x.routes dst.toNat v })

end Sys2Proof.Machine
end

