-- ==== Sys2Proof/Machine/Manage.lean ====
section
/-! DEFINITION. Kenval's part of the machine: the fault queue's header and held faults (R348, R350), dumps (R369, R370),
attestation (R377, R378, R380), cold reset (R386), temperature and power (R384, R385), and the registers and tables
that no other row of the opcode table writes. -/

namespace Sys2Proof.Machine

/-! ### The fault queue (R348, R350) -/

/-- A write of the queue header (R348): HEAD moves unless it would pass TAIL; OVF clears where one is written; IE takes its
bit; the interrupt is acknowledged. -/
def writeHeader (die : BitVec 1) (v : Word) (s : State) : State :=
  s.modDie die fun d =>
    let h : BitVec 10 := field v 0 10
    { d with
      fqHead := if (h - d.fqHead).toNat ≤ fqPending d then h else d.fqHead
      fqOvf := d.fqOvf && !bit v 31
      fqIe := bit v 32
      fqIrq := false }

/-- The queue header as it reads (R348). -/
def readHeader (d : Die) : Word :=
  BitVec.ofNat 64 (packNat [(d.fqHead.toNat, 10), (0, 6), (d.fqTail.toNat, 10), (0, 5), (b2n d.fqOvf, 1), (b2n d.fqIe, 1)])

/-- `FAULT_QUEUE_HEADER_WRITE` (R348). -/
def execFaultQueueHeaderWrite (die : BitVec 1) (v : Word) (s : State) : Out := slotDone (writeHeader die v s)

/-- The unit whose held fault is entered next: the first with one from the pointer on, in rising order of unit
identifiers (R350). -/
def heldUnit (d : Die) : Option (BitVec 16) :=
  (d.fqHeld.map fun e => (field e 16 16 : BitVec 16)).foldl (fun best u =>
    match best with
    | none => some u
    | some b => if (u - d.fqHeldPtr).toNat < (b - d.fqHeldPtr).toNat then some u else best) none

/-- The oldest held fault of the chosen unit is entered or merged, if it can be. -/
def enterHeld (d : Die) : Die :=
  match heldUnit d with
  | none => d
  | some u =>
    match d.fqHeld.find? fun e => field e 16 16 == u with
    | none => d
    | some e =>
      if fqPending d ≥ 512 ∧ fqMergeIndex d e = none then d
      else dieEnter e { d with fqHeld := d.fqHeld.erase e, fqHeldPtr := u + 1 }

/-- `HELD_FAULT_ENTRY` (R350). -/
def execHeldFaultEntry (die : BitVec 1) (s : State) : Out := slotDone (s.modDie die enterHeld)

/-! ### Samples (R359, R361) -/

/-- `TRACE_SAMPLE` (R361): where the tile's sample period has ended, its record is due at the next bundle boundary. -/
def execTraceSample (t : TileId) (s : State) : Out :=
  slotDone (s.modTile t (endPeriod (samplePeriod (s.die (tileDie t)))))

/-! ### Core dumps (R369, R370) -/

/-- A leaf of a context's tree: where its entry lies, the first address that it maps, its level, and the entry. -/
structure LeafAt where
  at_ : Nat
  va : Nat
  lev : Nat
  e : Word
  deriving DecidableEq, Repr

/-- Bits of an address below what an index of a level selects. -/
def levelBits (lev : Nat) : Nat := match lev with | 4 => 39 | n => leafBits n

/-- The leaves below the table at a that a level indexes. -/
def leavesFrom (s : State) (ctx : CtxId) : Nat → Nat → Nat → List LeafAt
  | 0, _, _ => []
  | lev + 1, va, a =>
    (List.range (if lev = 0 then 32 else 512)).flatMap fun i =>
      let p := a + 8 * i
      let e : Word := BitVec.ofNat 64 (memReadLE s.hbm p 8)
      let v := va + i * 2 ^ levelBits (lev + 1)
      if !inHbm p 8 ∨ !pteV e ∨ !pteOk s ctx e (lev + 1) then []
      else if pteLeaf e then [⟨p, v, lev + 1, e⟩]
      else leavesFrom s ctx lev v (pteAddr e)

/-- Every leaf of a context. -/
def ctxLeaves (s : State) (ctx : CtxId) : List LeafAt := leavesFrom s ctx 4 0 (ctxPtRoot (s.ctx ctx).desc * 4096)

/-- SNAP of some leaves set or cleared. -/
def setSnap (b : Bool) (ls : List LeafAt) (s : State) : State :=
  ls.foldl (fun (s : State) l => { s with hbm := memWriteLE s.hbm l.at_ 8 (putField l.e 8 1 (b2v 1 b)).toNat }) s

/-- The largest effective lease of some leaves in nanoseconds. -/
def longestLease (s : State) (ctx : CtxId) (ls : List LeafAt) : Nat :=
  ls.foldl (fun n l => Nat.max n (leaseNs (leaseClass (ctxLeaseCap (s.ctx ctx).desc) (field l.e 9 3)))) 0

/-- Whether the drains that step 3 needs have returned: of the host link for classes 1 and 2, of the fabric for remote
windows. -/
def dumpDrained (s : State) (ls : List LeafAt) : Bool :=
  (!(ls.any fun l => pteClass l.e == 1 || pteClass l.e == 2) || s.tiles.all fun x => x.hostPend.isEmpty) &&
  (!(ls.any fun l => pteClass l.e == 4) || s.ports.all fun x => x.fab.all fun f => !isRequest (ytOpc (reqHeader f)))

/-- The listed bytes of a memory between two addresses, counted from the first. -/
def sliceMem (m : Mem) (a n : Nat) : Mem := (m.filter fun c => decide (a ≤ c.1 ∧ c.1 < a + n)).map fun c => (c.1 - a, c.2)

/-- The bytes of a leaf's page; a remote window has none here. -/
def leafBytes (s : State) (l : LeafAt) : Mem :=
  let n := 2 ^ leafBits l.lev
  let a := pteAddr l.e
  match (pteClass l.e).toNat with
  | 0 => sliceMem s.hbm a n
  | 1 => sliceMem s.cxlMem a n
  | 2 => sliceMem s.hostMem a n
  | 3 => sliceMem s.sward (a % 2 ^ 29) n
  | _ => []

/-- Every task of a context, suspended or stopped. -/
def ctxTasks (s : State) (ctx : CtxId) : List Task :=
  (s.queues.toList.flatMap fun q => q.resume.flatMap fun v => (v.members.map fun m => m.2).filter fun k => k.ctx == ctx) ++
    s.tiles.toList.filterMap fun x => if x.status ≠ .free ∧ x.task.ctx = ctx then some x.task else none

/-- What the dump holds but its pages (R369, R370). -/
def dumpData (s : State) (ctx : CtxId) (r : DumpRun) (t0 : Nat) : DumpData :=
  { ctx, t0, t3 := s.timeNs, first := r.first, faults := r.faults, overflow := r.overflow, tasks := ctxTasks s ctx
    banks := (ownedBanks s ctx).map fun b => (b, sliceMem s.sward (b * 2 ^ 18) (2 ^ 18))
    queues := ((List.range 128).map (BitVec.ofNat 7)).filterMap fun q =>
      if qOwner (s.queue q).desc = ctx then some (q, s.queue q) else none
    pages := [] }

/-- The first fault of a context: the trap of its stopped task that stopped first, with its die (R370). -/
def firstTrap (s : State) (ctx : CtxId) : Option (BitVec 1 × TrapRec) :=
  let stopped := ((List.range 256).map (BitVec.ofNat 8)).filter fun t =>
    let x := s.tile t
    x.status == .stopped && x.task.ctx == ctx && isFatal (field x.task.ycause 0 8)
  let earlier (a b : TileId) : TileId := if (s.tile b).task.stopTime < (s.tile a).task.stopTime then b else a
  match stopped with
  | [] => none
  | t :: l => let u := l.foldl earlier t; some (tileDie u, trapRecord (s.tile u).task)

/-- The dump leaves (R369): to a host buffer through the host link, or as frames on a port; its bytes are free (log 106). -/
def dumpLeaves (dest : DumpDest) (d : DumpData) (s : State) : State :=
  let s1 := { s with out := s.out ++ [Output.dump dest d], freeCount := s.freeCount + 1 }
  match dest with
  | .host pa => { s1 with hostMem := memWrite s1.hostMem pa.toNat (Config.dumpBytes s.freeCount) }
  | .port p => { s1 with out := s1.out ++ (Config.dumpFrames s.freeCount).map (Output.frame p) }

/-- The next page of a dump is copied and its SNAP cleared; with none left the dump leaves and the context becomes
TERMINATING. -/
def dumpPage (ctx : CtxId) (r : DumpRun) (d : DumpData) (s : State) : State :=
  match (ctxLeaves s ctx).find? fun l => bit l.e 8 with
  | some l =>
    let d' := { d with pages := d.pages ++ [(l.va, 2 ^ leafBits l.lev, leafBytes s l)] }
    (setSnap false [l] s).modCtx ctx fun x => { x with dump := some { r with written := some d' } }
  | none =>
    let s1 := endContext ctx 3 (dumpLeaves (s.die r.die).dumpTo { d with faults := r.faults, overflow := r.overflow } s)
    (s1.modCtx ctx fun x => { x with dump := none }).modDie r.die fun d => { d with dumps := d.dumps.filter (· ≠ ctx) }

/-- The next step of a dump that is first on its die (R369): SNAP and T0 once the tasks are saved; once the wait and the drains
are over, what is not pages; then page after page. -/
def dumpStep (ctx : CtxId) (r : DumpRun) (s : State) : State :=
  match r.t0, r.written with
  | none, _ =>
    let s1 := flushSaves ctx s
    if (s1.ctx ctx).saving then s1
    else
      let ls := ctxLeaves s1 ctx
      (setSnap true ls s1).modCtx ctx fun x => { x with dump := some { r with t0 := some (s.timeNs, longestLease s1 ctx ls) } }
  | some (t0, lease), none =>
    if s.timeNs ≤ t0 + lease + 4 ∨ !dumpDrained s (ctxLeaves s ctx) then s
    else s.modCtx ctx fun x => { x with dump := some { r with written := some (dumpData s ctx r t0) } }
  | some _, some d => dumpPage ctx r d s

/-- `CORE_DUMP` (R369, R370): the dump of a context begins, or takes its next step. -/
def execCoreDump (ctx : CtxId) (s : State) : Out :=
  slotDone (match (s.ctx ctx).dump with
    | some r => if (s.die r.die).dumps.head? = some ctx then dumpStep ctx r s else s
    | none =>
      if !s.ctxLive ctx then s
      else match firstTrap s ctx with
        | some (d, e) => queueDump d ctx (some e) s
        | none => queueDump 0 ctx none s)

/-! ### Measurement, attestation, reset (R377, R378, R380, R386) -/

/-- `MEASUREMENT_EXTEND` (R378): MEAS8 to MEAS15 by Kenval's extend operation, event types 0x80 to 0xFF; MEAS1 by its
image loader, event type 2. -/
def execMeasurementExtend (reg : BitVec 4) (ty : BitVec 8) (content : List Byte) (s : State) : Out :=
  slotDone (if (reg.toNat ≥ 8 ∧ ty.toNat ≥ 0x80) ∨ (reg = 1 ∧ ty = 2) then extend reg.toFin ty 0 content s else s)

/-- Bytes 0 to 1,135 of a report (R380). -/
def reportBody (nonce : BitVec 512) (s : State) : List Byte :=
  leBytes 8 1 ++ leBytes 64 nonce.toNat ++ leBytes 16 Config.serial.toNat ++ leBytes 2 s.chipId.toNat
    ++ List.replicate 6 0 ++ leBytes 8 s.ftime.toNat ++ leBytes 8 s.extends_.toNat ++ s.meas.toList.flatMap measBytes

/-- `ATTESTATION_REPORT` (R380). -/
def execAttestationReport (nonce : BitVec 512) (s : State) : Out :=
  let b := reportBody nonce s
  slotDone { s with out := s.out ++ [Output.report (b ++ signReport b)] }

/-- `COLD_RESET` (R377, R386): every state of the device is as at reset, and the ROM has measured the boot firmware. The
host's memory, the CXL pool, what has left the package, what the schedule holds and the free values used are not the
device's. -/
def execColdReset (s : State) : Out :=
  slotDone (extend 0 1 0 Config.bootFirmware
    { State.reset with hostMem := s.hostMem, cxlMem := s.cxlMem, out := s.out, sched := s.sched, freeCount := s.freeCount })

/-! ### Temperature and power (R384, R385) -/

/-- `THERMAL_THROTTLE` (R385): above 105 °C the die's tiles throttle, until below 100 °C. -/
def execThermalThrottle (die : BitVec 1) (hot : Bool) (s : State) : Out :=
  slotDone (s.modDie die fun d => { d with throttle := hot })

/-- A context becomes HALTED, whatever its state was (R385; log 17). -/
def haltContext (c : Context) : Context := { c with desc := putField c.desc 0 3 (2 : BitVec 3) }

/-- `THERMAL` (R385). -/
def execThermal (_die : BitVec 1) (s : State) : Out := slotDone { s with thermalStat := true, ctxs := s.ctxs.map haltContext }

/-- `THERMAL_POWER_OFF` (R385): nothing happens from here on but a cold reset. -/
def execThermalPowerOff (s : State) : Out := slotDone { s with poweredOff := true }

/-- `POWER_CAP` (R384): the power controller starts or stops to insert frozen cycles into the die's tiles. -/
def execPowerCap (die : BitVec 1) (on : Bool) (s : State) : Out := slotDone (s.modDie die fun d => { d with powerHeld := on })

/-- `D2D_LINK` (R346): the transfer is replayed, and the queue of die 0 names the fault. -/
def execD2dLink (s : State) : Out :=
  slotDone (enterFault 0 (faultEntry (causeCode .d2dLink) 0 3 0 0 0 0 s.timeNs) s)

/-! ### Errors of the memories (R261, R346) -/

/-- A read of a Sward line meets a single-bit error, which is corrected, written back and counted (R261). -/
def singleBitError (line : Nat) (s : State) : State := s.modCluster (sgaCluster (64 * line)) fun x => { x with ecc := x.ecc + 1 }

/-- A double-bit error marks a Sward line poisoned (R261). -/
def doubleBitError (line : Nat) (s : State) : State :=
  if 64 * line < 2 ^ 29 then { s with swardPoison := setAdd line s.swardPoison } else s

/-- An uncorrectable error marks an HBM4 line poisoned and enters the queue of its die (R346). -/
def hbmError (line : Nat) (s : State) : State :=
  let die : BitVec 1 := if 64 * line < 0x4000000000 then 0 else 1
  if inHbm (64 * line) 64 then
    enterFault die (faultEntry (causeCode .hbmUncorrected) 0 3 (unitName (.hbm die) 0) 0 0 0 s.timeNs)
      { s with hbmPoison := setAdd line s.hbmPoison }
  else s

/-! ### Kenval's registers and tables -/

/-- A write where a window accepts it. -/
def acceptIf (ok : Bool) (f : State → State) (s : State) : State := if ok then f s else refuseWrite s

/-- A monitor image (R146, R378). -/
def writeMonitor (t : TileId) (off : BitVec 13) (bytes : List Byte) (s : State) : State :=
  acceptIf (decide (off.toNat + bytes.length ≤ 0x2000)) (fun s =>
    extend 2 3 0 bytes (s.modTile t fun x => { x with imem := memWrite x.imem (0x20000 + off.toNat) bytes })) s

/-- A tile image registered for a context (R26, R378). -/
def registerImage (ctx : CtxId) (id : BitVec 32) (bytes : List Byte) (s : State) : State :=
  extend 6 7 ctx (leBytes 4 id.toNat ++ bytes)
    { s with images := (s.images.filter fun x => !(x.1 == ctx && x.2.1 == id)) ++ [(ctx, id, bytes)] }

/-- R359's tests of a trace control word. -/
def traceCtlOk (v : Word) : Bool :=
  !bit v 7 && field v 13 3 == 0 && field v 61 3 == 0 && decide (16 ≤ (field v 56 5).toNat ∧ (field v 56 5).toNat ≤ 30)

/-- The route mask as it reads: its fixed bits stand (R340). -/
def routeMaskOf (v : BitVec 256) : BitVec 256 := putField (v ||| (1 <<< 0x12)) 0xC0 32 (0 : BitVec 32)

/-- Recording or replay is switched (R371, R372): a mode that starts does so with the running hash and the divergence
status clear, recording with an empty log. -/
def setReplay (record replay : Bool) (c : Context) : Context :=
  let starts := (record && !c.recording) || (replay && !c.replaying)
  { c with
    recording := record, replaying := replay, logUsed := if replay && !c.replaying then [] else c.logUsed
    logW := if record && !c.recording then 0 else c.logW, logR := if record && !c.recording then 0 else c.logR
    hash := if starts then 0 else c.hash, div := c.div && !starts, divAt := if starts then 0 else c.divAt }

/-- A timed-launch entry is written (R142): DONE, LATE and TACT are the hardware's; an entry that is disarmed or given
another queue releases its tiles. -/
def writeTimed (die : BitVec 1) (i : BitVec 4) (v : BitVec 256) (s : State) : State :=
  let old := (s.timed die i).v
  let new := putField (putField (putField (putField v 84 2 (field old 84 2)) 128 64 (field old 128 64)) 86 42 (0 : BitVec 42))
    192 64 (0 : BitVec 64)
  let s1 := if !tlEn v ∨ tlQueue v ≠ tlQueue old then releaseTimed die i s else s
  s1.modTimed die i fun e => { e with v := new }

/-- One field of a retire block is zero (R376). -/
def zeroRetire (f : BitVec 2) (c : Context) : Context :=
  match f.toNat with
  | 0 => { c with tasks := 0 } | 1 => { c with icyc := 0 } | 2 => { c with fcyc := 0 } | _ => { c with endless := 0 }

/-- One counter is zero (R74). -/
def zeroCounter (p : BitVec 6) (i : BitVec 4) (s : State) : State :=
  if p.toNat < 32 then s.modPort (field p 0 5) fun x => { x with ctr := x.ctr.setIfInBounds i.toNat 0 }
  else if p.toNat = 32 then { s with hostCtr := s.hostCtr.setIfInBounds i.toNat 0 }
  else s

/-- A table entry, a zero entry not being listed. -/
def tableSet {n : Nat} (m : SMap (BitVec n)) (k : Nat) (v : BitVec n) : SMap (BitVec n) := smSet 0 m k v

/-- A limit in nanoseconds between two bounds. -/
def between (lo v hi : Nat) : Bool := decide (lo ≤ v ∧ v ≤ hi)

/-! ### Kenval's management address space (R409) -/

/-- Die and offset of an address among the die's fault queue, its header and the paging reply register (R409). -/
def kRegAt (a : Nat) : Option (BitVec 1 × Nat) :=
  if 0x200000000 ≤ a ∧ a < 0x200004018 then some (0, a - 0x200000000)
  else if 0x300000000 ≤ a ∧ a < 0x300004018 then some (1, a - 0x300000000)
  else none

/-- Physical address of an address in the HBM4 window (R409). -/
def kHbmAt (a : Nat) : Option Nat := if 0x4000000000 ≤ a ∧ a < 0xC000000000 then some (a - 0x4000000000) else none

/-- The fault of an access to an address with nothing behind it (R409, R419). -/
def kHole (a : Nat) : Option Fault :=
  match kHbmAt a, kRegAt a with
  | some p, _ => if inHbm p 1 then none else some (.hbmHole p)
  | none, some (_, o) => if 0x4008 ≤ o ∧ o < 0x4010 then some (.kenvalHole a) else none
  | none, none => some (.kenvalHole a)

/-- The byte at an address. -/
def kByte (s : State) (a : Nat) : Byte :=
  match kHbmAt a, kRegAt a with
  | some p, _ => memGet s.hbm p
  | none, some (d, o) =>
    if o < 0x4000 then byteAt (leBytes 32 ((s.die d).fqEntries.toList.getD (o / 32) 0).toNat) (o % 32)
    else if o < 0x4008 then byteAt (leBytes 8 (readHeader (s.die d)).toNat) (o - 0x4000)
    else byteAt (leBytes 8 (s.die d).reply.toNat) (o - 0x4010)
  | none, none => 0

/-- A store: bytes of HBM4, or a whole register; the queue's entries are the hardware's (R347; log 143). -/
def kenvalStore (a : Nat) (bs : List Byte) (s : State) : State :=
  let v : Word := BitVec.ofNat 64 (leNat bs)
  match kHbmAt a, kRegAt a with
  | some p, _ => { s with hbm := memWrite s.hbm p bs, hbmPoison := clearPoison s.hbmPoison p bs.length }
  | none, some (d, o) =>
    if bs.length ≠ 8 then s else if o = 0x4000 then writeHeader d v s else if o = 0x4010 then writeReply d v s else s
  | none, none => s

/-- A load into an integer register of a core, the bytes zero-extended (log 143); x0 stays zero. -/
def kenvalLoad (c : BitVec 2) (rd : BitVec 5) (a n : Nat) (s : State) : State :=
  let k := s.kenval[c.toNat]'c.isLt
  if rd = 0 then s
  else
    let v := BitVec.ofNat 64 (leNat ((List.range n).map fun i => kByte s (a + i)))
    { s with kenval := s.kenval.set c.toNat { k with x := k.x.set rd.toNat v rd.isLt } c.isLt }

/-- What a register write does. -/
def kenvalWrite (r : KReg) (s : State) : State :=
  match r with
  | .sward a bs => acceptIf (decide (a.toNat + bs.length ≤ 2 ^ 29)) (fun s => s.swardWrite a.toNat bs) s
  | .hbm a bs => { s with hbm := memWrite s.hbm a.toNat bs, hbmPoison := clearPoison s.hbmPoison a.toNat bs.length }
  | .remoteWindow i v => { s with windows := tableSet s.windows i.toNat v }
  | .grantTable b => { s with grantBase := b }
  | .grantEntry i v =>
    let a := grantPlace s i
    { s with hbm := memWriteLE s.hbm a 32 v.toNat, hbmPoison := clearPoison s.hbmPoison a 32 }
  | .grantKey c k => s.modCtx c fun x => { x with key := k }
  | .packetGroup g m => { s with packetGroups := tableSet s.packetGroups g.toNat m }
  | .fabricGroup g v => { s with fabGroups := tableSet s.fabGroups g.toNat v }
  | .monitorRoute d v => s.modDie d fun x => { x with routeMask := routeMaskOf v }
  | .monitorImage t off bs => writeMonitor t off bs s
  | .image c id bs => registerImage c id bs s
  | .traceControl d v => acceptIf (traceCtlOk v) (fun s => s.modDie d fun x => { x with traceCtl := v }) s
  | .traceContexts d v => s.modDie d fun x => { x with traceCtx := v }
  | .traceFilter d v m => s.modDie d fun x => { x with traceVal := v, traceMask := m }
  | .traceRptr d v => s.modDie d fun x => { x with rptr := v }
  | .replayControl c a b => s.modCtx c (setReplay a b)
  | .replayLog c b n =>
    acceptIf (decide (16 ≤ n.toNat ∧ n.toNat ≤ 30)) (fun s => s.modCtx c fun x => { x with logBase := b, logSize := n }) s
  | .replayPointers c w r => s.modCtx c fun x => { x with logW := w, logR := r, logUsed := [] }
  | .dumpTarget d t => s.modDie d fun x => { x with dumpTo := t }
  | .watchpoint c w v => s.modCtx c fun x => { x with watch := x.watch.set w.toNat v w.isLt }
  | .breakpoint t i en c a =>
    s.modTile t fun x => { x with breaks := x.breaks.set i.toNat (en, c, putField a 0 2 (0 : BitVec 2)) i.isLt }
  | .stepBit t b => s.modTile t fun x => { x with stepBit := b }
  | .sliceLength t v => acceptIf (between 4096 v.toNat (2 ^ 24)) (fun s => s.modTile t fun x => { x with sliceLen := v.toNat }) s
  | .watchdogLimit t v =>
    acceptIf (between 1000000 v.toNat 10000000000) (fun s => s.modTile t fun x => { x with watchLimit := v.toNat }) s
  | .remoteTimeout v => acceptIf (between 10000 v.toNat 100000000) (fun s => { s with remoteTimeout := v.toNat }) s
  | .timedLaunch d i v => writeTimed d i v s
  | .retireZero c f => s.modCtx c (zeroRetire f)
  | .retnZero q => s.modQueue q fun x => { x with retn := 0 }
  | .counterZero p i => zeroCounter p i s
  | .macfZero p => s.modPort p fun x => { x with macf := 0 }
  | .powerCap w => acceptIf (decide (w.toNat ≤ 1500)) (fun s => { s with powerCap := w }) s
  | .tablePrefix d t e k l => (inService (diePipes d) s).modDie d (setPrefix ⟨t, e.toNat, k, l.toNat⟩)
  | .laneLimits p th fl => s.modPort p fun x => { x with laneThresh := th.toNat, laneFloor := fl.toNat }
  | .kenvalSram a bs =>
    acceptIf (decide (a.toNat + bs.length ≤ 2 ^ 23)) (fun s => { s with kenvalSram := memWrite s.kenvalSram a.toNat bs }) s
  | .kenvalCore c pc x f => { s with kenval := s.kenval.set c.toNat ⟨pc, x, f⟩ c.isLt }
  | .store a bs => kenvalStore a.toNat bs s
  | .load c rd a z => kenvalLoad c rd a.toNat (sizeBytes z) s
  | .clockStep v => acceptIf (s.ctxs.all fun c => field c.desc 0 3 != 1) (fun s => { s with timeNs := v.toNat, timeFrac := 0 }) s

/-- The fault of the first byte of an access to memory, or to Kenval's management space, at which there is nothing (R409, R419). -/
def windowHole (r : KReg) : Option Fault :=
  match r with
  | .hbm a bs => (((List.range bs.length).map fun i => a.toNat + i).find? fun x => !inHbm x 1).map .hbmHole
  | .store a bs => (List.range bs.length).findSome? fun i => kHole (a.toNat + i)
  | .load _ _ a z => (List.range (sizeBytes z)).findSome? fun i => kHole (a.toNat + i)
  | _ => none

/-- Whether a Kenval access waits for the scrub of a Sward bank (R262). -/
def scrubHolds (r : KReg) (s : State) : Bool :=
  match r with
  | .sward a bs => (extentBanks a.toNat bs.length).any s.scrubbing.contains
  | _ => false

/-- `KENVAL_REGISTER_WRITE` (R20, R409): a write to a bank under scrub waits for its end (R262). -/
def execKenvalRegisterWrite (r : KReg) (s : State) : Out :=
  match windowHole r with
  | some f => .fault f
  | none => slotDone (if scrubHolds r s then s else kenvalWrite r s)

end Sys2Proof.Machine
end

