-- ==== Sys2Proof/Machine/Matrix.lean ====
section
/-! DEFINITION. The matrix unit: configuration (R241), loads of B (R242 to R244, R55, R56), feeds of A (R245 to R247), the
multiplies (R248 to R251) and `MCLR` (R252). -/

namespace Sys2Proof.Machine

/-- An M-slot instruction (R139). -/
def runMatrix (regs : List (BitVec 6)) (body : State → SlotRes) (s : State) : Out :=
  runClaiming [.vector, .matrix] regs body s

/-! ### Configuration (R241) -/

def cfgP (c : Word) : Nat := (field c 0 4).toNat
def cfgQ (c : Word) : Nat := (field c 4 4).toNat
def cfgMid (c : Word) : Bool := bit c 8
def cfgSp (c : Word) : BitVec 3 := field c 9 3
def cfgWlo (c : Word) : BitVec 8 := field c 12 8
def cfgWhi (c : Word) : BitVec 8 := field c 20 8

/-- Whether a configuration word is allowed. -/
def cfgOk (c : Word) : Bool :=
  decide (2 ≤ cfgP c ∧ cfgP c ≤ 8 ∧ 2 ≤ cfgQ c ∧ cfgQ c ≤ 8 ∧ (cfgSp c).toNat ≤ 4 ∧ (cfgWlo c).toNat ≤ (cfgWhi c).toNat)
    && field c 28 36 == 0

/-- `MCFG` (R241). -/
def execMcfg (a : BitVec 6) (s : State) : Out :=
  runMatrix [a] (fun s =>
    let v := readS s.tk a
    if cfgOk v then .ok (emit 1 (.mcfg v) s) else .trap .matArg (wordTval s 1)) s

/-- N of a sparse mode code (R241). -/
def sparseN (sp : BitVec 3) : Nat :=
  match sp.toNat with
  | 1 => 8 | 2 => 12 | 3 => 16 | 4 => 24 | _ => 0

/-- Entries that one logical A row spans (R249). -/
def entriesPerRow (sp : BitVec 3) : Nat :=
  match sp.toNat with
  | 1 => 6 | 2 => 4 | 3 => 3 | 4 => 2 | _ => 1

/-- Whether the array streams in the acting tile's issue cycle (R251). -/
def streaming (s : State) : Bool := decide (s.me.ic < s.tk.mat.streamEnd)

/-! ### Head slots (R242, R265) -/

/-- The handle as its own tile's instructions see it: advances of earlier bundles that have not taken place count (R264, R288;
log 125). -/
def aheadHandle (cmds : List Cmd) (k : Task) (h : BitVec 4) (x : Handle) : Handle := passSlots x (pendingAdvance cmds k h)

/-- The head slot of a valid handle, filled, with the tag that it was published with accepted (R265). -/
def withHead (h : BitVec 4) (accept : BitVec 6 → Bool) (body : Handle → State → SlotRes) (s : State) : SlotRes :=
  needHandle h (fun x0 s =>
    let x := aheadHandle s.cmds s.tk h x0
    if filledSlots x0 ≤ (pendingAdvance s.cmds s.tk h).toNat then .freeze .handle
    else checkTags [⟨3, headTag x, false, accept (headTag x)⟩] (body x) s) s

/-- n bytes of the head slot, read after the checks of R29 and bank admission (R141). -/
def readHead (x : Handle) (n : Nat) (body : List Byte → State → SlotRes) (s : State) : SlotRes :=
  let la := slotLa x x.head
  match laCheck s.tk.regions la n true false with
  | .error c => .trap c (swardTval (laOff la) (laReg la) 0 false)
  | .ok sga =>
    match admitBanks (taskAccessor s.tk) (extentBanks sga n) s with
    | none => .freeze .bank
    | some s' =>
      if poisonedRange s'.swardPoison sga n then
        .ok (addImpFault s'.cur ⟨s'.eng, causeCode .poisonedData, 0, 0, 0, 0, none⟩ s')
      else body (s'.slotRead sga n) s'

/-! ### Loads of B (R242 to R244) -/

/-- A stored value read with q planes (R51, R243). -/
def truncPlanes (q : Nat) (x : Byte) : Byte := x &&& (BitVec.allOnes 8 <<< (8 - q))

/-- The W-array after a dense load of columns c0 to c1 (R243, R244). -/
def denseLoad (m : Matrix) (q c0 c1 : Nat) (bs : List Byte) : Vector (Vector Byte 256) 256 :=
  let a := bs.toArray
  Vector.ofFn fun k => Vector.ofFn fun j =>
    if c0 ≤ j.val ∧ j.val ≤ c1 then truncPlanes q (a.getD ((c1 - c0 + 1) * k.val + (j.val - c0)) 0) else m.w[k][j]

/-- `MLOADB` (R242 to R244). -/
def execMloadb (h : BitVec 4) (a : BitVec 6) (s : State) : Out :=
  runMatrix [a] (fun s =>
    let w := readS s.tk a
    let c0 := (field w 0 8).toNat
    let c1 := (field w 8 8).toNat
    let m := s.tk.mat
    if m.load.isSome then .freeze .matrix
    else if field w 17 47 ≠ 0 ∨ c1 < c0 then .trap .matArg (wordTval s 2)
    else withHead h (acceptTag tagI8) (fun x s =>
      if slotBytes x < 256 * (c1 - c0 + 1) then .trap .matArg (wordTval s 3)
      else if m.mode ≠ 0 ∧ ¬ (c0 = 0 ∧ c1 = 255) then .trap .matMode (wordTval s 2)
      else if streaming s then .trap .matBusy (wordTval s 1)
      else readHead x (256 * (c1 - c0 + 1)) (fun bs s =>
        .ok (s.modTask fun k => { k with mat := { k.mat with
          load := some { at_ := k.icyc, w := denseLoad m (cfgQ m.cfg) c0 c1 bs, idx := m.idx
                         mode := if c0 = 0 ∧ c1 = 255 then 0 else m.mode, handle := h, adv := bit w 16 } } })) s) s) s

/-- Index of column j in metadata row u (R55). -/
def metaIndex (a : Array Byte) (base u j : Nat) : Nat :=
  let b := 6 * j
  let at_ := base + 192 * u + b / 8
  ((a.getD at_ 0).toNat + 256 * (a.getD (at_ + 1) 0).toNat) / 2 ^ (b % 8) % 64

/-- Whether column j of group g breaks R56. -/
def metaFails (a : Array Byte) (base n g j : Nat) : Bool :=
  (List.range n).any fun t =>
    let i := metaIndex a base (n * g + t) j
    decide (i > 47) || (decide (t > 0) && decide (i ≤ metaIndex a base (n * g + t - 1) j))

/-- The first group that breaks R56, and its lowest column that does (DESIGN CHOICE, log 127: the manual does not say which of
several columns YTVAL names). -/
def metaFault (a : Array Byte) (base n groups : Nat) : Option (Nat × Nat) :=
  (List.range groups).findSome? fun g => ((List.range 256).find? (metaFails a base n g)).map fun j => (g, j)

/-- `MLOADBS` (R242 to R244). -/
def execMloadbs (h : BitVec 4) (a : BitVec 6) (s : State) : Out :=
  runMatrix [a] (fun s =>
    let w := readS s.tk a
    let m := s.tk.mat
    let n := sparseN (cfgSp m.cfg)
    let g := 256 / n
    if m.load.isSome then .freeze .matrix
    else if field w 17 47 ≠ 0 ∨ field w 0 8 ≠ 0 ∨ field w 8 8 ≠ 255 then .trap .matArg (wordTval s 2)
    else if cfgSp m.cfg = 0 then .trap .matMode (wordTval s 3)
    else withHead h (acceptTag tagI8) (fun x s =>
      if slotBytes x < 448 * n * g then .trap .matArg (wordTval s 3)
      else if streaming s then .trap .matBusy (wordTval s 1)
      else readHead x (448 * n * g) (fun bs s =>
        let b := bs.toArray
        match metaFault b (256 * n * g) n g with
        | some (gr, j) => .trap .sparseMeta (BitVec.ofNat 64 (packNat [(j, 8), (gr, 6)]))
        | none =>
          .ok (s.modTask fun k => { k with mat := { k.mat with
            load := some
              { at_ := k.icyc
                w := Vector.ofFn fun u => Vector.ofFn fun j =>
                  if u.val < n * g then truncPlanes (cfgQ m.cfg) (b.getD (256 * u.val + j.val) 0) else 0
                idx := Vector.ofFn fun u => Vector.ofFn fun j =>
                  if u.val < n * g then BitVec.ofNat 6 (metaIndex b (256 * n * g) u.val j.val) else 0
                mode := cfgSp m.cfg, handle := h, adv := bit w 16 } } })) s) s) s

/-! ### Feeds of A (R245 to R247, R50) -/

/-- The 256 elements of a stored BPI row of s planes (R50). -/
def bpiRow (a : Array Byte) (base s : Nat) : Vector Byte 256 :=
  Vector.ofFn fun e => BitVec.ofNat 8 ((List.range s).foldl (fun v j =>
    v + b2n (bit (a.getD (base + 32 * j + e.val / 8) 0) (e.val % 8)) * 2 ^ (7 - j)) 0)

/-- Entries that cannot be appended (R247). -/
def rowsFull (m : Matrix) (n : Nat) : Bool := decide (m.rows.length + n > 64)

/-- `MFEED` (R245, R247): the data is read at issue and lands later. -/
def execMfeed (h : BitVec 4) (mm1 : BitVec 6) (adv : Bool) (s : State) : Out :=
  runMatrix [] (fun s =>
    let m := mm1.toNat + 1
    withHead h isPL (fun x s =>
      let p := plPlanes (headTag x)
      if slotBytes x < 32 * p * m then .trap .matArg (wordTval s 3)
      else if rowsFull s.tk.mat m then .trap .matRows (wordTval s 1)
      else readHead x (32 * p * m) (fun bs s =>
        let a := bs.toArray
        .ok (s.modTask fun k => { k with mat := { k.mat with
          feeds := k.mat.feeds ++ [{ handle := h, adv, at_ := k.icyc, next := k.mat.rowCount, left := m }]
          rowCount := k.mat.rowCount + m
          rows := k.mat.rows ++ (List.range m).map fun i =>
            { num := k.mat.rowCount + i, elems := bpiRow a (32 * p * i) p, planes := BitVec.ofNat 4 p, landed := false, claim := none } } })) s) s) s

/-- The elements of a register in plane layout (R53). -/
def planeElems (v : VReg) : Vector Byte 256 :=
  Vector.ofFn fun e => BitVec.ofNat 8 ((List.range (plPlanes v.tag)).foldl (fun n j =>
    n + b2n (bit (v.lanes.toArray.getD (8 * j + e.val / 32) 0) (e.val % 32)) * 2 ^ (7 - j)) 0)

/-- `MPUSH` (R246, R247). -/
def execMpush (a : BitVec 6) (s : State) : Out :=
  runMatrix [] (fun s =>
    let v := readV s.tk a
    checkTags [⟨0, v.tag, false, isPL v.tag⟩] (fun s =>
      if rowsFull s.tk.mat 1 then .trap .matRows (wordTval s 1)
      else .ok (s.modTask fun k => { k with mat := { k.mat with
        rowCount := k.mat.rowCount + 1
        rows := k.mat.rows ++ [{ num := k.mat.rowCount, elems := planeElems v, planes := BitVec.ofNat 4 (plPlanes v.tag), landed := true
                                 claim := none }] } })) s) s

/-! ### Multiply (R248 to R251) -/

/-- Σ over the stored rows of the W-array that stand for B, of those whose A element is selected (R55, R250): `sel g i`
says whether A element i of group g (dense: element i) counts. -/
def columnSum (m : Matrix) (sel : Nat → Bool) (j : Fin 256) : Int :=
  let n := sparseN m.mode
  if n = 0 then (List.finRange 256).foldl (fun t k => if sel k.val then t + (m.w[k][j]).toInt else t) 0
  else (List.finRange 256).foldl (fun t u =>
    if u.val < n * (256 / n) ∧ sel (48 * (u.val / n) + (m.idx[u][j]).toNat) then t + (m.w[u][j]).toInt else t) 0

/-- Weight of bit-plane b (R250). -/
def planeWeight (b : Nat) : Int := if b = 7 then -128 else 2 ^ b

/-- The addends of one logical row: a contribution per plane, then the midpoint correction (R250). -/
def rowAddends (m : Matrix) (entries : List RowEntry) (p : Nat) (mid : Bool) : List (Vector Int 256) :=
  let a := entries.toArray.map fun e => e.elems.toArray
  let elem (k : Nat) : Byte := (a.getD (k / 256) #[]).getD (k % 256) 0
  let planes := (List.range p).map fun i =>
    Vector.ofFn fun j => planeWeight (7 - i) * columnSum m (fun k => bit (elem k) (7 - i)) j
  if mid && decide (p < 8) then planes ++ [Vector.ofFn fun j => 2 ^ (7 - p) * columnSum m (fun _ => true) j] else planes

/-- The entries that a multiply reserves, with the cycles in which each is first read and released (R247, R249). -/
def claimEntries (c p e : Nat) : Nat → Nat → List RowEntry → List RowEntry
  | 0, _, rows => rows
  | _, _, [] => []
  | n + 1, i, r :: rows =>
    if r.claim.isSome then r :: claimEntries c p e (n + 1) i rows
    else { r with claim := some (c + 1 + i / e * p, c + (i / e + 1) * p + 1) } :: claimEntries c p e n (i + 1) rows

/-- Row commits that have not landed, those that wait while the monitor runs too (R251, R341). -/
def pendingRows (k : Task) : Nat := ((k.pend ++ k.lwb).filter isRowLanding).length

/-- Whether a commit to physical row r is pending. -/
def rowPending (k : Task) (r : BitVec 6) : Bool :=
  (k.pend ++ k.lwb).any fun l => match l.val with | .row x .. => x == r | _ => false

/-- A multiply (R249 to R251). -/
def multiply (d mm1 : BitVec 6) (mac alwaysMid : Bool) (s : State) : Out :=
  runMatrix [] (fun s =>
    let k := s.tk
    let m := mm1.toNat + 1
    let mx := k.mat
    let p := cfgP mx.cfg
    let e := entriesPerRow mx.mode
    let row (r : Nat) : BitVec 6 := physV k.rot (BitVec.ofNat 6 (d.toNat + r))
    let tags := if mac then (List.range m).filterMap fun r =>
        if rowPending k (row r) then none
        else some (⟨2, (physReadV k (row r)).tag, true, (physReadV k (row r)).tag == tagI40⟩ : Src)
      else []
    if mx.load.isSome then .freeze .matrix
    else checkTags tags (fun s =>
      if streaming s then .trap .matBusy (wordTval s 1)
      else if pendingRows k + m > 64 then .trap .matBusy (wordTval s 2)
      else if cfgSp mx.cfg ≠ mx.mode then .trap .matMode (wordTval s 1)
      else if (mx.rows.filter fun r => r.claim.isNone).length < m * e then .trap .matRows (wordTval s 2)
      else
        let c := s.me.ic
        let free := mx.rows.filter fun r => r.claim.isNone
        let s1 := (List.range m).foldl (fun s r =>
          emit (10 + (r + 1) * p) (.row (row r) mac (cfgWlo mx.cfg) (cfgWhi mx.cfg)
            (rowAddends mx ((free.drop (r * e)).take e) p (alwaysMid || cfgMid mx.cfg))) s) s
        .ok (s1.modTask fun k => { k with mat := { k.mat with
          rows := claimEntries c p e (m * e) 0 k.mat.rows, streamEnd := c + m * p } })) s) s

/-- `MMUL` (R248). -/
def execMmul (d mm1 : BitVec 6) (s : State) : Out := multiply d mm1 false false s

/-- `MMAC` (R248). -/
def execMmac (d mm1 : BitVec 6) (s : State) : Out := multiply d mm1 true false s

/-- `MMUL.MID` (R248). -/
def execMmulMid (d mm1 : BitVec 6) (s : State) : Out := multiply d mm1 false true s

/-- `MMAC.MID` (R248). -/
def execMmacMid (d mm1 : BitVec 6) (s : State) : Out := multiply d mm1 true true s

/-! ### Clearing (R252) -/

/-- `MCLR` with a mask. -/
def mclr (w rb cfg : Bool) (s : State) : Out :=
  runMatrix [] (fun s =>
    if w && s.tk.mat.load.isSome then .freeze .matrix
    else if w && streaming s then .trap .matBusy (wordTval s 1)
    else .ok (emit 1 (.mclr w rb cfg) s)) s

/-- `MCLR` with W in its mask (R252). -/
def execMclrW (rb cfg : Bool) (s : State) : Out := mclr true rb cfg s

/-- `MCLR` with RB and not W in its mask (R252). -/
def execMclrRb (cfg : Bool) (s : State) : Out := mclr false true cfg s

/-- `MCLR` of the configuration only (R252). -/
def execMclrCfg (s : State) : Out := mclr false false true s

end Sys2Proof.Machine
end

