-- ==== Sys2Proof/Machine/Pipeline.lean ====
section
/-! DEFINITION. A packet's way through its pipeline: classification and selection of a block (R79 to R81, R107), disposition and
deparse (R92, R93, R121), and the payload engines (R87 to R91). -/

namespace Sys2Proof.Machine

/-! ### Stages (R79, R107) -/

/-- Whether a packet passes the stages without action code: a frame in transit, or one for a fabric engine (R72, R81). -/
def isTransit (k : Packet) : Bool := bit (getF k.phv 7) 2
def isEngineFrame (k : Packet) : Bool := k.frame.yt && !isTransit k && isEngineOpc (ytOpc (ytHeader k.frame.bytes))

/-- The classification lookup of a packet (R79, R80), which names no selector (R106); none where no table is looked up. -/
def classLookup (s : State) (p : BitVec 3) (k : Packet) : Option Lookup :=
  let c := (s.pipe p).cls
  let t : BitVec 6 := field c 64 6
  if bit c 70 && tblEn (s.table (field p 2 1) t) then
    some { tblLookup s (field p 2 1) t (keyBytes k.phv (field c 0 56) (field c 56 3).toNat) with enabled := false }
  else none

/-- The context of a packet by its classification lookup; none: the packet is dropped (R79). -/
def classify (s : State) (k : Packet) (l : Option Lookup) : Option CtxId :=
  match l.filter fun x => x.hit with
  | some x => some (field (byteAt x.data 0) 0 6)
  | none =>
    let port := k.frame.ref.port
    if port.toNat < 32 then
      let cfg := (s.port (field port 0 5)).cfg
      if bit cfg 3 then some (field cfg 4 6) else none
    else none

/-- The record of a packet in its context's log: kind 3, pipeline, CRC-32C over F0 to F127 (R371; log 19). -/
def packetLog (p : BitVec 3) (f : Phv) : BitVec 512 :=
  logOf [(3, 8), (p.toNat, 8), (0, 16), ((crc32c (f.toList.flatMap fun v => [field v 8 8, field v 0 8])).toNat, 32)]

/-- A packet's block begins, or it passes the stage unchanged (R107); f is its header vector at stage entry. -/
def beginBlock (p : BitVec 3) (k : Packet) (f : Phv) (l0 : Option Lookup) (s : State) : State :=
  let e := stageEntry (s.pipe p) k.stage k.ctx
  if !s.ctxLive k.ctx then dropPacket p k .noclass s
  else if !seEn e then nextStage p k s
  else match stageLookups s p k.stage k.ctx f l0 e [0, 1, 2, 3] with
    | .error c => actionFault p k c 0 s
    | .ok ls =>
      let sel := stageSelector ls
      if sel.toNat > (seSeln e).toNat then actionFault p k .actArg 0 s
      else
        let run : StageRun :=
          { pkt := k, wk := k.phv, ops := [], n := 0, i := 0, ended := false
            lookups := Vector.ofFn fun j => ls.getD j.val (noLookup s j.val), cellOps := 0, pays := 0
            base := seCode e + BitVec.ofNat 12 (16 * sel.toNat), route := k.route, fault := none }
        { s.modPipe p fun x => { x with run := some run, runStage := BitVec.ofNat 4 k.stage } with
          focus := .stage p, freeCount := s.freeCount + 224 }

/-- Entries of a payload engine's queue (R88). -/
def payDepth : Nat := 4096

/-- Log records that a packet's stage may make: its hash and a fire for each cell operation of its commit (R111, R371). -/
def stageRecords : Nat := 3

/-- Whether a table that a stage may look up has a bank under scrub (R262). -/
def tablesScrub (s : State) (p : BitVec 3) (stage : Nat) : Bool :=
  (s.die (field p 2 1)).tables.any fun d => tblEn d && tblCluster d == stageCluster p stage &&
    s.scrubbing.any fun b => decide (tblBank d ≤ b ∧ b < tblBank d + tblBanks d)

/-- Whether a bank under scrub is one that a context's block at a stage may access: one of the context in the stage's cluster, or
one of its cells (R85, R262). -/
def blockScrubs (s : State) (p : BitVec 3) (stage : Nat) (ctx : CtxId) : Bool :=
  let d := (s.ctx ctx).desc
  s.scrubbing.any fun b =>
    (decide (b / 128 = (stageCluster p stage).toNat) && bankOwner (s.bank b) == ctx) ||
      (extentBanks (ctxCellBase d) (32 * ctxCellN d)).contains b

/-- Whether a block of a context must wait at a stage: for room in the context's replay log (R371), or for a scrub (R262). -/
def blockWaits (s : State) (p : BitVec 3) (stage : Nat) (ctx : CtxId) : Bool :=
  logFull s ctx stageRecords || blockScrubs s p stage ctx

/-- A packet's turn at its stage; at stage 0 it is classified first (R79). It waits while its block must. -/
def stagePacket (p : BitVec 3) (k : Packet) (s : State) : State :=
  if isTransit k || isEngineFrame k then nextStage p k s
  else if tablesScrub s p k.stage then s
  else if k.stage ≠ 0 then (if blockWaits s p k.stage k.ctx then s else beginBlock p k k.phv none s)
  else
    let l := classLookup s p k
    match classify s k l with
    | none => dropPacket p k .noclass s
    | some ctx =>
      let k' := { k with phv := setF k.phv 2 (0x8000 ||| ctx.setWidth 16) }
      if !s.ctxLive ctx then dropPacket p k .noclass s
      else if blockWaits s p 0 ctx then s
      else beginBlock p k' k.phv l (logAnswer true ctx (packetLog p k'.phv) (replacePacket p k k' s)).1

/-- `STAGE_EXECUTE` (R79, R107, R111): the oldest packet at a stage. A packet waits while its stage's payload queue is full
(DESIGN CHOICE, log 129). -/
def execStageExecute (p : BitVec 3) (stage : BitVec 4) (s : State) : Out :=
  slotDone (match packetAt (s.pipe p) stage.toNat with
    | none => s
    | some k =>
      if (s.cluster (stageCluster p stage.toNat)).pay.length ≥ payDepth then s else stagePacket p k (inPipeOrder p s))

/-! ### Deparse (R121) -/

/-- One extracted field goes back to the bytes it came from. -/
def putExtract (f : Phv) (bs : List Byte) (e : BitVec 7 × Nat × Nat × Nat × Bool) : List Byte :=
  let (d, i, lsb, w, le) := e
  let old := frameWord bs i le
  let mask : BitVec 16 := BitVec.ofNat 16 ((2 ^ w - 1) * 2 ^ lsb)
  let v := (old &&& ~~~mask) ||| ((getF f d <<< lsb) &&& mask)
  spliceBytes bs i (if le then [field v 0 8, field v 8 8] else [field v 8 8, field v 0 8])

/-- The header that F16 to F29 form, with an E2ECRC and HOPS. -/
def phvHeader (f : Phv) (e2e : BitVec 32) : BitVec 256 :=
  BitVec.ofNat 256 (packNat (((List.range 14).map fun i => ((getF f (BitVec.ofNat 7 (16 + i))).toNat, 16))
    ++ [(e2e.toNat, 32)]))

/-- A packet's frame rebuilt; a YT frame with HOPS decremented, but for a refusal, and its reserved bits zero (R71, R92,
R121). -/
def deparse (s : State) (k : Packet) : List Byte :=
  if !k.frame.yt then k.extracts.foldl (putExtract k.phv) k.frame.bytes
  else
    let h := phvHeader k.phv (if k.refusal then 0 else ytE2e (ytHeader k.frame.bytes))
    let h1 := if k.refusal then h else putField h 157 6 (ytHops h - 1)
    let h2 := putField h1 20 3 (datelineTc (k.route.getD false) (ytTc h1))
    leBytes 32 (putField h2 164 28 (0 : BitVec 28)).toNat ++ bytesAt (payBytes s k.frame 32 (ytLen h2)) 0 (64 * ceilDiv (ytLen h2) 64)

/-! ### Disposition (R92, R93) -/

/-- The egress ports that F8 names (R93). -/
def dispositionPorts (s : State) (k : Packet) : List (BitVec 5) :=
  let f8 := getF k.phv 8
  let dest := field f8 0 10
  if bit f8 14 then
    let mask := smGet 0 s.packetGroups dest.toNat
    ((List.range 32).filter fun i => bit mask i && decide (i ≠ k.frame.ref.port.toNat)).map (BitVec.ofNat 5)
  else if dest.toNat < 32 then [field dest 0 5] else []

/-- Whether an egress can carry a frame of this framing (R93); one that is down carries none (R332). -/
def carries (s : State) (yt : Bool) (p : BitVec 5) : Bool :=
  (s.port p).mode == (if yt then 2 else 1) && !(s.port p).down

/-- n drops counted at a port. -/
def countDrops (p : BitVec 6) (n : Nat) (s : State) : State := (List.range n).foldl (fun (s : State) _ => count p .drop s) s

/-- A classified packet leaves stage 15 (R92, R93). A group whose mask holds the ingress port alone counts one DROP (DESIGN
CHOICE, log 129). -/
def dispose (p : BitVec 3) (k : Packet) (s : State) : State :=
  let port := k.frame.ref.port
  let f8 := getF k.phv 8
  if !bit f8 15 then (if bit (getF k.phv 9) 0 then s else count port .drop s)
  else
    let ports := dispositionPorts s k
    let good := ports.filter (carries s k.frame.yt)
    if ports.isEmpty then count port .drop s
    else if good.isEmpty then countDrops port ports.length s
    else if k.frame.yt ∧ !k.refusal ∧ ytHops (phvHeader k.phv 0) = 0 then count port .hopexp s
    else
      let f : OutFrame := ⟨k.frame.ref, deparse s k, k.frame.yt, datelineTc (k.route.getD false) (field (getF k.phv 10) 0 3),
        false, false, k.route.map fun _ => p, 0⟩
      good.foldl (fun (s : State) q => toEgress q f s) (countDrops port (ports.length - good.length) s)

/-- A frame in transit leaves by the routing table with HOPS decremented; a late error stomps it (R81, R318). -/
def disposeTransit (p : BitVec 3) (k : Packet) (s : State) : State :=
  let f := k.frame
  let h := ytHeader f.bytes
  match sendRouted p f.ref.port f.ref (withHeader f.bytes (putField h 157 6 (ytHops h - 1))) f.stomp true s with
  | some s' => s'
  | none => count f.ref.port .drop s

/-- `PACKET_DISPOSITION` (R92): the oldest packet that has left stage 15. -/
def execPacketDisposition (p : BitVec 3) (s : State) : Out :=
  slotDone (match packetAt (s.pipe p) 16 with
    | none => s
    | some k =>
      let s1 := removePacket p k s
      tidyPorts (
        if isTransit k then disposeTransit p k s1
        else if isEngineFrame k then
          let port := k.frame.ref.port
          s1.modPort (if port.toNat < 32 then field port 0 5 else 0) fun x =>
            { x with fab := x.fab ++ [⟨k.frame, none, false, false⟩] }
        else dispose p k s1))

/-! ### The payload engines (R87 to R91) -/

/-- The word that an add leaves (R62, R87). -/
def payAdd (op : BitVec 2) (old v : BitVec 32) : BitVec 32 :=
  if op = 1 then old + v
  else if op = 2 then BitVec.ofInt 32 (satInt (old.toInt + v.toInt) (-2 ^ 31) (2 ^ 31 - 1))
  else addRne32 old v

/-- One word of an add; a poisoned line takes nothing (R91). -/
def payAddWord (o : PayOp) (s : State) (i : Nat) : State :=
  let a := o.dst + 4 * i
  if s.swardPoison.contains (a / 64) then s
  else
    let old : BitVec 32 := BitVec.ofNat 32 (memReadLE s.sward a 4)
    let v : BitVec 32 := BitVec.ofNat 32 (leNat (bytesAt o.bytes (4 * i) 4))
    { s with sward := memWriteLE s.sward a 4 (payAdd o.op old v).toNat }

/-- The bytes of an operation land. -/
def payLand (o : PayOp) (s : State) : State :=
  if o.op = 0 then s.swardWrite o.dst o.bytes
  else (List.range (o.bytes.length / 4)).foldl (payAddWord o) s

/-- Whether an operation that an earlier stage issued for the same packet has still to be performed (R89). -/
def payEarlier (s : State) (o : PayOp) : Bool :=
  s.clusters.toList.any fun c => c.pay.any fun e => e.ref == o.ref && decide (e.stage < o.stage)

/-- The linked arrives of an operation (R89, R116). -/
def payArrives (o : PayOp) (s : State) : State :=
  o.arrives.foldl (fun (s : State) x => (cellOpReport o.ctx x.1 (.arrive x.2) o.unit 0 s).1) s

/-- Whether the cells of an operation must wait: for room in the replay log of its context (R371), or for a scrub (R262). -/
def payStalls (s : State) (o : PayOp) : Bool :=
  let cells := o.cell.toList ++ o.arrives.map fun x => x.1
  !cells.isEmpty && (logFull s o.ctx (o.arrives.length + 1) || cells.any fun c => cellScrubs s o.ctx c)

/-- The linked arrives whose packets have no earlier operation left are applied (R89). -/
def settleArrives (s : State) : State :=
  let waits (s : State) (o : PayOp) : Bool := payEarlier s o || payStalls s o
  s.payWait.foldl (fun (s : State) o => if waits s o then { s with payWait := s.payWait ++ [o] } else payArrives o s)
    { s with payWait := [] }

/-- The cell operations of an operation that has landed whole: its delivery, then its linked arrives, once every earlier
operation of its packet is performed (R89, R116). -/
def payCells (o : PayOp) (s : State) : State :=
  let s1 := match o.cell, o.dlv with
    | some c, true => (cellOpReport o.ctx c (.delivery o.bytes.length) o.unit 0 s).1
    | _, _ => s
  if payEarlier s o then { s1 with payWait := s1.payWait ++ [o] } else payArrives o s1

/-- What an operation names in an E2E_CRC entry: its cell, else the first of its arrives (R422). -/
def payCell (o : PayOp) : Option (BitVec 16) :=
  match o.cell with
  | some c => some c
  | none => o.arrives.head?.map fun x => x.1

/-- E2EFAIL counts an absorbed payload whose check has failed once, however many of its operations fail (R74, R390). -/
def countE2e (r : BufRef) (s : State) : State :=
  if s.e2eFailed.contains r then s else count r.port .e2efail { s with e2eFailed := r :: s.e2eFailed }

/-- An operation whose check has failed: its lines are poisoned, nothing is delivered, and E2E_CRC is entered (R91). -/
def payFail (eng : BitVec 4) (o : PayOp) (poisoned : Bool) (s : State) : State :=
  let s1 := countE2e o.ref { s with swardPoison := addPoison s.swardPoison o.dst o.bytes.length }
  enterFault (field eng 3 1) (faultEntry (causeCode .e2eCrc) o.ctx 1 (unitId (field eng 3 1) (field eng 0 3) 0 0x11)
    (BitVec.ofNat 32 (b2n poisoned + 2 * b2n (payCell o).isSome)) (((payCell o).getD 0).setWidth 48)
    (o.tokid.setWidth 48) s.timeNs) s1

/-- The first operation of a payload engine is performed, if it is of this kind and its banks are not under scrub. -/
def payPerform (eng : BitVec 4) (op : BitVec 2) (s : State) : Out :=
  slotDone (match (s.cluster eng).pay with
    | [] => tidyPorts (settleArrives s)
    | o :: rest =>
      if o.op ≠ op ∨ payStalls s o ∨ (extentBanks o.dst o.bytes.length).any fun b => s.scrubbing.contains b then s
      else
        let hit := op ≠ 0 ∧ poisonedRange s.swardPoison o.dst o.bytes.length
        let s1 := payLand o (s.modCluster eng fun x => { x with pay := rest })
        let bad := o.yt ∧ (o.poison ∨ crc32c o.bytes ≠ o.e2e)
        tidyPorts (settleArrives (if hit ∨ bad then payFail eng o (decide hit) s1 else payCells o s1)))

/-- `PAYLOAD_WRITE` (R87 to R91). -/
def execPayloadWrite (eng : BitVec 4) (s : State) : Out := payPerform eng 0 s

/-- `PAYLOAD_ADDW` (R87). -/
def execPayloadAddw (eng : BitVec 4) (s : State) : Out := payPerform eng 1 s

/-- `PAYLOAD_ADDS` (R87). -/
def execPayloadAdds (eng : BitVec 4) (s : State) : Out := payPerform eng 2 s

/-- `PAYLOAD_ADDF` (R87). -/
def execPayloadAddf (eng : BitVec 4) (s : State) : Out := payPerform eng 3 s

end Sys2Proof.Machine
end

