-- ==== Sys2Proof/Machine/Fetch.lean ====
section
/-! DEFINITION. Fetching a bundle and the checks of R168 before any slot issues, with the loop-body check of R186. -/

namespace Sys2Proof.Machine

/-- A slot that has passed its checks: its index and word, the engine it executes on (R14, R156), its instruction. -/
structure SlotIns where
  idx : BitVec 3
  word : BitVec 32
  eng : BitVec 3
  ins : Instr
  deriving DecidableEq, Repr

/-- A failed check: its cause, the slot that `YEPC` names, and YTVAL (R168, R170, R186). -/
structure FetchFail where
  cause : Cause
  slot : BitVec 3
  tval : Word
  deriving DecidableEq, Repr

/-- First byte and end of what a task may fetch (R146, R147). -/
def fetchRange (x : Tile) : Nat × Nat :=
  match x.task.mode with
  | .monitor => (0x20000, 0x22000)
  | .task => (halfBase x.cur, halfBase x.cur + 0x10000)

/-- Word i of the bundle at pc. -/
def fetchWord (x : Tile) (pc : BitVec 18) (i : Nat) : BitVec 32 := BitVec.ofNat 32 (memReadLE x.imem (pc.toNat + 4 * i) 4)

/-- YTVAL of the encoding causes (R170). -/
def fetchTval (w : BitVec 32) (slot : Nat) (addr : BitVec 18) : Word :=
  BitVec.ofNat 64 (packNat [(w.toNat, 32), (slot, 3), (0, 1), (addr.toNat, 18)])

/-- The words of the bundle at pc, with checks 1 and 2 of R168. -/
def bundleWords (x : Tile) (pc : BitVec 18) : Except FetchFail (List (BitVec 32)) :=
  let (lo, hi) := fetchRange x
  let room := Nat.min 8 ((hi - pc.toNat) / 4)
  if pc.toNat < lo ∨ hi ≤ pc.toNat then .error ⟨.fetchBound, 0, fetchTval 0 0 pc⟩
  else match (List.range room).find? fun i => bit (fetchWord x pc i) 31 with
    | some n => .ok ((List.range (n + 1)).map (fetchWord x pc))
    | none =>
      if room < 8 then .error ⟨.fetchBound, 0, fetchTval 0 0 pc⟩
      else .error ⟨.bundleForm, 7, fetchTval (fetchWord x pc 7) 7 (pc + 28)⟩

/-- The map under which a tile decodes: map 0 in monitor mode (R159). -/
def tileMap (x : Tile) : Option (List (BitVec 16)) :=
  if x.task.mode = .monitor ∨ x.mapNo = 0 then none else some x.mapCopy

/-- The target of a format J word before it is cut to an address (R155). -/
def staticTarget (pc : BitVec 18) (imm : BitVec 18) : Int := pc.toNat + 4 * imm.toInt

/-- Check 7 of R168: whether a static target obeys R152 or R155; the target. -/
def targetFails (x : Tile) (pc : BitVec 18) (i : Instr) : Option (BitVec 18) :=
  let (lo, hi) := fetchRange x
  let chk (imm : BitVec 18) (lo hi : Nat) :=
    let t := staticTarget pc imm
    if (lo : Int) ≤ t ∧ t < hi then none else some (BitVec.ofInt 18 t)
  match i with
  | .br imm => chk imm lo hi
  | .brN imm => chk imm lo hi
  | .call imm => chk imm lo hi
  | .bswap imm => chk imm (halfBase (!x.cur)) (halfBase (!x.cur) + 0x10000)
  | _ => none

/-- The cause of an encoding error (R170). -/
def encCause : EncErr → Cause
  | .illegalOpcode => .illegalOpcode
  | .reservedField => .reservedField
  | .illegalOperand => .illegalOperand

/-- Opcodes whose internal operation one mode refuses: `ERET` and `BSWAP` (R168). -/
def modeRefuses (m : Mode) (iop : BitVec 10) : Bool :=
  (iop == 0x08A && m == .task) || (iop == 0x084 && m == .monitor)

/-- Checks 3 to 7 of R168 on slot i of the bundle at pc: its internal operation and instruction. -/
def checkSlot (x : Tile) (pc : BitVec 18) (i : Nat) (w : BitVec 32) : Except FetchFail (BitVec 10 × Instr) :=
  let own := pc + BitVec.ofNat 18 (4 * i)
  let fail (c : Cause) (a : BitVec 18) : FetchFail := ⟨c, BitVec.ofNat 3 i, fetchTval w i a⟩
  let f := splitWord w
  match mapIop (tileMap x) f.opc with
  | none => .error (fail .illegalOpcode own)
  | some iop =>
    if modeRefuses x.task.mode iop then .error (fail .privileged own)
    else match decodeFields { f with opc := iop } with
      | .error e => .error (fail (encCause e) own)
      | .ok ins =>
        match targetFails x pc ins with
        | some t => .error (fail .fetchBound t)
        | none => .ok (iop, ins)

/-- Checks 3 to 7 on every slot in address order. -/
def checkSlots (x : Tile) (pc : BitVec 18) : Nat → List (BitVec 32) →
    Except FetchFail (List (Nat × BitVec 32 × BitVec 10 × Instr))
  | _, [] => .ok []
  | i, w :: ws =>
    match checkSlot x pc i w with
    | .error e => .error e
    | .ok r =>
      match checkSlots x pc (i + 1) ws with
      | .error e => .error e
      | .ok rs => .ok ((i, w, r.1, r.2) :: rs)

/-- The engine of a slot of class c after slots whose engines are `used`: none where the canonical order is broken or
the class is in excess (R156). -/
def slotEngine (last : Nat) (c : Nat) : Option Nat :=
  match c with
  | 0 => if last = 0 then some 0 else none
  | 1 => if last ≤ 1 then some 1 else none
  | 2 => if last ≤ 2 then some 2 else if last = 3 then some 3 else none
  | 3 => if last ≤ 4 then some 4 else none
  | 4 => if last ≤ 5 then some 5 else none
  | _ => if last ≤ 6 then some 6 else if last = 7 then some 7 else none

/-- Check 8 of R168: engines by class in canonical order; `last` is the lowest engine still open. -/
def placeSlots (pc : BitVec 18) : Nat → List (Nat × BitVec 32 × BitVec 10 × Instr) → Except FetchFail (List SlotIns)
  | _, [] => .ok []
  | last, (i, w, iop, ins) :: rs =>
    match slotEngine last (opClass iop) with
    | none => .error ⟨.bundleForm, BitVec.ofNat 3 i, fetchTval w i (pc + BitVec.ofNat 18 (4 * i))⟩
    | some e =>
      match placeSlots pc (e + 1) rs with
      | .error f => .error f
      | .ok xs => .ok (⟨BitVec.ofNat 3 i, w, BitVec.ofNat 3 e, ins⟩ :: xs)

/-- The instructions that no bundle of a `LOOP.SWP` body may hold (R186). -/
def swpForbids : Instr → Bool
  | .br _ => true | .brN _ => true | .call _ => true | .jr _ => true | .bswap _ => true | .ifence => true
  | .yield _ => true | .endTask => true | .trap _ => true | _ => false

/-- LOOP_FORM at a slot, with the number of the check (R186). -/
def loopFormFail (x : SlotIns) (check : BitVec 4) : FetchFail := ⟨.loopForm, x.idx, (check ++ x.word).setWidth 64⟩

/-- The first of checks 1 to 4 of R186 that a slot fails whose loop instruction would issue. -/
def loopSlotFails (k : Task) (x : SlotIns) : Option FetchFail :=
  let chk (n : BitVec 2) (imm : BitVec 12) : Option FetchFail :=
    if readP k (field x.word 18 3) then
      (loopFails k n (BitVec.ofNat 18 (k.pc.toNat + 4 * imm.toNat))).map (loopFormFail x)
    else none
  match x.ins with
  | .loop n imm => chk n imm
  | .loopSwp n _ imm => chk n imm
  | _ => none

/-- Check 5 of R186 on a bundle inside an active `LOOP.SWP` body, after checks 1 to 4 on its loop instruction. -/
def swpFails (k : Task) (pc : BitVec 18) (l : List SlotIns) : Option FetchFail :=
  if k.loops.any fun f => f.swp.isSome && inBody f pc then
    match l.find? fun x => swpForbids x.ins with
    | some x => some ((l.findSome? (loopSlotFails k)).getD (loopFormFail x 5))
    | none => none
  else none

/-- The bundle at the tile's PC, every check made. -/
def fetchBundle (x : Tile) : Except FetchFail (List SlotIns) :=
  let pc := x.task.pc
  match bundleWords x pc with
  | .error e => .error e
  | .ok ws =>
    match checkSlots x pc 0 ws with
    | .error e => .error e
    | .ok rs =>
      match placeSlots pc 0 rs with
      | .error e => .error e
      | .ok l => match swpFails x.task pc l with | some e => .error e | none => .ok l

/-- The instructions whose bundle does not issue in a branch shadow (R182, R309). -/
def shadowForbids : Instr → Bool
  | .br _ => true | .brN _ => true | .call _ => true | .jr _ => true | .bswap _ => true | .ifence => true
  | .yield _ => true | .endTask => true | .trap _ => true | .eret => true | .eretSkip => true | .eretRaise => true
  | .loop .. => true | .loopSwp .. => true | .mcfg _ => true | .mloadb .. => true | .mloadbs .. => true
  | .mfeed .. => true | .mpush _ => true | .mmul .. => true | .mmac .. => true | .mmulMid .. => true
  | .mmacMid .. => true | .mclrW .. => true | .mclrRb _ => true | .mclrCfg => true | .xpush _ => true | .xpop _ => true
  | .xcfg _ => true | .xclr => true | .fence _ => true | .arrive .. => true | .arriveRel .. => true | .expect .. => true
  | .waitc .. => true | _ => false

/-- The no-operations that R358 does not count as filled. -/
def isNoop : Instr → Bool
  | .nop => true | .anop => true | .vnop => true | .cnop => true | .nopn _ => true | _ => false

/-- The instructions, besides no-operations, that change no visible state: `CWAIT`, and those whose one destination is S0
or P0, which discard writes (R173, R181). -/
def changesNothing : Instr → Bool
  | .cwait .. => true
  | .add d .. => d == 0 | .sub d .. => d == 0 | .and d .. => d == 0 | .or d .. => d == 0 | .xor d .. => d == 0
  | .sll d .. => d == 0 | .srl d .. => d == 0 | .sra d .. => d == 0 | .min d .. => d == 0 | .max d .. => d == 0
  | .minu d .. => d == 0 | .maxu d .. => d == 0 | .mul d .. => d == 0 | .mulh d .. => d == 0 | .mulhu d .. => d == 0
  | .div d .. => d == 0 | .divu d .. => d == 0 | .rem d .. => d == 0 | .remu d .. => d == 0 | .addi d .. => d == 0
  | .andi d .. => d == 0 | .ori d .. => d == 0 | .xori d .. => d == 0 | .slli d .. => d == 0 | .srli d .. => d == 0
  | .srai d .. => d == 0 | .movi d _ => d == 0 | .movk d _ => d == 0 | .srd d _ => d == 0 | .smova d _ => d == 0
  | .lcrd d _ => d == 0 | .spld d _ => d == 0 | .cstat d _ => d == 0 | .xcnt d => d == 0
  | .cmpeq d .. => d == 0 | .cmpne d .. => d == 0 | .cmplt d .. => d == 0 | .cmpltu d .. => d == 0
  | .cmple d .. => d == 0 | .cmpleu d .. => d == 0 | .cmpeqi d .. => d == 0 | .cmplti d .. => d == 0
  | .cmplei d .. => d == 0 | .pand d .. => d == 0 | .por d .. => d == 0 | .pxor d .. => d == 0 | .pnot d _ => d == 0
  | _ => false

/-- Filled slots of a bundle (R358). -/
def filledCount (l : List SlotIns) : Nat := (l.filter fun x => !isNoop x.ins).length

/-- The instructions that access the Sward, global memory or a cell, which wait for an acquiring access before them; copy
commands fall under no such rule (R307, R312). -/
def isMemoryOp : Instr → Bool
  | .ldG .. => true | .stG .. => true | .ldGAcq .. => true | .stGRel .. => true | .amoG .. => true | .amoGAcq .. => true
  | .amoGRel .. => true | .amoGAr .. => true | .arrive .. => true | .arriveRel .. => true | .waitc .. => true
  | .expect .. => true | .vld .. => true | .vst .. => true | .vlds .. => true | .vsts .. => true | .vldx .. => true
  | .vstx .. => true | .hset .. => true | .mloadb .. => true | .mloadbs .. => true | .mfeed .. => true | _ => false

end Sys2Proof.Machine
end

