-- ==== Sys2Proof/Machine/Retire.lean ====
section
/-! DEFINITION. Retirement: the sequence that `END` begins (R374, R375), the counters and the commit hash (R373, R376), and
the bank changes of `RELB` as the hardware applies them (R145). -/

namespace Sys2Proof.Machine

/-- Whether step 1 of R374 has ended for the member on tile t: its commands are complete, its side log is empty and its
scalar accesses have performed, at the scope of its done cell's arrive (R305, R307); and the replay log of its context has
room (R371) and the done cell's bank is under no scrub (R262). -/
def endWaitOver (s : State) (t : TileId) : Bool :=
  let x := s.tile t
  let k := x.task
  let sc : Scope := if k.doneV ∧ k.doneScope.toNat ≥ 4 then .sys else .pkg
  !(s.cmds.any fun c => c.task == k.uid) && performedBefore x x.accOrd sc && !(k.doneV && cellScrubs s k.ctx k.doneCell)
    && !logFull s k.ctx 2

/-- The commit hash extended by a retiring record (R373; log 19). -/
def commitHash (h : BitVec 32) (k : Task) : BitVec 32 :=
  crc32c (leBytes 4 h.toNat ++ leBytes 1 k.queue.toNat ++ leBytes 2 k.tmpl.toNat ++ leBytes 4 k.cmdbase.toNat)

/-- Step 4 of R374, for a task with its members' summed cycles (R361, R373, R376). -/
def retireCount (t : TileId) (k : Task) (icyc fcyc : Word) (s : State) : State :=
  let h := commitHash (s.ctx k.ctx).hash k
  let s1 := (s.modQueue k.queue fun q => { q with retn := q.retn + 1 }).modCtx k.ctx fun c =>
    { c with tasks := c.tasks + 1, icyc := c.icyc + icyc, fcyc := c.fcyc + fcyc, hash := h }
  let s2 := (logAnswer true k.ctx (logOf [(6, 8), (0, 56), (h.toNat, 32)]) s1).1
  traceRecord (tileDie t) 4 (tileUnit t 0) k.queue k.ctx k.cmdseq k.tmpl
    (packNat [(icyc.toNat, 48), (0, 16), (fcyc.toNat, 48)]) s2

/-- YTVAL of a trap at an `END` bundle: as R310 gives it, with the `END` word and the done cell. -/
def endTval (x : Tile) : Word :=
  BitVec.ofNat 64 (packNat [((fetchWord x x.task.pc 0).toNat, 32), (0, 4), (x.task.doneCell.toNat, 16)])

/-- Step 3 of R374: the done cell's arrive; the cause of its refusal or fault. -/
def doneArrive (t : TileId) (s : State) : State × Option Cause :=
  let k := (s.tile t).task
  if k.doneV then cellOpReport k.ctx k.doneCell (.arrive 1) (tileUnit t 0) k.cmdseq s else (s, none)

/-- Steps 2 to 5 of R374 once for the members on some tiles, member 0 first; a failed arrive traps member 0 at its `END`
bundle, the others staying held (R375). -/
def retireNow (tiles : List TileId) (s : State) : State :=
  match tiles with
  | [] => s
  | t :: _ =>
    let k := (s.tile t).task
    match doneArrive t (freeBanks (taskAccessor k) s) with
    | (s1, some c) =>
      takeTrap t (causeCode c) false 0 0 k.pc (endTval (s.tile t)) 0 (tiles.foldl (fun (s : State) u => s.modTile u fun x =>
        { x with status := if u = t then .running else .held, preempt := false }) s1)
    | (s1, none) =>
      let sum (f : Task → Nat) : Word := BitVec.ofNat 64 (tiles.foldl (fun n u => n + f (s.tile u).task) 0)
      tiles.foldl (fun s u => freeTile false u s) (retireCount t k (sum Task.icyc) (sum Task.fcyc) s1)

/-- A member whose `END` has begun goes on with its retirement, when step 1 has ended; the members of a gang are held
until all have come so far (R374, R375). Members that a pre-emption waits for are not held (R140): they retire together
if all have come so far before it is taken. -/
def retire (t : TileId) (s : State) : State :=
  let x := s.tile t
  if x.status ≠ .ending ∨ !endWaitOver s t then s
  else if x.preempt then
    (if (gangTiles s t).all fun u => (s.tile u).status == .ending && endWaitOver s u then retireNow (gangTiles s t) s else s)
  else
    let s1 := s.modTile t fun x => { x with status := .held }
    let g := gangTiles s1 t
    if g.all fun u => (s1.tile u).status == .held && !(s1.tile u).preempt then retireNow g s1 else s1

/-- `END_RETIREMENT` (R374). -/
def execEndRetirement (t : TileId) (s : State) : Out := slotDone (retire t s)

/-- `RELB_BANK_CHANGE` (R145): the release of one bank that a `RELB` of tile t has ordered. -/
def execRelbBankChange (t : TileId) (bank : BitVec 11) (s : State) : Out := slotDone (applyReleases t (· == bank) s)

end Sys2Proof.Machine
end

