-- ==== Sys2Proof/Machine/ScalarFp.lean ====
section
/-! DEFINITION. The S-slot floating-point instructions (R198 to R200). -/

namespace Sys2Proof.Machine

/-- A scalar FP result: 32 bits zero-extended, landing at c+4 with its flags (R198). -/
def emitFp (d : BitVec 6) (r : BitVec 32 × Flags) (s : State) : State := emitF 4 r.2 (emitS 4 d (zx r.1) s)

/-- An instruction `OP.r Sd, Sa, Sb` on F32 operands (R198). -/
def scalarFp2 (d a b : BitVec 6) (f : FVal → FVal → Nat × Flags) (s : State) : Out :=
  runSlot [d, a, b] (fun s => .ok (emitFp d (fBits 32 (f (readF s.tk a) (readF s.tk b))) s)) s

/-- A selection `OP Sd, Sa, Sb` on F32 encodings (R199). -/
def scalarFpSel (d a b : BitVec 6) (wantMax : Bool) (s : State) : Out :=
  runSlot [d, a, b] (fun s => .ok (emitFp d
    (fBits 32 (fMinMax fmtF32 wantMax (field (readS s.tk a) 0 32).toNat (field (readS s.tk b) 0 32).toNat)) s)) s

/-- A float compare landing at c+4 with its flags (R199). -/
def scalarFpCmp (d : BitVec 3) (a b : BitVec 6) (r : FRel) (s : State) : Out :=
  runSlot [a, b] (fun s =>
    let c := fRelate r (readF s.tk a) (readF s.tk b)
    .ok (emitF 4 c.2 (emitP 4 d c.1 s))) s

/-- `FADD` (R198). -/
def execFadd (r : RMode) (d a b : BitVec 6) (s : State) : Out :=
  scalarFp2 d a b (fun x y => fAdd fmtF32 r x y) s

/-- `FSUB` (R198). -/
def execFsub (r : RMode) (d a b : BitVec 6) (s : State) : Out :=
  scalarFp2 d a b (fun x y => fAdd fmtF32 r x (negF y)) s

/-- `FMUL` (R198). -/
def execFmul (r : RMode) (d a b : BitVec 6) (s : State) : Out :=
  scalarFp2 d a b (fun x y => fMul fmtF32 r x y) s

/-- `FDIV` (R198). -/
def execFdiv (r : RMode) (d a b : BitVec 6) (s : State) : Out :=
  scalarFp2 d a b (fun x y => fDiv fmtF32 r x y) s

/-- `FMA` (R198): reads S[d]; rounded once. -/
def execFma (r : RMode) (d a b : BitVec 6) (s : State) : Out :=
  runSlot [d, a, b] (fun s => .ok (emitFp d
    (fBits 32 (fFma fmtF32 r (readF s.tk a) (readF s.tk b) (readF s.tk d))) s)) s

/-- `FSQRT` (R198). -/
def execFsqrt (r : RMode) (d a : BitVec 6) (s : State) : Out :=
  runSlot [d, a] (fun s => .ok (emitFp d (fBits 32 (fSqrt fmtF32 r (readF s.tk a))) s)) s

/-- `FMIN` (R199). -/
def execFmin (d a b : BitVec 6) (s : State) : Out := scalarFpSel d a b false s

/-- `FMAX` (R199). -/
def execFmax (d a b : BitVec 6) (s : State) : Out := scalarFpSel d a b true s

/-- `FCMPEQ` (R199). -/
def execFcmpeq (d : BitVec 3) (a b : BitVec 6) (s : State) : Out := scalarFpCmp d a b .eq s

/-- `FCMPLT` (R199). -/
def execFcmplt (d : BitVec 3) (a b : BitVec 6) (s : State) : Out := scalarFpCmp d a b .lt s

/-- `FCMPLE` (R199). -/
def execFcmple (d : BitVec 3) (a b : BitVec 6) (s : State) : Out := scalarFpCmp d a b .le s

/-- `FCVT.I64` (R200). -/
def execFcvtI64 (r : RMode) (d a : BitVec 6) (s : State) : Out :=
  runSlot [d, a] (fun s =>
    let v := fToInt r (-2 ^ 63) (2 ^ 63 - 1) (readF s.tk a)
    .ok (emitF 4 v.2 (emitS 4 d (BitVec.ofInt 64 v.1) s))) s

/-- `CVT.F32` of a signed 64-bit integer (R200). -/
def execCvtF32 (r : RMode) (d a : BitVec 6) (s : State) : Out :=
  runSlot [d, a] (fun s => .ok (emitFp d (fBits 32 (intToF fmtF32 r (readS s.tk a).toInt)) s)) s

end Sys2Proof.Machine
end

