-- ==== Sys2Proof/Machine/ScalarInt.lean ====
section
/-! DEFINITION. The S-slot integer, move, compare and predicate instructions (R192 to R197). -/

namespace Sys2Proof.Machine

/-- Quotient of `DIV` (R193): truncation toward zero, −1 for a zero divisor; −2^63 / −1 wraps to −2^63. -/
def divS (x y : Word) : Word := if y = 0 then -1 else BitVec.ofInt 64 (Int.tdiv x.toInt y.toInt)

/-- Remainder of `REM` (R193), with the sign of the dividend; x for a zero divisor. -/
def remS (x y : Word) : Word := if y = 0 then x else BitVec.ofInt 64 (Int.tmod x.toInt y.toInt)

/-- Quotient of `DIVU` (R193). -/
def divU (x y : Word) : Word := if y = 0 then -1 else BitVec.ofNat 64 (x.toNat / y.toNat)

/-- Remainder of `REMU` (R193). -/
def remU (x y : Word) : Word := if y = 0 then x else BitVec.ofNat 64 (x.toNat % y.toNat)

/-- Bits [127:64] of the signed product (R192). -/
def mulHigh (x y : Word) : Word := BitVec.ofInt 64 (x.toInt * y.toInt / 2 ^ 64)

/-- Bits [127:64] of the unsigned product (R192). -/
def mulHighU (x y : Word) : Word := BitVec.ofNat 64 (x.toNat * y.toNat / 2 ^ 64)

/-- The shift count zx(y, 6) (R192). -/
def shiftCount (y : Word) : Nat := y.toNat % 64

/-- An instruction `OP Sd, Sa, Sb` landing at c + lat (R192). -/
def scalarRR (lat : Nat) (d a b : BitVec 6) (f : Word → Word → Word) (s : State) : Out :=
  runSlot [d, a, b] (fun s => .ok (emitS lat d (f (readS s.tk a) (readS s.tk b)) s)) s

/-- An instruction `OP Sd, Sa, imm` landing at c+1 (R194). -/
def scalarRI (d a : BitVec 6) (f : Word → Word) (s : State) : Out :=
  runSlot [d, a] (fun s => .ok (emitS 1 d (f (readS s.tk a)) s)) s

/-- A compare `OP Pd, Sa, Sb` landing at c+1 (R196). -/
def compareRR (d : BitVec 3) (a b : BitVec 6) (f : Word → Word → Bool) (s : State) : Out :=
  runSlot [a, b] (fun s => .ok (emitP 1 d (f (readS s.tk a) (readS s.tk b)) s)) s

/-- A compare with an immediate (R196). -/
def compareRI (d : BitVec 3) (a imm : BitVec 6) (f : Word → Word → Bool) (s : State) : Out :=
  runSlot [a] (fun s => .ok (emitP 1 d (f (readS s.tk a) (sx imm)) s)) s

/-- Predicate logic `OP Pd, Pa, Pb` (R197). -/
def predLogic (d a b : BitVec 3) (f : Bool → Bool → Bool) (s : State) : Out :=
  runSlot [] (fun s => .ok (emitP 1 d (f (readP s.tk a) (readP s.tk b)) s)) s

/-- `ADD` (R192). -/
def execAdd (d a b : BitVec 6) (s : State) : Out :=
  scalarRR 1 d a b (fun x y => x + y) s

/-- `SUB` (R192). -/
def execSub (d a b : BitVec 6) (s : State) : Out :=
  scalarRR 1 d a b (fun x y => x - y) s

/-- `AND` (R192). -/
def execAnd (d a b : BitVec 6) (s : State) : Out :=
  scalarRR 1 d a b (fun x y => x &&& y) s

/-- `OR` (R192). -/
def execOr (d a b : BitVec 6) (s : State) : Out :=
  scalarRR 1 d a b (fun x y => x ||| y) s

/-- `XOR` (R192). -/
def execXor (d a b : BitVec 6) (s : State) : Out :=
  scalarRR 1 d a b (fun x y => x ^^^ y) s

/-- `SLL` (R192). -/
def execSll (d a b : BitVec 6) (s : State) : Out :=
  scalarRR 1 d a b (fun x y => x <<< shiftCount y) s

/-- `SRL` (R192). -/
def execSrl (d a b : BitVec 6) (s : State) : Out :=
  scalarRR 1 d a b (fun x y => x >>> shiftCount y) s

/-- `SRA` (R192). -/
def execSra (d a b : BitVec 6) (s : State) : Out :=
  scalarRR 1 d a b (fun x y => x.sshiftRight (shiftCount y)) s

/-- `MIN` (R192). -/
def execMin (d a b : BitVec 6) (s : State) : Out :=
  scalarRR 1 d a b (fun x y => if x.slt y then x else y) s

/-- `MAX` (R192). -/
def execMax (d a b : BitVec 6) (s : State) : Out :=
  scalarRR 1 d a b (fun x y => if x.slt y then y else x) s

/-- `MINU` (R192). -/
def execMinu (d a b : BitVec 6) (s : State) : Out :=
  scalarRR 1 d a b (fun x y => if x < y then x else y) s

/-- `MAXU` (R192). -/
def execMaxu (d a b : BitVec 6) (s : State) : Out :=
  scalarRR 1 d a b (fun x y => if x < y then y else x) s

/-- `MUL` (R192). -/
def execMul (d a b : BitVec 6) (s : State) : Out :=
  scalarRR 3 d a b (fun x y => x * y) s

/-- `MULH` (R192). -/
def execMulh (d a b : BitVec 6) (s : State) : Out :=
  scalarRR 3 d a b (mulHigh) s

/-- `MULHU` (R192). -/
def execMulhu (d a b : BitVec 6) (s : State) : Out :=
  scalarRR 3 d a b (mulHighU) s

/-- `DIV` (R192, R193). -/
def execDiv (d a b : BitVec 6) (s : State) : Out :=
  scalarRR 12 d a b (divS) s

/-- `DIVU` (R192, R193). -/
def execDivu (d a b : BitVec 6) (s : State) : Out :=
  scalarRR 12 d a b (divU) s

/-- `REM` (R192, R193). -/
def execRem (d a b : BitVec 6) (s : State) : Out :=
  scalarRR 12 d a b (remS) s

/-- `REMU` (R192, R193). -/
def execRemu (d a b : BitVec 6) (s : State) : Out :=
  scalarRR 12 d a b (remU) s

/-- `ADDI` (R194). -/
def execAddi (d a imm : BitVec 6) (s : State) : Out :=
  scalarRI d a (fun x => x + sx imm) s

/-- `ANDI` (R194). -/
def execAndi (d a imm : BitVec 6) (s : State) : Out :=
  scalarRI d a (fun x => x &&& sx imm) s

/-- `ORI` (R194). -/
def execOri (d a imm : BitVec 6) (s : State) : Out :=
  scalarRI d a (fun x => x ||| sx imm) s

/-- `XORI` (R194). -/
def execXori (d a imm : BitVec 6) (s : State) : Out :=
  scalarRI d a (fun x => x ^^^ sx imm) s

/-- `SLLI` (R194). -/
def execSlli (d a imm : BitVec 6) (s : State) : Out :=
  scalarRI d a (fun x => x <<< imm.toNat) s

/-- `SRLI` (R194). -/
def execSrli (d a imm : BitVec 6) (s : State) : Out :=
  scalarRI d a (fun x => x >>> imm.toNat) s

/-- `SRAI` (R194). -/
def execSrai (d a imm : BitVec 6) (s : State) : Out :=
  scalarRI d a (fun x => x.sshiftRight imm.toNat) s

/-- `MOVI` (R195). -/
def execMovi (d : BitVec 6) (imm : BitVec 12) (s : State) : Out :=
  runSlot [d] (fun s => .ok (emitS 1 d (sx imm) s)) s

/-- `MOVK` (R195): reads its own destination. -/
def execMovk (d : BitVec 6) (imm : BitVec 12) (s : State) : Out :=
  runSlot [d] (fun s => .ok (emitS 1 d ((readS s.tk d <<< 12) + zx imm) s)) s

/-- `CMPEQ` (R196). -/
def execCmpeq (d : BitVec 3) (a b : BitVec 6) (s : State) : Out :=
  compareRR d a b (fun x y => x == y) s

/-- `CMPNE` (R196). -/
def execCmpne (d : BitVec 3) (a b : BitVec 6) (s : State) : Out :=
  compareRR d a b (fun x y => x != y) s

/-- `CMPLT` (R196). -/
def execCmplt (d : BitVec 3) (a b : BitVec 6) (s : State) : Out :=
  compareRR d a b (fun x y => x.slt y) s

/-- `CMPLTU` (R196). -/
def execCmpltu (d : BitVec 3) (a b : BitVec 6) (s : State) : Out :=
  compareRR d a b (fun x y => x.ult y) s

/-- `CMPLE` (R196). -/
def execCmple (d : BitVec 3) (a b : BitVec 6) (s : State) : Out :=
  compareRR d a b (fun x y => x.sle y) s

/-- `CMPLEU` (R196). -/
def execCmpleu (d : BitVec 3) (a b : BitVec 6) (s : State) : Out :=
  compareRR d a b (fun x y => x.ule y) s

/-- `CMPEQI` (R196). -/
def execCmpeqi (d : BitVec 3) (a imm : BitVec 6) (s : State) : Out :=
  compareRI d a imm (fun x y => x == y) s

/-- `CMPLTI` (R196). -/
def execCmplti (d : BitVec 3) (a imm : BitVec 6) (s : State) : Out :=
  compareRI d a imm (fun x y => x.slt y) s

/-- `CMPLEI` (R196). -/
def execCmplei (d : BitVec 3) (a imm : BitVec 6) (s : State) : Out :=
  compareRI d a imm (fun x y => x.sle y) s

/-- `PAND` (R197). -/
def execPand (d a b : BitVec 3) (s : State) : Out :=
  predLogic d a b (fun x y => x && y) s

/-- `POR` (R197). -/
def execPor (d a b : BitVec 3) (s : State) : Out :=
  predLogic d a b (fun x y => x || y) s

/-- `PXOR` (R197). -/
def execPxor (d a b : BitVec 3) (s : State) : Out :=
  predLogic d a b (fun x y => x != y) s

/-- `PNOT` (R197). -/
def execPnot (d a : BitVec 3) (s : State) : Out :=
  runSlot [] (fun s => .ok (emitP 1 d (!readP s.tk a) s)) s

end Sys2Proof.Machine
end

