-- ==== Sys2Proof/Machine/Sync.lean ====
section
/-! DEFINITION. Trigger cells from a tile (R310, R311). -/

namespace Sys2Proof.Machine

/-- YTVAL of the cell instructions (R310). -/
def syncTval (s : State) (reason : BitVec 4) (index : BitVec 16) : Word :=
  BitVec.ofNat 64 (packNat [(s.slotWord.toNat, 32), (reason.toNat, 4), (index.toNat, 16)])

/-- A cell operation of the acting tile, whose bank replies at once (R310, R312; log 16): S[d] takes the phase at c+1. While the
replay log lacks room for its fire the tile freezes (R371). -/
def tileCellOp (i : BitVec 16) (op : CellOp) (d : BitVec 6) (s : State) : SlotRes :=
  let tv := syncTval s 0 i
  let r := cellOp s.tk.ctx i op s
  if cellStalls s s.tk.ctx i op then .freeze .cell
  else match r.fault with
  | some c => .trapIn (cellFaultEntry s.tk.ctx i c (tileUnit s.cur 0) s.tk.cmdseq r.st) c tv
  | none => .ok (emitS 1 d (BitVec.ofNat 64 (b2n r.phase)) r.st)

/-- An arrive with its operand word checked (R310). -/
def arriveBody (d : BitVec 6) (w : Word) (rel : Option Scope) (s : State) : SlotRes :=
  let i := field w 0 16
  let k := (field w 16 17).toNat
  if field w 33 31 ≠ 0 then .trap .syncArg (syncTval s 1 i)
  else if k = 0 ∨ k > 65536 then .trap .syncArg (syncTval s 2 i)
  else match rel with
    | some sc => if performedBefore s.me s.me.accOrd sc then tileCellOp i (.arrive k) d s else .freeze .fence
    | none => tileCellOp i (.arrive k) d s

/-- `ARRIVE` (R310). -/
def execArrive (d a : BitVec 6) (s : State) : Out :=
  runSlot [d, a] (fun s => arriveBody d (readS s.tk a) none s) s

/-- `ARRIVE.REL` (R307, R310). -/
def execArriveRel (d a : BitVec 6) (sc : Scope) (s : State) : Out :=
  runSlot [d, a] (fun s => arriveBody d (readS s.tk a) (some sc) s) s

/-- `EXPECT` (R310). -/
def execExpect (d a b : BitVec 6) (s : State) : Out :=
  runSlot [d, a, b] (fun s =>
    let w := readS s.tk a
    let n := readS s.tk b
    let i := field w 0 16
    if field w 16 48 ≠ 0 ∨ field n 32 32 ≠ 0 then .trap .syncArg (syncTval s 1 i)
    else tileCellOp i (.expect n.toNat) d s) s

/-- The trap of a refused phase read, with its entry (R38, R311). -/
def waitTrap (i : BitVec 16) (c : Cause) (s : State) : SlotRes :=
  .trapIn (cellFaultEntry s.tk.ctx i c (tileUnit s.cur 0) s.tk.cmdseq s) c (syncTval s 0 i)

/-- `WAITC` (R311): a phase that has not moved freezes the tile, as a scrub of the cell's bank does (R262). Its own trap on a spent cell is no refusal of R34 and
enters no entry of R38. -/
def execWaitc (d a : BitVec 6) (_sc : Scope) (s : State) : Out :=
  runSlot [d, a] (fun s =>
    let w := readS s.tk a
    let i := field w 0 16
    if field w 17 47 ≠ 0 then .trap .syncArg (syncTval s 1 i)
    else if cellScrubs s s.tk.ctx i then .freeze .cell
    else
      let r := cellOp s.tk.ctx i .phase s
      match r.fault with
      | some c => waitTrap i c s
      | none =>
        match cellAddr s s.tk.ctx i.toNat with
        | none => .freeze .cell
        | some ad =>
          let c := cellRead s ad
          if r.phase ≠ bit w 16 then .ok (emitS 1 d (zx (cellFires c)) s)
          else if cellSpent c then .trap .cellSpent (syncTval s 0 i)
          else .freeze .cell) s

end Sys2Proof.Machine
end

