-- ==== Sys2Proof/Machine/Transpose.lean ====
section
/-! DEFINITION. The transposer (R253, R254) and tree descent (R255, R256). -/

namespace Sys2Proof.Machine

/-- Tags of 32-bit elements (R254). -/
def acceptElem32 : BitVec 6 → Bool := fun t => t != tagEmpty && t != 0x07 && !isPL t

/-- `XPUSH` (R254): the row is assigned at issue and lands at c+6. -/
def execXpush (a : BitVec 6) (s : State) : Out :=
  runClaiming [.transpose, .vector] [] (fun s =>
    let v := readV s.tk a
    let x := s.tk.xp
    checkTags [⟨0, v.tag, false, acceptElem32 v.tag && (x.tag == tagEmpty || x.tag == v.tag)⟩] (fun s =>
      if x.pushn ≥ 64 then .trap .xposeState (wordTval s 1)
      else .ok ((emit 6 (.xpush x.pushn (v.lanes.map laneLow)) s).modTask fun k =>
        { k with xp := { k.xp with pushn := x.pushn + 1, tag := v.tag } })) s) s

/-- Lane l of a pop with q pops before it (R254). -/
def popLane (x : Transposer) (q : Nat) (l : Nat) : BitVec 32 :=
  let g := l / 64
  let i := l % 64
  if i < x.rows then ((x.t.toArray.getD i (Vector.replicate 256 0)).toArray.getD (4 * q + g) 0) else 0

/-- `XPOP` (R254). -/
def execXpop (d : BitVec 6) (s : State) : Out :=
  runClaiming [.transpose, .vector] [] (fun s =>
    let x := s.tk.xp
    if x.popn ≥ 64 then .trap .xposeState (wordTval s 2)
    else if x.tag = tagEmpty then .trap .xposeState (wordTval s 3)
    else .ok ((emitV 6 d (ofLanes x.tag fun l => popLane x x.popn l.val) s).modTask fun k =>
      { k with xp := { k.xp with popn := x.popn + 1 } })) s

/-- `XCFG` (R254). -/
def execXcfg (rows : BitVec 6) (s : State) : Out :=
  runClaiming [.transpose] [] (fun s => .ok (emit 1 (.xcfg (rows.toNat + 1)) s)) s

/-- `XCLR` (R254). -/
def execXclr (s : State) : Out := runClaiming [.transpose] [] (fun s => .ok (emit 1 .xclr s)) s

/-- `XCNT` (R254). -/
def execXcnt (d : BitVec 6) (s : State) : Out :=
  runClaiming [.transpose] [d] (fun s =>
    let x := s.tk.xp
    .ok (emitS 1 d (BitVec.ofNat 64 (packNat [(x.pushn, 8), (x.popn, 8), (x.rows - 1, 6), (0, 2), (x.tag.toNat, 6)])) s)) s

/-! ### Tree descent (R255, R256) -/

/-- One row's descent of n levels from node i (R255): the path trace and the node it leaves by. -/
def descend (v : VReg) : Nat → BitVec 32 → Nat → BitVec 32 × Nat
  | 0, t, i => (t, i)
  | n + 1, t, i =>
    let b := decide ((v.lanes.toArray.getD i 0).toInt ≥ 0)
    let d := (field t 27 5).toNat
    let t1 := putField (putField t d 1 (b2v 1 b)) 27 5 (BitVec.ofNat 5 (d + 1))
    descend v n t1 (2 * i + 1 + b2n b)

/-- `MDESC` (R255). A conversion-only tag on its source is met as in arithmetic (DEDUCED, log 26). -/
def execMdesc (d a b : BitVec 6) (s : State) : Out :=
  runMatrix [b] (fun s =>
    let k := s.tk
    let w := readS k b
    let m := (field w 0 6).toNat + 1
    let lev := (field w 6 4).toNat
    let start (n : Nat) : BitVec 32 := if bit w 10 then 0 else readPT k (BitVec.ofNat 6 n)
    let rows := (List.range m).map (a.toNat + ·)
    if field w 11 53 ≠ 0 ∨ lev = 0 ∨ lev > 8 then .trap .treeArg (wordTval s 1)
    else if a.toNat + m > 64 then .trap .treeArg (wordTval s 2)
    else checkTags (rows.map fun n =>
        let v := readV k (BitVec.ofNat 6 n)
        ⟨0, v.tag, true, v.tag == tagI40⟩) (fun s =>
      if rows.any fun n => decide ((field (start n) 27 5).toNat + lev > 27) then .trap .treeArg (wordTval s 3)
      else
        let out := rows.map fun n => (n, descend (readV k (BitVec.ofNat 6 n)) lev (start n) 0)
        .ok (emitV 4 d (ofLanes tagI32 fun l =>
            match out.find? fun e => e.1 == l.val with
            | some e => BitVec.ofNat 32 (e.2.2 - (2 ^ lev - 1))
            | none => BitVec.allOnes 32)
          (emit 4 (.pts (out.map fun e => (BitVec.ofNat 6 e.1, e.2.1))) s))) s) s

/-- `MREGROUP` (R256). A conversion-only tag on its source is met as in arithmetic (DEDUCED, log 26). -/
def execMregroup (d a b : BitVec 6) (s : State) : Out :=
  runMatrix [] (fun s =>
    let v := readV s.tk a
    checkTags [⟨0, v.tag, true, v.tag == tagI32⟩] (fun s =>
      let x := v.lanes.toList.map fun l => (laneLow l).toInt
      if x.any fun i => decide (i < -1 ∨ i > 255) then .trap .treeArg (wordTval s 4)
      else
        let cnt (u : Nat) : Nat := (x.filter fun i => decide (i = (u : Int))).length
        let order := ((List.range 256).flatMap fun (u : Nat) =>
          (x.zip (List.range 256)).filterMap fun e => if e.1 = (u : Int) then some e.2 else none).toArray
        .ok (emitV 8 (b + 1) (ofLanes tagI32 fun l =>
            BitVec.ofNat 32 ((List.range l.val).foldl (fun n u => n + cnt u) 0))
          (emitV 8 b (ofLanes tagI32 fun l => BitVec.ofNat 32 (cnt l.val))
            (emitV 8 d (ofLanes tagI32 fun l => match order[l.val]? with
              | some i => BitVec.ofNat 32 i
              | none => BitVec.allOnes 32) s)))) s) s

end Sys2Proof.Machine
end

