-- ==== Sys2Proof/Machine/VecConv.lean ====
section
/-! DEFINITION. Conversions and scaling of the vector units (R228 to R231). -/

namespace Sys2Proof.Machine

/-- A conversion between element counts with a part number (R228): element e of the result from element j of the source
by `conv`, whose widths are those of the tags. -/
def convParts (src old : VReg) (dtag : BitVec 6) (part : Nat) (conv : Nat → Nat × Flags) : VReg × Flags :=
  let ns := if src.tag = tagI40 then 256 else tagElems src.tag
  let nd := tagElems dtag
  let dw := tagWidth dtag
  if ns > nd then
    (ofElems dw dtag fun e => (conv (part * nd + e)).1,
     (List.range nd).foldl (fun f e => f ||| (conv (part * nd + e)).2) 0)
  else
    (ofElems dw dtag fun e =>
      if part * ns ≤ e ∧ e < part * ns + ns then (conv (e - part * ns)).1
      else if old.tag = dtag then elemNat dw old e else 0,
     (List.range ns).foldl (fun f e => f ||| (conv e).2) 0)

/-- Ratio of element counts (R228). -/
def convRatio (stag dtag : BitVec 6) : Nat :=
  let ns := if stag = tagI40 then 256 else tagElems stag
  let nd := tagElems dtag
  if ns > nd then ns / nd else nd / ns

/-- A conversion instruction (R228, R229): tag check, part check, landing at c+3. -/
def vecConvert (d a : BitVec 6) (part : BitVec 3) (ok : BitVec 6 → Bool) (dtag : BitVec 6)
    (conv : VReg → Nat → Nat × Flags) (s : State) : Out :=
  runClaiming [.vector] [] (fun s =>
    let x := readV s.tk a
    checkTags [⟨0, x.tag, false, ok x.tag⟩] (fun s =>
      if part.toNat ≥ convRatio x.tag dtag then .trap .vecArg (wordTval s 1)
      else
        let r := convParts x (readV s.tk d) dtag part.toNat (conv x)
        .ok (emitF 3 r.2 (emitV 3 d r.1 s))) s) s

/-- Tags that `VCVT.F32` accepts (R229). -/
def acceptToF32 : BitVec 6 → Bool := fun t =>
  decide (0x02 ≤ t.toNat ∧ t.toNat ≤ 0x0B) || isConvOnly t

/-- Element e of a register converted to F32 (R46, R229). -/
def elemToF32 (r : RMode) (x : VReg) (e : Nat) : Nat × Flags :=
  let sgn := fun w => subInt true w (BitVec.ofNat 32 (elemNat w x e)) 0
  match x.tag.toNat with
  | 0x02 => fConvert fmtBF16 fmtF32 r (elemNat 16 x e)
  | 0x03 => intToF fmtF32 r (sgn 32)
  | 0x04 => intToF fmtF32 r (sgn 16)
  | 0x05 => intToF fmtF32 r (sgn 8)
  | 0x06 => intToF fmtF32 r (sgn 4)
  | 0x07 => intToF fmtF32 r (x.lanes.toList.getD e 0).toInt
  | 0x20 => fConvert fmtFP16 fmtF32 r (elemNat 16 x e)
  | 0x21 => fConvert fmtE4M3 fmtF32 r (elemNat 8 x e)
  | 0x22 => fConvert fmtE5M2 fmtF32 r (elemNat 8 x e)
  | _ => intToF fmtF32 r (elemNat (tagWidth x.tag) x e)

/-- `VCVT.F32` (R229). -/
def execVcvtF32 (r : RMode) (d a : BitVec 6) (part : BitVec 3) (s : State) : Out :=
  vecConvert d a part acceptToF32 tagF32 (elemToF32 r) s

/-- F32 elements to a narrower float format (R229). -/
def vecFromF32 (r : RMode) (d a : BitVec 6) (part : BitVec 3) (f : FloatFmt) (dtag : BitVec 6)
    (s : State) : Out :=
  vecConvert d a part (acceptTag tagF32) dtag (fun x e => fConvert fmtF32 f r (elemNat 32 x e)) s

/-- `VCVT.Bf16x2` (R229). -/
def execVcvtBf16x2 (r : RMode) (d a : BitVec 6) (part : BitVec 3) (s : State) : Out :=
  vecFromF32 r d a part fmtBF16 tagBF16 s

/-- `VCVT.Fp16` (R229). -/
def execVcvtFp16 (r : RMode) (d a : BitVec 6) (part : BitVec 3) (s : State) : Out :=
  vecFromF32 r d a part fmtFP16 tagFP16 s

/-- `VCVT.E4m3` (R229). -/
def execVcvtE4m3 (r : RMode) (d a : BitVec 6) (part : BitVec 3) (s : State) : Out :=
  vecFromF32 r d a part fmtE4M3 tagE4M3 s

/-- `VCVT.E5m2` (R229). -/
def execVcvtE5m2 (r : RMode) (d a : BitVec 6) (part : BitVec 3) (s : State) : Out :=
  vecFromF32 r d a part fmtE5M2 tagE5M2 s

/-- Float elements to an integer type, clamped (R46, R229). -/
def vecToInt (m : RMode) (t : ITy) (d a : BitVec 6) (part : BitVec 3) (s : State) : Out :=
  vecConvert d a part (fun x => x == tagF32 || x == tagBF16) (ityTag t) (fun x e =>
    let v := if x.tag = tagF32 then decodeFloat fmtF32 (elemNat 32 x e) else decodeFloat fmtBF16 (elemNat 16 x e)
    let r := fToInt m (ityLo t) (ityHi t) v
    ((r.1 % (2 ^ ityBits t : Int)).toNat, r.2)) s

/-- `VCVT.t` (R229), round-to-nearest-even. -/
def execVcvtInt (t : ITy) (d a : BitVec 6) (part : BitVec 3) (s : State) : Out :=
  vecToInt .rne t d a part s

/-- `VCVT.t.RZ` (R229), toward zero. -/
def execVcvtIntRz (t : ITy) (d a : BitVec 6) (part : BitVec 3) (s : State) : Out :=
  vecToInt .rz t d a part s

/-- A drain of an accumulator row (R58, R230). -/
def vecDrain (sat : Bool) (d a : BitVec 6) (s : State) : Out :=
  runClaiming [.vector] [] (fun s =>
    let x := readV s.tk a
    checkTags [⟨0, x.tag, false, x.tag == tagI40⟩] (fun s =>
      let r := ofLanesF tagI32 fun i => drainI40 sat x.lanes[i]
      .ok (emitF 3 r.2 (emitV 3 d r.1 s))) s) s

/-- `VCVT.I32.SAT` (R230). -/
def execVcvtI32Sat (d a : BitVec 6) (s : State) : Out := vecDrain true d a s

/-- `VCVT.I32.WRAP` (R230). -/
def execVcvtI32Wrap (d a : BitVec 6) (s : State) : Out := vecDrain false d a s

/-- The three-way product of `VSCALE`, rounded once (R54, R231): a zero factor met with an infinite scale is invalid, where the third factor
is a quiet NaN as well (log 18). -/
def scale3 (m : RMode) (x y : FVal) (acc : Int) : Nat × Flags :=
  let sg := (isNegF x != isNegF y) != decide (acc < 0)
  let zero (z : FVal) : Bool := decide (acc = 0) || match z with
    | .fin _ m _ => m == 0
    | _ => false
  match x, y with
  | .nan s, .inf _ => nanResult fmtF32 (s || zero x)
  | .inf _, .nan s => nanResult fmtF32 (s || zero y)
  | .nan s, y => nanResult fmtF32 (s || isSNaN y)
  | _, .nan s => nanResult fmtF32 s
  | .inf _, .inf _ => if acc = 0 then nanResult fmtF32 true else (infBits fmtF32 sg, 0)
  | .inf _, .fin _ mb _ => if acc = 0 ∨ mb = 0 then nanResult fmtF32 true else (infBits fmtF32 sg, 0)
  | .fin _ ma _, .inf _ => if acc = 0 ∨ ma = 0 then nanResult fmtF32 true else (infBits fmtF32 sg, 0)
  | .fin _ ma ea, .fin _ mb eb => roundDyadic fmtF32 m sg (signed sg (ma * mb * acc.natAbs)) (ea + eb)

/-- `VSCALE` (R231): V[b] holds the column scales, V[b+1] the row scale. -/
def execVscale (r : RMode) (d a b : BitVec 6) (s : State) : Out :=
  runClaiming [.vector] [] (fun s =>
    let x := readV s.tk a
    let y := readV s.tk b
    let z := readV s.tk (b + 1)
    checkTags [⟨0, x.tag, true, x.tag == tagI40⟩, ⟨1, y.tag, true, y.tag == tagF32⟩,
               ⟨3, z.tag, true, z.tag == tagF32⟩] (fun s =>
      let v := ofLanesF tagF32 fun i =>
        fBits 32 (scale3 r (f32 (laneLow y.lanes[i])) (f32 (laneLow z.lanes[i])) (x.lanes[i]).toInt)
      .ok (emitF 4 v.2 (emitV 4 d v.1 s))) s) s

end Sys2Proof.Machine
end

