-- ==== Sys2Proof/Machine/VecFloat.lean ====
section
/-! DEFINITION. Float arithmetic, selection, compares, reductions and special functions of the vector units (R219 to R226). -/

namespace Sys2Proof.Machine

/-- The float type's tag accepted on both sources and given to the result (R220). -/
def vecF2 (f : FTy) (d a b : BitVec 6) (tag : BitVec 6) (op : BitVec 32 → BitVec 32 → BitVec 32 × Flags)
    (s : State) : Out :=
  vec2 4 d a b (acceptTag (ftyTag f)) (acceptTag (ftyTag f)) (fun _ => tag) op s

/-- `VADD.f.r` (R220). -/
def execVaddF (f : FTy) (r : RMode) (d a b : BitVec 6) (s : State) : Out :=
  vecF2 f d a b (ftyTag f) (fLane2 f r (fAdd fmtF32 r)) s

/-- `VSUB.f.r` (R220). -/
def execVsubF (f : FTy) (r : RMode) (d a b : BitVec 6) (s : State) : Out :=
  vecF2 f d a b (ftyTag f) (fLane2 f r (fun x y => fAdd fmtF32 r x (negF y))) s

/-- `VMUL.f.r` (R220). -/
def execVmulF (f : FTy) (r : RMode) (d a b : BitVec 6) (s : State) : Out :=
  vecF2 f d a b (ftyTag f) (fLane2 f r (fMul fmtF32 r)) s

/-- `VFMA.f.r` (R220): V[d] is read at issue. -/
def execVfmaF (f : FTy) (r : RMode) (d a b : BitVec 6) (s : State) : Out :=
  runClaiming [.vector] [] (fun s =>
    let x := readV s.tk a
    let y := readV s.tk b
    let z := readV s.tk d
    checkTags [⟨0, x.tag, true, x.tag == ftyTag f⟩, ⟨1, y.tag, true, y.tag == ftyTag f⟩,
               ⟨2, z.tag, true, z.tag == ftyTag f⟩] (fun s =>
      let v := ofLanesF (ftyTag f) fun i =>
        fLane3 f r (fFma fmtF32 r) (laneLow x.lanes[i]) (laneLow y.lanes[i]) (laneLow z.lanes[i])
      .ok (emitF 4 v.2 (emitV 4 d v.1 s))) s) s

/-- `VMIN.f` (R221). -/
def execVminF (f : FTy) (d a b : BitVec 6) (s : State) : Out :=
  vecF2 f d a b (ftyTag f) (fLaneSel f false) s

/-- `VMAX.f` (R221). -/
def execVmaxF (f : FTy) (d a b : BitVec 6) (s : State) : Out :=
  vecF2 f d a b (ftyTag f) (fLaneSel f true) s

/-- Tag of a float compare's result: the signed integer type of the compared width (R219). -/
def fcmpTag : FTy → BitVec 6
  | .f32 => 0x03 | .bf16 => 0x04

/-- `VCMPEQ.f` (R219). -/
def execVcmpeqF (f : FTy) (d a b : BitVec 6) (s : State) : Out :=
  vecF2 f d a b (fcmpTag f) (fLaneCmp f .eq) s

/-- `VCMPLT.f` (R219). -/
def execVcmpltF (f : FTy) (d a b : BitVec 6) (s : State) : Out :=
  vecF2 f d a b (fcmpTag f) (fLaneCmp f .lt) s

/-- `VCMPLE.f` (R219). -/
def execVcmpleF (f : FTy) (d a b : BitVec 6) (s : State) : Out :=
  vecF2 f d a b (fcmpTag f) (fLaneCmp f .le) s

/-- The trap of a conversion-only arithmetic form (R47, R65 order 2, R66, R222): TAG_RESERVED where a source carries a
reserved code, else EMULATE naming the first conversion-only source, or the a source where there is none. -/
def emulateTrap (srcs : List Src) (s : State) : SlotRes :=
  match srcs.find? fun x => isReservedTag x.tag with
  | some x => .trap .tagReserved (tagTval s x.tag x.opnd)
  | none =>
    match srcs.find? fun x => isConvOnly x.tag with
    | some x => .trap .emulate (tagTval s x.tag x.opnd)
    | none =>
      match srcs with
      | x :: _ => .trap .emulate (tagTval s x.tag x.opnd)
      | [] => .trap .emulate (tagTval s 0 0)

/-- A two-source conversion-only form. -/
def vecEmulate (a b : BitVec 6) (s : State) : Out :=
  runClaiming [.vector] [] (fun s =>
    emulateTrap [⟨0, (readV s.tk a).tag, true, true⟩, ⟨1, (readV s.tk b).tag, true, true⟩] s) s

/-- `VADD.e` (R222): always traps; the tile monitor emulates it (R47). -/
def execVaddE (_e : ETy) (_d a b : BitVec 6) (s : State) : Out := vecEmulate a b s

/-- `VSUB.e` (R222). -/
def execVsubE (_e : ETy) (_d a b : BitVec 6) (s : State) : Out := vecEmulate a b s

/-- `VMUL.e` (R222). -/
def execVmulE (_e : ETy) (_d a b : BitVec 6) (s : State) : Out := vecEmulate a b s

/-- `VFMA.e` (R222): V[d] is its third interpreted source. -/
def execVfmaE (_e : ETy) (d a b : BitVec 6) (s : State) : Out :=
  runClaiming [.vector] [] (fun s =>
    emulateTrap [⟨0, (readV s.tk a).tag, true, true⟩, ⟨1, (readV s.tk b).tag, true, true⟩,
                 ⟨2, (readV s.tk d).tag, true, true⟩] s) s

/-- One level of the pairwise tree (R60). -/
def pairSum (r : RMode) : List (Nat × Flags) → List (Nat × Flags)
  | x :: y :: rest =>
    let z := fAdd fmtF32 r (decodeFloat fmtF32 x.1) (decodeFloat fmtF32 y.1)
    (z.1, x.2 ||| y.2 ||| z.2) :: pairSum r rest
  | l => l

/-- The tree of R60 over 256 lanes: eight levels. -/
def treeSum (r : RMode) (v : VReg) : BitVec 32 × Flags :=
  let l0 := v.lanes.toList.map fun x => ((laneLow x).toNat, (0 : Flags))
  match (List.range 8).foldl (fun l _ => pairSum r l) l0 with
  | x :: _ => fBits 32 x
  | [] => (0, 0)

/-- `VREDSUM.F32` (R60, R224). -/
def execVredsumF32 (r : RMode) (d a : BitVec 6) (s : State) : Out :=
  vecReduce d a tagF32 tagF32 (treeSum r) s

/-- maximumNumber of all lanes with NV for a signalling NaN; the canonical NaN if every lane is a NaN (R224). -/
def maxNumber (v : VReg) : BitVec 32 × Flags :=
  let xs := v.lanes.toList.map fun x => (laneLow x).toNat
  let r := xs.foldl (fun (m, f) x => let y := fMinMax fmtF32 true m x; (y.1, f ||| y.2)) (canonNaN fmtF32, (0 : Flags))
  fBits 32 r

/-- `VREDMAX.F32` (R224). -/
def execVredmaxF32 (d a : BitVec 6) (s : State) : Out :=
  vecReduce d a tagF32 tagF32 maxNumber s

/-- `VARGMAX.F32` (R224): the lowest lane holding the maximum, −1 if every lane is a NaN. -/
def execVargmaxF32 (d a : BitVec 6) (s : State) : Out :=
  vecReduce d a tagF32 tagI32 (fun v =>
    let m := maxNumber v
    (if isNaNF (f32 m.1) then -1 else BitVec.ofNat 32 (v.lanes.toList.findIdx fun x => laneLow x == m.1), m.2)) s

/-- A special function lands at c+12 (R214, R225). -/
def vecSpecial (d a : BitVec 6) (f : FVal → Nat × Flags) (s : State) : Out :=
  runClaiming [.vector] [] (fun s =>
    let x := readV s.tk a
    checkTags [⟨0, x.tag, true, x.tag == tagF32⟩] (fun s =>
      let r := ofLanesF tagF32 fun i => fBits 32 (f (f32 (laneLow x.lanes[i])))
      .ok (emitF 12 r.2 (emitV 12 d r.1 s))) s) s

/-- `VEXP2` (R225, R226). -/
def execVexp2 (d a : BitVec 6) (s : State) : Out := vecSpecial d a vexp2 s

/-- `VLOG2` (R225, R226). -/
def execVlog2 (d a : BitVec 6) (s : State) : Out := vecSpecial d a vlog2 s

/-- `VRCP` (R225, R226). -/
def execVrcp (d a : BitVec 6) (s : State) : Out := vecSpecial d a vrcp s

/-- `VRSQ` (R225, R226). -/
def execVrsq (d a : BitVec 6) (s : State) : Out := vecSpecial d a vrsq s

/-- `VTANH` (R225, R226). -/
def execVtanh (d a : BitVec 6) (s : State) : Out := vecSpecial d a vtanh s

/-- `VSIN` (R225, R226). -/
def execVsin (d a : BitVec 6) (s : State) : Out := vecSpecial d a vsin s

end Sys2Proof.Machine
end

