-- ==== Sys2Proof/Machine/VecMove.lean ====
section
/-! DEFINITION. Logic, select, move, broadcast, index, permute, retag, planes and path masks of the vector units (R216 to R218, R227, R232 to R234). -/

namespace Sys2Proof.Machine

/-- Bits of a logic result: all 40 for I40, else 32 with bit 31 copied (R216). -/
def logicLane (tag : BitVec 6) (x : Lane) : Lane := if tag = tagI40 then x else lane32 (laneLow x)

/-- A bitwise instruction on two registers of one tag (R216). -/
def vecLogic (d a b : BitVec 6) (f : Lane → Lane → Lane) (s : State) : Out :=
  runClaiming [.vector] [] (fun s =>
    let x := readV s.tk a
    let y := readV s.tk b
    checkTags [⟨0, x.tag, false, acceptData x.tag⟩, ⟨1, y.tag, false, y.tag == x.tag⟩] (fun s =>
      .ok (emitV 2 d ⟨Vector.ofFn fun i => logicLane x.tag (f x.lanes[i] y.lanes[i]), x.tag⟩ s)) s) s

/-- `VAND` (R216). -/
def execVand (d a b : BitVec 6) (s : State) : Out := vecLogic d a b (fun x y => x &&& y) s

/-- `VOR` (R216). -/
def execVor (d a b : BitVec 6) (s : State) : Out := vecLogic d a b (fun x y => x ||| y) s

/-- `VXOR` (R216). -/
def execVxor (d a b : BitVec 6) (s : State) : Out := vecLogic d a b (fun x y => x ^^^ y) s

/-- `VNOT` (R216). -/
def execVnot (d a : BitVec 6) (s : State) : Out :=
  runClaiming [.vector] [] (fun s =>
    let x := readV s.tk a
    checkTags [⟨0, x.tag, false, acceptData x.tag⟩] (fun s =>
      .ok (emitV 2 d ⟨Vector.ofFn fun i => logicLane x.tag (~~~ x.lanes[i]), x.tag⟩ s)) s) s

/-- One lane of `VSEL` (R217): whole lanes by mask bit 31 for I40, else bit by bit. -/
def selLane (tag : BitVec 6) (m x y : Lane) : Lane :=
  if tag = tagI40 then (if bit m 31 then x else y)
  else lane32 ((laneLow x &&& laneLow m) ||| (laneLow y &&& ~~~ laneLow m))

/-- `VSEL` (R217): V[d] is the mask, read at issue. -/
def execVsel (d a b : BitVec 6) (s : State) : Out :=
  runClaiming [.vector] [] (fun s =>
    let x := readV s.tk a
    let y := readV s.tk b
    let m := readV s.tk d
    checkTags [⟨0, x.tag, false, acceptData x.tag⟩, ⟨1, y.tag, false, y.tag == x.tag⟩,
               ⟨2, m.tag, false, acceptSint m.tag⟩] (fun s =>
      .ok (emitV 2 d ⟨Vector.ofFn fun i => selLane x.tag m.lanes[i] x.lanes[i] y.lanes[i], x.tag⟩ s)) s) s

/-- `VMOV` (R218): all 40 bits and the tag. -/
def execVmov (d a : BitVec 6) (s : State) : Out :=
  runClaiming [.vector] [] (fun s =>
    let x := readV s.tk a
    checkTags [⟨0, x.tag, false, true⟩] (fun s => .ok (emitV 2 d x s)) s) s

/-- `VNOP` (R167). -/
def execVnop (s : State) : Out := runSlot [] (fun s => .ok s) s

/-- `VBCAST.F32` (R227). -/
def execVbcastF32 (d a : BitVec 6) (s : State) : Out :=
  runClaiming [.vector] [a] (fun s =>
    .ok (emitV 3 d (ofLanes tagF32 fun _ => field (readS s.tk a) 0 32) s)) s

/-- `VBCAST.I32` (R227). -/
def execVbcastI32 (d a : BitVec 6) (s : State) : Out :=
  runClaiming [.vector] [a] (fun s =>
    .ok (emitV 3 d (ofLanes tagI32 fun _ => field (readS s.tk a) 0 32) s)) s

/-- `VIOTA` (R227). -/
def execViota (d a : BitVec 6) (s : State) : Out :=
  runClaiming [.vector] [a] (fun s =>
    .ok (emitV 3 d (ofLanes tagI32 fun i => field (readS s.tk a) 0 32 + BitVec.ofNat 32 i.val) s)) s

/-- `VPERM` (R227): whole lanes, index bits [7:0]. -/
def execVperm (d a b : BitVec 6) (s : State) : Out :=
  runClaiming [.vector] [] (fun s =>
    let x := readV s.tk a
    let y := readV s.tk b
    checkTags [⟨0, x.tag, false, true⟩, ⟨1, y.tag, false, acceptIndex y.tag⟩] (fun s =>
      .ok (emitV 3 d ⟨Vector.ofFn fun i => x.lanes[(field y.lanes[i] 0 8).toNat]'(field y.lanes[i] 0 8).isLt, x.tag⟩ s)) s) s

/-- `VROT` (R227). -/
def execVrot (d a b : BitVec 6) (s : State) : Out :=
  runClaiming [.vector] [b] (fun s =>
    let x := readV s.tk a
    checkTags [⟨0, x.tag, false, true⟩] (fun s =>
      .ok (emitV 3 d ⟨Vector.ofFn fun i =>
        x.lanes[(i.val + (readS s.tk b).toNat) % 256]'(Nat.mod_lt _ (by decide)), x.tag⟩ s)) s) s

/-- Lanes under a new tag: I40 keeps 40 bits, any other copies bit 31, PLp zeroes lanes 8p and above (R232). -/
def retagLane (fmt : BitVec 6) (i : Nat) (x : Lane) : Lane :=
  if fmt = tagI40 then x else if isPL fmt && decide (i ≥ 8 * plPlanes fmt) then 0 else lane32 (laneLow x)

/-- `VRETAG` (R232): V[d]'s tag is checked first, then fmt. -/
def execVretag (d fmt : BitVec 6) (s : State) : Out :=
  runClaiming [.vector] [] (fun s =>
    let x := readV s.tk d
    if isReservedTag x.tag then .trap .tagReserved (tagTval s x.tag 2)
    else if isReservedTag fmt then .trap .tagReserved (tagTval s fmt 3)
    else .ok (emitV 3 d ⟨Vector.ofFn fun i => retagLane fmt i.val x.lanes[i], fmt⟩ s)) s

/-- The 256 source bytes of `VPLANE` with QS (R233). -/
def planeSource (x : VReg) (part : Nat) : List (Int × Flags) :=
  if x.tag = tagI8 then
    (List.range 256).map fun e => (subInt true 8 (BitVec.ofNat 32 (elemNat 8 x (256 * part + e))) 0, 0)
  else x.lanes.toList.map fun l =>
    let v := (laneLow l).toInt
    (satInt v (-128) 127, flagIf (decide (v < -128 ∨ v > 127)) flagQS)

/-- Lane i of the plane layout of p planes (R53, R233). -/
def planeLane (src : List (Int × Flags)) (p i : Nat) : BitVec 32 :=
  if i ≥ 8 * p then 0
  else BitVec.ofNat 32 (packNat ((List.range 32).map fun e =>
    ((((src.getD (i % 8 * 32 + e) (0, 0)).1 % 256).toNat / 2 ^ (7 - i / 8)) % 2, 1)))

/-- `VPLANE` (R233): p planes from part `part` of an I8x4 register, or from an I32 register with clamping. -/
def execVplane (d a : BitVec 6) (pl : BitVec 4) (part : BitVec 2) (s : State) : Out :=
  runClaiming [.vector] [] (fun s =>
    let x := readV s.tk a
    checkTags [⟨0, x.tag, false, x.tag == tagI8 || x.tag == tagI32⟩] (fun s =>
      if x.tag = tagI32 ∧ part ≠ 0 then .trap .vecArg (wordTval s 1)
      else
        let src := planeSource x part.toNat
        .ok (emitF 3 (src.foldl (fun f e => f ||| e.2) 0)
          (emitV 3 d (ofLanes (tagPL pl.toNat) fun i => planeLane src pl.toNat i.val) s))) s) s

/-- The node lanes of one subtree that lie on a path (R234). -/
def pathMask (t : BitVec 32) (l0 : Nat) : List Nat :=
  ((List.range 8).foldl (fun (acc : List Nat × Nat) l =>
    if l0 + l < (field t 27 5).toNat then (acc.1 ++ [2 ^ l - 1 + acc.2], 2 * acc.2 + b2n (bit t (l0 + l))) else acc)
    ([], 0)).1

/-- `VPTMASK` (R234). -/
def execVptmask (d a b : BitVec 6) (s : State) : Out :=
  runClaiming [.vector] [b] (fun s =>
    let t := readPT s.tk a
    let l0 := readS s.tk b
    if l0.toNat > 27 then .trap .vecArg (wordTval s 3)
    else if (field t 27 5).toNat > 27 then .trap .vecArg (wordTval s 4)
    else
      let m := pathMask t l0.toNat
      .ok (emitV 3 d (ofLanes tagI32 fun i => if m.contains i.val then -1 else 0) s)) s

end Sys2Proof.Machine
end

