-- ==== Sys2Proof/Machine/Dispatch.lean ====
section
/-! DEFINITION. The meaning of every instruction: one arm per constructor. -/

namespace Sys2Proof.Machine

def exec (i : Instr) (s : State) : Host.Outcome State Fault Refusal :=
  match i with
  | .pNop => Sys2Proof.Machine.execPNop s
  | .pExt d off nm1 le => Sys2Proof.Machine.execPExt d off nm1 le s
  | .pExtb d off lsb wm1 => Sys2Proof.Machine.execPExtb d off lsb wm1 s
  | .pSet d imm => Sys2Proof.Machine.execPSet d imm s
  | .pAdv n => Sys2Proof.Machine.execPAdv n s
  | .pAdvf a lsb wm1 sc => Sys2Proof.Machine.execPAdvf a lsb wm1 sc s
  | .pKey a mask => Sys2Proof.Machine.execPKey a mask s
  | .pCase st value => Sys2Proof.Machine.execPCase st value s
  | .pGoto st => Sys2Proof.Machine.execPGoto st s
  | .pPayld n => Sys2Proof.Machine.execPPayld n s
  | .pEnd err => Sys2Proof.Machine.execPEnd err s
  | .acNop => Sys2Proof.Machine.execAcNop s
  | .acMov d a => Sys2Proof.Machine.execAcMov d a s
  | .acAdd d a b sat => Sys2Proof.Machine.execAcAdd d a b sat s
  | .acSub d a b sat => Sys2Proof.Machine.execAcSub d a b sat s
  | .acAnd d a b => Sys2Proof.Machine.execAcAnd d a b s
  | .acOr d a b => Sys2Proof.Machine.execAcOr d a b s
  | .acXor d a b => Sys2Proof.Machine.execAcXor d a b s
  | .acShl d a w => Sys2Proof.Machine.execAcShl d a w s
  | .acShr d a w => Sys2Proof.Machine.execAcShr d a w s
  | .acMin d a b => Sys2Proof.Machine.execAcMin d a b s
  | .acMax d a b => Sys2Proof.Machine.execAcMax d a b s
  | .acSlt d a b => Sys2Proof.Machine.execAcSlt d a b s
  | .acMovi d imm => Sys2Proof.Machine.execAcMovi d imm s
  | .acAddi d a imm => Sys2Proof.Machine.execAcAddi d a imm s
  | .acAndi d a imm => Sys2Proof.Machine.execAcAndi d a imm s
  | .acOri d a imm => Sys2Proof.Machine.execAcOri d a imm s
  | .acMovh d imm => Sys2Proof.Machine.execAcMovh d imm s
  | .acSeqi d a imm => Sys2Proof.Machine.execAcSeqi d a imm s
  | .acSkipz a n => Sys2Proof.Machine.execAcSkipz a n s
  | .acSkipnz a n => Sys2Proof.Machine.execAcSkipnz a n s
  | .acDone => Sys2Proof.Machine.execAcDone s
  | .acLdd d off j nm1 => Sys2Proof.Machine.execAcLdd d off j nm1 s
  | .acHit d j => Sys2Proof.Machine.execAcHit d j s
  | .acFwd a => Sys2Proof.Machine.execAcFwd a s
  | .acMcast a => Sys2Proof.Machine.execAcMcast a s
  | .acDrop => Sys2Proof.Machine.execAcDrop s
  | .acRoute a => Sys2Proof.Machine.execAcRoute a s
  | .acSrd x t v word => Sys2Proof.Machine.execAcSrd x t v word s
  | .acSwr x t v word => Sys2Proof.Machine.execAcSwr x t v word s
  | .acSadd x t v word => Sys2Proof.Machine.execAcSadd x t v word s
  | .acArrive d a link one => Sys2Proof.Machine.execAcArrive d a link one s
  | .acExpect d a => Sys2Proof.Machine.execAcExpect d a s
  | .acPayWrite x t v dlv arr => Sys2Proof.Machine.execAcPayWrite x t v dlv arr s
  | .acPayAddw x t v dlv arr => Sys2Proof.Machine.execAcPayAddw x t v dlv arr s
  | .acPayAdds x t v dlv arr => Sys2Proof.Machine.execAcPayAdds x t v dlv arr s
  | .acPayAddf x t v dlv arr => Sys2Proof.Machine.execAcPayAddf x t v dlv arr s
  | .acAdmit x t => Sys2Proof.Machine.execAcAdmit x t s
  | .acClose x t => Sys2Proof.Machine.execAcClose x t s
  | .add d a b => Sys2Proof.Machine.execAdd d a b s
  | .sub d a b => Sys2Proof.Machine.execSub d a b s
  | .and d a b => Sys2Proof.Machine.execAnd d a b s
  | .or d a b => Sys2Proof.Machine.execOr d a b s
  | .xor d a b => Sys2Proof.Machine.execXor d a b s
  | .sll d a b => Sys2Proof.Machine.execSll d a b s
  | .srl d a b => Sys2Proof.Machine.execSrl d a b s
  | .sra d a b => Sys2Proof.Machine.execSra d a b s
  | .min d a b => Sys2Proof.Machine.execMin d a b s
  | .max d a b => Sys2Proof.Machine.execMax d a b s
  | .minu d a b => Sys2Proof.Machine.execMinu d a b s
  | .maxu d a b => Sys2Proof.Machine.execMaxu d a b s
  | .mul d a b => Sys2Proof.Machine.execMul d a b s
  | .mulh d a b => Sys2Proof.Machine.execMulh d a b s
  | .mulhu d a b => Sys2Proof.Machine.execMulhu d a b s
  | .div d a b => Sys2Proof.Machine.execDiv d a b s
  | .divu d a b => Sys2Proof.Machine.execDivu d a b s
  | .rem d a b => Sys2Proof.Machine.execRem d a b s
  | .remu d a b => Sys2Proof.Machine.execRemu d a b s
  | .addi d a imm => Sys2Proof.Machine.execAddi d a imm s
  | .andi d a imm => Sys2Proof.Machine.execAndi d a imm s
  | .ori d a imm => Sys2Proof.Machine.execOri d a imm s
  | .xori d a imm => Sys2Proof.Machine.execXori d a imm s
  | .slli d a imm => Sys2Proof.Machine.execSlli d a imm s
  | .srli d a imm => Sys2Proof.Machine.execSrli d a imm s
  | .srai d a imm => Sys2Proof.Machine.execSrai d a imm s
  | .movi d imm => Sys2Proof.Machine.execMovi d imm s
  | .movk d imm => Sys2Proof.Machine.execMovk d imm s
  | .cmpeq d a b => Sys2Proof.Machine.execCmpeq d a b s
  | .cmpne d a b => Sys2Proof.Machine.execCmpne d a b s
  | .cmplt d a b => Sys2Proof.Machine.execCmplt d a b s
  | .cmpltu d a b => Sys2Proof.Machine.execCmpltu d a b s
  | .cmple d a b => Sys2Proof.Machine.execCmple d a b s
  | .cmpleu d a b => Sys2Proof.Machine.execCmpleu d a b s
  | .cmpeqi d a imm => Sys2Proof.Machine.execCmpeqi d a imm s
  | .cmplti d a imm => Sys2Proof.Machine.execCmplti d a imm s
  | .cmplei d a imm => Sys2Proof.Machine.execCmplei d a imm s
  | .pand d a b => Sys2Proof.Machine.execPand d a b s
  | .por d a b => Sys2Proof.Machine.execPor d a b s
  | .pxor d a b => Sys2Proof.Machine.execPxor d a b s
  | .pnot d a => Sys2Proof.Machine.execPnot d a s
  | .fadd r d a b => Sys2Proof.Machine.execFadd r d a b s
  | .fsub r d a b => Sys2Proof.Machine.execFsub r d a b s
  | .fmul r d a b => Sys2Proof.Machine.execFmul r d a b s
  | .fdiv r d a b => Sys2Proof.Machine.execFdiv r d a b s
  | .fma r d a b => Sys2Proof.Machine.execFma r d a b s
  | .fsqrt r d a => Sys2Proof.Machine.execFsqrt r d a s
  | .fmin d a b => Sys2Proof.Machine.execFmin d a b s
  | .fmax d a b => Sys2Proof.Machine.execFmax d a b s
  | .fcmpeq d a b => Sys2Proof.Machine.execFcmpeq d a b s
  | .fcmplt d a b => Sys2Proof.Machine.execFcmplt d a b s
  | .fcmple d a b => Sys2Proof.Machine.execFcmple d a b s
  | .fcvtI64 r d a => Sys2Proof.Machine.execFcvtI64 r d a s
  | .cvtF32 r d a => Sys2Proof.Machine.execCvtF32 r d a s
  | .br imm => Sys2Proof.Machine.execBr imm s
  | .brN imm => Sys2Proof.Machine.execBrN imm s
  | .call imm => Sys2Proof.Machine.execCall imm s
  | .jr a => Sys2Proof.Machine.execJr a s
  | .bswap imm => Sys2Proof.Machine.execBswap imm s
  | .ifence => Sys2Proof.Machine.execIfence s
  | .nopn km1 => Sys2Proof.Machine.execNopn km1 s
  | .yield imm => Sys2Proof.Machine.execYield imm s
  | .endTask => Sys2Proof.Machine.execEnd s
  | .endRetirement t => Sys2Proof.Machine.execEndRetirement t s
  | .trap n => Sys2Proof.Machine.execTrap n s
  | .eret => Sys2Proof.Machine.execEret s
  | .eretSkip => Sys2Proof.Machine.execEretSkip s
  | .eretRaise => Sys2Proof.Machine.execEretRaise s
  | .srd d y => Sys2Proof.Machine.execSrd d y s
  | .swr d y => Sys2Proof.Machine.execSwr d y s
  | .enq d a b => Sys2Proof.Machine.execEnq d a b s
  | .spawnv d a b => Sys2Proof.Machine.execSpawnv d a b s
  | .nop => Sys2Proof.Machine.execNop s
  | .ldG z d a imm => Sys2Proof.Machine.execLdG z d a imm s
  | .stG z d a imm => Sys2Proof.Machine.execStG z d a imm s
  | .ldGAcq d a sc => Sys2Proof.Machine.execLdGAcq d a sc s
  | .stGRel d a sc => Sys2Proof.Machine.execStGRel d a sc s
  | .qmark => Sys2Proof.Machine.execQmark s
  | .fence sc => Sys2Proof.Machine.execFence sc s
  | .amoG o d a b => Sys2Proof.Machine.execAmoG o d a b s
  | .amoGAcq o d a sc => Sys2Proof.Machine.execAmoGAcq o d a sc s
  | .amoGRel o d a sc => Sys2Proof.Machine.execAmoGRel o d a sc s
  | .amoGAr o d a sc => Sys2Proof.Machine.execAmoGAr o d a sc s
  | .relb reg stg => Sys2Proof.Machine.execRelb reg stg s
  | .relbFree reg => Sys2Proof.Machine.execRelbFree reg s
  | .relbBankChange t bank => Sys2Proof.Machine.execRelbBankChange t bank s
  | .arrive d a => Sys2Proof.Machine.execArrive d a s
  | .arriveRel d a sc => Sys2Proof.Machine.execArriveRel d a sc s
  | .waitc d a sc => Sys2Proof.Machine.execWaitc d a sc s
  | .expect d a b => Sys2Proof.Machine.execExpect d a b s
  | .aadd d a b => Sys2Proof.Machine.execAadd d a b s
  | .asub d a b => Sys2Proof.Machine.execAsub d a b s
  | .aaddi d a imm => Sys2Proof.Machine.execAaddi d a imm s
  | .amovi d imm => Sys2Proof.Machine.execAmovi d imm s
  | .amovs d a => Sys2Proof.Machine.execAmovs d a s
  | .smova d a => Sys2Proof.Machine.execSmova d a s
  | .ashli d a imm => Sys2Proof.Machine.execAshli d a imm s
  | .areg d a j => Sys2Proof.Machine.execAreg d a j s
  | .anode d a b => Sys2Proof.Machine.execAnode d a b s
  | .anop => Sys2Proof.Machine.execAnop s
  | .lcset d a => Sys2Proof.Machine.execLcset d a s
  | .lcrd d a => Sys2Proof.Machine.execLcrd d a s
  | .loop n imm => Sys2Proof.Machine.execLoop n imm s
  | .loopSwp n sm1 imm => Sys2Proof.Machine.execLoopSwp n sm1 imm s
  | .spld d idx => Sys2Proof.Machine.execSpld d idx s
  | .spst d idx => Sys2Proof.Machine.execSpst d idx s
  | .spldA d idx => Sys2Proof.Machine.execSpldA d idx s
  | .spstA d idx => Sys2Proof.Machine.execSpstA d idx s
  | .hset h a => Sys2Proof.Machine.execHset h a s
  | .halloc d h b => Sys2Proof.Machine.execHalloc d h b s
  | .hpub h b => Sys2Proof.Machine.execHpub h b s
  | .hadv h b => Sys2Proof.Machine.execHadv h b s
  | .headAdvance t h => Sys2Proof.Machine.execHeadAdvance t h s
  | .hrd d h => Sys2Proof.Machine.execHrd d h s
  | .vaddInt t sat d a b => Sys2Proof.Machine.execVaddInt t sat d a b s
  | .vsubInt t sat d a b => Sys2Proof.Machine.execVsubInt t sat d a b s
  | .vmulInt t sat d a b => Sys2Proof.Machine.execVmulInt t sat d a b s
  | .vmin t d a b => Sys2Proof.Machine.execVmin t d a b s
  | .vmax t d a b => Sys2Proof.Machine.execVmax t d a b s
  | .vshl w d a b => Sys2Proof.Machine.execVshl w d a b s
  | .vshr t d a b => Sys2Proof.Machine.execVshr t d a b s
  | .vld d a fmt => Sys2Proof.Machine.execVld d a fmt s
  | .vst d a => Sys2Proof.Machine.execVst d a s
  | .vlds d a b => Sys2Proof.Machine.execVlds d a b s
  | .vsts d a b => Sys2Proof.Machine.execVsts d a b s
  | .vldx d a b => Sys2Proof.Machine.execVldx d a b s
  | .vstx d a b => Sys2Proof.Machine.execVstx d a b s
  | .vcmpeq w d a b => Sys2Proof.Machine.execVcmpeq w d a b s
  | .vcmplt t d a b => Sys2Proof.Machine.execVcmplt t d a b s
  | .vcmple t d a b => Sys2Proof.Machine.execVcmple t d a b s
  | .vredsum t sat d a => Sys2Proof.Machine.execVredsum t sat d a s
  | .vand d a b => Sys2Proof.Machine.execVand d a b s
  | .vor d a b => Sys2Proof.Machine.execVor d a b s
  | .vxor d a b => Sys2Proof.Machine.execVxor d a b s
  | .vnot d a => Sys2Proof.Machine.execVnot d a s
  | .vsel d a b => Sys2Proof.Machine.execVsel d a b s
  | .vmov d a => Sys2Proof.Machine.execVmov d a s
  | .vnop => Sys2Proof.Machine.execVnop s
  | .vaddF f r d a b => Sys2Proof.Machine.execVaddF f r d a b s
  | .vsubF f r d a b => Sys2Proof.Machine.execVsubF f r d a b s
  | .vmulF f r d a b => Sys2Proof.Machine.execVmulF f r d a b s
  | .vfmaF f r d a b => Sys2Proof.Machine.execVfmaF f r d a b s
  | .vaddE e d a b => Sys2Proof.Machine.execVaddE e d a b s
  | .vsubE e d a b => Sys2Proof.Machine.execVsubE e d a b s
  | .vmulE e d a b => Sys2Proof.Machine.execVmulE e d a b s
  | .vfmaE e d a b => Sys2Proof.Machine.execVfmaE e d a b s
  | .vminF f d a b => Sys2Proof.Machine.execVminF f d a b s
  | .vmaxF f d a b => Sys2Proof.Machine.execVmaxF f d a b s
  | .vcmpeqF f d a b => Sys2Proof.Machine.execVcmpeqF f d a b s
  | .vcmpltF f d a b => Sys2Proof.Machine.execVcmpltF f d a b s
  | .vcmpleF f d a b => Sys2Proof.Machine.execVcmpleF f d a b s
  | .vredsumF32 r d a => Sys2Proof.Machine.execVredsumF32 r d a s
  | .vredmaxF32 d a => Sys2Proof.Machine.execVredmaxF32 d a s
  | .vargmaxF32 d a => Sys2Proof.Machine.execVargmaxF32 d a s
  | .vredmaxI32 d a => Sys2Proof.Machine.execVredmaxI32 d a s
  | .vargmaxI32 d a => Sys2Proof.Machine.execVargmaxI32 d a s
  | .vexp2 d a => Sys2Proof.Machine.execVexp2 d a s
  | .vlog2 d a => Sys2Proof.Machine.execVlog2 d a s
  | .vrcp d a => Sys2Proof.Machine.execVrcp d a s
  | .vrsq d a => Sys2Proof.Machine.execVrsq d a s
  | .vtanh d a => Sys2Proof.Machine.execVtanh d a s
  | .vsin d a => Sys2Proof.Machine.execVsin d a s
  | .vbcastF32 d a => Sys2Proof.Machine.execVbcastF32 d a s
  | .vbcastI32 d a => Sys2Proof.Machine.execVbcastI32 d a s
  | .viota d a => Sys2Proof.Machine.execViota d a s
  | .vperm d a b => Sys2Proof.Machine.execVperm d a b s
  | .vrot d a b => Sys2Proof.Machine.execVrot d a b s
  | .vretag d fmt => Sys2Proof.Machine.execVretag d fmt s
  | .vplane d a pl part => Sys2Proof.Machine.execVplane d a pl part s
  | .vptmask d a b => Sys2Proof.Machine.execVptmask d a b s
  | .vcvtI32Sat d a => Sys2Proof.Machine.execVcvtI32Sat d a s
  | .vcvtI32Wrap d a => Sys2Proof.Machine.execVcvtI32Wrap d a s
  | .vscale r d a b => Sys2Proof.Machine.execVscale r d a b s
  | .vcvtF32 r d a part => Sys2Proof.Machine.execVcvtF32 r d a part s
  | .vcvtBf16x2 r d a part => Sys2Proof.Machine.execVcvtBf16x2 r d a part s
  | .vcvtFp16 r d a part => Sys2Proof.Machine.execVcvtFp16 r d a part s
  | .vcvtE4m3 r d a part => Sys2Proof.Machine.execVcvtE4m3 r d a part s
  | .vcvtE5m2 r d a part => Sys2Proof.Machine.execVcvtE5m2 r d a part s
  | .vcvtInt t d a part => Sys2Proof.Machine.execVcvtInt t d a part s
  | .vcvtIntRz t d a part => Sys2Proof.Machine.execVcvtIntRz t d a part s
  | .mcfg a => Sys2Proof.Machine.execMcfg a s
  | .mloadb h a => Sys2Proof.Machine.execMloadb h a s
  | .mloadbs h a => Sys2Proof.Machine.execMloadbs h a s
  | .matrixLoadComplete t => Sys2Proof.Machine.execMatrixLoadComplete t s
  | .mfeed h mm1 adv => Sys2Proof.Machine.execMfeed h mm1 adv s
  | .mfeedLanding t => Sys2Proof.Machine.execMfeedLanding t s
  | .mpush a => Sys2Proof.Machine.execMpush a s
  | .mmul d mm1 => Sys2Proof.Machine.execMmul d mm1 s
  | .mmac d mm1 => Sys2Proof.Machine.execMmac d mm1 s
  | .mmulMid d mm1 => Sys2Proof.Machine.execMmulMid d mm1 s
  | .mmacMid d mm1 => Sys2Proof.Machine.execMmacMid d mm1 s
  | .mdesc d a b => Sys2Proof.Machine.execMdesc d a b s
  | .mregroup d a b => Sys2Proof.Machine.execMregroup d a b s
  | .mclrW rb cfg => Sys2Proof.Machine.execMclrW rb cfg s
  | .mclrRb cfg => Sys2Proof.Machine.execMclrRb cfg s
  | .mclrCfg => Sys2Proof.Machine.execMclrCfg s
  | .xpush a => Sys2Proof.Machine.execXpush a s
  | .xpop d => Sys2Proof.Machine.execXpop d s
  | .xcfg rows => Sys2Proof.Machine.execXcfg rows s
  | .xclr => Sys2Proof.Machine.execXclr s
  | .xcnt d => Sys2Proof.Machine.execXcnt d s
  | .cnop => Sys2Proof.Machine.execCnop s
  | .cset j a b => Sys2Proof.Machine.execCset j a b s
  | .cclr => Sys2Proof.Machine.execCclr s
  | .cgo kp kx ky => Sys2Proof.Machine.execCgo kp kx ky s
  | .cwait kp kx ky => Sys2Proof.Machine.execCwait kp kx ky s
  | .cstat d k => Sys2Proof.Machine.execCstat d k s
  | .cpy kp kx ky => Sys2Proof.Machine.execCpy kp kx ky s
  | .cpyAs kp kx ky => Sys2Proof.Machine.execCpyAs kp kx ky s
  | .gath kp kx ky => Sys2Proof.Machine.execGath kp kx ky s
  | .pool kp kx ky => Sys2Proof.Machine.execPool kp kx ky s
  | .rld kp kx ky => Sys2Proof.Machine.execRld kp kx ky s
  | .rst kp kx ky => Sys2Proof.Machine.execRst kp kx ky s
  | .ramo kp kx ky => Sys2Proof.Machine.execRamo kp kx ky s
  | .mcst kp kx ky => Sys2Proof.Machine.execMcst kp kx ky s
  | .rarrive kp kx ky => Sys2Proof.Machine.execRarrive kp kx ky s
  | .commandStart id => Sys2Proof.Machine.execCommandStart id s
  | .copyBeat id => Sys2Proof.Machine.execCopyBeat id s
  | .commandCompletion id => Sys2Proof.Machine.execCommandCompletion id s
  | .leaseRenewal id => Sys2Proof.Machine.execLeaseRenewal id s
  | .leaseExpiry u => Sys2Proof.Machine.execLeaseExpiry u s
  | .pageWalk u ctx va k => Sys2Proof.Machine.execPageWalk u ctx va k s
  | .scalarAccessPerform t q => Sys2Proof.Machine.execScalarAccessPerform t q s
  | .sideLogReplay t => Sys2Proof.Machine.execSideLogReplay t s
  | .impreciseTrap t => Sys2Proof.Machine.execImpreciseTrap t s
  | .clockSkew u => Sys2Proof.Machine.execClockSkew u s
  | .cellExpect ctx k n => Sys2Proof.Machine.execCellExpect ctx k n s
  | .cellDelivery ctx k n => Sys2Proof.Machine.execCellDelivery ctx k n s
  | .cellArrive ctx idx k => Sys2Proof.Machine.execCellArrive ctx idx k s
  | .cellRemoteArrive ctx idx k => Sys2Proof.Machine.execCellRemoteArrive ctx idx k s
  | .cellPhaseRead ctx k => Sys2Proof.Machine.execCellPhaseRead ctx k s
  | .cellRewrite ctx k v => Sys2Proof.Machine.execCellRewrite ctx k v s
  | .heldRecordMove ctx k => Sys2Proof.Machine.execHeldRecordMove ctx k s
  | .recordLanding q => Sys2Proof.Machine.execRecordLanding q s
  | .launcherSelection die => Sys2Proof.Machine.execLauncherSelection die s
  | .imageLoadComplete t => Sys2Proof.Machine.execImageLoadComplete t s
  | .sliceExpiry t => Sys2Proof.Machine.execSliceExpiry t s
  | .yieldOverrun t => Sys2Proof.Machine.execYieldOverrun t s
  | .preemptionStop t => Sys2Proof.Machine.execPreemptionStop t s
  | .gangStop t => Sys2Proof.Machine.execGangStop t s
  | .classSaveComplete t c => Sys2Proof.Machine.execClassSaveComplete t c s
  | .timedLaunchLead die k => Sys2Proof.Machine.execTimedLaunchLead die k s
  | .timedLaunchStart die k => Sys2Proof.Machine.execTimedLaunchStart die k s
  | .timedLaunchDisarm die k => Sys2Proof.Machine.execTimedLaunchDisarm die k s
  | .contextDescriptorWrite ctx v => Sys2Proof.Machine.execContextDescriptorWrite ctx v s
  | .queueDescriptorWrite q v => Sys2Proof.Machine.execQueueDescriptorWrite q v s
  | .bankOwnerWrite bank v => Sys2Proof.Machine.execBankOwnerWrite bank v s
  | .bankScrubComplete bank => Sys2Proof.Machine.execBankScrubComplete bank s
  | .contextSave ctx => Sys2Proof.Machine.execContextSave ctx s
  | .portConfigWrite port v => Sys2Proof.Machine.execPortConfigWrite port v s
  | .portModeChange port => Sys2Proof.Machine.execPortModeChange port s
  | .ethernetFrameReceive port bytes => Sys2Proof.Machine.execEthernetFrameReceive port bytes s
  | .fabricFrameReceive port bytes => Sys2Proof.Machine.execFabricFrameReceive port bytes s
  | .timesync port offset => Sys2Proof.Machine.execTimesync port offset s
  | .timesyncSend port => Sys2Proof.Machine.execTimesyncSend port s
  | .timeUnsync => Sys2Proof.Machine.execTimeUnsync s
  | .laneswap port lane accept ts => Sys2Proof.Machine.execLaneswap port lane accept ts s
  | .laneWeak port lane => Sys2Proof.Machine.execLaneWeak port lane s
  | .laneSwapped port => Sys2Proof.Machine.execLaneSwapped port s
  | .linkDown port => Sys2Proof.Machine.execLinkDown port s
  | .hostIngressWrite addr bytes => Sys2Proof.Machine.execHostIngressWrite addr bytes s
  | .hostFrameTake => Sys2Proof.Machine.execHostFrameTake s
  | .serviceSlot => Sys2Proof.Machine.execServiceSlot s
  | .packetParse pipe => Sys2Proof.Machine.execPacketParse pipe s
  | .stageExecute pipe stage => Sys2Proof.Machine.execStageExecute pipe stage s
  | .packetDisposition pipe => Sys2Proof.Machine.execPacketDisposition pipe s
  | .payloadWrite eng => Sys2Proof.Machine.execPayloadWrite eng s
  | .payloadAddw eng => Sys2Proof.Machine.execPayloadAddw eng s
  | .payloadAdds eng => Sys2Proof.Machine.execPayloadAdds eng s
  | .payloadAddf eng => Sys2Proof.Machine.execPayloadAddf eng s
  | .creditWaitDiscard port => Sys2Proof.Machine.execCreditWaitDiscard port s
  | .readRequest port => Sys2Proof.Machine.execReadRequest port s
  | .writeRequest port => Sys2Proof.Machine.execWriteRequest port s
  | .atomicRequest port => Sys2Proof.Machine.execAtomicRequest port s
  | .multicastWrite port => Sys2Proof.Machine.execMulticastWrite port s
  | .remoteArrive port => Sys2Proof.Machine.execRemoteArrive port s
  | .readData port => Sys2Proof.Machine.execReadData port s
  | .writeAcknowledgement port => Sys2Proof.Machine.execWriteAcknowledgement port s
  | .atomicResult port => Sys2Proof.Machine.execAtomicResult port s
  | .multicastMemberAcknowledgement port => Sys2Proof.Machine.execMulticastMemberAcknowledgement port s
  | .arriveAcknowledgement port => Sys2Proof.Machine.execArriveAcknowledgement port s
  | .refusal port => Sys2Proof.Machine.execRefusal port s
  | .remoteTimeout id => Sys2Proof.Machine.execRemoteTimeout id s
  | .fabricDrain => Sys2Proof.Machine.execFabricDrain s
  | .hostLinkDrain => Sys2Proof.Machine.execHostLinkDrain s
  | .classificationDescriptorWrite pipe v => Sys2Proof.Machine.execClassificationDescriptorWrite pipe v s
  | .tableDescriptorWrite die k v => Sys2Proof.Machine.execTableDescriptorWrite die k v s
  | .tableEntryWrite die k slot v => Sys2Proof.Machine.execTableEntryWrite die k slot v s
  | .stageEntryWrite pipe stage ctx v => Sys2Proof.Machine.execStageEntryWrite pipe stage ctx v s
  | .parserProgramLoad pipe words => Sys2Proof.Machine.execParserProgramLoad pipe words s
  | .actionCodeLoad pipe stage base words => Sys2Proof.Machine.execActionCodeLoad pipe stage base words s
  | .decodeMapWrite map entries => Sys2Proof.Machine.execDecodeMapWrite map entries s
  | .routingEntryWrite pipe dst v => Sys2Proof.Machine.execRoutingEntryWrite pipe dst v s
  | .faultQueueHeaderWrite die v => Sys2Proof.Machine.execFaultQueueHeaderWrite die v s
  | .heldFaultEntry die => Sys2Proof.Machine.execHeldFaultEntry die s
  | .pagingReplyMapped die ctx page => Sys2Proof.Machine.execPagingReplyMapped die ctx page s
  | .pagingReplyFail die ctx page => Sys2Proof.Machine.execPagingReplyFail die ctx page s
  | .kenvalResume t skip => Sys2Proof.Machine.execKenvalResume t skip s
  | .kenvalDiscard t => Sys2Proof.Machine.execKenvalDiscard t s
  | .kenvalTerminate t => Sys2Proof.Machine.execKenvalTerminate t s
  | .kenvalPreemptRequest t => Sys2Proof.Machine.execKenvalPreemptRequest t s
  | .debugStop t => Sys2Proof.Machine.execDebugStop t s
  | .watchCopyRelease id => Sys2Proof.Machine.execWatchCopyRelease id s
  | .coreDump ctx => Sys2Proof.Machine.execCoreDump ctx s
  | .watchdog t => Sys2Proof.Machine.execWatchdog t s
  | .ctxLost ctx => Sys2Proof.Machine.execCtxLost ctx s
  | .traceSample t => Sys2Proof.Machine.execTraceSample t s
  | .measurementExtend reg ty content => Sys2Proof.Machine.execMeasurementExtend reg ty content s
  | .attestationReport nonce => Sys2Proof.Machine.execAttestationReport nonce s
  | .coldReset => Sys2Proof.Machine.execColdReset s
  | .thermalThrottle die hot => Sys2Proof.Machine.execThermalThrottle die hot s
  | .thermal die => Sys2Proof.Machine.execThermal die s
  | .thermalPowerOff => Sys2Proof.Machine.execThermalPowerOff s
  | .kenvalRegisterWrite r => Sys2Proof.Machine.execKenvalRegisterWrite r s
  | .backInStep u => Sys2Proof.Machine.execBackInStep u s
  | .d2dLink => Sys2Proof.Machine.execD2dLink s
  | .stateParity t => Sys2Proof.Machine.execStateParity t s
  | .powerCap die on => Sys2Proof.Machine.execPowerCap die on s

end Sys2Proof.Machine
end

