-- ==== Sys2Proof/Machine/Emulate.lean ====
section
/-! DEFINITION. What Kenval's tile monitor does on EMULATE (R47, R222, R344): the effect of its image as a whole, for a task that
stands at the image's first bundle (DESIGN CHOICE, log 133: its bundles and their cycles are not the manual's). -/

namespace Sys2Proof.Machine

/-- Format of a conversion-only type suffix (R47). -/
def etyFmt : ETy → FloatFmt
  | .fp16 => fmtFP16 | .e4m3 => fmtE4M3 | .e5m2 => fmtE5M2

/-- A conversion-only form: its suffix, its destination, its interpreted sources and its operation on F32 (R222). -/
structure EmuForm where
  ety : ETy
  dst : BitVec 6
  srcs : List (BitVec 6)
  op : FVal → FVal → FVal → Nat × Flags

/-- The conversion-only form that an instruction is, where it is one; each rounds to nearest even (R222). -/
def emuForm : Instr → Option EmuForm
  | .vaddE e d a b => some ⟨e, d, [a, b], fun x y _ => fAdd fmtF32 .rne x y⟩
  | .vsubE e d a b => some ⟨e, d, [a, b], fun x y _ => fAdd fmtF32 .rne x (negF y)⟩
  | .vmulE e d a b => some ⟨e, d, [a, b], fun x y _ => fMul fmtF32 .rne x y⟩
  | .vfmaE e d a b => some ⟨e, d, [a, b, d], fun x y z => fFma fmtF32 .rne x y z⟩
  | _ => none

/-- One element of an emulated form: its elements are promoted exactly, the F32 result is rounded to the suffix format, and the
flags of both steps are ORed (R47). -/
def emuElem (f : EmuForm) (k : Task) (i : Nat) : Nat × Flags :=
  let w := tagWidth (etyTag f.ety)
  let src (j : Nat) : FVal := decodeFloat (etyFmt f.ety) (elemNat w (readV k (f.srcs.getD j 0)) i)
  let x := f.op (src 0) (src 1) (src 2)
  let y := fConvert fmtF32 (etyFmt f.ety) .rne x.1
  (y.1, x.2 ||| y.2)

/-- The task with the emulated result in its destination by its current name (R190), under the suffix format's tag, and its flags in YFFLAGS (R47). -/
def emulated (f : EmuForm) (k : Task) : Task :=
  let t := etyTag f.ety
  let v := ofElems (tagWidth t) t fun i => (emuElem f k i).1
  { k with
    v := k.v.set (physV k.rot f.dst).toNat v (physV k.rot f.dst).isLt
    fflags := k.fflags ||| (List.range (tagElems t)).foldl (fun n i => n ||| (emuElem f k i).2) 0 }

/-- The slot that a task's trap record names, as its bundle fetches it. -/
def trappedSlot (x : Tile) : Option SlotIns :=
  let a := field x.task.yepc 0 18
  match fetchBundle { x with task := { x.task with mode := .task, pc := a } } with
  | .ok l => l.find? fun y => y.idx == field x.task.yepc 18 3
  | .error _ => none

/-- YTVAL of the TAG_MISMATCH of an instruction of the task where each conversion-only register r carries `tags r` instead. -/
def mismatchWith (i : SlotIns) (s : State) (tags : Fin 64 → BitVec 6) : Option Word :=
  let s1 := s.modTask fun k => { k with
    mode := .task, pc := field k.yepc 0 18
    v := Vector.ofFn fun r => if isConvOnly k.v[r].tag then { k.v[r] with tag := tags r } else k.v[r] }
  match exec i.ins { s1 with slot := i.idx, eng := i.eng, slotWord := i.word } with
  | .next u => match u.sig with
    | .trapped .tagMismatch v => some v
    | _ => none
  | _ => none

/-- YTVAL that the hardware's own checks give a trapped instruction as TAG_MISMATCH: those of the instruction where a
conversion-only register counts as Empty, outside every accepted set as well (R64, R65). Where the failing source is such a
register, it is the one whose tag the record follows, and its own tag is TAGF. -/
def mismatchTval (i : SlotIns) (s : State) : Option Word :=
  let follows (r : Fin 64) (p : BitVec 6) : Bool :=
    match mismatchWith i s fun q => if q = r then p else tagEmpty with
    | some v => field v 0 6 == p
    | none => false
  (mismatchWith i s fun _ => tagEmpty).map fun v =>
    if field v 0 6 ≠ tagEmpty then v
    else match (List.finRange 64).find? fun r =>
        isConvOnly s.tk.v[r].tag && [tagI40, tagN32, tagF32].any fun p => follows r p with
      | some r => putField v 0 6 s.tk.v[r].tag
      | none => v

/-- YTVAL of a conversion-only form as TAG_MISMATCH: its first source whose tag is not the suffix's. -/
def emuTval (f : EmuForm) (k : Task) : Option Word :=
  ((List.range f.srcs.length).find? fun j => (readV k (f.srcs.getD j 0)).tag != etyTag f.ety).map fun j =>
    putField (putField k.ytval 0 6 (readV k (f.srcs.getD j 0)).tag) 6 3 (BitVec.ofNat 3 j)

/-- TAG_MISMATCH goes to the acting tile's task, with the record that the hardware would have made (R47). -/
def mismatchRecord (i : SlotIns) (s : State) : State :=
  let v := match emuForm i.ins with
    | some f => emuTval f s.tk
    | none => mismatchTval i s
  s.modTask fun k => { k with
    ycause := putField k.ycause 0 8 (causeCode .tagMismatch), ytval := v.getD k.ytval
    mode := .task, pc := field k.yepc 0 18 }

/-- Whether a tile's task stands at the first bundle of the monitor's image with EMULATE recorded. -/
def atEmulate (x : Tile) : Bool :=
  x.status == .running && x.task.mode == .monitor && x.task.pc == 0x20000 && field x.task.ycause 0 8 == (0x12 : BitVec 8)
    && x.task.empties == 0

/-- The monitor's image acts on the EMULATE of a tile's task: the result and `ERET.SKIP`, or TAG_MISMATCH and `ERET.RAISE`. -/
def emulate (t : TileId) (s : State) : State :=
  if !atEmulate (s.tile t) then s
  else match trappedSlot (s.tile t) with
    | none => s
    | some i =>
      let k := (s.tile t).task
      match (emuForm i.ins).filter fun f => f.srcs.all fun r => (readV k r).tag == etyTag f.ety with
      | some f => resumeOn t true (s.modTaskAt t (emulated f))
      | none => { stopUnrouted t (mismatchRecord i { s with cur := t }) with cur := s.cur }

end Sys2Proof.Machine
end

