-- ==== Sys2Proof/Machine/Turn.lean ====
section
/-! DEFINITION. One turn of a tile: a cycle in which it is frozen, issues nothing, stops its task, or checks and issues a
bundle (R168, R169, R176, R181, R182, R334, R362, R363). -/

namespace Sys2Proof.Machine

/-! ### Issue -/

/-- The acting tile's slot x is the one that executes. -/
def atSlot (x : SlotIns) (s : State) : State := { s with slot := x.idx, eng := x.eng, slotWord := x.word }

/-- A precise trap of the bundle at the PC, the earlier shadow bundles committed first (R181, R182, R334). In a branch shadow it
is held until the branch resolves, in empty issue cycles in which no write lands (R182, R335). -/
def trapBundle (c : Cause) (slot eng : BitVec 3) (tval : Word) (s : State) : State :=
  let n := s.tk.shadow
  let s1 := if n > 0 then commitHeld (n.repeat (countSlots 0) s) else s
  { n.repeat issueCycle (takeTrap s.cur (causeCode c) false eng slot s.tk.pc tval 0
      (s1.modTask fun k => { k with watchAmo := c == .watchAtomic })) with sig := .trapped c tval }

/-- The instructions that complete their own bundle, executed after its other slots. -/
def isCloser : Instr → Bool
  | .yield _ => true | .endTask => true | .trap _ => true | .eret => true | .eretSkip => true | .eretRaise => true
  | _ => false

/-- The slots in the order in which they execute: each reads the registers as they stood before the bundle, and memory
in canonical order (R177, R237). -/
def slotOrder (l : List SlotIns) : List SlotIns := (l.filter fun x => !isCloser x.ins) ++ l.filter fun x => isCloser x.ins

/-- The slots execute one after another until one raises a trap, freezes the tile or completes the bundle. -/
def runSlots : List SlotIns → State → Out
  | [], s => .next { s with sig := .done }
  | x :: xs, s =>
    match exec x.ins (atSlot x s) with
    | .next s' => if s'.sig = .done then runSlots xs s' else .next s'
    | o => o

/-- The slots of a bundle that act: all, but for a slot that `ERET.SKIP` skips and, when an `END` begins again, the
others, which have taken effect (R344, R375). -/
def actingSlots (k : Task) (l : List SlotIns) : List SlotIns :=
  if k.mode = .monitor then l
  else if k.endAgain = some k.pc then l.filter fun x => x.ins == .endTask
  else l.filter fun x => !k.skip.contains (k.pc, x.idx)

/-- Whether all that a slot of a branch shadow does, if it does anything, is exposed writes that land after the branch resolves,
which are not held (R181). A shadow slot does nothing else but what is held, head advances, imprecise faults and commands. -/
def landsAfter (s : State) (x : SlotIns) : Bool :=
  match exec x.ins (atSlot x s) with
  | .next u =>
    decide (u.sig = .done) && u.tk.held.length == s.tk.held.length && u.tk.headAdv.length == s.tk.headAdv.length
      && u.tk.impFaults.length == s.tk.impFaults.length && u.cmds.length == s.cmds.length
      && (u.tk.pend.filter fun l => l.ord == (atSlot x s).ordNow).all fun l => decide (s.me.ic + s.tk.shadow ≤ l.at_)
  | _ => false

/-- A write to a Y-register that ignores it in this mode (R208, R345). -/
def readOnlyWrite (m : Mode) : Instr → Bool
  | .swr _ y => y == 0x002 || (y == 0x003 && m == .task) || decide (0x004 ≤ y.toNat ∧ y.toNat ≤ 0x007) || y == 0x013
  | _ => false

/-- Slots that take entries of the commit buffer: those that would change visible state before the branch resolves, or
outside the tile (R181). -/
def changingSlots (l : List SlotIns) (s : State) : Nat :=
  (l.filter fun x =>
    !isNoop x.ins && !changesNothing x.ins && !readOnlyWrite s.tk.mode x.ins && readP s.tk (field x.word 18 3)
      && !landsAfter s x).length

/-- The classes that a slot claims where it acts (R139; log 13): by its instruction, else by its engine. -/
def slotClasses (k : Task) (x : SlotIns) : List ResClass :=
  match x.ins with
  | .vnop => []
  | .spld .. => [.spill] | .spst .. => [.spill] | .spldA .. => [.spill] | .spstA .. => [.spill]
  | .srd _ y => if y = 0x001 then [.vector] else []
  | .spawnv .. => [.vector]
  | .cpyAs .. => [.vector]
  | .cgo .. => if parKind (k.ch[if x.eng = 7 then (1 : Fin 2) else 0]).shadow = 2 then [.vector] else []
  | .xpush _ => [.transpose, .vector] | .xpop _ => [.transpose, .vector]
  | _ => match x.eng.toNat with
    | 2 => [.vector] | 3 => [.vector] | 4 => [.vector, .matrix] | 5 => [.transpose] | _ => []

/-- The classes that the slots of a bundle claim are the task's own on its tile from now on (R139). -/
def noteTouched (l : List SlotIns) (before : Task) (s : State) : State :=
  let cs := (l.filter fun x => readP before (field x.word 18 3)).flatMap (slotClasses before)
  modUid before.uid (fun k => { k with touched := k.touched ++ (cs.filter fun c => !k.touched.contains c).eraseDups }) s

/-- Whether an acquiring access of the tile that has issued has not performed (R307). -/
def acquirePending (x : Tile) : Bool :=
  (x.task.loadQ.any fun e => e.acq.isSome) || (x.storeQ.any fun e => e.acq.isSome) || (x.sideLog.any fun e => e.acq.isSome)
    || x.hostPend.any fun w => match w.e.acq with | some sc => hostScope sc | none => false

/-- Whether the branch shadow holds an acquiring access (R181, R307). -/
def acquireHeld (k : Task) : Bool :=
  k.held.any fun h => match h with | .access _ _ e => e.acq.isSome | _ => false

/-- An instruction breakpoint of the acting tile that matches the bundle at its PC (R362, R364). -/
def breakHit (x : Tile) : Bool :=
  x.task.mode == .task && x.task.noBreak != some x.task.pc && x.breaks.toList.any fun b => b.1 && b.2.1 == x.task.ctx && b.2.2 == x.task.pc

/-- A class claim has waited for one more cycle (R139, R357): time that a store of the class's owner waits for its page does
not count. -/
def noteClaim (c : ResClass) (s : State) : State :=
  let x := s.me
  let owner := match x.resident.find? fun e => e.2 == c && e.1 != x.task.uid with | some e => e.1 | none => x.task.uid
  let held := c == .core && s.tiles.any fun y => (y.storeQ ++ y.sideLog).any fun e => e.waits && e.uid == owner
  s.modTile s.cur fun x => { x with claiming := some c, claimStall := if held then x.claimStall else x.claimStall + 1 }

/-- A cycle in which the bundle does not issue for a reason (R176). What the same branch shadow holds ends with the branch,
so that the cycle is an empty issue cycle (R181, R182; log 47); every other wait freezes the tile. -/
def waitCycle (why : FreezeWhy) (s : State) : State :=
  match why with
  | .shadow => emptyCycle s
  | .classClaim c => noteClaim c (frozenCycle s)
  | _ => frozenCycle s

/-- Exposed register writes in flight above which the tile freezes (R338): one frozen cycle stands for the freeze. -/
def lateLimit (s : State) : State :=
  if (s.tk.pend.filter isRegWrite).length > 32 then addFreeze 1 s else s

/-- What follows a bundle that has issued in task mode: STEP is due to its task, wherever it then stands (R363). -/
def afterIssue (t : TileId) (before : Task) (s : State) : State :=
  if (s.tile t).stepBit ∧ before.mode = .task then modUid before.uid (fun k => { k with stepDue := true }) s else s

/-- TACT of the timed launches that wait for the first bundle of the acting tile's gang (R142). -/
def recordTact (g : Nat) (s : State) : State :=
  let d := tileDie s.cur
  ((s.die d).tactWait.filter fun w => w.2 == g).foldl
    (fun s w => s.modTimed d w.1 fun e => { e with v := putField e.v 128 64 s.ftime })
    (s.modDie d fun x => { x with tactWait := x.tactWait.filter fun w => w.2 != g })

/-- A bundle that its first slot has trapped has not issued: the loop counters and the hang watchdog stand as before
(R356, R358). -/
def uncount (before after : State) : State :=
  after.modTile before.cur fun x =>
    { x with watchdog := before.me.watchdog, task := { x.task with loops := before.tk.loops } }

/-- The bundle's slots l issue on the acting tile. -/
def issueSlots (l : List SlotIns) (n : Nat) (s : State) : Out :=
  let k := s.tk
  let pc' := k.pc + BitVec.ofNat 18 (4 * n)
  let s1 := countSlots (filledCount l) (feedWatchdog (s.modTask fun k =>
    { k with npc := pc', taken := false
             shadowUsed := if k.shadow > 0 then k.shadowUsed + changingSlots l s else k.shadowUsed }))
  match runSlots (slotOrder l) s1 with
  | .next s' =>
    match s'.sig with
    | .done => .next (afterIssue s.cur k { completeBundle (lateLimit (recordTact k.gang (noteTouched l k s'))) with sig := .done })
    | .closed => .next (afterIssue s.cur k (recordTact k.gang (noteTouched l k s')))
    | .trapped c v =>
      if s'.slot = 0 ∧ k.shadow = 0 then .next (uncount s s')
      else .next (trapBundle c s'.slot s'.eng v { s with slotWord := s'.slotWord, slot := s'.slot, eng := s'.eng })
    | .frozen w => .next { waitCycle w s with sig := .frozen w }
  | o => o

/-- The acting tile checks and issues the bundle at its PC (R168, R169, R181, R182). What the sequencer itself detects, the
checks of a bundle and BREAK among them, is reported under the tile's S slot (DESIGN CHOICE, log 126: R14 lists no
sequencer). -/
def issueBundle (s : State) : Out :=
  let x := s.me
  let k := x.task
  if breakHit x then .next (trapBundle .break_ 0 0 0 s)
  else match fetchBundle x with
    | .error f => .next (trapBundle f.cause f.slot 0 f.tval s)
    | .ok all =>
      let l := actingSlots k all
      if k.shadow > 0 ∧ (l.any fun y => shadowForbids y.ins) then .next { emptyCycle s with sig := .done }
      else if (l.any fun y => isMemoryOp y.ins) && acquirePending x then
        .next { frozenCycle s with sig := .frozen .fence }
      else if (l.any fun y => isMemoryOp y.ins) && acquireHeld k then .next { emptyCycle s with sig := .frozen .shadow }
      else if k.shadow > 0 ∧ k.shadowUsed + changingSlots l s > 8 then .next { emptyCycle s with sig := .done }
      else issueSlots l all.length s

/-! ### A turn -/

/-- One class bit per slot that is no no-operation, in canonical order (R361). -/
def classBits (x : Tile) : Nat :=
  match fetchBundle x with
  | .ok l => l.foldl (fun n y => if isNoop y.ins then n else n ||| 2 ^ y.eng.toNat) 0
  | .error _ => 0

/-- The SAMPLE record that is due at a boundary, for the tile as it stood there (R361). -/
def sampleRecord (t : TileId) (x : Tile) (frozen : Bool) (s : State) : State :=
  let k := x.task
  traceRecord (tileDie t) 2 (tileUnit t 0) k.queue k.ctx k.cmdseq k.tmpl
    (packNat [(k.pc.toNat, 18), (classBits x, 8), (b2n frozen, 1), (k.loops.length, 3)])
    (s.modTile t fun y => { y with sampleDue := false })

/-- The SAMPLE record of the boundary at which tile x stood, where one is due (R361). -/
def sampled (x : Tile) (s : State) : State :=
  if x.sampleDue ∧ x.task.empties = 0 then
    sampleRecord s.cur x (match s.sig with | .frozen _ => true | _ => false) s
  else s

/-- A bundle boundary of the acting tile: the bundle issues, and a sample that is due is taken. -/
def boundary (s : State) : Out :=
  match issueBundle s with
  | .next s' => .next (sampled s.me s')
  | o => o

/-- A frozen cycle of the acting tile at a bundle boundary, with the sample that is due there. -/
def frozenTurn (why : FreezeWhy) (s : State) : Out := .next (sampled s.me { waitCycle why s with sig := .frozen why })

/-- Whether row data streams this cycle that has not landed (R247). -/
def rowsWait (s : State) : Bool :=
  s.tk.mat.rows.any fun e =>
    !e.landed && match e.claim with | some (first, _) => decide (first ≤ s.me.ic) | none => false

/-- Whether a queue of the tile's memory unit holds more than its size, after a resolution (R284), or a store stands
before a full side log (R281). -/
def queuesOver (x : Tile) : Bool :=
  decide (x.task.loadQ.length > 32) || decide (x.storeQ.length > 32)
    || (decide (x.sideLog.length ≥ 64) && match x.storeQ with | e :: _ => e.op != .mark | [] => false)

/-- The core class that placement claims (R139): the tile waits for it, or its poisoned save traps the task at its next
bundle (R346). -/
def coreClaim (s : State) : Out :=
  if !otherHolds s .core && savePoisoned s s.tk .core then
    .next { boundaryTrap s.cur .poisonedData (s.modTask fun k => { k with restore := k.restore.erase .core }) with
      sig := .closed }
  else frozenTurn (.classClaim .core) s

/-- A written instruction half that has come back from a poisoned save traps the task at its next bundle (R346, R383). -/
def halfPoisoned (s : State) : Out :=
  .next (sampled s.me { boundaryTrap s.cur .poisonedData (s.modTask fun k => { k with restore := k.restore.erase .half }) with
    sig := .closed })

/-- A bundle boundary at which a drained `LOOP.SWP` stands: in a branch shadow it waits for the branch; where a pre-emption is due
that finds no room it waits for that; else the loop, whose pre-emption another stop has taken the place of, goes on (R352). -/
def drainedTurn (s : State) : Out :=
  if s.tk.shadow > 0 then .next { emptyCycle s with sig := .done }
  else if s.me.preempt then frozenTurn .wait s
  else boundary (refillLoop s)

/-- A cycle of a running task (R176). -/
def runningTurn (s : State) : Out :=
  let x := s.me
  if x.freeze > 0 then frozenTurn .extra (s.modTile s.cur fun y => { y with freeze := y.freeze - 1 })
  else if claimBlocked s .core then coreClaim s
  else if x.task.restore.contains .half then halfPoisoned s
  else if rowsWait s then frozenTurn .matrix s
  else if queuesOver x then frozenTurn .queueFull s
  else if x.task.empties > 0 then
    .next { emptyCycle (s.modTask fun k => { k with empties := k.empties - 1 }) with sig := .done }
  else
    match (if x.task.shadow = 0 then stopDue s s.cur else none) with
    | some s' => .next (sampled x { s' with sig := .closed })
    | none => if x.task.refill then drainedTurn s else boundary s

/-- A cycle of a task at its `END` (R374, R375). -/
def endingTurn (s : State) : Out :=
  if s.me.freeze > 0 then frozenTurn .extra (s.modTile s.cur fun y => { y with freeze := y.freeze - 1 })
  else match stopDue s s.cur with
  | some s' => .next (sampled s.me { s' with sig := .closed })
  | none =>
    if endWaitOver s s.cur then .next { retire s.cur s with sig := .closed }
    else frozenTurn .token s

/-- The tasks of a HALTED context are to be pre-empted, and those of a context that is to be saved (R22, R140, R355). -/
def haltCheck (t : TileId) (s : State) : State :=
  let x := s.tile t
  if (s.ctxState x.task.ctx = 2 ∨ (s.ctx x.task.ctx).saving) ∧ !x.preempt ∧ (x.status = .running ∨ x.status = .ending ∨ x.status = .held) then
    preemptGang t s
  else s

/-- Whether the power controller may insert frozen cycles into a tile (R384, R385). -/
def throttled (s : State) (t : TileId) : Bool := (s.die (tileDie t)).throttle || (s.die (tileDie t)).powerHeld

/-- A turn of a tile that runs: on a throttled die a free value says whether the cycle is an inserted frozen one. -/
def liveTurn (s : State) : Out :=
  if throttled s s.cur then
    let s1 := { s with freeCount := s.freeCount + 1 }
    if Config.heldCycle s.freeCount then frozenTurn .extra s1
    else if s1.me.status = .running then runningTurn s1
    else endingTurn s1
  else if s.me.status = .running then runningTurn s
  else endingTurn s

/-- One turn of tile t; the slice counts the cycles of a STOPPED task as well (R136). -/
def tileTurn (t : TileId) (s : State) : Out :=
  let s0 := { applyReleases t (fun _ => true) { s with cur := t, slot := 0, eng := 0, slotWord := 0 } with sig := .done }
  let x := s0.me
  if x.status = .stopped then .next (flushSaves x.task.ctx (s0.modTile t fun y => { y with slice := y.slice + 1 }))
  else if x.status = .free ∨ x.status = .loading then .next s0
  else if !s0.ctxLive x.task.ctx then .next (dropTask t s0)
  else
    let s1 := haltCheck t s0
    match s1.me.status with
    | .running => liveTurn s1
    | .ending => liveTurn s1
    | .held =>
      if s1.me.preempt then .next (if s1.me.gangStop then s1.modTile t heldGangStop else s1)
      else .next { waitCycle .gang s1 with sig := .frozen .gang }
    | _ => .next s1

/-! ### The schedule (log 1) -/

/-- An instruction without an encoding: an event of the machine. -/
def isEvent (i : Instr) : Bool := (encode true 0 i).isNone

/-- Whether an event happens: while the power is off only a cold reset does (R385). -/
def happens (s : State) (i : Instr) : Bool := isEvent i && (!s.poweredOff || i == .coldReset)

/-- n cycles pass after a turn, and the ports move on. -/
def afterTurn (n : Nat) : Out → Out
  | .next s => .next (tidyPorts (tickClock n s))
  | o => o

/-- SGA of the slot in which the next record of a queue lands. -/
def landingPlace (x : HwQueue) : Nat := qBase x.desc + 32 * ((x.landing.head?.map fun l => l.slot).getD 0)

/-- Whether a register write zeroes a retirement counter. -/
def zeroesCount : KReg → Bool
  | .retnZero _ => true | .retireZero .. => true | _ => false

/-- Place of an event in the order of what meets in one cycle: Kenval's zeroing of a retirement counter, which leaves what the
cycle's updates add (R376); then at a launcher Kenval's descriptor writes, records landing by bank, tiles that become free, the
selection (R144). What ends tasks without `END` stands with the descriptor writes. Zero for an event that no order names. -/
def turnPhase (s : State) : Instr → Nat
  | .kenvalRegisterWrite r => if zeroesCount r then 1 else 0
  | .contextDescriptorWrite .. => 2
  | .queueDescriptorWrite .. => 2
  | .bankOwnerWrite .. => 2
  | .kenvalDiscard _ => 2
  | .kenvalTerminate _ => 2
  | .pagingReplyFail .. => 2
  | .watchdog _ => 2
  | .ctxLost _ => 2
  | .recordLanding q => 3 + sgaBank (landingPlace (s.queue q))
  | .endRetirement _ => 3000
  | .preemptionStop _ => 3000
  | .launcherSelection _ => 3001
  | _ => 0

/-- The state in which something of a place in that order happens: where its turn in this cycle is over, the next cycle's
has come (R144). -/
def inPhase (p : Nat) (s : State) : State :=
  if p = 0 then s else if p < s.phase then { tickClock 1 s with phase := p } else { s with phase := p }

/-- A turn of a tile that frees it stands in its cycle before the selection (R144). -/
def freedPhase (t : TileId) (before : State) : Out → Out
  | .next s => .next (if (before.tile t).status ≠ .free ∧ (s.tile t).status = .free then inPhase 3000 s else s)
  | o => o

/-- A turn of the schedule: an event, a turn of a tile, or n cycles. An instruction word is no turn, since words are
fetched. -/
def runTurn (t : Turn) (s : State) : Out :=
  match t with
  | .event i => if happens s i then exec i (inPhase (turnPhase s i) s) else .next s
  | .tile t => if s.poweredOff then .next s else freedPhase t s (tileTurn t s)
  | .tick n => if s.poweredOff then .next s else afterTurn n (.next s)
  | .changeStopped t k => .next (if s.poweredOff then s else changeStopped t k s)
  | .emulate t => .next (if s.poweredOff then s else emulate t s)
  | .singleBitError line => .next (if s.poweredOff then s else singleBitError line s)
  | .doubleBitError line => .next (if s.poweredOff then s else doubleBitError line s)
  | .hbmError line => .next (if s.poweredOff then s else hbmError line s)
  | .laneErrors p lane n => .next (if s.poweredOff then s else laneErrors p lane n s)
  | .laneWindow p margins => .next (if s.poweredOff then s else laneWindow p margins s)
  | .lastRequest id => .next (if s.poweredOff then s else lastRequest id s)
  | .fabricOrder p i => .next (if s.poweredOff then s else fabricOrder p i s)

/-- With nothing scheduled the current tile takes a turn of one cycle. -/
def idleTurn (s : State) : Out := if s.poweredOff then .next s else afterTurn 1 (tileTurn s.cur s)

/-! ### Words of the pipelines -/

/-- The next word of the parse under way at a pipeline (R102). -/
def parserWord (p : BitVec 3) (s : State) : BitVec 32 :=
  match (s.pipe p).parse with
  | some k => smGet 0 (s.pipe p).pmem (8 * k.state.toNat + k.word)
  | none => 0

/-- The next word of the block under evaluation at a pipeline (R107, R111). -/
def stageWord (p : BitVec 3) (s : State) : BitVec 32 :=
  match (s.pipe p).run with
  | some r => smGet 0 (s.pipe p).amem (4096 * (s.pipe p).runStage.toNat + r.base.toNat + r.i)
  | none => 0

/-- A fetched word runs; a word of no form stops the machine. -/
def runWord (w : BitVec 32) (i : Option Instr) (s : State) : Out :=
  match i with
  | some i => exec i s
  | none => .fault (.unloadedWord w)

end Sys2Proof.Machine
end

