-- ==== Sys2Proof/Machine/Step.lean ====
section
/-! DEFINITION. One step of the package: a word of the parser or of the stage that has the focus, or the next turn of the
schedule (log 1); and how an instruction word is placed where the next step runs it (log 2). -/

namespace Sys2Proof.Machine

/-- One step. With nothing scheduled the current tile takes a turn of one cycle. -/
def step (s : State) : Out :=
  match s.focus with
  | .parser p => runWord (parserWord p s) (pForm (parserWord p s)) s
  | .stage p => runWord (stageWord p s) (acForm (stageWord p s)) s
  | .idle =>
    match s.sched with
    | t :: ts => runTurn t { s with sched := ts }
    | [] => idleTurn s

/-! ### Placing a word (log 2) -/

/-- A packet of no bytes from port 0. -/
def emptyPacket : Packet := ⟨⟨⟨0, 0, 0, 0⟩, [], false, 0, false, false⟩, Vector.replicate 128 0, [], false, 0, none⟩

/-- A parser word placed at state 0, word 0 of pipeline 0, with a parse about to read it. -/
def placeParserWord (w : BitVec 32) (s : State) : State :=
  { s.modPipe 0 fun x =>
      { x with
        pmem := smSet 0 x.pmem 0 w
        parse := some { pkt := emptyPacket, state := 0, word := 0, cursor := 0, next := 0, key := 0, visited := 1 } } with
    focus := .parser 0 }

/-- An action word placed at word 0 of stage 0 of pipeline 0, with a block about to read it. -/
def placeActionWord (w : BitVec 32) (s : State) : State :=
  { s.modPipe 0 fun x =>
      { x with
        amem := smSet 0 x.amem 0 w
        runStage := 0
        run := some { pkt := emptyPacket, wk := Vector.replicate 128 0, ops := [], n := 0, i := 0, ended := false
                      lookups := Vector.replicate 4 ⟨false, false, 0, []⟩, cellOps := 0, pays := 0, base := 0
                      route := none, fault := none } } with
    focus := .stage 0 }

/-- A tile whose task is about to issue the one-slot bundle w at the first address of its half 0. -/
def placeOnTile (w : BitVec 32) (x : Tile) : Tile :=
  { x with
    status := .running, cur := false, imem := memWriteLE x.imem 0 4 (w ||| 0x80000000).toNat, freeze := 0, resident := []
    preempt := false, gangStop := false, parity := false
    task := { x.task with pc := 0, npc := 0, mode := .task, restore := [], shadow := 0, empties := 0, refill := false
                          releases := [], endAgain := none, skip := [], noBreak := some 0, impFaults := []
                          stepDue := false, stopReq := false } }

/-- A tile slot's word placed as the one slot of the next bundle of the current tile, whose context is ACTIVE. -/
def placeTileWord (w : BitVec 32) (s : State) : State :=
  { (s.modTile s.cur (placeOnTile w)).modCtx s.tk.ctx fun c => { c with desc := putField c.desc 0 3 (1 : BitVec 3) } with
    focus := .idle, sched := [] }

/-- s with an instruction word where the next step fetches it; a word that no space reads goes to the tile. -/
def State.withFetchWord (s : State) (_nbits w : Nat) : State :=
  let w32 := BitVec.ofNat 32 w
  match readWord w32 with
  | some (.parser, _) => placeParserWord w32 s
  | some (.action, _) => placeActionWord w32 s
  | _ => placeTileWord w32 s

end Sys2Proof.Machine
end

