-- ==== Sys2Proof/Safety.lean ====
section
/-! DEFINITION. What counts as a good state and a safe run, in the terms that claims use. -/

namespace Sys2Proof.Machine

/-- The canonical form of a memory: addresses strictly rising, and no byte listed that reads as an unlisted one. -/
abbrev Memory.wf (m : Mem) : Bool := memWf m

/-- Every memory of the package is in canonical form. -/
def State.memoryWf (s : State) : Bool :=
  Memory.wf s.sward && Memory.wf s.hbm && Memory.wf s.hostMem && Memory.wf s.cxlMem && Memory.wf s.hostWin
    && Memory.wf s.kenvalSram && s.tiles.all fun x => Memory.wf x.imem

/-- The tables that only Kenval writes, as one: remote windows (R321), packet multicast groups (R93), fabric multicast groups
(R329), and the place of the grant table (R323). -/
structure KenvalTables where
  windows : SMap (BitVec 256)
  grantBase : BitVec 47
  packetGroups : SMap (BitVec 32)
  fabGroups : SMap (BitVec 128)
  deriving DecidableEq, Repr

def State.kenvalTables (s : State) : KenvalTables := ⟨s.windows, s.grantBase, s.packetGroups, s.fabGroups⟩

/-- Those tables list their entries in rising order, and no entry that is zero. -/
def KenvalTables.wf (k : KenvalTables) : Bool := smWf 0 0 k.windows && smWf 0 0 k.packetGroups && smWf 0 0 k.fabGroups

/-! ### What a slot completes with -/

/-- Whether a slot that reads or writes the S registers `regs` may run: its guarding predicate is true, and no load has
still to write one of them (R178, R179). -/
def State.ready (s : State) (regs : List (BitVec 6)) : Bool := s.guard && !regs.any (scoreboarded s.tk)

/-- Whether, besides, the classes that the slot claims are the acting task's (R139). -/
def State.readyFor (s : State) (classes : List ResClass) (regs : List (BitVec 6)) : Bool :=
  s.ready regs && !classes.any (claimBlocked s)

/-- s after a slot that has completed with the exposed writes ws, each a latency and an effect, in their order. -/
def State.after (s : State) (ws : List (Nat × LandVal)) : State :=
  { ws.foldl (fun s w => emit w.1 w.2 s) s with sig := .done }

/-- The exposed write of an S register: S0 takes none (R173). -/
def landS (lat : Nat) (r : BitVec 6) (v : Word) : List (Nat × LandVal) := if r = 0 then [] else [(lat, .sreg r v)]

/-- The exposed write of a predicate: P0 takes none (R173). -/
def landP (lat : Nat) (r : BitVec 3) (v : Bool) : List (Nat × LandVal) := if r = 0 then [] else [(lat, .preg r v)]

/-- The exposed write of an A register. -/
def landA (lat : Nat) (r : BitVec 5) (v : Word) : List (Nat × LandVal) := [(lat, .areg r v)]

/-- The exposed write of a V register, by the name it has for the acting task (R177, R190). -/
def State.landV (s : State) (lat : Nat) (r : BitVec 6) (v : VReg) : List (Nat × LandVal) :=
  [(lat, .vreg (physV s.tk.rot r) v)]

/-- Flags that land with a result (R44). -/
def landF (lat : Nat) (f : Word) : List (Nat × LandVal) := if f = 0 then [] else [(lat, .flags f)]

/-! ### What a pipeline word completes with -/

/-- Pipeline p's parser has the focus, with parse k under way. -/
def State.parsing (s : State) (p : BitVec 3) (k : Parse) : Prop := s.focus = .parser p ∧ (s.pipe p).parse = some k

/-- Pipeline p's stages have the focus, with evaluation r of a block under way. -/
def State.evaluating (s : State) (p : BitVec 3) (r : StageRun) : Prop := s.focus = .stage p ∧ (s.pipe p).run = some r

/-- The step that ends with s. -/
def State.ends (s : State) : Out := .next { s with sig := .done }

/-- s after an action word that left the evaluation as r: one word more is executed (R111). -/
def State.afterWord (s : State) (p : BitVec 3) (r : StageRun) : State :=
  { Sys2Proof.Machine.afterWord p { r with n := r.n + 1, i := r.i + 1 } s with sig := .done }

/-- The evaluation with F[d] of its working vector written; F8 written so takes no destination of a `ROUTE` any more (R114). -/
def StageRun.writes (r : StageRun) (d : BitVec 7) (v : BitVec 16) : StageRun := r.put d v

/-! ### When a bundle issues, and what a slot may write -/

/-- The instructions that a false predicate does not turn off: some take none (R151, R154, R205), and a branch or call that is
not taken still resolves (R180, R201, R202). -/
def heedsNoPredicate : Instr → Bool
  | .yield _ => true | .ifence => true | .loop .. => true | .loopSwp .. => true | .eret => true | .eretSkip => true
  | .eretRaise => true | .br _ => true | .brN _ => true | .call _ => true
  | _ => false

/-- The S registers that a slot of a tile reads or writes by its encoding (R178): those whose pending load freezes it. -/
def scalarOperands : Instr → List (BitVec 6)
  | .add d a b => [d, a, b] | .sub d a b => [d, a, b] | .and d a b => [d, a, b] | .or d a b => [d, a, b]
  | .xor d a b => [d, a, b] | .sll d a b => [d, a, b] | .srl d a b => [d, a, b] | .sra d a b => [d, a, b]
  | .min d a b => [d, a, b] | .max d a b => [d, a, b] | .minu d a b => [d, a, b] | .maxu d a b => [d, a, b]
  | .mul d a b => [d, a, b] | .mulh d a b => [d, a, b] | .mulhu d a b => [d, a, b] | .div d a b => [d, a, b]
  | .divu d a b => [d, a, b] | .rem d a b => [d, a, b] | .remu d a b => [d, a, b]
  | .addi d a _ => [d, a] | .andi d a _ => [d, a] | .ori d a _ => [d, a] | .xori d a _ => [d, a]
  | .slli d a _ => [d, a] | .srli d a _ => [d, a] | .srai d a _ => [d, a] | .movi d _ => [d] | .movk d _ => [d]
  | .cmpeq _ a b => [a, b] | .cmpne _ a b => [a, b] | .cmplt _ a b => [a, b] | .cmpltu _ a b => [a, b]
  | .cmple _ a b => [a, b] | .cmpleu _ a b => [a, b] | .cmpeqi _ a _ => [a] | .cmplti _ a _ => [a]
  | .cmplei _ a _ => [a]
  | .fadd _ d a b => [d, a, b] | .fsub _ d a b => [d, a, b] | .fmul _ d a b => [d, a, b] | .fdiv _ d a b => [d, a, b]
  | .fma _ d a b => [d, a, b] | .fmin d a b => [d, a, b] | .fmax d a b => [d, a, b] | .fsqrt _ d a => [d, a]
  | .fcvtI64 _ d a => [d, a] | .cvtF32 _ d a => [d, a] | .fcmpeq _ a b => [a, b] | .fcmplt _ a b => [a, b]
  | .fcmple _ a b => [a, b]
  | .srd d _ => [d] | .swr d _ => [d] | .enq d a b => [d, a, b, b + 1, b + 2] | .spawnv d _ b => [d, b, b + 1]
  | .ldG _ d a _ => [d, a] | .stG _ d a _ => [d, a] | .ldGAcq d a _ => [d, a] | .stGRel d a _ => [d, a]
  | .amoG _ d a b => [d, a, b] | .amoGAcq o d a _ => if o = .cas then [d, d + 1, a] else [d, a]
  | .amoGRel o d a _ => if o = .cas then [d, d + 1, a] else [d, a]
  | .amoGAr o d a _ => if o = .cas then [d, d + 1, a] else [d, a]
  | .arrive d a => [d, a] | .arriveRel d a _ => [d, a] | .waitc d a _ => [d, a] | .expect d a b => [d, a, b]
  | .amovs _ a => [a] | .smova d _ => [d] | .lcset _ a => [a] | .lcrd d _ => [d] | .spld d _ => [d]
  | .spst d _ => [d] | .halloc d _ b => [d, b] | .hpub _ b => [b] | .hadv _ b => [b] | .hrd d _ => [d, d + 1]
  | .vbcastF32 _ a => [a] | .vbcastI32 _ a => [a] | .viota _ a => [a] | .vrot _ _ b => [b] | .vptmask _ _ b => [b]
  | .mcfg a => [a] | .mloadb _ a => [a] | .mloadbs _ a => [a] | .mdesc _ _ b => [b] | .xcnt d => [d]
  | .cset _ a b => [a, b] | .cstat d _ => [d]
  | _ => []

/-- The machine as tile t takes its turn: it acts, and the releases that its bundles ordered are applied (R145). -/
def State.onTurn (s : State) (t : TileId) : State :=
  { applyReleases t (fun _ => true) { s with cur := t, slot := 0, eng := 0, slotWord := 0 } with sig := .done }

/-- The acting tile's task runs, and neither a freeze, an empty cycle, a stop, a branch shadow, a breakpoint nor a
sample stands between it and its next bundle (R139, R176, R181, R334, R361, R362, R384). -/
def State.issues (s : State) : Prop :=
  s.me.status = .running ∧ s.ctxLive s.tk.ctx = true ∧ s.ctxState s.tk.ctx ≠ 2 ∧ throttled s s.cur = false ∧
    s.me.freeze = 0 ∧ claimBlocked s .core = false ∧ rowsWait s = false ∧ queuesOver s.me = false ∧ s.tk.empties = 0 ∧
    s.tk.shadow = 0 ∧ (stopDue s s.cur).isNone = true ∧ s.tk.refill = false ∧ breakHit s.me = false ∧
    s.me.sampleDue = false ∧ (s.ctx s.tk.ctx).saving = false ∧ s.tk.restore.contains .half = false ∧ s.tk.endAgain = none ∧ s.tk.skip = [] ∧ acquirePending s.me = false ∧
    acquireHeld s.tk = false

/-- The slot of a bundle of one word that executes instruction i: slot 0, on its class's first engine (R14, R156). -/
def soleSlot (w : BitVec 32) (e : Nat) (i : Instr) : SlotIns := ⟨0, w, BitVec.ofNat 3 e, i⟩

/-- The machine as slot x of a bundle of n words begins to execute: NPC follows the bundle, and the slot is named. -/
def State.atBundle (s : State) (x : SlotIns) (n : Nat) : State :=
  atSlot x (countSlots (filledCount [x]) (feedWatchdog (s.modTask fun k =>
    { k with npc := k.pc + BitVec.ofNat 18 (4 * n), taken := false })))

/-- A write of S register d. -/
def writesS (d : BitVec 6) : LandVal → Bool
  | .sreg r _ => r == d
  | _ => false

/-- A write of A register d. -/
def writesA (d : BitVec 5) : LandVal → Bool
  | .areg r _ => r == d
  | _ => false

/-- A write of predicate d. -/
def writesP (d : BitVec 3) : LandVal → Bool
  | .preg r _ => r == d
  | _ => false

/-- A write of the V register that d names for the acting task, or of nothing but flags. -/
def State.writesV (s : State) (d : BitVec 6) : LandVal → Bool
  | .vreg r _ => r == physV s.tk.rot d
  | .flags _ => true
  | _ => false

/-- A write of S register d, or of nothing but flags. -/
def writesSF (d : BitVec 6) : LandVal → Bool
  | .sreg r _ => r == d
  | .flags _ => true
  | _ => false

/-- A write of predicate d, or of nothing but flags. -/
def writesPF (d : BitVec 3) : LandVal → Bool
  | .preg r _ => r == d
  | .flags _ => true
  | _ => false

/-- What a register form may write: its destination, with FFLAGS for a floating-point or saturating form, and nothing for a
no-operation (R44, R167, R192 to R234); none for an instruction that acts on more than registers. -/
def State.registerForm (s : State) : Instr → Option (LandVal → Bool)
  | .add d _ _ => some (writesS d) | .sub d _ _ => some (writesS d) | .and d _ _ => some (writesS d)
  | .or d _ _ => some (writesS d) | .xor d _ _ => some (writesS d) | .sll d _ _ => some (writesS d)
  | .srl d _ _ => some (writesS d) | .sra d _ _ => some (writesS d) | .min d _ _ => some (writesS d)
  | .max d _ _ => some (writesS d) | .minu d _ _ => some (writesS d) | .maxu d _ _ => some (writesS d)
  | .mul d _ _ => some (writesS d) | .mulh d _ _ => some (writesS d) | .mulhu d _ _ => some (writesS d)
  | .div d _ _ => some (writesS d) | .divu d _ _ => some (writesS d) | .rem d _ _ => some (writesS d)
  | .remu d _ _ => some (writesS d)
  | .addi d _ _ => some (writesS d) | .andi d _ _ => some (writesS d) | .ori d _ _ => some (writesS d)
  | .xori d _ _ => some (writesS d) | .slli d _ _ => some (writesS d) | .srli d _ _ => some (writesS d)
  | .srai d _ _ => some (writesS d)
  | .movi d _ => some (writesS d) | .movk d _ => some (writesS d) | .smova d _ => some (writesS d)
  | .lcrd d _ => some (writesS d) | .spld d _ => some (writesS d)
  | .cmpeq d _ _ => some (writesP d) | .cmpne d _ _ => some (writesP d) | .cmplt d _ _ => some (writesP d)
  | .cmpltu d _ _ => some (writesP d) | .cmple d _ _ => some (writesP d) | .cmpleu d _ _ => some (writesP d)
  | .cmpeqi d _ _ => some (writesP d) | .cmplti d _ _ => some (writesP d) | .cmplei d _ _ => some (writesP d)
  | .pand d _ _ => some (writesP d) | .por d _ _ => some (writesP d) | .pxor d _ _ => some (writesP d)
  | .pnot d _ => some (writesP d)
  | .fadd _ d _ _ => some (writesSF d) | .fsub _ d _ _ => some (writesSF d) | .fmul _ d _ _ => some (writesSF d)
  | .fdiv _ d _ _ => some (writesSF d) | .fma _ d _ _ => some (writesSF d) | .fsqrt _ d _ => some (writesSF d)
  | .fmin d _ _ => some (writesSF d) | .fmax d _ _ => some (writesSF d) | .fcvtI64 _ d _ => some (writesSF d)
  | .cvtF32 _ d _ => some (writesSF d)
  | .fcmpeq d _ _ => some (writesPF d) | .fcmplt d _ _ => some (writesPF d) | .fcmple d _ _ => some (writesPF d)
  | .aadd d _ _ => some (writesA d) | .asub d _ _ => some (writesA d) | .aaddi d _ _ => some (writesA d)
  | .amovi d _ => some (writesA d) | .amovs d _ => some (writesA d) | .ashli d _ _ => some (writesA d)
  | .areg d _ _ => some (writesA d) | .anode d _ _ => some (writesA d) | .spldA d _ => some (writesA d)
  | .vaddInt _ _ d _ _ => some (s.writesV d) | .vsubInt _ _ d _ _ => some (s.writesV d)
  | .vmulInt _ _ d _ _ => some (s.writesV d) | .vmin _ d _ _ => some (s.writesV d)
  | .vmax _ d _ _ => some (s.writesV d) | .vshl _ d _ _ => some (s.writesV d) | .vshr _ d _ _ => some (s.writesV d)
  | .vcmpeq _ d _ _ => some (s.writesV d) | .vcmplt _ d _ _ => some (s.writesV d)
  | .vcmple _ d _ _ => some (s.writesV d) | .vredsum _ _ d _ => some (s.writesV d) | .vand d _ _ => some (s.writesV d)
  | .vor d _ _ => some (s.writesV d) | .vxor d _ _ => some (s.writesV d) | .vnot d _ => some (s.writesV d)
  | .vsel d _ _ => some (s.writesV d) | .vmov d _ => some (s.writesV d) | .vaddF _ _ d _ _ => some (s.writesV d)
  | .vsubF _ _ d _ _ => some (s.writesV d) | .vmulF _ _ d _ _ => some (s.writesV d)
  | .vfmaF _ _ d _ _ => some (s.writesV d) | .vminF _ d _ _ => some (s.writesV d)
  | .vmaxF _ d _ _ => some (s.writesV d) | .vcmpeqF _ d _ _ => some (s.writesV d)
  | .vcmpltF _ d _ _ => some (s.writesV d) | .vcmpleF _ d _ _ => some (s.writesV d)
  | .vredsumF32 _ d _ => some (s.writesV d) | .vredmaxF32 d _ => some (s.writesV d)
  | .vargmaxF32 d _ => some (s.writesV d) | .vredmaxI32 d _ => some (s.writesV d)
  | .vargmaxI32 d _ => some (s.writesV d) | .vbcastF32 d _ => some (s.writesV d) | .vbcastI32 d _ => some (s.writesV d)
  | .viota d _ => some (s.writesV d) | .vperm d _ _ => some (s.writesV d) | .vrot d _ _ => some (s.writesV d)
  | .vretag d _ => some (s.writesV d) | .vplane d _ _ _ => some (s.writesV d) | .vptmask d _ _ => some (s.writesV d)
  | .vcvtI32Sat d _ => some (s.writesV d) | .vcvtI32Wrap d _ => some (s.writesV d)
  | .vscale _ d _ _ => some (s.writesV d) | .vcvtF32 _ d _ _ => some (s.writesV d)
  | .vcvtBf16x2 _ d _ _ => some (s.writesV d) | .vcvtFp16 _ d _ _ => some (s.writesV d)
  | .vcvtE4m3 _ d _ _ => some (s.writesV d) | .vcvtE5m2 _ d _ _ => some (s.writesV d)
  | .vcvtInt _ d _ _ => some (s.writesV d) | .vcvtIntRz _ d _ _ => some (s.writesV d)
  | .nop => some fun _ => false | .anop => some fun _ => false | .vnop => some fun _ => false
  | .cnop => some fun _ => false
  | _ => none

/-- The special functions (R225), which write V[d] and FFLAGS. -/
def specialForm : Instr → Option (BitVec 6)
  | .vexp2 d _ => some d | .vlog2 d _ => some d | .vrcp d _ => some d | .vrsq d _ => some d | .vtanh d _ => some d
  | .vsin d _ => some d | _ => none

/-- The last of the writes due in issue cycle c, in the order of their landing, of which f tells something (R177). -/
def Task.lastDue {α : Type} (k : Task) (c : Nat) (f : LandVal → Option α) : Option α :=
  (k.pend.filter fun l => l.at_ == c).reverse.findSome? fun l => f l.val

/-- Whether f holds of one of the writes due in issue cycle c. -/
def Task.anyDue (k : Task) (c : Nat) (f : LandVal → Bool) : Bool :=
  k.pend.any fun l => l.at_ == c && f l.val

/-- A step that neither stops nor is refused. -/
def Out.isNext : Out → Bool
  | .next _ => true
  | _ => false

end Sys2Proof.Machine
end

