-- ==== Sys2Proof/Certificates/Slice0/Obligations.lean ====
section
/-! DEFINITION. The statements about the model, each with the rules it rests on. -/

open Sys2Proof Sys2Proof.Machine

/-! ### Scalar instructions -/

/-- Results of the three-register integer instructions (R192) and of the integer instructions with an immediate (R194):
the result lands in S[d] one cycle on, of the multiplies three; S0 takes no result (R173). -/
def Obligations.ScalarIntegerResults : Prop :=
  (∀ (s : State) (d a b : BitVec 6), s.ready [d, a, b] = true →
    let x := readS s.tk a
    let y := readS s.tk b
    exec (.add d a b) s = .next (s.after (landS 1 d (x + y))) ∧
    exec (.sub d a b) s = .next (s.after (landS 1 d (x - y))) ∧
    exec (.and d a b) s = .next (s.after (landS 1 d (x &&& y))) ∧
    exec (.or d a b) s = .next (s.after (landS 1 d (x ||| y))) ∧
    exec (.xor d a b) s = .next (s.after (landS 1 d (x ^^^ y))) ∧
    exec (.sll d a b) s = .next (s.after (landS 1 d (x <<< (y.toNat % 64)))) ∧
    exec (.srl d a b) s = .next (s.after (landS 1 d (x >>> (y.toNat % 64)))) ∧
    exec (.sra d a b) s = .next (s.after (landS 1 d (x.sshiftRight (y.toNat % 64)))) ∧
    exec (.min d a b) s = .next (s.after (landS 1 d (if x.toInt < y.toInt then x else y))) ∧
    exec (.max d a b) s = .next (s.after (landS 1 d (if x.toInt < y.toInt then y else x))) ∧
    exec (.minu d a b) s = .next (s.after (landS 1 d (if x.toNat < y.toNat then x else y))) ∧
    exec (.maxu d a b) s = .next (s.after (landS 1 d (if x.toNat < y.toNat then y else x))) ∧
    exec (.mul d a b) s = .next (s.after (landS 3 d (x * y))) ∧
    exec (.mulh d a b) s = .next (s.after (landS 3 d (BitVec.ofInt 64 (x.toInt * y.toInt / 2 ^ 64)))) ∧
    exec (.mulhu d a b) s = .next (s.after (landS 3 d (BitVec.ofNat 64 (x.toNat * y.toNat / 2 ^ 64))))) ∧
  (∀ (s : State) (d a i : BitVec 6), s.ready [d, a] = true →
    let x := readS s.tk a
    let y : Word := i.signExtend 64
    exec (.addi d a i) s = .next (s.after (landS 1 d (x + y))) ∧
    exec (.andi d a i) s = .next (s.after (landS 1 d (x &&& y))) ∧
    exec (.ori d a i) s = .next (s.after (landS 1 d (x ||| y))) ∧
    exec (.xori d a i) s = .next (s.after (landS 1 d (x ^^^ y))) ∧
    exec (.slli d a i) s = .next (s.after (landS 1 d (x <<< i.toNat))) ∧
    exec (.srli d a i) s = .next (s.after (landS 1 d (x >>> i.toNat))) ∧
    exec (.srai d a i) s = .next (s.after (landS 1 d (x.sshiftRight i.toNat))))

/-- The divisions (R192, R193): the quotient truncated toward zero and the remainder that goes with it land twelve cycles
on; a zero divisor gives −1 and the dividend, −2^63 by −1 gives −2^63 and 0; −7 by 2 gives −3 and −1. -/
def Obligations.DivisionResults : Prop :=
  (∀ (s : State) (d a b : BitVec 6), s.ready [d, a, b] = true →
     let x := readS s.tk a
     let y := readS s.tk b
     ∃ q r u v : Word,
       exec (.div d a b) s = .next (s.after (landS 12 d q)) ∧
       exec (.rem d a b) s = .next (s.after (landS 12 d r)) ∧
       exec (.divu d a b) s = .next (s.after (landS 12 d u)) ∧
       exec (.remu d a b) s = .next (s.after (landS 12 d v)) ∧
       (y = 0 → q = BitVec.allOnes 64 ∧ u = BitVec.allOnes 64 ∧ r = x ∧ v = x) ∧
       (x = BitVec.intMin 64 → y = BitVec.allOnes 64 → q = x ∧ r = 0) ∧
       (y ≠ 0 → ¬ (x = BitVec.intMin 64 ∧ y = BitVec.allOnes 64) →
         x.toInt = q.toInt * y.toInt + r.toInt ∧ r.toInt.natAbs < y.toInt.natAbs ∧
         (r.toInt = 0 ∨ (r.toInt < 0 ↔ x.toInt < 0))) ∧
       (y ≠ 0 → x.toNat = u.toNat * y.toNat + v.toNat ∧ v.toNat < y.toNat)) ∧
  decodeSlot 0x81E07146 = .ok (.div 7 5 6) ∧ divS (-7) 2 = -3 ∧ remS (-7) 2 = -1

/-- The constant moves (R195) with their encodings: `MOVI` sign-extends its twelve bits, `MOVK` shifts S[d] left by twelve
and adds them. -/
def Obligations.MoveImmediate : Prop :=
  (∀ (s : State) (d : BitVec 6) (i : BitVec 12), s.ready [d] = true →
    exec (.movi d i) s = .next (s.after (landS 1 d (BitVec.ofInt 64 i.toInt))) ∧
    exec (.movk d i) s = .next (s.after (landS 1 d (BitVec.ofNat 64 ((readS s.tk d).toNat * 2 ^ 12 + i.toNat))))) ∧
  (∀ (stop : Bool) (p : BitVec 3) (d : BitVec 6) (i : BitVec 12),
    decodeSlot (joinWord stop ⟨0x028, p, d, i.extractLsb' 6 6, i.extractLsb' 0 6⟩) = .ok (.movi d i) ∧
    decodeSlot (joinWord stop ⟨0x029, p, d, i.extractLsb' 6 6, i.extractLsb' 0 6⟩) = .ok (.movk d i)) ∧
  decodeSlot 0x85009FFB = .ok (.movi 9 (-5))

/-- The compares (R196): a predicate destination takes the relation one cycle on. -/
def Obligations.CompareResults : Prop :=
  (∀ (s : State) (d : BitVec 3) (a b : BitVec 6), s.ready [a, b] = true →
    let x := readS s.tk a
    let y := readS s.tk b
    exec (.cmpeq d a b) s = .next (s.after (landP 1 d (decide (x = y)))) ∧
    exec (.cmpne d a b) s = .next (s.after (landP 1 d (decide (x ≠ y)))) ∧
    exec (.cmplt d a b) s = .next (s.after (landP 1 d (decide (x.toInt < y.toInt)))) ∧
    exec (.cmpltu d a b) s = .next (s.after (landP 1 d (decide (x.toNat < y.toNat)))) ∧
    exec (.cmple d a b) s = .next (s.after (landP 1 d (decide (x.toInt ≤ y.toInt)))) ∧
    exec (.cmpleu d a b) s = .next (s.after (landP 1 d (decide (x.toNat ≤ y.toNat))))) ∧
  (∀ (s : State) (d : BitVec 3) (a i : BitVec 6), s.ready [a] = true →
    let x := readS s.tk a
    exec (.cmpeqi d a i) s = .next (s.after (landP 1 d (decide (x.toInt = i.toInt)))) ∧
    exec (.cmplti d a i) s = .next (s.after (landP 1 d (decide (x.toInt < i.toInt)))) ∧
    exec (.cmplei d a i) s = .next (s.after (landP 1 d (decide (x.toInt ≤ i.toInt))))) ∧
  (∀ (stop : Bool) (p d : BitVec 3) (a b : BitVec 6), d ≠ 0 →
    decodeSlot (joinWord stop ⟨0x030, p, d.setWidth 6, a, b⟩) = .ok (.cmpeq d a b) ∧
    decodeSlot (joinWord stop ⟨0x031, p, d.setWidth 6, a, b⟩) = .ok (.cmpne d a b) ∧
    decodeSlot (joinWord stop ⟨0x032, p, d.setWidth 6, a, b⟩) = .ok (.cmplt d a b) ∧
    decodeSlot (joinWord stop ⟨0x033, p, d.setWidth 6, a, b⟩) = .ok (.cmpltu d a b) ∧
    decodeSlot (joinWord stop ⟨0x034, p, d.setWidth 6, a, b⟩) = .ok (.cmple d a b) ∧
    decodeSlot (joinWord stop ⟨0x035, p, d.setWidth 6, a, b⟩) = .ok (.cmpleu d a b) ∧
    decodeSlot (joinWord stop ⟨0x038, p, d.setWidth 6, a, b⟩) = .ok (.cmpeqi d a b) ∧
    decodeSlot (joinWord stop ⟨0x039, p, d.setWidth 6, a, b⟩) = .ok (.cmplti d a b) ∧
    decodeSlot (joinWord stop ⟨0x03A, p, d.setWidth 6, a, b⟩) = .ok (.cmplei d a b)) ∧
  decodeSlot 0x86403105 = .ok (.cmplt 3 4 5)

/-- Predicate logic (R197): sources P0 to P7, destinations P1 to P7, all one cycle on; the b field of `PNOT` must be
zero. -/
def Obligations.PredicateLogic : Prop :=
  (∀ (s : State) (d a b : BitVec 3), s.ready [] = true →
    exec (.pand d a b) s = .next (s.after (landP 1 d (readP s.tk a && readP s.tk b))) ∧
    exec (.por d a b) s = .next (s.after (landP 1 d (readP s.tk a || readP s.tk b))) ∧
    exec (.pxor d a b) s = .next (s.after (landP 1 d (xor (readP s.tk a) (readP s.tk b)))) ∧
    exec (.pnot d a) s = .next (s.after (landP 1 d (!readP s.tk a)))) ∧
  (∀ (stop : Bool) (p d a b : BitVec 3), d ≠ 0 →
    decodeSlot (joinWord stop ⟨0x03C, p, d.setWidth 6, a.setWidth 6, b.setWidth 6⟩) = .ok (.pand d a b) ∧
    decodeSlot (joinWord stop ⟨0x03D, p, d.setWidth 6, a.setWidth 6, b.setWidth 6⟩) = .ok (.por d a b) ∧
    decodeSlot (joinWord stop ⟨0x03E, p, d.setWidth 6, a.setWidth 6, b.setWidth 6⟩) = .ok (.pxor d a b) ∧
    decodeSlot (joinWord stop ⟨0x03F, p, d.setWidth 6, a.setWidth 6, 0⟩) = .ok (.pnot d a)) ∧
  (∀ (stop : Bool) (p : BitVec 3) (d a b : BitVec 6),
    (b ≠ 0 → decodeSlot (joinWord stop ⟨0x03F, p, d, a, b⟩) = .error .reservedField) ∧
    decodeSlot (joinWord stop ⟨0x03C, p, 0, a, b⟩) = .error .illegalOperand ∧
    decodeSlot (joinWord stop ⟨0x03D, p, 0, a, b⟩) = .error .illegalOperand ∧
    decodeSlot (joinWord stop ⟨0x03E, p, 0, a, b⟩) = .error .illegalOperand ∧
    decodeSlot (joinWord stop ⟨0x03F, p, 0, a, 0⟩) = .error .illegalOperand)

/-- Scalar floating point (R198 to R200): results and flags land together four cycles on; a 32-bit result is zero-extended. -/
def Obligations.ScalarFloatResults : Prop :=
  (∀ (s : State) (r : RMode) (d a b : BitVec 6), s.ready [d, a, b] = true →
    let x := readF s.tk a
    let y := readF s.tk b
    let done (v : Nat × Flags) : Out := .next (s.after (landS 4 d ((BitVec.ofNat 32 v.1).setWidth 64) ++ landF 4 v.2))
    exec (.fadd r d a b) s = done (fAdd fmtF32 r x y) ∧
    exec (.fsub r d a b) s = done (fAdd fmtF32 r x (negF y)) ∧
    exec (.fmul r d a b) s = done (fMul fmtF32 r x y) ∧
    exec (.fdiv r d a b) s = done (fDiv fmtF32 r x y) ∧
    exec (.fma r d a b) s = done (fFma fmtF32 r x y (readF s.tk d)) ∧
    exec (.fmin d a b) s =
      done (fMinMax fmtF32 false ((readS s.tk a).toNat % 2 ^ 32) ((readS s.tk b).toNat % 2 ^ 32)) ∧
    exec (.fmax d a b) s =
      done (fMinMax fmtF32 true ((readS s.tk a).toNat % 2 ^ 32) ((readS s.tk b).toNat % 2 ^ 32))) ∧
  (∀ (s : State) (d : BitVec 3) (a b : BitVec 6), s.ready [a, b] = true →
    let done (v : Bool × Flags) : Out := .next (s.after (landP 4 d v.1 ++ landF 4 v.2))
    exec (.fcmpeq d a b) s = done (fRelate .eq (readF s.tk a) (readF s.tk b)) ∧
    exec (.fcmplt d a b) s = done (fRelate .lt (readF s.tk a) (readF s.tk b)) ∧
    exec (.fcmple d a b) s = done (fRelate .le (readF s.tk a) (readF s.tk b))) ∧
  (∀ (s : State) (r : RMode) (d a : BitVec 6), s.ready [d, a] = true →
    let f32Done (v : Nat × Flags) : Out := .next (s.after (landS 4 d ((BitVec.ofNat 32 v.1).setWidth 64) ++ landF 4 v.2))
    let i64 := fToInt r (-2 ^ 63) (2 ^ 63 - 1) (readF s.tk a)
    exec (.fsqrt r d a) s = f32Done (fSqrt fmtF32 r (readF s.tk a)) ∧
    exec (.cvtF32 r d a) s = f32Done (intToF fmtF32 r (readS s.tk a).toInt) ∧
    exec (.fcvtI64 r d a) s = .next (s.after (landS 4 d (BitVec.ofInt 64 i64.1) ++ landF 4 i64.2)))

/-- The address unit (R187, R191, R209, R210): A registers, loop counters and spill doublewords land one cycle on; `ANOP`
changes nothing. -/
def Obligations.AddressUnitResults : Prop :=
  (∀ (s : State) (d a b : BitVec 5) (i : BitVec 6) (c : BitVec 12) (j : BitVec 4), s.ready [] = true →
    let x := readA s.tk a
    exec (.aadd d a b) s = .next (s.after (landA 1 d (x + readA s.tk b))) ∧
    exec (.asub d a b) s = .next (s.after (landA 1 d (x - readA s.tk b))) ∧
    exec (.aaddi d a i) s = .next (s.after (landA 1 d (x + i.signExtend 64))) ∧
    exec (.amovi d c) s = .next (s.after (landA 1 d (c.signExtend 64))) ∧
    exec (.ashli d a i) s = .next (s.after (landA 1 d (x <<< i.toNat))) ∧
    exec (.areg d a j) s = .next (s.after (landA 1 d (BitVec.ofNat 64 (j.toNat * 2 ^ 24 + x.toNat % 2 ^ 24)))) ∧
    (∀ v, nodeAddress (readPT s.tk i) x = some v → exec (.anode d a i) s = .next (s.after (landA 1 d v))) ∧
    (nodeAddress (readPT s.tk i) x = none → exec (.anode d a i) s = slotTrap .anodeRange (wordTval s 0) s) ∧
    exec .anop s = .next (s.after [])) ∧
  (∀ (s : State) (d : BitVec 5) (a : BitVec 6) (l : BitVec 2), s.ready [a] = true →
    exec (.amovs d a) s = .next (s.after (landA 1 d (readS s.tk a))) ∧
    exec (.smova a d) s = .next (s.after (landS 1 a (readA s.tk d))) ∧
    exec (.lcset l a) s = .next (s.after [(1, .lcreg l ((readS s.tk a).setWidth 32))]) ∧
    exec (.lcrd a l) s = .next (s.after (landS 1 a ((readLC s.tk l).setWidth 64)))) ∧
  (∀ (s : State) (d : BitVec 6) (a : BitVec 5) (i : BitVec 10), s.readyFor [.spill] [d] = true →
    let v := smGet 0 s.tk.spill i.toNat
    exec (.spld d i) s = .next (s.after (landS 1 d v)) ∧
    exec (.spst d i) s = .next (s.after [(1, .spill i (readS s.tk d))]) ∧
    exec (.spldA a i) s = .next (s.after (landA 1 a v)) ∧
    exec (.spstA a i) s = .next (s.after [(1, .spill i (readA s.tk a))]))
/-! ### Vector instructions -/

/-- Element-wise integer instructions (R49, R212, R215, R219): with both sources of an accepted tag, each lane takes the
packed sub-element results two cycles on, with bits [39:32] copying bit 31, and the flags of all lanes are ORed. Of each
sub-element the exact result is taken modulo 2^w, or with `.SAT` clamped to the type's range, with QS where any element of
the lane was clamped and no flag otherwise (R49). -/
def Obligations.VectorIntegerResults : Prop :=
  (∀ (s : State) (d a b : BitVec 6), s.readyFor [.vector] [] = true →
     let x := readV s.tk a
     let y := readV s.tk b
     let done (tag : BitVec 6) (f : BitVec 32 → BitVec 32 → BitVec 32 × Flags) : Out :=
       .next (s.after (s.landV 2 d ⟨Vector.ofFn fun i => lane32 (f (laneLow x.lanes[i]) (laneLow y.lanes[i])).1, tag⟩ ++
         landF 2 (laneFlags fun i => (f (laneLow x.lanes[i]) (laneLow y.lanes[i])).2)))
     (∀ (t : ITy) (sat : Bool), x.tag = ityTag t → y.tag = ityTag t →
       exec (.vaddInt t sat d a b) s = done x.tag (intLane t sat fun u v => u + v) ∧
       exec (.vsubInt t sat d a b) s = done x.tag (intLane t sat fun u v => u - v) ∧
       exec (.vmulInt t sat d a b) s = done x.tag (intLane t sat fun u v => u * v) ∧
       exec (.vmin t d a b) s = done x.tag (intLane t false min) ∧
       exec (.vmax t d a b) s = done x.tag (intLane t false max) ∧
       exec (.vcmplt t d a b) s = done (ityTag (signedOf t)) (cmpLane t fun u v => decide (u < v)) ∧
       exec (.vcmple t d a b) s = done (ityTag (signedOf t)) (cmpLane t fun u v => decide (u ≤ v))) ∧
     (∀ t : ITy, x.tag = ityTag t → acceptWidth t y.tag = true →
       exec (.vshr t d a b) s = done x.tag (shiftLane t fun u n => u / 2 ^ n)) ∧
     (∀ w : IWidth, acceptWidth (widthTy w) x.tag = true → acceptWidth (widthTy w) y.tag = true →
       exec (.vshl w d a b) s = done x.tag (shiftLane (widthTy w) fun u n => u * 2 ^ n) ∧
       exec (.vcmpeq w d a b) s = done (ityTag (widthTy w)) (cmpLane (widthTy w) fun u v => u == v))) ∧
  (∀ (t : ITy) (op : Int → Int → Int) (x y : BitVec 32) (e : Nat), e < 32 / ityBits t →
     let w := ityBits t
     let v (k : Nat) := op (subInt (itySigned t) w x k) (subInt (itySigned t) w y k)
     ((subNat w (intLane t false op x y).1 e : Nat) : Int) = v e % 2 ^ w ∧
     (intLane t false op x y).2 = 0 ∧
     subInt (itySigned t) w (intLane t true op x y).1 e = max (ityLo t) (min (ityHi t) (v e)) ∧
     ((intLane t true op x y).2 = if ∃ k, k < 32 / w ∧ (v k < ityLo t ∨ ityHi t < v k) then flagQS else 0))

/-- Float vector instructions (R45, R220, R221): with every source of the instruction's tag, results and flags land four
cycles on; compares deliver lanes of ones and zeros under the integer tag of their width (R219). -/
def Obligations.VectorFloatResults : Prop :=
  ∀ (s : State) (f : FTy) (r : RMode) (d a b : BitVec 6), s.readyFor [.vector] [] = true →
    let x := readV s.tk a
    let y := readV s.tk b
    let z := readV s.tk d
    x.tag = ftyTag f → y.tag = ftyTag f →
    let done (tag : BitVec 6) (g : Fin 256 → BitVec 32 × Flags) : Out :=
      .next (s.after (s.landV 4 d ⟨Vector.ofFn fun i => lane32 (g i).1, tag⟩ ++ landF 4 (laneFlags fun i => (g i).2)))
    let lanes (tag : BitVec 6) (g : BitVec 32 → BitVec 32 → BitVec 32 × Flags) : Out :=
      done tag fun i => g (laneLow x.lanes[i]) (laneLow y.lanes[i])
    exec (.vaddF f r d a b) s = lanes (ftyTag f) (fLane2 f r (fAdd fmtF32 r)) ∧
    exec (.vsubF f r d a b) s = lanes (ftyTag f) (fLane2 f r fun u v => fAdd fmtF32 r u (negF v)) ∧
    exec (.vmulF f r d a b) s = lanes (ftyTag f) (fLane2 f r (fMul fmtF32 r)) ∧
    (z.tag = ftyTag f → exec (.vfmaF f r d a b) s = done (ftyTag f) fun i =>
      fLane3 f r (fFma fmtF32 r) (laneLow x.lanes[i]) (laneLow y.lanes[i]) (laneLow z.lanes[i])) ∧
    exec (.vminF f d a b) s = lanes (ftyTag f) (fLaneSel f false) ∧
    exec (.vmaxF f d a b) s = lanes (ftyTag f) (fLaneSel f true) ∧
    exec (.vcmpeqF f d a b) s = lanes (fcmpTag f) (fLaneCmp f .eq) ∧
    exec (.vcmpltF f d a b) s = lanes (fcmpTag f) (fLaneCmp f .lt) ∧
    exec (.vcmpleF f d a b) s = lanes (fcmpTag f) (fLaneCmp f .le)

/-- Reductions (R59, R60, R223, R224): one result in every lane eight cycles on: the exact sum narrowed once, the largest
value, the lowest lane that holds it, the pairwise tree of the binary32 sum. -/
def Obligations.ReductionResults : Prop :=
  ∀ (s : State) (d a : BitVec 6), s.readyFor [.vector] [] = true →
    let x := readV s.tk a
    let all (tag : BitVec 6) (v : BitVec 32) (f : Flags) : Out :=
      .next (s.after (s.landV 8 d ⟨Vector.ofFn fun _ => lane32 v, tag⟩ ++ landF 8 f))
    (∀ (t : ITy) (sat : Bool), x.tag = ityTag t →
      let r32 : ITy := if itySigned t then .i32 else .n32
      let v := narrow r32 sat (elemSum t x)
      exec (.vredsum t sat d a) s = all (ityTag r32) (BitVec.ofInt 32 v.1) v.2) ∧
    (x.tag = tagI32 →
      (∃ (m : BitVec 32) (j : Fin 256), m = laneLow x.lanes[j] ∧
        (∀ i : Fin 256, (laneLow x.lanes[i]).toInt ≤ m.toInt) ∧ (∀ i : Fin 256, i < j → laneLow x.lanes[i] ≠ m) ∧
        exec (.vredmaxI32 d a) s = all tagI32 m 0 ∧
        exec (.vargmaxI32 d a) s = all tagI32 (BitVec.ofNat 32 j.val) 0)) ∧
    (x.tag = tagF32 →
      let m := maxNumber x
      (∀ r : RMode, exec (.vredsumF32 r d a) s = all tagF32 (treeSum r x).1 (treeSum r x).2) ∧
      exec (.vredmaxF32 d a) s = all tagF32 m.1 m.2 ∧
      exec (.vargmaxF32 d a) s = all tagI32 (if isNaNF (f32 m.1) then BitVec.allOnes 32
        else BitVec.ofNat 32 (x.lanes.toList.findIdx fun l => laneLow l == m.1)) m.2)

/-- Special functions (R214, R225): on F32 sources one result per lane lands twelve cycles on, tagged F32, with the flags of all
lanes. Each lane's value is the model's own `vexp2` to `vsin` of it, which round after finitely many guard terms (log 136): that
they round correctly is not stated. -/
def Obligations.SpecialFunctionResults : Prop :=
  ∀ (s : State) (d a : BitVec 6), s.readyFor [.vector] [] = true → (readV s.tk a).tag = tagF32 →
    let x := readV s.tk a
    let done (g : FVal → Nat × Flags) : Out :=
      let r (i : Fin 256) := g (f32 (laneLow x.lanes[i]))
      .next (s.after (s.landV 12 d ⟨Vector.ofFn fun i => lane32 (BitVec.ofNat 32 (r i).1), tagF32⟩ ++
        landF 12 (laneFlags fun i => (r i).2)))
    exec (.vexp2 d a) s = done vexp2 ∧ exec (.vlog2 d a) s = done vlog2 ∧ exec (.vrcp d a) s = done vrcp ∧
    exec (.vrsq d a) s = done vrsq ∧ exec (.vtanh d a) s = done vtanh ∧ exec (.vsin d a) s = done vsin

/-- The arithmetic forms of the conversion-only formats (R47, R65, R222): at issue they take the trap EMULATE into the
tile monitor, with YTVAL naming the first conversion-only source, or the a source; a reserved tag is TAG_RESERVED first.
The tags decide, not the form: an accepted tag of another format traps too. Where the task then stands at the monitor's first
bundle (R344; log 133: the image acts as one turn of the model), with every interpreted source in the suffix's format each
element takes the F32 result of its promoted elements rounded to that format, written under the destination's current name
(R190), the flags of both steps are ORed into YFFLAGS, and the task goes on with its slot skipped; else it stops with
TAG_MISMATCH, YTVAL naming the first source of another format and its tag. -/
def Obligations.EmulatedForms : Prop :=
  (∀ (s : State) (e : ETy) (d a b : BitVec 6), s.readyFor [.vector] [] = true → s.tk.mode = .task →
    let x := (readV s.tk a).tag
    let y := (readV s.tk b).tag
    let z := (readV s.tk d).tag
    let enters (o : Out) (tag : BitVec 6) (opnd : Nat) : Prop :=
      ∃ t, o = .next t ∧ o = slotTrap .emulate (tagTval s tag opnd) s ∧ t.tk.mode = .monitor ∧ t.tk.pc = monitorBase ∧
        field t.tk.ycause 0 8 = (0x12 : BitVec 8) ∧ t.tk.ytval = tagTval s tag opnd
    (isReservedTag x = false → isReservedTag y = false →
      let tag := if isConvOnly x then x else if isConvOnly y then y else x
      let opnd := if isConvOnly x then 0 else if isConvOnly y then 1 else 0
      enters (exec (.vaddE e d a b) s) tag opnd ∧ enters (exec (.vsubE e d a b) s) tag opnd ∧
      enters (exec (.vmulE e d a b) s) tag opnd ∧
      (isReservedTag z = false →
        enters (exec (.vfmaE e d a b) s) (if isConvOnly x then x else if isConvOnly y then y else if isConvOnly z then z else x)
          (if isConvOnly x then 0 else if isConvOnly y then 1 else if isConvOnly z then 2 else 0))) ∧
    (let stops (tag : BitVec 6) (opnd : Nat) : Out := slotTrap .tagReserved (tagTval s tag opnd) s
     (isReservedTag x = true →
       exec (.vaddE e d a b) s = stops x 0 ∧ exec (.vsubE e d a b) s = stops x 0 ∧
       exec (.vmulE e d a b) s = stops x 0 ∧ exec (.vfmaE e d a b) s = stops x 0) ∧
     (isReservedTag x = false → isReservedTag y = true →
       exec (.vaddE e d a b) s = stops y 1 ∧ exec (.vsubE e d a b) s = stops y 1 ∧
       exec (.vmulE e d a b) s = stops y 1 ∧ exec (.vfmaE e d a b) s = stops y 1) ∧
     (isReservedTag x = false → isReservedTag y = false → isReservedTag z = true → exec (.vfmaE e d a b) s = stops z 2))) ∧
  ∀ (s : State) (t : TileId) (e : ETy) (d a b : BitVec 6) (i : SlotIns), s.poweredOff = false → atEmulate (s.tile t) = true →
    trappedSlot (s.tile t) = some i →
    let k := (s.tile t).task
    let el (r : BitVec 6) (n : Nat) : FVal := decodeFloat (etyFmt e) (elemNat (tagWidth (etyTag e)) (readV k r) n)
    let made (d : BitVec 6) (g : Nat → Nat × Flags) : State :=
      resumeOn t true (s.modTaskAt t fun k => { k with
        v := k.v.set (physV k.rot d).toNat (ofElems (tagWidth (etyTag e)) (etyTag e) fun n =>
          (fConvert fmtF32 (etyFmt e) .rne (g n).1).1) (physV k.rot d).isLt
        fflags := k.fflags ||| (List.range (tagElems (etyTag e))).foldl
          (fun f n => f ||| ((g n).2 ||| (fConvert fmtF32 (etyFmt e) .rne (g n).1).2)) 0 })
    let both : Prop := (readV k a).tag = etyTag e ∧ (readV k b).tag = etyTag e
    let fails (r : BitVec 6) (n : Nat) : Prop :=
      ∃ u, runTurn (.emulate t) s = .next u ∧ (u.tile t).status = .stopped ∧ (u.tile t).task.mode = .task ∧
        field (u.tile t).task.ycause 0 8 = (0x10 : BitVec 8) ∧ (u.tile t).task.yepc = k.yepc ∧
        field (u.tile t).task.ytval 0 6 = (readV k r).tag ∧ field (u.tile t).task.ytval 6 3 = BitVec.ofNat 3 n
    (i.ins = .vaddE e d a b → both → runTurn (.emulate t) s = .next (made d fun n => fAdd fmtF32 .rne (el a n) (el b n))) ∧
    (i.ins = .vsubE e d a b → both → runTurn (.emulate t) s = .next (made d fun n => fAdd fmtF32 .rne (el a n) (negF (el b n)))) ∧
    (i.ins = .vmulE e d a b → both → runTurn (.emulate t) s = .next (made d fun n => fMul fmtF32 .rne (el a n) (el b n))) ∧
    (i.ins = .vfmaE e d a b → both → (readV k d).tag = etyTag e →
      runTurn (.emulate t) s = .next (made d fun n => fFma fmtF32 .rne (el a n) (el b n) (el d n))) ∧
    (i.ins = .vaddE e d a b ∨ i.ins = .vsubE e d a b ∨ i.ins = .vmulE e d a b ∨ i.ins = .vfmaE e d a b →
      ((readV k a).tag ≠ etyTag e → fails a 0) ∧
      ((readV k a).tag = etyTag e → (readV k b).tag ≠ etyTag e → fails b 1)) ∧
    (i.ins = .vfmaE e d a b → both → (readV k d).tag ≠ etyTag e → fails d 2)

/-- Logic, moves and permutes (R216 to R218, R227, R232): bitwise results and `VSEL` land two cycles on, broadcasts,
indices, permutes and retags three; a result other than I40 copies bit 31 into bits [39:32]. -/
def Obligations.VectorMoveResults : Prop :=
  (∀ (s : State) (d a b : BitVec 6), s.readyFor [.vector] [] = true →
    let x := readV s.tk a
    let y := readV s.tk b
    let m := readV s.tk d
    let keep (tag : BitVec 6) (v : Lane) : Lane := if tag = tagI40 then v else lane32 (laneLow v)
    (isReservedTag x.tag = false → x.tag ≠ tagEmpty →
      exec (.vnot d a) s = .next (s.after (s.landV 2 d ⟨Vector.ofFn fun i => keep x.tag (~~~ x.lanes[i]), x.tag⟩)) ∧
      (y.tag = x.tag →
        exec (.vand d a b) s = .next (s.after (s.landV 2 d ⟨Vector.ofFn fun i => keep x.tag (x.lanes[i] &&& y.lanes[i]), x.tag⟩)) ∧
        exec (.vor d a b) s = .next (s.after (s.landV 2 d ⟨Vector.ofFn fun i => keep x.tag (x.lanes[i] ||| y.lanes[i]), x.tag⟩)) ∧
        exec (.vxor d a b) s = .next (s.after (s.landV 2 d ⟨Vector.ofFn fun i => keep x.tag (x.lanes[i] ^^^ y.lanes[i]), x.tag⟩)) ∧
        (acceptSint m.tag = true → exec (.vsel d a b) s =
          .next (s.after (s.landV 2 d ⟨Vector.ofFn fun i => selLane x.tag m.lanes[i] x.lanes[i] y.lanes[i], x.tag⟩))))) ∧
    (isReservedTag x.tag = false → exec (.vmov d a) s = .next (s.after (s.landV 2 d x))) ∧
    (isReservedTag x.tag = false → acceptIndex y.tag = true → exec (.vperm d a b) s =
      .next (s.after (s.landV 3 d ⟨Vector.ofFn fun i => x.lanes[(y.lanes[i].toNat % 256)]'(Nat.mod_lt _ (by decide)), x.tag⟩))) ∧
    (isReservedTag m.tag = false → isReservedTag b = false → exec (.vretag d b) s =
      .next (s.after (s.landV 3 d ⟨Vector.ofFn fun i => retagLane b i.val m.lanes[i], b⟩)))) ∧
  (∀ (s : State) (d a b : BitVec 6), s.readyFor [.vector] [a] = true →
    let v : BitVec 32 := (readS s.tk a).setWidth 32
    let y := readV s.tk b
    exec (.vbcastF32 d a) s = .next (s.after (s.landV 3 d ⟨Vector.ofFn fun _ => lane32 v, tagF32⟩)) ∧
    exec (.vbcastI32 d a) s = .next (s.after (s.landV 3 d ⟨Vector.ofFn fun _ => lane32 v, tagI32⟩)) ∧
    exec (.viota d a) s =
      .next (s.after (s.landV 3 d ⟨Vector.ofFn fun i => lane32 (v + BitVec.ofNat 32 i.val), tagI32⟩)) ∧
    (isReservedTag y.tag = false → exec (.vrot d b a) s = .next (s.after (s.landV 3 d
      ⟨Vector.ofFn fun i => y.lanes[(i.val + (readS s.tk a).toNat) % 256]'(Nat.mod_lt _ (by decide)), y.tag⟩)))) ∧
  (∀ s : State, s.ready [] = true → exec .vnop s = .next (s.after []))

/-- Planes and path masks (R233, R234): `VPLANE` lays out p planes with QS where it clamped, `VPTMASK` marks the lanes of
the nodes on a path; both land three cycles on. -/
def Obligations.PlaneAndMaskResults : Prop :=
  (∀ (s : State) (d a : BitVec 6) (p : BitVec 4) (part : BitVec 2), s.readyFor [.vector] [] = true →
    let x := readV s.tk a
    x.tag = tagI8 ∨ (x.tag = tagI32 ∧ part = 0) →
    let src := planeSource x part.toNat
    exec (.vplane d a p part) s = .next (s.after
      (s.landV 3 d ⟨Vector.ofFn fun i => lane32 (planeLane src p.toNat i.val), tagPL p.toNat⟩ ++
        landF 3 (src.foldl (fun f e => f ||| e.2) 0)))) ∧
  (∀ (s : State) (d a b : BitVec 6), s.readyFor [.vector] [b] = true → (readS s.tk b).toNat ≤ 27 →
    (readPT s.tk a).toNat / 2 ^ 27 ≤ 27 →
    exec (.vptmask d a b) s = .next (s.after (s.landV 3 d ⟨Vector.ofFn fun i =>
      lane32 (if (pathMask (readPT s.tk a) (readS s.tk b).toNat).contains i.val then BitVec.allOnes 32 else 0), tagI32⟩)))

/-- Conversions and scaling (R46, R58, R228 to R231): with an accepted tag and a part number below the ratio of element
counts, the part is converted into V[d] three cycles on; drains clamp or wrap each lane; `VSCALE` rounds the three-way
product once, four cycles on. -/
def Obligations.ConversionResults : Prop :=
  ∀ (s : State) (d a b : BitVec 6) (part : BitVec 3) (r : RMode) (t : ITy), s.readyFor [.vector] [] = true →
    let x := readV s.tk a
    let done (dtag : BitVec 6) (conv : Nat → Nat × Flags) : Out :=
      let v := convParts x (readV s.tk d) dtag part.toNat conv
      .next (s.after (s.landV 3 d v.1 ++ landF 3 v.2))
    let toInt (m : RMode) (e : Nat) : Nat × Flags :=
      let v := fToInt m (ityLo t) (ityHi t)
        (if x.tag = tagF32 then decodeFloat fmtF32 (elemNat 32 x e) else decodeFloat fmtBF16 (elemNat 16 x e))
      ((v.1 % (2 ^ ityBits t : Int)).toNat, v.2)
    (acceptToF32 x.tag = true → part.toNat < convRatio x.tag tagF32 →
      exec (.vcvtF32 r d a part) s = done tagF32 (elemToF32 r x)) ∧
    (x.tag = tagF32 → part.toNat < 2 →
      exec (.vcvtBf16x2 r d a part) s = done tagBF16 (fun e => fConvert fmtF32 fmtBF16 r (elemNat 32 x e)) ∧
      exec (.vcvtFp16 r d a part) s = done tagFP16 (fun e => fConvert fmtF32 fmtFP16 r (elemNat 32 x e))) ∧
    (x.tag = tagF32 → part.toNat < 4 →
      exec (.vcvtE4m3 r d a part) s = done tagE4M3 (fun e => fConvert fmtF32 fmtE4M3 r (elemNat 32 x e)) ∧
      exec (.vcvtE5m2 r d a part) s = done tagE5M2 (fun e => fConvert fmtF32 fmtE5M2 r (elemNat 32 x e))) ∧
    (x.tag = tagF32 ∨ x.tag = tagBF16 → part.toNat < convRatio x.tag (ityTag t) →
      exec (.vcvtInt t d a part) s = done (ityTag t) (toInt .rne) ∧
      exec (.vcvtIntRz t d a part) s = done (ityTag t) (toInt .rz)) ∧
    (x.tag = tagI40 →
      exec (.vcvtI32Wrap d a) s = .next (s.after (s.landV 3 d ⟨Vector.ofFn fun i => lane32 (laneLow x.lanes[i]), tagI32⟩)) ∧
      exec (.vcvtI32Sat d a) s = .next (s.after
        (s.landV 3 d ⟨Vector.ofFn fun i => lane32 (BitVec.ofInt 32 (max (-2 ^ 31) (min (2 ^ 31 - 1) (x.lanes[i]).toInt))), tagI32⟩ ++
          landF 3 (if ∃ i : Fin 256, (x.lanes[i]).toInt < -2 ^ 31 ∨ 2 ^ 31 - 1 < (x.lanes[i]).toInt then flagQS else 0))) ∧
      ((readV s.tk b).tag = tagF32 → (readV s.tk (b + 1)).tag = tagF32 →
        let g (i : Fin 256) := scale3 r (f32 (laneLow (readV s.tk b).lanes[i])) (f32 (laneLow (readV s.tk (b + 1)).lanes[i]))
          (x.lanes[i]).toInt
        exec (.vscale r d a b) s = .next (s.after
          (s.landV 4 d ⟨Vector.ofFn fun i => lane32 (BitVec.ofNat 32 (g i).1), tagF32⟩ ++ landF 4 (laneFlags fun i => (g i).2)))))

/-- The order of the tag checks (R65): a reserved tag of any source first, then a conversion-only tag of an interpreted
source, then a tag outside the accepted set; within each, the first source in operand order. -/
def Obligations.TagCheckOrder : Prop :=
  ∀ (srcs : List Src) (c : Cause) (tag : BitVec 6) (opnd : Nat), tagFault srcs = some (c, tag, opnd) ↔
    ∃ (pre : List Src) (x : Src) (post : List Src), srcs = pre ++ x :: post ∧ tag = x.tag ∧ opnd = x.opnd ∧
      ((c = .tagReserved ∧ isReservedTag x.tag = true ∧ ∀ y ∈ pre, isReservedTag y.tag = false) ∨
       (c = .emulate ∧ (∀ y ∈ srcs, isReservedTag y.tag = false) ∧ x.interp = true ∧ isConvOnly x.tag = true ∧
          ∀ y ∈ pre, ¬ (y.interp = true ∧ isConvOnly y.tag = true)) ∨
       (c = .tagMismatch ∧ (∀ y ∈ srcs, isReservedTag y.tag = false) ∧
          (∀ y ∈ srcs, ¬ (y.interp = true ∧ isConvOnly y.tag = true)) ∧ x.ok = false ∧ ∀ y ∈ pre, y.ok = true))

/-- Register rotation (R190): V0 to V31 are fixed, V32 to V63 name V32 to V63 in another order under every rotation base,
each physical register having one name; base 0 renames nothing, and a base one higher moves each name to the register before. -/
def Obligations.RotationRenames : Prop :=
  ∀ (b : BitVec 5) (r q : BitVec 6),
    (r.toNat < 32 → physV b r = r) ∧ (32 ≤ r.toNat → 32 ≤ (physV b r).toNat) ∧ (physV b r = physV b q → r = q) ∧ physV 0 r = r ∧
    (32 ≤ r.toNat → physV (b + 1) (32 + (r - 32 + 1) % 32) = physV b r)
/-! ### Vector loads and stores, matrix unit, transposer, tree descent, handles -/

/-- Vector loads (R235, R236, R238): where the checks of every lane pass, the banks admit the access and no line is
poisoned, V[d] takes each lane from the bytes at its own address five cycles on, under the format of the instruction, of
the control word or of V[d]. -/
def Obligations.VectorLoadResults : Prop :=
  ∀ (s s' : State) (d fmt ix : BitVec 6) (a c : BitVec 5) (sgas : List Nat), s.readyFor [.vector] [] = true →
    let la := readA s.tk a
    let cw := readA s.tk c
    let tag : BitVec 6 := cw.extractLsb' 0 6
    let v := readV s.tk d
    let x := readV s.tk ix
    let reads (x : VAccess) : Prop := x.la.toNat < 2 ^ 28 ∧
      accessLanes s.tk.regions x ((List.range x.offs.length).zip x.offs) = .ok sgas ∧
      admitBanks (taskAccessor s.tk) (rangeBanks (sgas.map fun b => (b, x.foot))) s = some s' ∧
      sgas.any (fun b => poisonedRange s.swardPoison b x.foot) = false
    let loaded (tag : BitVec 6) (foot : Nat) : Out :=
      .next ((addFreeze (accessFreeze s.cur sgas foot) s').after (s.landV 5 d ⟨Vector.ofFn fun i => match sgas[i.val]? with
        | some b => loadLane tag (s.slotRead b foot)
        | none => 0, tag⟩))
    (isReservedTag fmt = false →
      reads ⟨la, (List.range (lanesOf fmt)).map fun i => la.toNat % 2 ^ 24 + footOf fmt * i, footOf fmt, false⟩ →
      exec (.vld d a fmt) s = loaded fmt (footOf fmt)) ∧
    (isReservedTag tag = false → strideOk cw = true →
      reads ⟨la, (List.range (lanesOf tag)).map fun i => la.toNat % 2 ^ 24 + (cw.toNat / 2 ^ 8 % 2 ^ 24) * i, footOf tag, false⟩ →
      exec (.vlds d a c) s = loaded tag (footOf tag)) ∧
    (acceptIndex x.tag = true → isReservedTag v.tag = false → acceptIndexed v.tag = true →
      reads ⟨la, x.lanes.toList.map fun l => la.toNat % 2 ^ 24 + 4 * (l.toNat % 2 ^ 32), 4, false⟩ →
      exec (.vldx d a ix) s = loaded v.tag 4)

/-- Vector stores (R235 to R237): where the checks of every lane pass, no watchpoint reports and the banks admit the
access, the lanes of V[d] are stored at their addresses in ascending order: every byte of the Sward outside them keeps its
value, a lane that no later lane overlaps reads back, and no other memory, instruction memory included, changes. In a branch
shadow (R181) the Sward keeps every byte too: the stores join the task's held effects alone, and the tile's own view, its held
stores over the Sward, has those bytes. -/
def Obligations.VectorStoreResults : Prop :=
  ∀ (s s' : State) (d ix : BitVec 6) (a c : BitVec 5) (sgas : List Nat), s.readyFor [.vector] [] = true →
    s.memoryWf = true →
    let la := readA s.tk a
    let cw := readA s.tk c
    let v := readV s.tk d
    let x := readV s.tk ix
    let view (u : State) (p : Nat) : Byte := overlayByte u.tk.held p (memGet u.sward p)
    let writes (x : VAccess) : Prop := x.la.toNat < 2 ^ 28 ∧
      accessLanes s.tk.regions x ((List.range x.offs.length).zip x.offs) = .ok sgas ∧
      coreWatch s true (sgas.map fun b => (b, x.foot)) = none ∧
      admitBanks (taskAccessor s.tk) (rangeBanks (sgas.map fun b => (b, x.foot))) s = some s'
    let stored (foot : Nat) (o : Out) : Prop := ∃ t, o = .next t ∧ t.sig = .done ∧
      (∀ p : Nat, (∀ b ∈ sgas, ¬ (b ≤ p ∧ p < b + foot)) → view t p = view s p) ∧
      (∀ (i : Fin 256) (b p : Nat), sgas[i.val]? = some b → b ≤ p → p < b + foot →
        (∀ (j : Nat) (e : Nat), i.val < j → sgas[j]? = some e → ¬ (e ≤ p ∧ p < e + foot)) →
        view t p = byteAt (storeLane v.tag v.lanes[i]) (p - b)) ∧
      (s.tk.shadow = 0 → t.tk = s.tk) ∧
      (0 < s.tk.shadow → t.sward = s.sward ∧ ∃ ws : List (Nat × List Byte),
        t.tk = { s.tk with held := s.tk.held ++ ws.map fun e => .sward e.1 e.2 }) ∧
      t.hbm = s.hbm ∧ t.hostMem = s.hostMem ∧ t.cxlMem = s.cxlMem ∧ t.hostWin = s.hostWin ∧ t.kenvalSram = s.kenvalSram ∧
      (∀ n, (t.tile n).imem = (s.tile n).imem)
    isReservedTag v.tag = false →
    (writes ⟨la, (List.range (lanesOf v.tag)).map fun i => la.toNat % 2 ^ 24 + footOf v.tag * i, footOf v.tag, true⟩ →
      stored (footOf v.tag) (exec (.vst d a) s)) ∧
    (strideOk cw = true →
      writes ⟨la, (List.range (lanesOf v.tag)).map fun i => la.toNat % 2 ^ 24 + (cw.toNat / 2 ^ 8 % 2 ^ 24) * i, footOf v.tag, true⟩ →
      stored (footOf v.tag) (exec (.vsts d a c) s)) ∧
    (acceptIndex x.tag = true → acceptIndexed v.tag = true →
      writes ⟨la, x.lanes.toList.map fun l => la.toNat % 2 ^ 24 + 4 * (l.toNat % 2 ^ 32), 4, true⟩ →
      stored 4 (exec (.vstx d a ix) s))

/-- The matrix unit (R241, R242, R243, R244, R245, R246, R247, R248, R249, R250, R251, R252): a valid configuration lands one
cycle on; a load of B and a feed of A read at issue the head slot behind the waiting advances (log 125); a push appends one
entry; a multiply reserves the entries, streams for p cycles a row and commits row r at c+10+(r+1)p; a clear lands one cycle
on. Of several columns that break R56 in one group, YTVAL names the lowest (log 127). -/
def Obligations.MatrixResults : Prop :=
  (∀ (s : State) (a : BitVec 6), s.readyFor [.vector, .matrix] [a] = true → cfgOk (readS s.tk a) = true →
    exec (.mcfg a) s = .next (s.after [(1, .mcfg (readS s.tk a))])) ∧
  (∀ (s s' : State) (h : BitVec 4) (a : BitVec 6) (sga : Nat), s.readyFor [.vector, .matrix] [a] = true →
    let w := readS s.tk a
    let c0 := w.toNat % 256
    let c1 := w.toNat / 2 ^ 8 % 256
    let x := aheadHandle s.cmds s.tk h (readH s.tk h)
    let m := s.tk.mat
    let n := sparseN (cfgSp m.cfg)
    let g := 256 / n
    let reads (len : Nat) : Prop := (readH s.tk h).valid = true ∧
      (pendingAdvance s.cmds s.tk h).toNat < filledSlots (readH s.tk h) ∧ headTag x = tagI8 ∧ len ≤ slotBytes x ∧
      streaming s = false ∧ m.load = none ∧ laCheck s.tk.regions (slotLa x x.head) len true false = .ok sga ∧
      admitBanks (taskAccessor s.tk) (extentBanks sga len) s = some s' ∧ poisonedRange s.swardPoison sga len = false
    (w.toNat < 2 ^ 17 → c0 ≤ c1 → (m.mode = 0 ∨ (c0 = 0 ∧ c1 = 255)) → reads (256 * (c1 - c0 + 1)) →
      exec (.mloadb h a) s = .next { s'.modTask (fun k => { k with mat := { k.mat with load := some {
          at_ := k.icyc
          w := denseLoad m (cfgQ m.cfg) c0 c1 (s'.slotRead sga (256 * (c1 - c0 + 1))), idx := m.idx
          mode := if c0 = 0 ∧ c1 = 255 then 0 else m.mode, handle := h, adv := w.getLsbD 16 } } }) with sig := .done }) ∧
    (w.toNat < 2 ^ 17 → c0 = 0 → c1 = 255 → cfgSp m.cfg ≠ 0 → reads (448 * n * g) →
      let bytes := (s'.slotRead sga (448 * n * g)).toArray
      (metaFault bytes (256 * n * g) n g = none →
        ∃ t, exec (.mloadbs h a) s = .next t ∧ t.sig = .done ∧ ∃ l, t.tk.mat.load = some l ∧ l.mode = cfgSp m.cfg ∧
          l.handle = h ∧ l.adv = w.getLsbD 16 ∧
          (∀ u j : Fin 256, u.val < n * g → (l.w[u][j] = truncPlanes (cfgQ m.cfg) (bytes.getD (256 * u.val + j.val) 0) ∧
            (l.idx[u][j]).toNat = metaIndex bytes (256 * n * g) u.val j.val)) ∧
          t.tk.v = s.tk.v ∧ t.tk.s = s.tk.s ∧ t.sward = s.sward) ∧
      (∀ gr j, metaFault bytes (256 * n * g) n g = some (gr, j) →
        exec (.mloadbs h a) s = slotTrap .sparseMeta (BitVec.ofNat 64 (j % 256 + 256 * (gr % 64))) s))) ∧
  (∀ (s s' : State) (h : BitVec 4) (mm1 : BitVec 6) (adv : Bool) (sga : Nat), s.readyFor [.vector, .matrix] [] = true →
    let x := aheadHandle s.cmds s.tk h (readH s.tk h)
    let p := plPlanes (headTag x)
    let rows := mm1.toNat + 1
    (readH s.tk h).valid = true → (pendingAdvance s.cmds s.tk h).toNat < filledSlots (readH s.tk h) → isPL (headTag x) = true → 32 * p * rows ≤ slotBytes x →
    s.tk.mat.rows.length + rows ≤ 64 →
    laCheck s.tk.regions (slotLa x x.head) (32 * p * rows) true false = .ok sga →
    admitBanks (taskAccessor s.tk) (extentBanks sga (32 * p * rows)) s = some s' →
    poisonedRange s.swardPoison sga (32 * p * rows) = false →
    exec (.mfeed h mm1 adv) s = .next { s'.modTask (fun k => { k with mat := { k.mat with
      feeds := k.mat.feeds ++ [{ handle := h, adv := adv, at_ := k.icyc, next := k.mat.rowCount, left := rows }]
      rowCount := k.mat.rowCount + rows
      rows := k.mat.rows ++ (List.range rows).map fun i =>
        ⟨k.mat.rowCount + i, bpiRow (s'.slotRead sga (32 * p * rows)).toArray (32 * p * i) p, BitVec.ofNat 4 p, false, none⟩ } }) with sig := .done }) ∧
  (∀ (s : State) (a d mm1 : BitVec 6) (rb cfg : Bool), s.readyFor [.vector, .matrix] [] = true →
    let m := s.tk.mat
    let v := readV s.tk a
    let rows := mm1.toNat + 1
    let p := cfgP m.cfg
    let e := entriesPerRow m.mode
    let open_ := m.rows.filter fun r => r.claim.isNone
    let row (r : Nat) : BitVec 6 := physV s.tk.rot (BitVec.ofNat 6 (d.toNat + r))
    (isPL v.tag = true → m.rows.length < 64 → exec (.mpush a) s = .next { s.modTask (fun k => { k with mat := { k.mat with
      rowCount := k.mat.rowCount + 1
      rows := k.mat.rows ++ [⟨k.mat.rowCount, planeElems v, BitVec.ofNat 4 (plPlanes v.tag), true, none⟩] } }) with sig := .done }) ∧
    (m.load = none → streaming s = false → pendingRows s.tk + rows ≤ 64 → cfgSp m.cfg = m.mode → rows * e ≤ open_.length →
      let mult (mac mid : Bool) : Out := .next ((s.after ((List.range rows).map fun r =>
          (10 + (r + 1) * p, .row (row r) mac (cfgWlo m.cfg) (cfgWhi m.cfg) (rowAddends m ((open_.drop (r * e)).take e) p mid)))).modTask
        fun k => { k with mat := { k.mat with
          rows := claimEntries s.me.ic p e (rows * e) 0 k.mat.rows, streamEnd := s.me.ic + rows * p } })
      exec (.mmul d mm1) s = mult false (cfgMid m.cfg) ∧ exec (.mmulMid d mm1) s = mult false true ∧
      ((∀ r, r < rows → rowPending s.tk (row r) = true ∨ (physReadV s.tk (row r)).tag = tagI40) →
        exec (.mmac d mm1) s = mult true (cfgMid m.cfg) ∧ exec (.mmacMid d mm1) s = mult true true)) ∧
    (m.load = none → streaming s = false → exec (.mclrW rb cfg) s = .next (s.after [(1, .mclr true rb cfg)])) ∧
    exec (.mclrRb cfg) s = .next (s.after [(1, .mclr false true cfg)]) ∧
    exec .mclrCfg s = .next (s.after [(1, .mclr false false true)]))

/-- The row commit (R57, R250): a lane in the window takes the previous accumulator, or zero without accumulation, plus
the addends one after another, each sum wrapped to 40 bits; a lane outside it keeps its value under accumulation and is
zero otherwise; the row is tagged I40, and its YMOVF bit is set exactly where, in some lane of the window, some addend takes
the wrapped sum of those before it out of the 40-bit range, a later addend bringing it back or not. -/
def Obligations.RowCommit : Prop :=
  ∀ (mac : Bool) (wlo whi : BitVec 8) (adds : List (Vector Int 256)) (old : VReg),
    let r := rowCommit mac wlo whi adds old
    let inW (j : Fin 256) : Prop := wlo.toNat ≤ j.val ∧ j.val ≤ whi.toNat
    let start (j : Fin 256) : Int := if mac then (old.lanes[j]).toInt else 0
    r.1.tag = tagI40 ∧
    (∀ j : Fin 256, inW j → r.1.lanes[j] = BitVec.ofInt 40 (start j + ((adds.map fun a => a[j]).sum))) ∧
    (∀ j : Fin 256, ¬ inW j → r.1.lanes[j] = if mac then old.lanes[j] else 0) ∧
    (r.2 = true ↔ ∃ j : Fin 256, inW j ∧ ∃ pre x post, adds = pre ++ x :: post ∧
      let e := (BitVec.ofInt 40 (start j + ((pre.map fun a => a[j]).sum))).toInt + x[j]
      e < -2 ^ 39 ∨ 2 ^ 39 - 1 < e) ∧
    (r.2 = false → ∀ j : Fin 256, inW j → (r.1.lanes[j]).toInt = start j + ((adds.map fun a => a[j]).sum))

/-- The transposer (R254): a push assigns the next row, landing six cycles on, and fixes the tag; a pop reads the next
column group six cycles on; the configuration, the clear and the counts land one cycle on. -/
def Obligations.TransposerResults : Prop :=
  (∀ (s : State) (d a : BitVec 6), s.readyFor [.transpose, .vector] [] = true →
    let x := s.tk.xp
    let v := readV s.tk a
    (x.pushn < 64 → acceptElem32 v.tag = true → isReservedTag v.tag = false → (x.tag = tagEmpty ∨ x.tag = v.tag) →
      exec (.xpush a) s = .next ((s.after [(6, .xpush x.pushn (v.lanes.map laneLow))]).modTask fun k =>
        { k with xp := { k.xp with pushn := x.pushn + 1, tag := v.tag } })) ∧
    (x.popn < 64 → x.tag ≠ tagEmpty →
      exec (.xpop d) s = .next ((s.after (s.landV 6 d ⟨Vector.ofFn fun l => lane32 (popLane x x.popn l.val), x.tag⟩)).modTask
        fun k => { k with xp := { k.xp with popn := x.popn + 1 } }))) ∧
  (∀ (s : State) (d n : BitVec 6), s.readyFor [.transpose] [d] = true →
    let x := s.tk.xp
    exec (.xcfg n) s = .next (s.after [(1, .xcfg (n.toNat + 1))]) ∧
    exec .xclr s = .next (s.after [(1, .xclr)]) ∧
    exec (.xcnt d) s = .next (s.after (landS 1 d (BitVec.ofNat 64
      (packNat [(x.pushn, 8), (x.popn, 8), (x.rows - 1, 6), (0, 2), (x.tag.toNat, 6)])))))

/-- Tree descent and regrouping (R255, R256). `MDESC` completes where its word is allowed, its rows exist, each holds an I40
register and no trace overflows; `MREGROUP` completes where its source is an I32 register of indices −1 to 255. The traces
and the node indices of the descended rows land four cycles on, unused lanes holding all ones; the order, the counts and the
offsets of a regroup land eight cycles on. -/
def Obligations.TreeResults : Prop :=
  (∀ (s : State) (d a b : BitVec 6), s.readyFor [.vector, .matrix] [b] = true →
    let w := readS s.tk b
    let rows := (List.range (w.toNat % 64 + 1)).map (a.toNat + ·)
    w.toNat < 2 ^ 11 → 1 ≤ w.toNat / 64 % 16 → w.toNat / 64 % 16 ≤ 8 → a.toNat + w.toNat % 64 + 1 ≤ 64 →
    (∀ n ∈ rows, (readV s.tk (BitVec.ofNat 6 n)).tag = tagI40) →
    (w.getLsbD 10 = true ∨ ∀ n ∈ rows, (readPT s.tk (BitVec.ofNat 6 n)).toNat / 2 ^ 27 + w.toNat / 64 % 16 ≤ 27) →
    ∃ t, exec (.mdesc d a b) s = .next t ∧ t.sig = .done ∧ t.hbm = s.hbm ∧ t.sward = s.sward ∧ t.tk.s = s.tk.s ∧ t.tk.v = s.tk.v) ∧
  (∀ (s : State) (d a b : BitVec 6), s.readyFor [.vector, .matrix] [] = true →
    (readV s.tk a).tag = tagI32 →
    (∀ i : Fin 256, -1 ≤ (laneLow (readV s.tk a).lanes[i]).toInt ∧ (laneLow (readV s.tk a).lanes[i]).toInt ≤ 255) →
    ∃ t, exec (.mregroup d a b) s = .next t ∧ t.sig = .done ∧ t.hbm = s.hbm ∧ t.sward = s.sward ∧ t.tk.s = s.tk.s ∧ t.tk.v = s.tk.v) ∧
  ∀ (s : State) (d a b : BitVec 6),
    (s.readyFor [.vector, .matrix] [b] = true →
      let w := readS s.tk b
      let m := w.toNat % 64 + 1
      let lev := w.toNat / 64 % 16
      let start (n : Nat) : BitVec 32 := if w.getLsbD 10 then 0 else readPT s.tk (BitVec.ofNat 6 n)
      let rows := (List.range m).map (a.toNat + ·)
      w.toNat < 2 ^ 11 → 1 ≤ lev → lev ≤ 8 → a.toNat + m ≤ 64 →
      (∀ n ∈ rows, (readV s.tk (BitVec.ofNat 6 n)).tag = tagI40 ∧ (start n).toNat / 2 ^ 27 + lev ≤ 27) →
      let out (n : Nat) := descend (readV s.tk (BitVec.ofNat 6 n)) lev (start n) 0
      exec (.mdesc d a b) s = .next (s.after
        ((4, .pts (rows.map fun n => (BitVec.ofNat 6 n, (out n).1))) :: s.landV 4 d ⟨Vector.ofFn fun l =>
          lane32 (if rows.contains l.val then BitVec.ofNat 32 ((out l.val).2 - (2 ^ lev - 1)) else BitVec.allOnes 32), tagI32⟩))) ∧
    (s.readyFor [.vector, .matrix] [] = true →
      let v := readV s.tk a
      let idx (i : Fin 256) : Int := (laneLow v.lanes[i]).toInt
      v.tag = tagI32 → (∀ i : Fin 256, -1 ≤ idx i ∧ idx i ≤ 255) →
      ∃ order counts offsets : VReg,
        exec (.mregroup d a b) s = .next (s.after (s.landV 8 d order ++ s.landV 8 b counts ++ s.landV 8 (b + 1) offsets)) ∧
        order.tag = tagI32 ∧ counts.tag = tagI32 ∧ offsets.tag = tagI32 ∧
        (∀ u : Fin 256, (laneLow counts.lanes[u]).toNat = ((List.finRange 256).filter fun i => idx i = (u.val : Int)).length) ∧
        (∀ u : Fin 256, (laneLow offsets.lanes[u]).toNat =
          ((List.finRange 256).filter fun i => 0 ≤ idx i ∧ idx i < (u.val : Int)).length) ∧
        (∀ (u i : Fin 256), idx i = (u.val : Int) → ∀ p : Fin 256,
          p.val = (laneLow offsets.lanes[u]).toNat + ((List.finRange 256).filter fun j => j < i ∧ idx j = (u.val : Int)).length →
          laneLow order.lanes[p] = BitVec.ofNat 32 i.val))

/-- The handle instructions (R264, R287, R288): the reservation of `HALLOC` answers the first reserved slot, publishing and
advancing change the counts one cycle on, an advance waits for reads under way, `HRD` reads the counts, and a descriptor
is set up whole or, not valid, as an invalid handle. -/
def Obligations.HandleResults : Prop :=
  ∀ (s : State) (h : BitVec 4) (d b : BitVec 6) (a : BitVec 5),
    let x := readH s.tk h
    (x.valid = true → s.ready [d, b] = true → handleProduced s h = false →
      let n := (readS s.tk b).toNat
      0 < n → n ≤ 2 ^ x.logs.toNat → n + (x.res - x.head).toNat ≤ 2 ^ x.logs.toNat →
      exec (.halloc d h b) s = .next (s.after (landS 1 d (x.res.setWidth 64) ++ [(1, .hres h (BitVec.ofNat 32 n))]))) ∧
    (x.valid = true → s.ready [b] = true → handleProduced s h = false →
      let w := readS s.tk b
      let n : BitVec 32 := w.extractLsb' 0 32
      let tag : BitVec 6 := w.extractLsb' 32 6
      w.toNat < 2 ^ 38 → 0 < n.toNat → n.toNat ≤ (x.res - x.fill).toNat → isReservedTag tag = false →
      exec (.hpub h b) s = .next (s.after [(1, .hpub h n tag)])) ∧
    (x.valid = true → s.ready [b] = true →
      let n := (readS s.tk b).toNat
      0 < n → n + (pendingAdvance s.cmds s.tk h).toNat ≤ (x.fill - x.head).toNat →
      exec (.hadv h b) s =
        if handleReadsOut s h = true ∨ pendingAdvance s.cmds s.tk h ≠ 0 then
          .next { s.modTask (fun k => { k with headAdv := k.headAdv ++ [⟨h, BitVec.ofNat 32 n, s.tk.icyc, s.cmdIds⟩] }) with sig := .done }
        else .next (s.after [(1, .hadv h (BitVec.ofNat 32 n))])) ∧
    (x.valid = false → s.ready [d, b] = true →
      exec (.halloc d h b) s = slotTrap .handleInvalid (wordTval s 0) s ∧
      exec (.hpub h b) s = slotTrap .handleInvalid (wordTval s 0) s ∧
      exec (.hadv h b) s = slotTrap .handleInvalid (wordTval s 0) s) ∧
    (s.ready [d, d + 1] = true →
      let y := if x.valid then x else Handle.reset
      exec (.hrd d h) s = .next (s.after (landS 1 d (BitVec.ofNat 64 (y.fill.toNat + 2 ^ 32 * y.head.toNat)) ++
        landS 1 (d + 1) (BitVec.ofNat 64 (y.res.toNat + 2 ^ 32 * y.tag.toNat + if y.valid then 2 ^ 38 else 0))))) ∧
    (∀ (s' : State) (sga : Nat), s.ready [] = true → s.cmds.any (cmdNames s.tk.uid h) = false →
      matrixReads s.tk.mat h = false →
      let la := readA s.tk a
      la.toNat < 2 ^ 28 → la.toNat % 32 = 0 →
      laCheck s.tk.regions la 32 true false = .ok sga →
      admitBanks (taskAccessor s.tk) (rangeBanks [(sga, 32)]) s = some s' → poisonedRange s.swardPoison sga 32 = false →
      let w := BitVec.ofNat 256 (leNat (s.slotRead sga 32))
      let s2 := addFreeze (accessFreeze s.cur [sga] 32) s'
      (w.getLsbD 192 = false → exec (.hset h a) s = .next (s2.after [(1, .hset h Handle.reset)])) ∧
      (w.getLsbD 192 = true → handleFails s.tk.regions w = none →
        exec (.hset h a) s = .next (s2.after [(1, .hset h (handleOf w))])))
/-! ### Control, exceptions, scalar accesses, synchronisation, the copy channels -/

/-- Branches and what fetches elsewhere (R151, R152, R180, R201 to R204): a branch predicted right opens its shadow as its bundle
ends, one predicted wrong owes four empty cycles; `CALL` also links; `JR` and `BSWAP` owe three; `BSWAP` makes the other half
current as its bundle ends; `IFENCE` clears WR of overlays and owes one; `NOPN k` owes k − 1. -/
def Obligations.BranchResults : Prop :=
  ∀ (s : State) (imm : BitVec 18) (a : BitVec 5) (km1 : BitVec 12),
    let target : BitVec 18 := s.tk.pc + 4 * imm
    let taken (t : BitVec 18) (s : State) : State := s.modTask fun k => { k with npc := t, taken := true }
    let owed (n : Nat) (s : State) : State := s.modTask fun k => { k with empties := k.empties + n }
    let shadow : List (Nat × LandVal) := [(1, .shadow)]
    let ends (s : State) : Out := .next { s with sig := .done }
    (s.guard = true →
      exec (.br imm) s = .next ((taken target s).after shadow) ∧ exec (.brN imm) s = ends (owed 4 (taken target s)) ∧
      exec (.call imm) s = .next ((taken target s).after (shadow ++ landA 1 31 (s.tk.npc.setWidth 64)))) ∧
    (s.guard = false →
      exec (.br imm) s = ends (owed 4 s) ∧ exec (.brN imm) s = .next (s.after shadow) ∧ exec (.call imm) s = ends (owed 4 s)) ∧
    (s.ready [] = true →
      let t := readA s.tk a
      let inRange := match s.tk.mode with
        | .monitor => 0x20000 ≤ t.toNat ∧ t.toNat < 0x22000
        | .task => halfBase s.me.cur ≤ t.toNat ∧ t.toNat < halfBase s.me.cur + 0x10000
      (t.toNat % 4 = 0 → inRange → exec (.jr a) s = ends (owed 3 (taken (t.setWidth 18) s))) ∧
      ((t.toNat % 4 ≠ 0 ∨ ¬ inRange) → ∃ v, exec (.jr a) s = slotTrap .fetchBound v s) ∧
      exec .nop s = ends s ∧ exec (.nopn km1) s = ends (owed km1.toNat s) ∧
      (let o := !s.me.cur
       let h := getHalf s.me o
       h.st = .overlay → h.owner = s.tk.ctx → h.wr = false →
        ∃ t, exec (.bswap imm) s = .next t ∧ t.sig = .done ∧ t.me.cur = s.me.cur ∧
          t.tk = { s.tk with npc := target, taken := true, empties := s.tk.empties + 3, swaps := true } ∧
          (swapHalves t).me.cur = o ∧ (getHalf (swapHalves t).me o).st = .active ∧
          (getHalf (swapHalves t).me s.me.cur).st = .idle ∧ (swapHalves t).tk = { t.tk with swaps := false })) ∧
    (s.cmds.any (cmdToScratchpad s.cur s.tk.uid) = false →
      ∃ t, exec .ifence s = .next t ∧ t.sig = .done ∧ t.tk = { s.tk with empties := s.tk.empties + 1 } ∧
        (∀ u, (getHalf t.me u).st = (getHalf s.me u).st ∧
          (getHalf t.me u).wr = ((getHalf s.me u).wr && decide ((getHalf s.me u).st ≠ .overlay))))

/-- Loops and Y-registers (R183, R186, R188, R208, R345): a loop that passes the checks becomes the innermost, its body
beginning with the bundle after its own, behind the first stop bit (R147, R156), also where a branch of its bundle is taken (log
124); `SRD` reads and `SWR` writes one cycle on, where the mode allows the register. -/
def Obligations.LoopAndRegisterResults : Prop :=
  (∀ (s : State) (n sm1 : BitVec 2) (imm : BitVec 12),
    let last := s.tk.pc.toNat + 4 * imm.toNat
    inFetchRange s last = true → s.tk.loops.length < 4 → (∀ f ∈ s.tk.loops, f.n ≠ n) →
    (∀ f ∈ s.tk.loops, last % 2 ^ 18 ≤ f.last.toNat) → swpActive s.tk = false →
    let started (swp : Option (Fin 4)) : Out := .next { s.modTask (fun k => { k with
      newLoop := true
      loops := ⟨n, k.pc, bundleEnd s.me.imem k.pc, BitVec.ofNat 18 last, swp, 0, false, 0, 0, 0, 0⟩ :: k.loops }) with
      sig := .done }
    exec (.loop n imm) s = started none ∧ exec (.loopSwp n sm1 imm) s = started (some sm1.toFin)) ∧
  (∀ (s : State) (n : Nat), n < 8 →
    let stops (m : Nat) : Prop := memReadLE s.me.imem (s.tk.pc.toNat + 4 * m) 4 / 2 ^ 31 % 2 = 1
    stops n → (∀ m < n, ¬ stops m) → bundleEnd s.me.imem s.tk.pc = s.tk.pc + BitVec.ofNat 18 (4 * n + 4)) ∧
  (∀ (s : State) (d : BitVec 6) (y : BitVec 12), s.ready [d] = true → y.toNat < 0x10 ∨ s.tk.mode = .monitor →
    (y = 0x001 → claimBlocked s .vector = false) →
    exec (.srd d y) s = .next (s.after (landS 1 d (readY s y))) ∧
    exec (.swr d y) s = .next (s.after [(1, .yreg y (readS s.tk d))]))

/-- Privilege (R168, R341, R345): in task mode a Y-register from 0x010 on can be neither read nor written, and no return of
the monitor executes: each takes PRIVILEGED. -/
def Obligations.PrivilegedInTaskMode : Prop :=
  ∀ (s : State) (d : BitVec 6) (y : BitVec 12), s.tk.mode = .task →
    (s.ready [d] = true → 0x10 ≤ y.toNat →
      (∃ v, exec (.srd d y) s = slotTrap .privileged v s) ∧ (∃ v, exec (.swr d y) s = slotTrap .privileged v s)) ∧
    (∃ v, exec .eret s = slotTrap .privileged v s) ∧ (∃ v, exec .eretSkip s = slotTrap .privileged v s) ∧
    (∃ v, exec .eretRaise s = slotTrap .privileged v s)

/-- Giving up the tile (R205, R206, R343): `YIELD` completes its bundle, restarts the overrun count with the declared
cycles, and a task of gang size 1 arbitrates, in monitor mode not (log 37); `END` lets the writes in flight land in empty issue
cycles and leaves the task ending at its own bundle, which is the one that issues again after a later stop (log 31); `TRAP n`
completes its bundle and takes the software trap n before the next. -/
def Obligations.YieldEndTrapResults : Prop :=
  (∀ (s : State) (imm : BitVec 18),
    let cycles := 4 * (imm.toNat + 1)
    let s1 := (completeBundle s).modTask fun k => { k with overCount := 0, declared := cycles, overrun := false }
    exec (.yield imm) s =
      .next { (if s.tk.gsize = 0 ∧ s.tk.mode = .task then arbitrate s.cur cycles s1 else s1) with sig := .closed }) ∧
  (∀ s : State, s.guard = true →
    ∃ t, exec .endTask s = .next t ∧ t.sig = .closed ∧ t.me.status = .ending ∧ t.tk.endAgain = some s.tk.pc ∧
      t.tk.pc = s.tk.pc ∧ t.tk.npc = s.tk.pc ∧
      ((∀ l ∈ s.tk.pend, s.me.ic < l.at_) → s.tk.held = [] → t.tk.pend = [])) ∧
  (∀ (s : State) (n : BitVec 4), s.guard = true → s.tk.mode = .task →
    exec (.trap n) s = .next { takeTrap s.cur (causeCode (.softTrap n)) false 0 0 (completeBundle s).tk.pc 0 0
      (completeBundle s) with sig := .closed })

/-- Return from the monitor (R344): once the monitor's writes have landed in empty issue cycles (log 31), its loops have ended
(log 118), and `ERET` and `ERET.SKIP` go on at the address of YEPC (with its LR bit clear) in task mode with YCAUSE's code zero.
`ERET.SKIP` leaves out the slot that YEPC names, besides those left out before (log 138); `ERET` does not report a breakpoint
or watchpoint of the bundle again that one of them stopped (R364); `ERET.RAISE` stops the task with the record as it stands. -/
def Obligations.ReturnFromMonitor : Prop :=
  ∀ s : State, s.tk.mode = .monitor →
    let u := (settle (issueCycle s)).modTask fun k => { k with bundle := k.bundle + 1 }
    let a : BitVec 18 := u.tk.yepc.extractLsb' 0 18
    let goesOn (o : Out) (skip : List (BitVec 18 × BitVec 3)) (noBreak : Option (BitVec 18)) : Prop := ∃ t, o = .next t ∧ t.sig = .closed ∧
      t.me.status = .running ∧ t.tk.mode = .task ∧
      (u.tk.yepc.getLsbD 21 = false → t.tk.pc = a ∧ t.tk.npc = t.tk.pc ∧ t.hbm = (endMonitorLoops 4 u).hbm) ∧
      t.tk.ycause = u.tk.ycause &&& ~~~ 0xFF ∧ t.tk.skip = skip ∧ t.tk.noBreak = noBreak ∧ t.tk.lwb = [] ∧
      t.tk.s = u.tk.s ∧ t.tk.a = u.tk.a ∧ t.tk.v = u.tk.v ∧ t.sward = u.sward
    goesOn (exec .eret s) u.tk.skip (if u.tk.brokeAt = some a then some a else u.tk.noBreak) ∧
    goesOn (exec .eretSkip s) ((a, u.tk.yepc.extractLsb' 18 3) :: u.tk.skip) u.tk.noBreak ∧
    (∃ t, exec .eretRaise s = .next t ∧ t.sig = .closed ∧ t.me.status = .stopped ∧ t.tk.mode = .task ∧
      t.tk.pc = a ∧ t.tk.ycause = u.tk.ycause ∧ t.tk.yepc = u.tk.yepc ∧ t.tk.ytval = u.tk.ytval)

/-- Taking a trap in task mode (R334 to R342): YCAUSE holds code, imprecise bit, shadow bit, unit and status, YEPC the
address, the slot and whether a drained loop is to be refilled, YTVAL the value; writes in flight wait in the late-write buffer; a routed cause enters the
monitor at its region's base, any other stops the task at the address; registers, memories and every other tile's task
stay as they are, but for the trace that a die keeps in HBM. -/
def Obligations.TrapEntry : Prop :=
  ∀ (s : State) (t : TileId) (code : BitVec 8) (imp : Bool) (eng slot : BitVec 3) (addr : BitVec 18) (tval : Word)
    (status : BitVec 32), (s.tile t).task.mode = .task →
    let k := (s.tile t).task
    let r := takeTrap t code imp eng slot addr tval status s
    let k' := (r.tile t).task
    let routed := code = 0x12 ∨ (¬ (0xC0 ≤ code.toNat ∧ code.toNat ≤ 0xDF) ∧ (s.die (tileDie t)).routeMask.getLsbD code.toNat = true)
    k'.ycause.toNat = code.toNat + 2 ^ 8 * imp.toNat + 2 ^ 9 * (if k.shadow > 0 then 1 else 0) +
      2 ^ 16 * (tileUnit t eng).toNat + 2 ^ 32 * status.toNat ∧
    k'.yepc.toNat = addr.toNat / 4 * 4 + 2 ^ 18 * slot.toNat + 2 ^ 21 * k.refill.toNat ∧ k'.refill = false ∧ k'.ytval = tval ∧
    k'.pend = [] ∧ k'.lwb = k.lwb ++ k.pend.map (fun l => { l with at_ := l.at_ - (s.tile t).ic }) ∧
    (routed → k'.mode = .monitor ∧ k'.pc = 0x20000 ∧ k'.npc = 0x20000 ∧ (r.tile t).status = .running) ∧
    (¬ routed → k'.mode = .task ∧ k'.pc.toNat = addr.toNat / 4 * 4 ∧ (r.tile t).status = .stopped) ∧
    k'.s = k.s ∧ k'.a = k.a ∧ k'.p = k.p ∧ k'.lc = k.lc ∧ k'.v = k.v ∧ k'.h = k.h ∧ k'.k = k.k ∧ k'.pt = k.pt ∧
    k'.spill = k.spill ∧ k'.fflags = k.fflags ∧ k'.movf = k.movf ∧ k'.yms = k.yms ∧ k'.xp = k.xp ∧
    r.sward = s.sward ∧ r.hostMem = s.hostMem ∧ r.cxlMem = s.cxlMem ∧
    (∀ u, u ≠ t → (r.tile u).task = (s.tile u).task ∧ (r.tile u).status = (s.tile u).status)

/-- A trap in monitor mode (R336, R341): the task stops with MONITOR_FAULT, whose status names the cause and the bundle, SHD
telling whether that bundle lay in a branch shadow; the record of where the task stood stays. That YTVAL is zero is the model's choice (log 27). -/
def Obligations.MonitorFault : Prop :=
  ∀ (s : State) (t : TileId) (code : BitVec 8) (imp : Bool) (eng slot : BitVec 3) (addr : BitVec 18) (tval : Word)
    (status : BitVec 32), (s.tile t).task.mode = .monitor →
    let k' := ((takeTrap t code imp eng slot addr tval status s).tile t).task
    ((takeTrap t code imp eng slot addr tval status s).tile t).status = .stopped ∧ k'.mode = .task ∧
    k'.ycause.toNat = 0xC4 + 2 ^ 8 * imp.toNat + 2 ^ 9 * (if (s.tile t).task.shadow > 0 then 1 else 0) + 2 ^ 16 * (tileUnit t eng).toNat +
      2 ^ 32 * (code.toNat + 2 ^ 14 * addr.toNat) ∧
    k'.yepc = (s.tile t).task.yepc ∧ k'.ytval = 0 ∧ k'.s = (s.tile t).task.s ∧ k'.v = (s.tile t).task.v

/-- Records from a running task (R126, R127, R207): where the launch word is in order and its queue belongs to the context,
`ENQ` and `SPAWNV` place all their records and answer 0 or their number, or none where the queue is off or has no room,
answering 1 or all ones, four cycles on. In a branch shadow (R181) the records, with the destination and the cycle of the answer,
join the task's held effects, and nothing else is done. -/
def Obligations.RecordResults : Prop :=
  ∀ (s : State) (d a b : BitVec 6),
    let placed (lw : Word) (recs : List (BitVec 256)) (spawn : Bool) (good bad : Word) (o : Out) : Prop :=
      let q := lwQueue lw
      let x := s.queue q
      lw.toNat / 2 ^ 23 % 2 ^ 9 = 0 → qOwner x.desc = s.tk.ctx →
      (0 < s.tk.shadow → o = .next { s.modTask (fun k => { k with
        held := k.held ++ [.enq q recs spawn d (s.me.ic + 4) s.ordNow] }) with sig := .done }) ∧
      (s.tk.shadow = 0 → qEn x.desc = true ∧ recs.length ≤ qFree x →
        o = .next ((s.modQueue q (qReserve (some (s.cur, s.tk.uid, s.me.accOrd)) recs)).after (landS 4 d good))) ∧
      (s.tk.shadow = 0 → ¬ (qEn x.desc = true ∧ recs.length ≤ qFree x) → o = .next (s.after (landS 4 d bad)))
    (s.ready [d, a, b, b + 1, b + 2] = true →
      let lw := readS s.tk a
      placed lw [mkRecord (lwTmpl lw) (lwQueue lw) s.tk.ctx (lwBase lw)
          ([readS s.tk b, readS s.tk (b + 1), readS s.tk (b + 2)].flatMap fun v => [v.setWidth 32, v.extractLsb' 32 32])]
        false 0 1 (exec (.enq d a b) s)) ∧
    (s.readyFor [.vector] [d, b, b + 1] = true → acceptIndex (readV s.tk a).tag = true →
      let lw := readS s.tk b
      let arg := readS s.tk (b + 1)
      let recs := (List.finRange 256).filterMap fun i =>
        let x := laneLow (readV s.tk a).lanes[i]
        if x = 0 then none else some (mkRecord (lwTmpl lw) (lwQueue lw) s.tk.ctx (lwBase lw + BitVec.ofNat 32 i.val)
          [BitVec.ofNat 32 i.val, x, arg.setWidth 32, arg.extractLsb' 32 32])
      placed lw recs true (BitVec.ofNat 64 recs.length) (BitVec.allOnes 64) (exec (.spawnv d a b) s))

/-- Scalar accesses to global memory as they issue (R282, R283, R284, R285, R286, R307): at a legal and aligned address that no
watchpoint reports, with room in its queue, an access enters it with the next number of the tile's order; `QMARK` enters both. In
a branch shadow (R181) it takes that number and joins the task's held effects, whatever room the queue has. An address of 2^48 or above is VADDR_RANGE, and then one that is no multiple of the access size GADDR_ALIGN, each with
the address and the kind of access in YTVAL. -/
def Obligations.GlobalAccessResults : Prop :=
  (∀ (s : State) (d a b : BitVec 6) (z : MemSize) (o : AmoOp) (sc : Scope),
     let bytes := sizeBytes z
     let entry (op : ScalarOp) (va : Word) (n : Nat) (d : BitVec 6) (acq rel : Option Scope) : QEntry :=
       ⟨op, va, n, d, acq, rel, s.me.accOrd, false, s.tk.ctx, s.tk.uid, s.tk.bundle, false⟩
     let enters (toLoad toStore : Bool) (e : QEntry) : Out := .next { s.modTile s.cur (fun x =>
       if s.tk.shadow = 0 then { x with
         accOrd := x.accOrd + 1, storeQ := if toStore then x.storeQ ++ [e] else x.storeQ
         task := if toLoad then { x.task with loadQ := x.task.loadQ ++ [e] } else x.task }
       else { x with
         accOrd := x.accOrd + 1, task := { x.task with held := x.task.held ++ [.access toLoad toStore e] } }) with sig := .done }
     let loads (e : QEntry) : Out := enters true false e
     let stores (e : QEntry) : Out := enters false true e
     let legal (va : Word) (n : Nat) : Prop := va.toNat < 2 ^ 48 ∧ va.toNat % n = 0
     let unwatched (va : Word) (n : Nat) : Prop := coreWatch s false [(va.toNat, n)] = none
     let loadRoom : Prop := s.tk.shadow = 0 → s.tk.loadQ.length < 32
     let storeRoom : Prop := s.tk.shadow = 0 → s.me.storeQ.length < 32
     let amo (va v e : Word) (d : BitVec 6) (acq rel : Option Scope) (out : Out) : Prop := legal va 8 → unwatched va 8 →
       (d ≠ 0 → loadRoom → out = loads (entry (.amo o v e) va 8 d acq rel)) ∧
       (d = 0 → storeRoom → out = stores (entry (.amo o v e) va 8 d acq rel))
     (s.ready [d, a] = true →
       let va := readS s.tk a + BitVec.ofNat 64 bytes * b.signExtend 64
       let va0 := readS s.tk a
       (legal va bytes → loadRoom → exec (.ldG z d a b) s = loads (entry .load va bytes d none none)) ∧
       (legal va bytes → unwatched va bytes → storeRoom →
         exec (.stG z d a b) s = stores (entry (.store (readS s.tk d)) va bytes 0 none none)) ∧
       (legal va0 8 → loadRoom → exec (.ldGAcq d a sc) s = loads (entry .load va0 8 d (some sc) none)) ∧
       (legal va0 8 → unwatched va0 8 → storeRoom →
         exec (.stGRel d a sc) s = stores (entry (.store (readS s.tk d)) va0 8 0 none (some sc)))) ∧
     (s.ready [d, a, b] = true →
       amo (readS s.tk a) (readS s.tk b) (readS s.tk d) d none none (exec (.amoG o d a b) s)) ∧
     (s.ready (if o = .cas then [d, d + 1, a] else [d, a]) = true →
       let v := if o = .cas then readS s.tk (d + 1) else readS s.tk d
       amo (readS s.tk a) v (readS s.tk d) d (some sc) none (exec (.amoGAcq o d a sc) s) ∧
       amo (readS s.tk a) v (readS s.tk d) d none (some sc) (exec (.amoGRel o d a sc) s) ∧
       amo (readS s.tk a) v (readS s.tk d) d (some sc) (some sc) (exec (.amoGAr o d a sc) s)) ∧
     (s.ready [] = true → loadRoom → storeRoom →
       exec .qmark s = enters true true (entry .mark 0 1 0 none none))) ∧
  (∀ (s : State) (d a b : BitVec 6) (z : MemSize) (o : AmoOp) (sc : Scope),
     let bytes := sizeBytes z
     let traps (va : Word) (n kind : Nat) (out : Out) : Prop :=
       let tval := BitVec.ofNat 64 (va.toNat % 2 ^ 48 + 2 ^ 48 * kind)
       (2 ^ 48 ≤ va.toNat → out = slotTrap .vaddrRange tval s) ∧
       (va.toNat < 2 ^ 48 → va.toNat % n ≠ 0 → out = slotTrap .gaddrAlign tval s)
     (s.ready [d, a] = true →
       let va := readS s.tk a + BitVec.ofNat 64 bytes * b.signExtend 64
       traps va bytes 0 (exec (.ldG z d a b) s) ∧ traps va bytes 1 (exec (.stG z d a b) s) ∧
       traps (readS s.tk a) 8 0 (exec (.ldGAcq d a sc) s) ∧ traps (readS s.tk a) 8 1 (exec (.stGRel d a sc) s)) ∧
     (s.ready [d, a, b] = true → traps (readS s.tk a) 8 2 (exec (.amoG o d a b) s)) ∧
     (s.ready (if o = .cas then [d, d + 1, a] else [d, a]) = true →
       traps (readS s.tk a) 8 2 (exec (.amoGAcq o d a sc) s) ∧ traps (readS s.tk a) 8 2 (exec (.amoGRel o d a sc) s) ∧
       traps (readS s.tk a) 8 2 (exec (.amoGAr o d a sc) s)))

/-- Fences and bank release (R145, R305, R308): a fence completes once every access before it has performed at its scope,
and freezes the tile until then; `RELB` marks each bank of an enabled region for release, or joins the held effects in a branch
shadow (R181), and traps REGION_OFF on another, with YTVAL 0 (log 42). -/
def Obligations.FenceAndReleaseResults : Prop :=
  ∀ (s : State) (sc : Scope) (reg stg : BitVec 4), s.ready [] = true →
    let before : Prop := (∀ e ∈ s.tk.loadQ, e.op ≠ .mark → s.me.accOrd ≤ e.ord) ∧
      (∀ e ∈ s.me.storeQ, e.op ≠ .mark → s.me.accOrd ≤ e.ord) ∧ s.me.sideLog = [] ∧
      (sc = .sys ∨ sc = .fab → ∀ w ∈ s.me.hostPend, s.me.accOrd ≤ w.e.ord)
    (before → exec (.fence sc) s = .next { s with sig := .done }) ∧
    (¬ before → exec (.fence sc) s = slotFreeze .fence s) ∧
    (let e := s.tk.regions[reg.toNat]'reg.isLt
     let released (free : Bool) (st : BitVec 4) : Out := .next { s.modTask (fun k =>
       if s.tk.shadow = 0 then { k with
         releases := k.releases ++ (List.range (regCount e + 1)).map fun i => (regBank e + BitVec.ofNat 11 i, free, st) }
       else { k with held := k.held ++ [.relb reg st free] }) with sig := .done }
     (regEn e = true →
       exec (.relb reg stg) s = released false stg ∧ exec (.relbFree reg) s = released true 0) ∧
     (regEn e = false → exec (.relb reg stg) s = slotTrap .regionOff 0 s ∧ exec (.relbFree reg) s = slotTrap .regionOff 0 s))

/-- Trigger cells from a tile (R310, R311): an operand word in order whose operation the cell takes gives S[d] the phase one
cycle on, where the replay log has room for a fire (R371); `WAITC` completes once the phase differs from its bit and answers the count of fires, no scrub of the cell's bank being under way
(R262). -/
def Obligations.SynchronisationResults : Prop :=
  ∀ (s : State) (d a b : BitVec 6) (sc : Scope),
    let w := readS s.tk a
    let i : BitVec 16 := w.setWidth 16
    let count := w.toNat / 2 ^ 16 % 2 ^ 17
    let replied (r : CellReply) : Out := .next (r.st.after (landS 1 d (if r.phase then 1 else 0)))
    (s.ready [d, a] = true → w.toNat < 2 ^ 33 → 1 ≤ count → count ≤ 65536 →
      let r := cellOp s.tk.ctx i (.arrive count) s
      r.fault = none → cellStalls s s.tk.ctx i (.arrive count) = false →
      exec (.arrive d a) s = replied r ∧
      (performedBefore s.me s.me.accOrd sc = true → exec (.arriveRel d a sc) s = replied r)) ∧
    (s.ready [d, a, b] = true → w.toNat < 2 ^ 16 → (readS s.tk b).toNat < 2 ^ 32 →
      let r := cellOp s.tk.ctx i (.expect (readS s.tk b).toNat) s
      r.fault = none → cellStalls s s.tk.ctx i (.expect (readS s.tk b).toNat) = false → exec (.expect d a b) s = replied r) ∧
    (s.ready [d, a] = true → w.toNat < 2 ^ 17 →
      let r := cellOp s.tk.ctx i .phase s
      ∀ ad, r.fault = none → cellScrubs s s.tk.ctx i = false → cellAddr s s.tk.ctx i.toNat = some ad → r.phase ≠ w.getLsbD 16 →
        exec (.waitc d a sc) s = .next (s.after (landS 1 d ((cellFires (cellRead s ad)).setWidth 64))))

/-- The copy channels (R291 to R294): `CSET` and `CCLR` change the shadow set one cycle on; a command whose checks pass
takes the next sequence number, keeps its channel busy with the shadow set as its active set and makes its token PENDING as
its bundle ends; `CWAIT` completes once no token that it
names is PENDING, and `CSTAT` reads a token. -/
def Obligations.CopyChannelResults : Prop :=
  ∀ (s : State) (kp kx ky : Option (BitVec 5)) (j : BitVec 2) (a b d : BitVec 6) (k : BitVec 5),
    let ch : Fin 2 := if s.eng = 7 then 1 else 0
    let p := s.tk.ch[ch].shadow
    let issues (kind : Nat) (o : Out) : Prop := s.ready [] = true → s.tk.ch[ch].busy = none →
      (∀ r, kp = some r → (readK s.tk r).pend = false) → (kind = 2 → claimBlocked s .vector = false) →
      formFails kind p = none → swardFails s kind p = none →
      (kind = 1 → parDir p = 2 → imemTargetOk s.me p = true ∧ halfToSave s.me = false) →
      (kind = 2 → ∀ v ∈ asRows s.tk p, isReservedTag v.tag = false) →
      (parHs p = true → cmdBytes kind p % slotBytes (readH s.tk (parHidx p)) = 0) →
      (globalSpan kind p ≠ 0 → (parGaddr p).toNat + globalSpan kind p ≤ 2 ^ 48) →
      ∃ t c, o = .next t ∧ t.sig = .done ∧ t.cmds = s.cmds ++ [c] ∧ c.id = s.cmdIds ∧ t.cmdIds = s.cmdIds + 1 ∧
        c.kind.toNat = kind ∧ c.par = p ∧ c.tile = s.cur ∧ c.chan = ch ∧ c.ctx = s.tk.ctx ∧ c.seq = s.tk.cmdseq ∧ c.kp = kp ∧
        c.phase = (if s.tk.shadow > 0 then .held else .waiting) ∧
        (∀ r, r ∈ c.kx ↔ (r ∈ consumed kx ky p ∧ (readK s.tk r).pend = true)) ∧
        t.tk.cmdseq = s.tk.cmdseq + 1 ∧ t.tk.ch[ch].busy = some c.id ∧ t.tk.ch[ch].shadow = p ∧
        t.tk.ch[ch].active = activeSet (BitVec.ofNat 4 kind) p ∧
        (∀ r, kp = some r → ⟨s.me.ic + 1, s.ordNow, .token r ⟨true, 0, 0, s.tk.cmdseq⟩⟩ ∈ t.tk.pend) ∧
        (kp = none → t.tk.pend = s.tk.pend) ∧ (∀ r, readK t.tk r = readK s.tk r) ∧
        t.tk.s = s.tk.s ∧ t.tk.a = s.tk.a ∧ t.tk.v = s.tk.v ∧ t.sward = s.sward ∧ t.hbm = s.hbm
    issues (parKind p).toNat (exec (.cgo kp kx ky) s) ∧
    issues 1 (exec (.cpy kp kx ky) s) ∧ issues 2 (exec (.cpyAs kp kx ky) s) ∧ issues 3 (exec (.gath kp kx ky) s) ∧
    issues 4 (exec (.pool kp kx ky) s) ∧ issues 5 (exec (.rld kp kx ky) s) ∧ issues 6 (exec (.rst kp kx ky) s) ∧
    issues 7 (exec (.ramo kp kx ky) s) ∧ issues 8 (exec (.mcst kp kx ky) s) ∧ issues 9 (exec (.rarrive kp kx ky) s) ∧
    (s.ready [] = true →
      (tokenPending s.tk kp = false → tokenPending s.tk kx = false → tokenPending s.tk ky = false →
        exec (.cwait kp kx ky) s = .next { s with sig := .done }) ∧
      exec .cnop s = .next { s with sig := .done } ∧
      exec .cclr s = .next (s.after [(1, .cclr ch)])) ∧
    (s.ready [a, b] = true → exec (.cset j a b) s = .next (s.after [(1, .cset ch j (readS s.tk a) (readS s.tk b))])) ∧
    (s.ready [d] = true →
      let x := readK s.tk k
      exec (.cstat d k) s = .next (s.after (landS 1 d (BitVec.ofNat 64
        (x.pend.toNat + 2 ^ 8 * x.status.toNat + 2 ^ 16 * x.detail.toNat + 2 ^ 24 * (x.seq.toNat % 2 ^ 40))))))
/-! ### Parser words and action words -/

/-- The parser words and what follows them (R77, R100 to R103): an extraction writes F[d] to F[d + n − 1] from the entry cursor, in
network order unless LE, or ends parsing with PERR before it where a byte is out of reach; the other words set a field, the
next cursor, the key or the payload offset, or select a state or the end. A parse goes on in the state selected at the next
cursor, or fails where that exceeds 256, also as it ends, where a 33rd state would be entered, or after the eighth word of a state; one that
ends gives its packet to stage 0, and one that fails sets PERR in it and keeps the other fields. -/
def Obligations.ParserWordResults : Prop :=
  (∀ (s : State) (p : BitVec 3) (k : Parse), s.parsing p k →
     let goes (k' : Parse) : Out := (nextWord p k' s).ends
     let phv (f : Phv) : Parse := { k with pkt := { k.pkt with phv := f } }
     exec .pNop s = goes k ∧
     (∀ (d : BitVec 7) (off : BitVec 8) (nm1 : BitVec 4) (le : Bool),
       let src := k.cursor + off.toNat
       if parseReach k src (2 * (nm1.toNat + 1)) then
         ∃ q : Packet, exec (.pExt d off nm1 le) s = goes { k with pkt := q } ∧
           q = { k.pkt with phv := q.phv, extracts := q.extracts } ∧
           ∀ j : BitVec 7, getF q.phv j =
             if d.toNat ≤ j.toNat ∧ j.toNat ≤ d.toNat + nm1.toNat
             then frameWord k.pkt.frame.bytes (src + 2 * (j.toNat - d.toNat)) le else getF k.pkt.phv j
       else exec (.pExt d off nm1 le) s = (failParse p k s).ends) ∧
     (∀ (d : BitVec 7) (off : BitVec 8) (lsb wm1 : BitVec 4),
       let src := k.cursor + off.toNat
       let w := wm1.toNat + 1
       let v := (frameWord k.pkt.frame.bytes src false).toNat / 2 ^ lsb.toNat % 2 ^ w
       let q : Packet := { k.pkt with phv := setF k.pkt.phv d (BitVec.ofNat 16 v) }
       exec (.pExtb d off lsb wm1) s =
         if parseReach k src 2 then goes { k with pkt := recordExtract d src lsb.toNat w false q }
         else (failParse p k s).ends) ∧
     (∀ (d a : BitVec 7) (imm mask value : BitVec 16) (n : BitVec 9) (lsb wm1 : BitVec 4) (sc : BitVec 2) (st : BitVec 6),
       exec (.pSet d imm) s = goes (phv (setF k.pkt.phv d imm)) ∧
       exec (.pAdv n) s = goes { k with next := k.next + n.toNat } ∧
       exec (.pAdvf a lsb wm1 sc) s = goes { k with
         next := k.next + (getF k.pkt.phv a).toNat / 2 ^ lsb.toNat % 2 ^ (wm1.toNat + 1) * 2 ^ sc.toNat } ∧
       exec (.pKey a mask) s = goes { k with key := getF k.pkt.phv a &&& mask } ∧
       exec (.pPayld n) s = goes (phv (setF k.pkt.phv 6 (BitVec.ofNat 16 (k.cursor + n.toNat)))) ∧
       exec (.pCase st value) s = (if k.key = value then (enterState p st k s).ends else goes k) ∧
       exec (.pGoto st) s = (enterState p st k s).ends) ∧
     exec (.pEnd false) s = (if 256 < k.next then failParse p k s else endParse p k s).ends ∧ exec (.pEnd true) s = (failParse p k s).ends) ∧
  (∀ (s : State) (p : BitVec 3) (k : Parse) (st : BitVec 6), s.parsing p k →
     (k.next ≤ 256 → k.visited < 32 →
       ((enterState p st k s).pipe p).parse =
         some { k with state := st, word := 0, cursor := k.next, visited := k.visited + 1 }) ∧
     (256 < k.next ∨ 32 ≤ k.visited → enterState p st k s = failParse p k s) ∧
     (k.word < 7 → ((nextWord p k s).pipe p).parse = some { k with word := k.word + 1 }) ∧
     (7 ≤ k.word → nextWord p k s = failParse p k s) ∧
     ((endParse p k s).pipe p).pkts = (s.pipe p).pkts ++ [k.pkt] ∧ ((endParse p k s).pipe p).parse = none ∧
     (∃ q : Packet, ((failParse p k s).pipe p).pkts = (s.pipe p).pkts ++ [q] ∧ ((failParse p k s).pipe p).parse = none ∧
       q = { k.pkt with phv := q.phv } ∧
       ∀ j : BitVec 7, getF q.phv j = if j = 7 then getF k.pkt.phv 7 ||| 1 else getF k.pkt.phv j))

/-- The field, control and action-data words (R113, R109): each acts on the working vector at once and counts as one word
executed; an `AC.LDD` past F127 is ACT_ARG. That an `AC.LDD` which writes F8 drops the pending choice of an earlier `AC.ROUTE` is the
model's reading (log 73). -/
def Obligations.FieldWordResults : Prop :=
  ∀ (s : State) (p : BitVec 3) (r : StageRun), s.evaluating p r →
    let goes (r' : StageRun) : Out := .next (s.afterWord p r')
    let x (i : BitVec 7) : Nat := (getF r.wk i).toNat
    ∀ (d a b : BitVec 7) (imm : BitVec 12) (h w4 : BitVec 4) (w : BitVec 5) (j : BitVec 2) (off : BitVec 6),
      let puts (v : BitVec 16) : Out := goes (r.writes d v)
      exec .acNop s = goes r ∧ exec (.acMov d a) s = puts (getF r.wk a) ∧
      exec (.acAdd d a b false) s = puts (BitVec.ofNat 16 (x a + x b)) ∧
      exec (.acAdd d a b true) s = puts (BitVec.ofNat 16 (Nat.min (x a + x b) 65535)) ∧
      exec (.acSub d a b false) s = puts (BitVec.ofInt 16 ((x a : Int) - x b)) ∧
      exec (.acSub d a b true) s = puts (BitVec.ofNat 16 (x a - x b)) ∧
      exec (.acAnd d a b) s = puts (getF r.wk a &&& getF r.wk b) ∧
      exec (.acOr d a b) s = puts (getF r.wk a ||| getF r.wk b) ∧
      exec (.acXor d a b) s = puts (getF r.wk a ^^^ getF r.wk b) ∧
      exec (.acShl d a w) s = puts (getF r.wk a <<< w.toNat) ∧ exec (.acShr d a w) s = puts (getF r.wk a >>> w.toNat) ∧
      exec (.acMin d a b) s = puts (BitVec.ofNat 16 (Nat.min (x a) (x b))) ∧
      exec (.acMax d a b) s = puts (BitVec.ofNat 16 (Nat.max (x a) (x b))) ∧
      exec (.acSlt d a b) s = puts (if x a < x b then 1 else 0) ∧
      exec (.acMovi d imm) s = puts (imm.setWidth 16) ∧
      exec (.acAddi d a imm) s = puts (getF r.wk a + imm.signExtend 16) ∧
      exec (.acAndi d a imm) s = puts (getF r.wk a &&& imm.setWidth 16) ∧
      exec (.acOri d a imm) s = puts (getF r.wk a ||| imm.setWidth 16) ∧
      exec (.acMovh d h) s = puts (h ++ (getF r.wk d).setWidth 12) ∧
      exec (.acSeqi d a imm) s = puts (if x a = imm.toNat then 1 else 0) ∧
      exec (.acSkipz a h) s = goes (if x a = 0 then { r with i := r.i + h.toNat } else r) ∧
      exec (.acSkipnz a h) s = goes (if x a = 0 then r else { r with i := r.i + h.toNat }) ∧
      exec .acDone s = .next { commitRun p { r with n := r.n + 1, i := r.i + 1, ended := true } s with sig := .done } ∧
      exec (.acHit d j) s = puts (if (r.lookups[j.toNat]'j.isLt).hit then 1 else 0) ∧
      (127 < d.toNat + w4.toNat → exec (.acLdd d off j w4) s = goes (r.fail .actArg)) ∧
      (d.toNat + w4.toNat ≤ 127 → ∃ f : Phv, exec (.acLdd d off j w4) s =
          goes { (if d.toNat ≤ 8 ∧ 8 ≤ d.toNat + w4.toNat then r.unroute else r) with wk := f } ∧
        ∀ i : BitVec 7, getF f i =
          if d.toNat ≤ i.toNat ∧ i.toNat ≤ d.toNat + w4.toNat
          then frameWord (r.lookups[j.toNat]'j.isLt).data (off.toNat + 2 * (i.toNat - d.toNat)) true else getF r.wk i)

/-- The words that act at commit, and the commit (R99, R111 to R120): forwarding writes F8; an `AC.ROUTE` sets FWD at once with DEST
left to the commit, and a later write of F8 overrides it (the model's reading, log 73), its ACT_FORM being met in evaluation (log
148); a stateful, cell, payload or admission word appends its operation, at its cost of R118; a count of zero, a payload offset beyond
a plain frame and `AC.ROUTE` without a YT header fault. At commit a fault met in evaluation, or a check of an operation that
fails, drops the packet and enters the die's queue, with no other effect; an evaluation with nothing to apply gives its vector
to the packet, which goes on to the next stage. -/
def Obligations.CommitWordResults : Prop :=
  (∀ (s : State) (p : BitVec 3) (r : StageRun), s.evaluating p r →
     let goes (r' : StageRun) : Out := .next (s.afterWord p r')
     let base := r.unroute
     ∀ (d a x v : BitVec 7) (t : BitVec 6) (w : BitVec 3) (link dlv arr : Bool),
       let pair : BitVec 32 := if v = 127 then 0 else getF r.wk (v + 1) ++ getF r.wk v
       let chip : BitVec 10 := (getF r.wk a).setWidth 10
       let f16 : Phv := setF r.wk 16 (putField (getF r.wk 16) 0 10 chip)
       exec (.acFwd a) s = goes (base.writes 8 ((0x20 : BitVec 6) ++ chip)) ∧
       exec (.acMcast a) s = goes (base.writes 8 ((0x30 : BitVec 6) ++ chip)) ∧
       exec .acDrop s = goes { r with wk := setF r.wk 8 ((0 : BitVec 1) ++ (getF r.wk 8).setWidth 15) } ∧
       exec (.acRoute a) s =
         (if !phvYt r.wk then goes (r.fail .actForm)
          else if chip = s.chipId then goes { r with wk := setF f16 8 ((0 : BitVec 1) ++ (getF f16 8).setWidth 15) }
          else goes { base with wk := setF f16 8 ((0x20 : BitVec 6) ++ (getF f16 8).setWidth 10), ops := base.ops ++ [.route chip] }) ∧
       exec (.acSrd x t v w) s = goes (r.push 1 0 (.stateful 0 t (getF r.wk x) w v pair)) ∧
       exec (.acSwr x t v w) s = goes (r.push 1 0 (.stateful 1 t (getF r.wk x) w v pair)) ∧
       exec (.acSadd x t v w) s = goes (r.push 1 0 (.stateful 2 t (getF r.wk x) w v pair)) ∧
       exec (.acArrive d a link true) s = goes (r.push 1 0 (.arrive (getF r.wk d) 1 link)) ∧
       exec (.acArrive d a link false) s =
         (if (getF r.wk a).toNat = 0 then goes (r.fail .actArg)
          else goes (r.push 1 0 (.arrive (getF r.wk d) (getF r.wk a).toNat link))) ∧
       exec (.acExpect d a) s = goes (r.push 1 0 (.expect (getF r.wk d) (getF r.wk a).toNat)) ∧
       (let pay (op : BitVec 2) : Out :=
         if !phvYt r.wk ∧ (getF r.wk 6).toNat > (getF r.wk 1).toNat then goes (r.fail .actArg)
         else if r.pays ≥ 1 ∨ r.cellOps + (if dlv || arr then 1 else 0) > 2 then
           goes (r.fail .actLimit)
         else goes { r with
           wk := setF r.wk 9 1, pays := 1, cellOps := r.cellOps + (if dlv || arr then 1 else 0)
           ops := r.ops ++ [.pay op t (getF r.wk x)
             (if phvYt r.wk then phvLen r.wk else (getF r.wk 1).toNat - (getF r.wk 6).toNat) (getF r.wk v) dlv arr] }
        r.fault = none → exec (.acPayWrite x t v dlv arr) s = pay 0 ∧ exec (.acPayAddw x t v dlv arr) s = pay 1 ∧
         exec (.acPayAdds x t v dlv arr) s = pay 2 ∧ exec (.acPayAddf x t v dlv arr) s = pay 3) ∧
       exec (.acAdmit x t) s = goes (r.push 2 1 (.admitTok t (getF r.wk x) (phvLen r.wk))) ∧
       exec (.acClose x t) s = goes (r.push 2 0 (.close t (getF r.wk x)))) ∧
  (∀ (s : State) (p : BitVec 3) (r : StageRun),
     let idle : State := { s.modPipe p fun x => { x with run := none } with focus := .idle }
     (∀ f, r.fault = some f → commitRun p r s = actionFault p r.pkt f 0 idle) ∧
     (r.fault = none → r.ops = [] → commitRun p r s =
       replacePacket p r.pkt { r.pkt with phv := r.wk, stage := r.pkt.stage + 1, route := r.route } idle) ∧
     (∀ o, r.ops = [o] → r.fault = none → (∀ c k, o ≠ .arrive c k true) → ∀ f, opCheck idle ⟨p, r.pkt⟩ o = some f →
       commitRun p r s = actionFault p r.pkt f 0 idle))
/-! ### Trigger cells -/

/-- A cell operation that is not refused (R33, R34): an expect adds to PEND, a delivery takes from it, an arrive takes from
COUNT, and nothing else of the cell changes before its firing condition is tested; a phase read changes nothing. A bank holds an
operation while it is under scrub (R262) and while the replay log of the context has no room for its fire (R371). That a remote
arrive is applied to a SPENT cell is the model's reading (log 115), and that one of k = 0 or beyond 65,536 is applied as it comes its
choice (log 130). -/
def Obligations.CellOperationResults : Prop :=
  ∀ (s : State) (ctx : CtxId) (i : BitVec 16) (a : Nat), s.ctxLive ctx = true → cellAddr s ctx i.toNat = some a →
    let c := cellRead s a
    cellOwner c = ctx → cellBroken c = false →
    let tested (c' : BitVec 256) : Out :=
      (if cellReady c' then
        if cellHeld c' then
          { cellWrite s a c' with heldRecs := s.heldRecs.map fun h =>
              if h.1 = ctx ∧ h.2.1 = i then (h.1, h.2.1, true) else h }
        else fireCell ctx i a c' s
      else cellWrite s a c').ends
    let becomes (op : CellOp) (e : Instr) (count : Nat) (pend : Int) : Prop :=
      cellStalls s ctx i op = false → ∃ c', exec e s = tested c' ∧ cellCount c' = count ∧ cellPend c' = pend ∧ cellThresh c' = cellThresh c ∧
        field c' 112 144 = field c 112 144
    let refusedBy (op : CellOp) (e : Instr) (f : Cause) (count : Nat) (pend : Int) : Prop :=
      (cellOp ctx i op s).fault = some f ∧ (cellStalls s ctx i op = false →
      ∃ c', exec e s = (cellFaultEntry ctx i f 0 0 (cellWrite s a c')).ends ∧ cellBroken c' = true ∧ cellCount c' = count ∧
        cellPend c' = pend)
    (∀ k : BitVec 17, cellStalls s ctx i (.arrive k.toNat) = true → exec (.cellArrive ctx i k) s = s.ends) ∧
    (∀ n : BitVec 32, cellStalls s ctx i (.expect n.toNat) = true → exec (.cellExpect ctx i n) s = s.ends) ∧
    (cellScrubs s ctx i = true → ∀ op, cellStalls s ctx i op = true) ∧
    exec (.cellPhaseRead ctx i) s = s.ends ∧ (cellOp ctx i .phase s).phase = cellPhase c ∧
    (∀ k : BitVec 17, k.toNat ≤ cellCount c → 0 ≤ cellPend c →
      becomes (.remoteArrive k.toNat) (.cellRemoteArrive ctx i k) (cellCount c - k.toNat) (cellPend c) ∧
      (cellSpent c = false → becomes (.arrive k.toNat) (.cellArrive ctx i k) (cellCount c - k.toNat) (cellPend c))) ∧
    (∀ k : BitVec 17, cellCount c < k.toNat → 0 ≤ cellPend c →
      refusedBy (.remoteArrive k.toNat) (.cellRemoteArrive ctx i k) .countUnderflow 0 (cellPend c)) ∧
    (cellSpent c = false → ∀ n : BitVec 32,
      (0 ≤ cellPend c + n.toNat → cellPend c + n.toNat ≤ 2 ^ 47 - 1 →
        becomes (.expect n.toNat) (.cellExpect ctx i n) (cellCount c) (cellPend c + n.toNat)) ∧
      (2 ^ 47 ≤ cellPend c + n.toNat → refusedBy (.expect n.toNat) (.cellExpect ctx i n) .pendOverflow (cellCount c) (2 ^ 47 - 1)) ∧
      (0 ≤ cellPend c - n.toNat → becomes (.delivery n.toNat) (.cellDelivery ctx i n) (cellCount c) (cellPend c - n.toNat)) ∧
      (cellPend c - n.toNat < 0 → -2 ^ 47 ≤ cellPend c - n.toNat →
        refusedBy (.delivery n.toNat) (.cellDelivery ctx i n) .pendNegative (cellCount c) (cellPend c - n.toNat)))

/-- A fire (R35, R36): FIRES and PHASE step on, COUNT becomes THRESH with REARM and the cell is SPENT without; unless NOTASK, a
record of the cell's template, queue and owner takes the next slot of the queue, or waits in the cell with HELD where
the queue is disabled or full; that a fire takes a free slot before records held for its queue is the model's choice (log 33). A
rewrite by Kenval replaces the cell but for HELD, which it clears (the model's reading, log 59), and tests nothing (R39); a scrub of
the cell's bank holds it (R262). -/
def Obligations.CellFires : Prop :=
  ∀ (s : State) (ctx : CtxId) (i : BitVec 16) (a : Nat) (c : BitVec 256), Memory.wf s.sward = true →
    let q := s.queue (cellQueue c)
    let room := qEn q.desc = true ∧ 1 ≤ qFree q
    let t := fireCell ctx i a c s
    let held (x : BitVec 256) : Prop := cellHeld x = true ↔ cellHeld c = true ∨ (cellNoTask c = false ∧ ¬ room)
    (∃ x, cellRead t a = x ∧ held x ∧ cellFires x = cellFires c + 1 ∧ cellPhase x = (!cellPhase c) ∧ cellPend x = cellPend c ∧
      (cellRearm c = true → cellCount x = (cellThresh c).toNat ∧ cellSpent x = cellSpent c) ∧
      (cellRearm c = false → cellCount x = cellCount c ∧ cellSpent x = true)) ∧
    (cellNoTask c = true → t.queues = s.queues ∧ t.heldRecs = s.heldRecs) ∧
    (cellNoTask c = false → room → t.heldRecs = s.heldRecs ∧ ∃ r : BitVec 256,
      (t.queue (cellQueue c)).landing = q.landing ++ [⟨q.tailp, r, none⟩] ∧
      (t.queue (cellQueue c)).tailp = (q.tailp + 1) % 2 ^ qLogN q.desc ∧
      field r 0 16 = cellTmpl c ∧ field r 16 7 = cellQueue c ∧ field r 23 6 = cellOwner c ∧
      field r 32 32 = i ++ (cellFires c + 1).setWidth 16 ∧ field r 64 32 = i.setWidth 32 ∧
      field r 96 32 = (if cellPhase c then 1 else 0 : BitVec 32)) ∧
    (cellNoTask c = false → ¬ room → t.queues = s.queues ∧ t.heldRecs = s.heldRecs ++ [(ctx, i, false)]) ∧
    (∀ v : BitVec 256, cellAddr s ctx i.toNat = some a → s.scrubbing.contains (sgaBank a) = true →
      exec (.cellRewrite ctx i v) s = s.ends) ∧
    (∀ v : BitVec 256, cellAddr s ctx i.toNat = some a → s.scrubbing.contains (sgaBank a) = false → ∃ u, exec (.cellRewrite ctx i v) s = .next u ∧
      cellRead u a = putField v 120 1 (0 : BitVec 1) ∧ u.queues = s.queues ∧ ∀ h ∈ u.heldRecs, h ∈ s.heldRecs ∧ ¬ (h.1 = ctx ∧ h.2.1 = i))

/-! ### Launch, arbitration and stops -/

/-- The events of launch and placement, each where it is due (R36, R128, R129, R131 to R140, R142, R145, R148, R352, R355, R374). A
record that passes R25 starts its task with the registers and the sequence number of R31 and R134; a task that ends retires with
the counts of R374 and R376 and leaves no bank held; a `RELB` frees or releases its bank; an image load leaves the image and zeros;
pre-empted tasks leave their tile for the resume list with their registers and their place. The model's own readings: bits 255:192 of
a cell are cleared as its held record moves (log 59), the order of held records and the fire that waited (log 33), LATE judged at
the placement (log 61), contexts that end as their saves do (log 56), data in flight to a saved class (log 142), and a class that a
parity error has hit (log 64). -/
def Obligations.LaunchEventResults : Prop :=
  ∀ (s : State) (t : TileId) (c : CtxId) (i : BitVec 16) (q : BitVec 7) (die : BitVec 1) (n : BitVec 4) (b : BitVec 11),
    let x := s.tile t
    let e := s.timed die n
    exec (.launcherSelection die) s =
      (rank15 die (if dieFree s die = true ∨ timedDue s die = true then selection die s else s)).ends ∧
    (∀ r, tmplFails s q r = none → ∃ u, launchHead q (.fresh r) [t] s = (u, true) ∧
      let k := (u.tile t).task
      let m := readTemplate s (recCtx r) (recTmpl r)
      (u.tile t).status = (if isLoading (u.tile t) then .loading else .running) ∧ k.ctx = recCtx r ∧ k.tmpl = recTmpl r ∧
      k.queue = q ∧ k.cmdseq = recCmdbase r ++ (0 : BitVec 16) ∧ k.regions = tmRegions m ∧ k.declared = tmMaxrun m ∧
      k.pc = BitVec.ofNat 18 (halfBase (u.tile t).cur) + (tmEntry m).setWidth 18 ∧ k.mode = .task ∧
      (∀ d : BitVec 6, readS k d = if 1 ≤ d.toNat ∧ d.toNat ≤ 6 then (recArg r (d.toNat - 1)).setWidth 64 else 0) ∧
      (u.queue q).headp = ((s.queue q).headp + 1) % 2 ^ qLogN (s.queue q).desc) ∧
    (∀ r k, tmplFails s q r = some k → (launchHead q (.fresh r) [t] s).2 = false ∧
      (launchHead q (.fresh r) [t] s).1.tiles = s.tiles) ∧
    exec (.endRetirement t) s = (retire t s).ends ∧
    (x.status = .ending → endWaitOver s t = true → x.preempt = false → gangTiles s t = [t] → x.task.doneV = false →
      let u := retire t s
      let k := x.task
      (u.tile t).status = .free ∧ (u.queue k.queue).retn = (s.queue k.queue).retn + 1 ∧
      (u.ctx k.ctx).tasks = (s.ctx k.ctx).tasks + 1 ∧ (u.ctx k.ctx).icyc = (s.ctx k.ctx).icyc + BitVec.ofNat 64 k.icyc ∧
      (u.ctx k.ctx).fcyc = (s.ctx k.ctx).fcyc + BitVec.ofNat 64 k.fcyc ∧
      ∀ m, ¬ (bankHState (u.bank m) = 1 ∧ bankOwner (u.bank m) = k.ctx ∧ bankHTask (u.bank m) = k.gangSlot)) ∧
    (x.status = .ending → endWaitOver s t = false → retire t s = s) ∧
    exec (.relbBankChange t b) s = (applyReleases t (· == b) s).ends ∧
    (∀ free st, x.task.releases = [(b, free, st)] → bankShared (s.bank b.toNat) = false → bankHState (s.bank b.toNat) = 1 →
      bankOwner (s.bank b.toNat) = x.task.ctx → bankHTask (s.bank b.toNat) = x.task.gangSlot →
      let u := applyReleases t (· == b) s
      (u.tile t).task.releases = [] ∧ bankHState (u.bank b.toNat) = (if free then 0 else 2) ∧
      bankOwner (u.bank b.toNat) = x.task.ctx ∧ (free = false → bankHStage (u.bank b.toNat) = st)) ∧
    (∀ r rest, (s.queue q).landing = r :: rest → landReady s r = true →
      s.scrubbing.contains (sgaBank (qBase (s.queue q).desc + 32 * r.slot)) = false →
      exec (.recordLanding q) s =
        (({ s with sward := memWriteLE s.sward (qBase (s.queue q).desc + 32 * r.slot) 32 r.rec_.toNat }).modQueue q
          fun y => { y with landing := rest }).ends) ∧
    (∀ a h, cellAddr s c i.toNat = some a →
      (s.heldRecs.find? fun h => heldQueue s h.1 h.2.1 == some (cellQueue (cellRead s a))) = some h →
      h.1 = c → h.2.1 = i → qEn (s.queue (cellQueue (cellRead s a))).desc = true →
      1 ≤ qFree (s.queue (cellQueue (cellRead s a))) → cellScrubs s c i = false → (h.2.2 = true → logFull s c 1 = false) →
      let c1 := putField (putField (cellRead s a) 120 1 (0 : BitVec 1)) 192 64 (0 : BitVec 64)
      let s1 := { s with heldRecs := s.heldRecs.erase h }.modQueue (cellQueue (cellRead s a)) (qReserve none [heldRecord (cellRead s a)])
      exec (.heldRecordMove c i) s = (if h.2.2 = true ∧ cellReady c1 = true then fireCell c i a c1 s1 else cellWrite s1 a c1).ends) ∧
    (let s1 := s.modTile t fun x => completeHalf s true (completeHalf s false x)
     exec (.imageLoadComplete t) s =
      (if (s1.tile t).status = .loading then startTiles (gangTiles s1 t) s1 else s1).ends) ∧
    (∀ bs, x.half0.st = .loading → x.half0.task = x.task.uid → x.half1.st ≠ .loading → Memory.wf x.imem = true →
      imageBytes s x.half0.owner x.half0.image = some bs → ∃ u, exec (.imageLoadComplete t) s = .next u ∧
        (u.tile t).half0 = { x.half0 with st := .active } ∧ (u.tile t).half1 = x.half1 ∧
        (∀ a, a < 0x10000 → memGet (u.tile t).imem a = bs.getD a 0) ∧
        ∀ a, 0x10000 ≤ a → memGet (u.tile t).imem a = memGet x.imem a) ∧
    (taskRuns x = true → x.sliceLen ≤ x.slice ∨ x.task.overrun = true →
      (sliceRival s t && resumeRoom s x.task) = true → exec (.sliceExpiry t) s = (preemptGang t s).ends) ∧
    (∀ m ∈ gangTiles s t, ((preemptGang t s).tile m).preempt = true ∧ ((preemptGang t s).tile m).task = (s.tile m).task) ∧
    (taskRuns x = true → x.sliceLen ≤ x.slice → (sliceRival s t && resumeRoom s x.task) = false →
      exec (.sliceExpiry t) s = (s.modTile t fun y => { y with slice := 0 }).ends) ∧
    (taskRuns x = true → x.task.overrun = false → x.task.declared < x.task.overCount → exec (.yieldOverrun t) s =
      (enterFault (tileDie t) (faultEntry (causeCode .yieldOverrun) x.task.ctx 3 (tileUnit t 0) (x.task.queue.setWidth 32) 0
        x.task.cmdseq s.timeNs) (s.modTaskAt t fun k => { k with overrun := true })).ends) ∧
    (preemptDue s t = true → atBoundary x = true → exec (.preemptionStop t) s =
      (preemptStop t (applyReleases t (fun _ => true) s)).ends) ∧
    (preemptDue s t = true → atBoundary x = true → gangTiles s t = [t] → (s.ctx x.task.ctx).saving = false →
      ∃ u k, exec (.preemptionStop t) s = .next u ∧ (u.tile t).status = .free ∧
        (u.queue x.task.queue).resume = (s.queue x.task.queue).resume ++ [⟨[(t, k)], x.task.declared, 0⟩] ∧
        k.uid = x.task.uid ∧ k.pc = x.task.pc ∧ k.s = x.task.s ∧ k.a = x.task.a ∧ k.p = x.task.p ∧ k.v = x.task.v ∧
        field k.yepc 0 18 = BitVec.ofNat 18 (x.task.pc.toNat / 4 * 4)) ∧
    (x.gangStop = true → x.task.mode = .task → x.status = .running → atBoundary x = true → exec (.gangStop t) s =
      (gangStopNow t (applyReleases t (fun _ => true) s)).ends) ∧
    (let u := gangStopNow t s
     (u.tile t).status = .stopped ∧ (u.tile t).gangStop = false ∧ (u.tile t).preempt = false ∧ (u.tile t).task.ycause = 0 ∧
      (u.tile t).task.ytval = 0 ∧ (u.tile t).task.pc = x.task.pc ∧ (u.tile t).task.s = x.task.s) ∧
    (x.finishing = none → ∀ k : ResClass, k ≠ .half →
      (∀ r ∈ x.resident, r.2 ≠ k ∨ (x.status ≠ .free ∧ r.1 = x.task.uid)) →
      exec (.classSaveComplete t k) s = (endDying (if x.claiming = some k then restoreForClaim t k s else s)).ends) ∧
    (∀ k : ResClass, x.claiming = some k → x.task.restore.contains k = true → (k = .core → coreSavable s x.task.uid = true) →
      savePoisoned s x.task k = false → let u := restoreForClaim t k s
      (u.tile t).task = { x.task with restore := x.task.restore.erase k } ∧ (u.tile t).claiming = none) ∧
    (x.finishing = none → ∀ (k : ResClass) r d, k ≠ .half → x.claiming = some k →
      (x.resident.find? fun r => r.2 == k && (x.status == .free || r.1 != x.task.uid)) = some r → uidCtx s r.1 = some d →
      exec (.classSaveComplete t k) s = (endDying (flushSaves d (saveForClaim t r s))).ends) ∧
    (x.finishing = none → x.claiming = some .half →
      exec (.classSaveComplete t .half) s = (endDying (claimServed t (evictHalf t (!x.cur) s))).ends) ∧
    (∀ k d, x.finishing = some (k, d) →
      exec (.classSaveComplete t k) s = (endDying (claimServed t (s.modTile t fun y => { y with finishing := none }))).ends) ∧
    (∀ h ts, tlEn e.v = true → e.tiles = [] → tlStart e.v ≤ s.timeNs + 1000 * tlLead e.v → timedHead s die n = some h →
      chooseTiles s (tlQueue e.v) (some n.toNat) true h = some ts →
      ∃ u, exec (.timedLaunchLead die n) s = .next u ∧ (u.timed die n).tiles = ts ∧
        ∀ m ∈ ts, (u.tile m).reservedFor = some n.toNat ∧ ((s.tile m).status ≠ .free → (u.tile m).preempt = true)) ∧
    (∀ h ts, tlEn e.v = true → tlStart e.v ≤ s.timeNs → timedHead s die n = some h → timedTiles s die n h = some ts →
      exec (.timedLaunchStart die n) s =
        (if (launchHead (tlQueue e.v) h ts s).2
         then timedDone die n (decide (s.timeNs > tlStart e.v))
           ((launchHead (tlQueue e.v) h ts s).1.tile (ts.headD 0)).task.gang (launchHead (tlQueue e.v) h ts s).1
         else (launchHead (tlQueue e.v) h ts s).1).ends) ∧
    (∀ late g, let v := ((timedDone die n late g s).timed die n).v
      bit v 71 = false ∧ bit v 84 = true ∧ bit v 85 = late ∧ field v 0 71 = field e.v 0 71 ∧
      ((timedDone die n late g s).timed die n).tiles = []) ∧
    exec (.timedLaunchDisarm die n) s =
      ((releaseTimed die n s).modTimed die n fun e => { e with v := putField e.v 71 1 (0 : BitVec 1) }).ends ∧
    (∃ u, exec (.contextSave c) s = (flushSaves c u).ends ∧ (u.ctx c).saving = true ∧
      ∀ m, (s.tile m).task.ctx = c → (s.tile m).status ≠ .free → (s.tile m).status ≠ .stopped → (u.tile m).preempt = true)

/-- The events that Kenval and the outside order against running work (R22, R140, R342, R356, R357, R361, R363, R367 to R370, R375,
R383). A resumed task goes on at its YEPC with its slice at 0, a discarded one frees its tile, a terminated context ends its stopped
task, a context LOST has its banks scrubbed, a parity error marks one class for its save. The model's own readings: no resume unless
the context is ACTIVE (log 120), when a discard is taken (log 58), what the watchdog and CTX_LOST entries name (log 56), the class in
which a parity error stands (log 64), and the first fault of a dump (log 106). -/
def Obligations.StopEventResults : Prop :=
  ∀ (s : State) (t : TileId) (c : CtxId) (skip : Bool) (id : Nat),
    let x := s.tile t
    (x.status = .stopped →
      (s.ctxActive x.task.ctx = true → exec (.kenvalResume t skip) s = (resumeStopped t skip s).ends) ∧
      (s.ctxActive x.task.ctx = true → x.task.halves = [] → isLoading x = false → bit x.task.yepc 21 = false →
        let u := resumeStopped t skip s
        (u.tile t).status = .running ∧ (u.tile t).slice = 0 ∧ (u.tile t).task.mode = .task ∧
        (u.tile t).task.pc = field x.task.yepc 0 18 ∧ field (u.tile t).task.ycause 0 8 = 0 ∧ (u.tile t).task.s = x.task.s ∧
        (u.tile t).task.skip = (if skip then [(field x.task.yepc 0 18, field x.task.yepc 18 3)] else []) ++ x.task.skip) ∧
      (s.ctxActive x.task.ctx = false → exec (.kenvalResume t skip) s = s.ends) ∧
      (x.task.gidx = 0 → commandsOver s (gangTiles s t) = true →
        ∃ u, exec (.kenvalDiscard t) s = .next u ∧ ∀ m ∈ gangTiles s t, (u.tile m).status = .free) ∧
      (x.task.gidx ≠ 0 → commandsOver s [t] = true →
        ∃ u, exec (.kenvalDiscard t) s = .next u ∧ (u.tile t).status = .free ∧ ∀ m, m ≠ t → u.tile m = s.tile m) ∧
      exec (.kenvalTerminate t) s = (endContext x.task.ctx 3 s).ends ∧ ((endContext x.task.ctx 3 s).tile t).status = .free ∧
      (endContext x.task.ctx 3 s).ctxState x.task.ctx = 3) ∧
    (x.status ≠ .stopped → exec (.kenvalResume t skip) s = s.ends ∧ exec (.kenvalDiscard t) s = s.ends ∧
      exec (.kenvalTerminate t) s = s.ends) ∧
    (x.status = .running →
      exec (.kenvalPreemptRequest t) s = (preemptGang t s).ends ∧
      (∃ u, exec (.debugStop t) s = .next u ∧ (u.tile t).task = { x.task with stopReq := true }) ∧
      (∃ u, exec (.stateParity t) s = .next u ∧ (u.tile t).parity = true ∧ (u.tile t).task = x.task ∧
        ∃ e ∈ (u.tile t).badClasses, e.2 = Config.parityClass s.freeCount) ∧
      (x.watchLimit ≤ x.watchdog * 10 / 21 → exec (.watchdog t) s =
        (endAfterSaves x.task.ctx (if saveUnderWay (watchdogEntry t s) x.task.ctx = true then
          (dropTask t (watchdogEntry t s)).modTile t fun y => { y with finishing := restoreLeft x }
          else watchdogEntry t s)).ends) ∧
      (x.watchdog * 10 / 21 < x.watchLimit → exec (.watchdog t) s = s.ends)) ∧
    (saveUnderWay s c = true → ((endAfterSaves c s).ctx c).dying = true ∧ (endAfterSaves c s).ctxState c = s.ctxState c) ∧
    (saveUnderWay s c = false → (endAfterSaves c s).ctxState c = 3) ∧
    (((stallTile s c).isSome = true ∨ orderStalled s c = true) → ∃ u, exec (.ctxLost c) s =
      (enterFault (lostDie s c) (faultEntry (causeCode .ctxLost) c 3 (unitId (lostDie s c) 0 0 0x61) 0 0 0 s.timeNs) u).ends ∧
      u = (ownedBanks (endContext c 4 s) c).foldl (fun s b => beginScrub b s) (endContext c 4 s) ∧ u.ctxState c = 4 ∧
      ∀ m ∈ ownedBanks (endContext c 4 s) c, u.scrubbing.contains m = true) ∧
    (∀ r, s.cmd? id = some r → ∃ u, exec (.watchCopyRelease id) s = .next u ∧
      (u.cmd? id).map (fun z => (z.watchHeld, z.reported, z.pos)) = some (false, [], r.pos) ∧
      (r.phase ≠ .running ∨ r.pos ≠ cmdTotal r ∨ histogramDue r = true →
        u.tiles = s.tiles ∧ (u.cmd? id).map (fun z => z.phase) = some r.phase) ∧
      (r.phase = .running → r.pos = cmdTotal r → histogramDue r = false →
        (u.cmd? id).map (fun z => z.phase) = some .stopping)) ∧
    ((s.ctx c).dump = none → s.ctxLive c = true → firstTrap s c = none → exec (.coreDump c) s = (queueDump 0 c none s).ends) ∧
    (∀ d e, (s.ctx c).dump = none → s.ctxLive c = true → firstTrap s c = some (d, e) →
      exec (.coreDump c) s = (queueDump d c (some e) s).ends) ∧
    (∀ d first, (queueDump d c first s).ctxState c = 2 ∧ ((queueDump d c first s).ctx c).saving = true ∧
      ((queueDump d c first s).ctx c).dump = some ⟨d, none, first, [], 0, none⟩ ∧
      ((queueDump d c first s).die d).dumps = (s.die d).dumps ++ [c]) ∧
    (∀ r, (s.ctx c).dump = some r → (s.die r.die).dumps.head? = some c → exec (.coreDump c) s = (dumpStep c r s).ends)

/-! ### Accesses in flight, commands, translation -/

/-- The events of a tile's units and of commands, each where it is due (R242 to R247, R264, R267, R268, R280, R281, R285, R286, R288,
R293, R305). A load and an atomic that perform at HBM4 write their register, a store and an atomic write their bytes, little-endian,
and no other byte of any memory; a store of class 1 or 2 is accepted by the egress and changes memory when its completion returns; a
command that completes gives its token its status and leaves the channel engine. A head never passes FILL (the model's reading, log
125). -/
def Obligations.UnitEventResults : Prop :=
  ∀ (s : State) (t : TileId) (h : BitVec 4) (id : Nat),
    let k := (s.tile t).task
    let steps (x : Handle) (b : Bool) : BitVec 32 := x.head + (if b = true ∧ x.fill ≠ x.head then 1 else 0)
    (∀ e, (k.headAdv.find? fun e => e.handle == h) = some e → earlierReadsOut s k e = false →
      let x := readH k h
      ∃ u, exec (.headAdvance t h) s = .next u ∧ (u.tile t).task.headAdv = k.headAdv.erase e ∧
        (readH (u.tile t).task h).fill = x.fill ∧ (readH (u.tile t).task h).res = x.res ∧
        (readH (u.tile t).task h).head = x.head + (if e.n.toNat ≤ (x.fill - x.head).toNat then e.n else x.fill - x.head)) ∧
    (∀ l, ((s.tile t).resident.find? fun e => e.2 == .matrix) = none → k.mat.load = some l → ∃ u, exec (.matrixLoadComplete t) s = .next u ∧ (u.tile t).task.mat.w = l.w ∧
      (u.tile t).task.mat.idx = l.idx ∧ (u.tile t).task.mat.mode = l.mode ∧ (u.tile t).task.mat.load = none ∧
      (readH (u.tile t).task l.handle).head = steps (readH k l.handle) l.adv) ∧
    (∀ f rest, ((s.tile t).resident.find? fun e => e.2 == .matrix) = none → k.mat.feeds = f :: rest →
      (f.at_ + 4 ≤ k.icyc → ∃ u, exec (.mfeedLanding t) s = .next u ∧
        (u.tile t).task.mat.rows = (k.mat.rows.map fun e => if e.num = f.next then { e with landed := true } else e) ∧
        (u.tile t).task.mat.feeds = (if f.left ≤ 1 then rest else { f with next := f.next + 1, left := f.left - 1 } :: rest) ∧
        (readH (u.tile t).task f.handle).head = steps (readH k f.handle) (decide (f.left ≤ 1) && f.adv)) ∧
      (k.icyc < f.at_ + 4 → ∃ u, exec (.mfeedLanding t) s = .next u ∧ u.tiles = s.tiles)) ∧
    (∀ e es, k.loadQ = e :: es → e.op ≠ .mark → exec (.scalarAccessPerform t .load) s = (performHead t .load s).ends) ∧
    (∀ e es l, k.loadQ = e :: es → e.op = .load → e.size ≠ 0 → e.size ≤ 8 → e.waits = false → e.rel = none → e.d ≠ 0 →
      translate s (.tile t) e.ctx e.va.toNat = some l → l.r = true → l.cls = 0 →
      let pa := leasePa l e.va.toNat
      homeWaits s l.cls pa e.size = false → poisonedRange s.hbmPoison pa e.size = false →
      let u := performHead t .load s
      (u.tile t).task.loadQ = es ∧ u.hbm = s.hbm ∧ u.sward = s.sward ∧
        (∀ i, i < 8 → field (readS (u.tile t).task e.d) (8 * i) 8 = if i < e.size then memGet s.hbm (pa + i) else 0) ∧
        ∀ r, r ≠ e.d → readS (u.tile t).task r = readS k r) ∧
    (∀ e es l o v c, k.loadQ = e :: es → e.op = .amo o v c → e.size = 8 → e.waits = false → e.rel = none → e.d ≠ 0 →
      (s.ctx e.ctx).recording = false → (s.ctx e.ctx).replaying = false →
      translate s (.tile t) e.ctx e.va.toNat = some l → l.r = true → l.w = true → l.at_ = true → l.snap = false → l.cls = 0 →
      let pa := leasePa l e.va.toNat
      homeWaits s l.cls pa 8 = false → poisonedRange s.hbmPoison pa 8 = false → Memory.wf s.hbm = true →
      let u := performHead t .load s
      let old : Word := BitVec.ofNat 64 (memReadLE s.hbm pa 8)
      let new : Word := match o with
        | .add => old + v | .and => old &&& v | .or => old ||| v | .xor => old ^^^ v
        | .min => if old.toInt < v.toInt then old else v
        | .max => if old.toInt < v.toInt then v else old
        | .swap => v
        | .cas => if old = c then v else old
      (u.tile t).task.loadQ = es ∧ readS (u.tile t).task e.d = old ∧ memReadLE u.hbm pa 8 = new.toNat ∧
        ∀ a, a < pa ∨ pa + 8 ≤ a → memGet u.hbm a = memGet s.hbm a) ∧
    (∀ e es, (s.tile t).storeQ = e :: es → e.op ≠ .mark → (s.tile t).sideLog = [] →
      exec (.scalarAccessPerform t .store) s = (performHead t .store s).ends) ∧
    (∀ e es v l, (s.tile t).storeQ = e :: es → (s.tile t).sideLog = [] → e.op = .store v → e.size ≠ 0 → e.waits = false →
      e.rel = none → translate s (.tile t) e.ctx e.va.toNat = some l → leaseGrants l (opKind e.op) = true →
      let pa := leasePa l e.va.toNat
      homeWaits s l.cls pa e.size = false → hostWaits (s.tile t) l.cls pa e.size = false →
      (l.cls = 0 → Memory.wf s.hbm = true →
        ∃ u, exec (.scalarAccessPerform t .store) s = .next u ∧ (u.tile t).storeQ = es ∧ u.sward = s.sward ∧
          u.hostMem = s.hostMem ∧ u.cxlMem = s.cxlMem ∧
          (∀ a, a < pa ∨ pa + e.size ≤ a → memGet u.hbm a = memGet s.hbm a) ∧
          ∀ i, i < e.size → memGet u.hbm (pa + i) = BitVec.ofNat 8 (v.toNat / 256 ^ i)) ∧
      (l.cls = 1 ∨ l.cls = 2 →
        ∃ u, exec (.scalarAccessPerform t .store) s = .next u ∧ (u.tile t).storeQ = es ∧ u.sward = s.sward ∧
          u.hbm = s.hbm ∧ u.hostMem = s.hostMem ∧ u.cxlMem = s.cxlMem ∧
          (u.tile t).hostPend = (s.tile t).hostPend ++ [⟨e, l.cls, pa, s.accepts⟩])) ∧
    exec (.scalarAccessPerform t .host) s = (hostComplete t 0 s).ends ∧
    (∀ w rest v, (s.tile t).hostPend = w :: rest → w.cls = 2 → w.e.op = .store v → homeWaits s w.cls w.pa w.e.size = false →
      (∀ x ∈ s.tiles, ∀ y ∈ x.hostPend, y.num < w.num → rangesOverlap y.cls y.pa y.e.size w.cls w.pa w.e.size = false) →
      Memory.wf s.hostMem = true →
      let u := hostComplete t 0 s
      (u.tile t).hostPend = rest ∧ u.hbm = s.hbm ∧ u.sward = s.sward ∧ u.cxlMem = s.cxlMem ∧
        (∀ a, a < w.pa ∨ w.pa + w.e.size ≤ a → memGet u.hostMem a = memGet s.hostMem a) ∧
        ∀ i, i < w.e.size → memGet u.hostMem (w.pa + i) = BitVec.ofNat 8 (v.toNat / 256 ^ i)) ∧
    (∀ i, exec (.scalarAccessPerform t (.hostAt i)) s = (hostComplete t i s).ends ∧
      exec (.scalarAccessPerform t (.loadAt i)) s = (performEarly t true i s).ends ∧
      exec (.scalarAccessPerform t (.storeAt i)) s = (performEarly t false i s).ends) ∧
    exec (.sideLogReplay t) s = (performHead t .log s).ends ∧ exec (.impreciseTrap t) s = (takeImprecise t s).ends ∧
    (∀ c, s.cmd? id = some c → c.phase = .waiting → ∀ c1, (acceptCmd c s).cmd? id = some c1 →
      exec (.commandStart id) s =
        (if startReady (acceptCmd c s) c1 then startCmd c1 (acceptCmd c s) else acceptCmd c s).ends) ∧
    (∀ c, s.cmd? id = some c → exec (.copyBeat id) s = (tidyPorts (copyBeat c s)).ends) ∧
    exec (.commandCompletion id) s = (completeCmd id s).ends ∧
    (∀ c, s.cmd? id = some c → c.phase = .stopping → awaits c = false → (∀ x ∈ s.cmds, x.id = id → x.watchHeld = false) → parArr c.par = false → c.kind ≠ 8 →
      let u := completeCmd id s
      u.cmd? id = none ∧ u.sward = s.sward ∧
      ∀ r m, c.kp = some r → tileOf s c.task = some m → (readK (taskOf s c.task) r).pend = true →
        (readK (taskOf s c.task) r).seq = c.seq →
        readK (u.tile m).task r = ⟨false, c.status, c.detail, c.seq⟩) ∧
    (s.cmd? id = none → exec (.commandStart id) s = s.ends ∧ exec (.copyBeat id) s = s.ends)

/-- The events of translation and paging (R275 to R282, R348 to R351): renewals and walks, leases that run out, a unit out of
step, and Kenval's replies. A walk that finds a leaf leaves its unit a lease that translates the address; one that finds none holds a
load, or moves a store to the side log; a malformed entry is an imprecise fault with its address, type and level. The model's own
readings: the UNIT and ADDR of MEM_EXHAUSTED and the dropping of held faults on MAPPED (log 103), and the unit that CLOCK_SKEW names
(log 126). -/
def Obligations.TranslationEventResults : Prop :=
  ∀ (s : State) (u : XUnit) (id : Nat) (ctx : CtxId) (va : Word) (k : AccessKind) (die : BitVec 1) (page : BitVec 32),
    (∀ c, s.cmd? id = some c → c.phase = .running →
      exec (.leaseRenewal id) s = (renewBeat c s).ends) ∧
    exec (.leaseExpiry u) s = (setUnitTlb u (dropExpired s) s).ends ∧
    exec (.clockSkew u) s = (enterFault (unitDie u) (faultEntry (causeCode .clockSkew) 0 3 (unitName u 0) 0 0 0 s.timeNs)
      (setUnitOut u true (setUnitTlb u (fun _ => []) s))).ends ∧
    exec (.backInStep u) s = (setUnitOut u false s).ends ∧
    (unitOut s u = true → exec (.pageWalk u ctx va k) s = s.ends) ∧
    (∀ t p e, unitOut s (.tile t) = false → tileNeeds s t ctx va k = some (p, e) →
      exec (.pageWalk (.tile t) ctx va k) s = (walkScalar t p e s).ends ∧
      let w := walkScalar t p e s
      (∀ v lev, walkChecked s e.ctx e.va.toNat = .leaf v lev →
        translate w (.tile t) e.ctx e.va.toNat = some (leaseOf s e.ctx e.va.toNat v lev)) ∧
      (∀ lev es, walkChecked s e.ctx e.va.toNat = .absent lev → p = .load → (s.tile t).task.loadQ = e :: es →
        (w.tile t).task.loadQ = { e with waits := true } :: es) ∧
      (∀ lev es, walkChecked s e.ctx e.va.toNat = .absent lev → p = .store → (s.tile t).storeQ = e :: es →
        (s.tile t).sideLog.length < 64 →
        (w.tile t).storeQ = es ∧ (w.tile t).sideLog = (s.tile t).sideLog ++ [{ e with waits := true }]) ∧
      (∀ lev, walkChecked s e.ctx e.va.toNat = .bad lev → (s.tile t).status ≠ .free → (s.tile t).task.uid = e.uid →
        (w.tile t).task.impFaults = (s.tile t).task.impFaults ++ [⟨0, 0x32, e.va, kindType (opKind e.op), BitVec.ofNat 3 lev, 0,
          if p = .load then some e.d else none⟩])) ∧
    (∀ c e lev, let l := leaseOf s c va.toNat e lev
      l.page = va.toNat / 2 ^ leafBits lev ∧ l.pa = pteAddr e ∧ l.cls = field e 5 3 ∧ l.r = bit e 1 ∧ l.w = bit e 2 ∧
      l.expiry = s.timeNs + [1000, 4000, 16000, 64000, 256000, 1000000, 4000000, 16000000].getD
        (Nat.min (field e 9 3).toNat (ctxLeaseCap (s.ctx c).desc).toNat) 0) ∧
    (∀ g c a, unitOut s (.gather g) = false → cmdNeeds s (.gather g) ctx va.toNat k = some (c, a) →
      exec (.pageWalk (.gather g) ctx va k) s = (walkCmd c a k s).ends) ∧
    (∀ p f a, unitOut s (.fabric p) = false → reqNeeds s p ctx va.toNat k = some (f, a) →
      exec (.pageWalk (.fabric p) ctx va k) s = (walkReq p f ctx a s).ends) ∧
    (∃ w, exec (.pagingReplyMapped die ctx page) s = .next w ∧
      field (w.die die).reply 0 6 = ctx ∧ field (w.die die).reply 16 32 = page ∧
      (w.die die).fqHeld = ((s.die die).fqHeld.filter fun e => !isPageFault ctx page e) ∧
      (∀ t, tileDie t = die → w.tile t = wakeTile ctx page (s.tile t)) ∧
      (∀ t, tileDie t ≠ die → w.tile t = s.tile t) ∧ w.sward = s.sward ∧ w.hbm = s.hbm) ∧
    (let v : Word := BitVec.ofNat 64 (packNat [(ctx.toNat, 6), (0, 2), (1, 1), (0, 7), (page.toNat, 32)])
     ∃ w, exec (.pagingReplyFail die ctx page) s =
      (enterFault die (faultEntry (causeCode .memExhausted) ctx 3 0x80 0 (page ++ (0 : BitVec 16)) 0 s.timeNs) w).ends ∧
      w.ctxState ctx = 3 ∧ ∀ t, w.tile t = abandonTile ctx ((endContext ctx 3 (s.modDie die fun d => { d with reply := v })).tile t))

/-- The fault queues (R347 to R350; D2D_LINK in die 0's queue with UNIT 0 is the model's reading, log 107): a PAGE_FAULT of a context and page already pending only counts in MERGE; another entry is
written whole at TAIL, which steps on, or is held at its source with OVF where 512 entries are pending. A header write
moves HEAD no further than TAIL, clears OVF where it writes one, and sets IE. -/
def Obligations.FaultQueueResults : Prop :=
  ∀ (s : State) (die : BitVec 1) (e : BitVec 256) (v : Word),
    let d := s.die die
    let t := (enterFault die e s).die die
    (∀ i, fqMergeIndex d e = some i →
      t.fqTail = d.fqTail ∧ t.fqHeld = d.fqHeld ∧ t.fqOvf = d.fqOvf ∧
      (field ((t.fqEntries.toList).getD i 0) 112 16).toNat =
        Nat.min 65535 ((field ((d.fqEntries.toList).getD i 0) 112 16).toNat + 1)) ∧
    (fqMergeIndex d e = none → (d.fqTail - d.fqHead).toNat < 512 →
      t.fqTail = d.fqTail + 1 ∧ t.fqHead = d.fqHead ∧ t.fqOvf = d.fqOvf ∧ t.fqHeld = d.fqHeld ∧
      (t.fqEntries.toList).getD (d.fqTail.toNat % 512) 0 = e ∧
      (∀ j, j ≠ d.fqTail.toNat % 512 → (t.fqEntries.toList).getD j 0 = (d.fqEntries.toList).getD j 0) ∧
      t.fqIrq = (d.fqIrq || (d.fqIe && decide (d.fqTail = d.fqHead)))) ∧
    (fqMergeIndex d e = none → 512 ≤ (d.fqTail - d.fqHead).toNat →
      t.fqTail = d.fqTail ∧ t.fqEntries = d.fqEntries ∧ t.fqOvf = true ∧ t.fqHeld = d.fqHeld ++ [e]) ∧
    (∃ u, exec (.faultQueueHeaderWrite die v) s = .next u ∧ (u.die die).fqTail = d.fqTail ∧
      (u.die die).fqEntries = d.fqEntries ∧ (u.die die).fqIe = bit v 32 ∧ (u.die die).fqOvf = (d.fqOvf && !bit v 31) ∧
      (u.die die).fqHead = (if (field v 0 10 - d.fqHead).toNat ≤ (d.fqTail - d.fqHead).toNat then field v 0 10 else d.fqHead)) ∧
    exec (.heldFaultEntry die) s = (s.modDie die enterHeld).ends ∧
    exec .d2dLink s = (enterFault 0 (faultEntry (causeCode .d2dLink) 0 3 0 0 0 0 s.timeNs) s).ends
/-! ### Ports, packets and the fabric -/

/-- The events of the ports and of the host window, each where it is due (R11, R67 to R70, R75, R76, R320, R330 to R332). The
model's own readings: any write of MODE brings back a port that is down (log 76), TIME_UNSYNC in die 0's queue with UNIT 0 (log 80),
and when an end refuses a lane swap (log 123). -/
def Obligations.PortEventResults : Prop :=
  ∀ (s : State) (p : BitVec 5) (v ts : Word) (bytes : List Byte) (offset : Int) (lane : BitVec 3) (addr : BitVec 20),
    let x := s.port p
    let swaps (w : Option (BitVec 3 × Word × Bool)) : State := s.modPort p fun y => { y with swap := w }
    (field v 0 2 ≠ 3 → ∃ u, exec (.portConfigWrite p v) s = .next u ∧ (u.port p).down = false ∧ (u.port p).mode = x.mode ∧
      (u.port p).newMode = (if field v 0 2 = x.mode then none else some (field v 0 2)) ∧ (u.port p).egress = x.egress) ∧
    (field v 0 2 = 3 → exec (.portConfigWrite p v) s = s.ends) ∧
    (∀ m, x.newMode = some m → bufRefs s (p.setWidth 6) = [] →
      exec (.portModeChange p) s = (x.egress.foldl (dropAt p) (s.modPort p (setMode m))).ends) ∧
    (bufRefs s (p.setWidth 6) ≠ [] → exec (.portModeChange p) s = s.ends) ∧
    (x.mode = 1 → x.down = false → x.newMode = none →
      exec (.ethernetFrameReceive p bytes) s = (tidyPorts (receiveEth p bytes s)).ends) ∧
    (x.mode = 2 → x.down = false → x.newMode = none →
      exec (.ethernetFrameReceive p bytes) s = (tidyPorts (count (p.setWidth 6) .rxbad s)).ends) ∧
    (x.mode = 2 → x.down = false → x.newMode = none →
      exec (.fabricFrameReceive p bytes) s = (tidyPorts (receiveYt p bytes s)).ends) ∧
    (x.mode = 2 → x.down = false → offBound offset = false → exec (.timesync p offset) s =
      ({ s with lastSync := s.timeNs, offsetSince := none, unsynced := false, slew := offset }).ends) ∧
    (x.mode = 2 → x.down = false → x.lastSync + 10000 ≤ s.timeNs → exec (.timesyncSend p) s =
      (sendLink p 0x30 (s.modPort p fun y => { y with lastSync := s.timeNs })).ends) ∧
    (s.unsynced = false → s.lastSync + 1000000 ≤ s.timeNs → exec .timeUnsync s =
      (enterFault 0 (faultEntry (causeCode .timeUnsync) 0 3 0 0 0 0 s.timeNs) { s with unsynced := true, slew := 0 }).ends) ∧
    (∀ l t, x.swap = some (l, t, false) → exec (.laneswap p l true t) s = (swaps (some (l, t, true))).ends ∧
      (lane ≠ l ∨ ts ≠ t → exec (.laneswap p lane true ts) s = (portFault p .laneDegraded (sendLink p 0x31 s)).ends) ∧
      exec (.laneswap p l false ts) s = (portFault p .laneDegraded (swaps none)).ends ∧
      (lane ≠ l → exec (.laneswap p lane false ts) s = s.ends)) ∧
    (∀ l t, x.swap = some (l, t, true) → exec (.laneswap p l true t) s = s.ends ∧
      (lane ≠ l ∨ ts ≠ t → exec (.laneswap p lane true ts) s = (portFault p .laneDegraded (sendLink p 0x31 s)).ends) ∧
      exec (.laneswap p lane false ts) s = s.ends) ∧
    (x.swap = none → exec (.laneswap p lane false ts) s = (portFault p .laneDegraded s).ends ∧
      (x.spareUsed = false →
        exec (.laneswap p lane true ts) s = (sendLink p 0x31 (swaps (some (lane, ts, true)))).ends) ∧
      (x.spareUsed = true → exec (.laneswap p lane true ts) s = (portFault p .laneDegraded (sendLink p 0x31 s)).ends)) ∧
    (x.mode ≠ 0 → x.swap = none → laneWeak x lane = true → x.spareUsed = true →
      exec (.laneWeak p lane) s = (portFault p .laneDegraded (sendLink p 0x31 s)).ends) ∧
    (x.mode ≠ 0 → x.swap = none → laneWeak x lane = true → x.spareUsed = false → ∃ ahead, exec (.laneWeak p lane) s =
      (sendLink p 0x31 (swaps (some (lane, BitVec.ofNat 64 (s.timeNs + 20000 + ahead), false)))).ends) ∧
    (∀ l t, x.swap = some (l, t, true) → t.toNat ≤ s.timeNs → exec (.laneSwapped p) s =
      (portFault p .laneSwapped (s.modPort p (spareIn l))).ends) ∧
    (x.mode ≠ 0 → x.down = false → exec (.linkDown p) s = (portFault p .linkDown (x.egress.foldl (resteer p)
      (s.modPort p fun y => { y with down := true, egress := [], swap := none }))).ends) ∧
    (∀ slot : BitVec 7, addr.toNat = 8192 * slot.toNat → bytes.length ≤ 8192 → bytes ≠ [] →
      exec (.hostIngressWrite addr bytes) s = (hostSlotWrite slot addr.toNat bytes s).ends) ∧
    (∀ (slot : BitVec 7) rest, s.hostOrder = slot :: rest →
      let taken : State := { s with hostOrder := rest, hostWin := memZero s.hostWin (8192 * slot.toNat) 8 }
      ((field (hostLength s slot) 0 13).toNat < 64 → exec .hostFrameTake s = (count 32 .hostbad taken).ends) ∧
      (∀ n, hostLength s slot = BitVec.ofNat 64 n → 64 ≤ n → n ≤ 8128 → exec .hostFrameTake s =
        (presentHost false (memRead s.hostWin (8192 * slot.toNat + 64) n) taken).ends)) ∧
    (∃ u, exec .serviceSlot s = .next u ∧ u.cycle % 128 = 0 ∧ u.pipes = s.pipes.map (serveFrame u.cycle)) ∧
    exec (.creditWaitDiscard p) s = (tidyPorts ((x.egress.filter (overdue s)).foldl
      (fun (s : State) f => count f.ref.port .drop s)
      (s.modPort p fun x => { x with egress := x.egress.filter fun f => !overdue s f }))).ends

/-- A packet's way through its pipeline (R11, R77 to R79, R86 to R93, R99, R107): the next frame enters the parser, in the cycle of a
service slot the oldest host frame first and none where a Kenval write has used it; the oldest packet at a stage begins its block at
the word that its selector gives, in the order of the pipelines, at stage 0 only once classified to a live context, or passes a
disabled entry, or goes on as a frame in transit; what has left stage 15 is disposed of; a payload operation lands its bytes or adds
its words, its cells count only where its check passes, and linked arrives wait for the earlier operations of their packet. -/
def Obligations.PacketEventResults : Prop :=
  ∀ (s : State) (p : BitVec 3) (stage eng : BitVec 4) (k : Packet),
    let x := s.pipe p
    let ready : Prop := payloadFull s (field p 2 1) = false ∧ x.parse = none ∧ x.run = none
    (∀ f, ready → toSlot s ≠ 0 → nextFrame x.waiting = some f →
      ∃ u, exec (.packetParse p) s = .next u ∧ u.focus = .parser p ∧ (u.pipe p).parse = some (startParse s f) ∧
        (u.pipe p).waiting = x.waiting.erase f) ∧
    (toSlot s = 0 → (∀ f ∈ x.waiting, f.service = false) →
      (x.served = some s.cycle → exec (.packetParse p) s = s.ends) ∧
      (∀ f, ready → x.served ≠ some s.cycle → (x.waiting.find? fun f => f.ref.port == 32) = some f →
        ∃ u, exec (.packetParse p) s = .next u ∧ u.focus = .parser p ∧
          (u.pipe p).parse = some (startParse s { f with service := true }) ∧ (u.pipe p).waiting = x.waiting.erase f ∧
          (u.pipe p).served = some s.cycle)) ∧
    (packetAt x stage.toNat = some k → (s.cluster (stageCluster p stage.toNat)).pay.length < payDepth →
      let u := inPipeOrder p s
      let l := classLookup u p k
      ((isTransit k || isEngineFrame k) = true → exec (.stageExecute p stage) s = (nextStage p k u).ends) ∧
      ((isTransit k || isEngineFrame k) = false → tablesScrub u p k.stage = true → exec (.stageExecute p stage) s = u.ends) ∧
      ((isTransit k || isEngineFrame k) = false → tablesScrub u p k.stage = false →
        (k.stage ≠ 0 → blockWaits u p k.stage k.ctx = false →
          exec (.stageExecute p stage) s = (beginBlock p k k.phv none u).ends) ∧
        (k.stage = 0 → classify u k l = none → exec (.stageExecute p stage) s = (dropPacket p k .noclass u).ends) ∧
        (∀ ctx, k.stage = 0 → classify u k l = some ctx → u.ctxLive ctx = false →
          exec (.stageExecute p stage) s = (dropPacket p k .noclass u).ends) ∧
        (∀ ctx, k.stage = 0 → classify u k l = some ctx → u.ctxLive ctx = true → blockWaits u p 0 ctx = false →
          ∃ q v, exec (.stageExecute p stage) s = (beginBlock p q k.phv l v).ends ∧
            q = { k with phv := setF k.phv 2 (0x8000 ||| ctx.setWidth 16) }))) ∧
    (∀ f l, s.ctxLive k.ctx = true →
      let e := stageEntry x k.stage k.ctx
      (seEn e = false → ∀ before after, x.pkts = before ++ k :: after → k ∉ before →
        ((beginBlock p k f l s).pipe p).pkts = before ++ { k with stage := k.stage + 1 } :: after) ∧
      (∀ ls, seEn e = true → stageLookups s p k.stage k.ctx f l e [0, 1, 2, 3] = .ok ls →
        ((seSeln e).toNat < (stageSelector ls).toNat → beginBlock p k f l s = actionFault p k .actArg 0 s) ∧
        ((stageSelector ls).toNat ≤ (seSeln e).toNat → (beginBlock p k f l s).focus = .stage p ∧
          ∃ r, ((beginBlock p k f l s).pipe p).run = some r ∧ r.pkt = k ∧ r.wk = k.phv ∧ r.ops = [] ∧ r.i = 0 ∧ r.n = 0 ∧
            r.fault = none ∧ r.base = seCode e + BitVec.ofNat 12 (16 * (stageSelector ls).toNat)))) ∧
    (packetAt x 16 = some k → isTransit k = true →
      exec (.packetDisposition p) s = (tidyPorts (disposeTransit p k (removePacket p k s))).ends) ∧
    (packetAt x 16 = some k → isTransit k = false → isEngineFrame k = false →
      exec (.packetDisposition p) s = (tidyPorts (dispose p k (removePacket p k s))).ends) ∧
    (packetAt x 16 = none → exec (.packetDisposition p) s = s.ends) ∧
    (bit (getF k.phv 8) 15 = false →
      dispose p k s = if bit (getF k.phv 9) 0 then s else count k.frame.ref.port .drop s) ∧
    (∀ q, bit (getF k.phv 8) 15 = true → dispositionPorts s k = [q] → k.frame.yt = false →
      (carries s false q = false → dispose p k s = count k.frame.ref.port .drop s) ∧
      (carries s false q = true → dispose p k s = toEgress q ⟨k.frame.ref, k.extracts.foldl (putExtract k.phv) k.frame.bytes, false,
        datelineTc (k.route.getD false) (field (getF k.phv 10) 0 3), false, false, k.route.map fun _ => p, 0⟩ s)) ∧
    (∀ o rest, (s.cluster eng).pay = o :: rest → payStalls s o = false →
      ((extentBanks o.dst o.bytes.length).any fun b => s.scrubbing.contains b) = false →
      let popped := payLand o (s.modCluster eng fun x => { x with pay := rest })
      let out : Out :=
        (tidyPorts (settleArrives (
          if o.op ≠ 0 ∧ poisonedRange s.swardPoison o.dst o.bytes.length = true then payFail eng o true popped
          else if o.yt = true ∧ (o.poison = true ∨ crc32c o.bytes ≠ o.e2e) then payFail eng o false popped
          else payCells o popped))).ends
      (o.op = 0 → exec (.payloadWrite eng) s = out) ∧ (o.op = 1 → exec (.payloadAddw eng) s = out) ∧
      (o.op = 2 → exec (.payloadAdds eng) s = out) ∧ (o.op = 3 → exec (.payloadAddf eng) s = out)) ∧
    (∀ o : PayOp, Memory.wf s.sward = true →
      let u := payLand o s
      (∀ a, a < o.dst ∨ o.dst + o.bytes.length ≤ a → memGet u.sward a = memGet s.sward a) ∧
      (o.op = 0 → ∀ i, i < o.bytes.length → memGet u.sward (o.dst + i) = o.bytes.getD i 0) ∧
      (o.op ≠ 0 → ∀ i, 4 * i + 4 ≤ o.bytes.length →
        let old : BitVec 32 := BitVec.ofNat 32 (memReadLE s.sward (o.dst + 4 * i) 4)
        let v : BitVec 32 := BitVec.ofNat 32 (leNat (bytesAt o.bytes (4 * i) 4))
        memReadLE u.sward (o.dst + 4 * i) 4 =
          (if s.swardPoison.contains ((o.dst + 4 * i) / 64) then old
          else if o.op = 1 then old + v
          else if o.op = 2 then BitVec.ofInt 32 (max (-2147483648) (min 2147483647 (old.toInt + v.toInt)))
          else addRne32 old v).toNat)) ∧
    ((s.cluster eng).pay = [] → exec (.payloadWrite eng) s = (tidyPorts (settleArrives s)).ends)

/-- The fabric (R277, R298 to R302, R319, R326 to R329): a request is served once its checks pass, a read with the bytes of its window,
a write and an atomic performed on them, an arrive at its cell, or it is refused with its DETAIL, or waits for a page, a scrub or the
egress; an answer to no request counts in LATECPL, one to a command that has stopped, or to a request that has timed out, is
discarded, any other is taken by its command once the replay log has room for it and its cell is under no scrub; a drain returns once
the requests accepted before it are done. That read data of a wrong length is REMOTE_DATA is the model's reading (log 94), and so is
what a drain waits for (log 102). -/
def Obligations.FabricEventResults : Prop :=
  ∀ (s : State) (p : BitVec 5) (id : Nat),
    let served (opc : BitVec 9) (e : Instr) : Prop := ∀ f ctx va, fabFirst s p opc = some f → f.checked = some (ctx, va) →
      exec e s = (tidyPorts (serveChecked p f ctx va s)).ends
    let refusedOr (opc : BitVec 9) (e : Instr) : Prop := ∀ f, fabFirst s p opc = some f → f.checked = none →
      (checkRequest p f s).2 = none → exec e s = (tidyPorts (checkRequest p f s).1).ends
    let clear (f : FabReq) (c : Cmd) : Prop := logFull s c.ctx (answerRecords f) = false ∧
      (parDlv c.par = true → cellScrubs s c.ctx (parCell c.par) = false)
    let late (opc : BitVec 9) (e : Instr) : Prop := ∀ f, fabFirst s p opc = some f →
      (answered s f = none → exec e s = (count f.frame.ref.port .latecpl (fabRemove p f s)).ends) ∧
      (∀ c r, answered s f = some (c, r) → clear f c → c.phase = .stopping ∨ r.late = true →
        exec e s = (settleReq p f c r s).ends) ∧
      (∀ c r, answered s f = some (c, r) → ¬ clear f c → exec e s = s.ends)
    let takes (opc : BitVec 9) (e : Instr) (how : FabReq → Cmd → RemoteReq → State → State) : Prop :=
      ∀ f c r, fabFirst s p opc = some f → answered s f = some (c, r) → clear f c →
        c.phase ≠ .stopping → r.late = false → exec e s = (tidyPorts (how f c r (settleReq p f c r s))).ends
    (served 1 (.readRequest p) ∧ served 2 (.writeRequest p) ∧ served 3 (.atomicRequest p) ∧ served 4 (.multicastWrite p) ∧
      served 5 (.remoteArrive p)) ∧
    (refusedOr 1 (.readRequest p) ∧ refusedOr 2 (.writeRequest p) ∧ refusedOr 3 (.atomicRequest p) ∧
      refusedOr 4 (.multicastWrite p) ∧ refusedOr 5 (.remoteArrive p)) ∧
    (∀ f ctx va,
      let o := ytOpc (reqHeader f)
      let u := serveChecked p f ctx va s
      let pages := fabPages s p ctx f (pageStarts va (reqLength f))
      (s.ctxLive ctx = false → u = fabRemove p f s) ∧
      (s.ctxLive ctx = true → o = 5 →
        let i : BitVec 16 := field (ytOffset (reqHeader f)) 0 16
        let op := CellOp.remoteArrive (leNat ((reqPayload f).take 8))
        (cellStalls s ctx i op = true → u = s) ∧
        (cellStalls s ctx i op = false → (cellOp ctx i op s).fault = none → u = answer p f 0x24 false [] (cellOp ctx i op s).st) ∧
        (∀ c, cellStalls s ctx i op = false → (cellOp ctx i op s).fault = some c →
          u = refuse p f (causeCode c) (cellFaultEntry ctx i c (portUnit p) 0 (cellOp ctx i op s).st))) ∧
      (s.ctxLive ctx = true → o ≠ 5 →
        (4096 < reqLength f → u = refuse p f 3 s) ∧
        (reqLength f ≤ 4096 → pages = .bad → u = refuse p f 4 s) ∧
        (reqLength f ≤ 4096 → pages = .hold → u = s) ∧
        (∀ l : Lease, reqLength f ≤ 4096 → pages = .ready → l.cls = 0 → Memory.wf s.hbm = true →
          (∀ i, i < (if o = 2 then (reqPayload f).length else reqLength f) →
            translate s (.fabric p) ctx (va + i) = some l ∧ leasePa l (va + i) < 2 ^ 60) →
          let at_ (i : Nat) : Nat := leasePa l (va + i)
          (o = 1 → u = answer p f 0x20 ((List.range (reqLength f)).any fun i => poisonedRange s.hbmPoison (at_ i) 1)
            ((List.range (reqLength f)).map fun i => memGet s.hbm (at_ i)) s) ∧
          (o = 2 → ∃ w, (∀ i, i < (reqPayload f).length → memGet w.hbm (at_ i) = (reqPayload f).getD i 0) ∧
            (∀ a, (∀ i, i < (reqPayload f).length → a ≠ at_ i) → memGet w.hbm a = memGet s.hbm a) ∧ w.sward = s.sward ∧
            u = if ytPoison (reqHeader f) = true ∨ crc32c (reqPayload f) ≠ ytE2e (reqHeader f) then refuse p f 7 w
              else answer p f 0x21 false [] w) ∧
          (o = 3 → (∀ i, i < 8 → poisonedRange s.hbmPoison (at_ i) 1 = false) →
            let old : Word := BitVec.ofNat 64 (leNat ((List.range 8).map fun i => memGet s.hbm (at_ i)))
            ∃ w, u = answer p f 0x22 false (leBytes 8 old.toNat) w ∧ w.sward = s.sward ∧
              (∀ a, (∀ i, i < 8 → a ≠ at_ i) → memGet w.hbm a = memGet s.hbm a) ∧
              BitVec.ofNat 64 (leNat ((List.range 8).map fun i => memGet w.hbm (at_ i))) =
                (amoNew (reqOp f) old (reqWord f 2) (reqWord f 1)).getD old)))) ∧
    (late 0x20 (.readData p) ∧ late 0x21 (.writeAcknowledgement p) ∧ late 0x22 (.atomicResult p) ∧
      late 0x23 (.multicastMemberAcknowledgement p) ∧ late 0x24 (.arriveAcknowledgement p) ∧ late 0x28 (.refusal p)) ∧
    takes 0x20 (.readData p) (fun f c r t =>
      if dataGood f r = false then stopCmd c (causeCode .remoteData) 0 0 3 t
      else if c.kind = 5 then takeRead f c r t else takeCopied f c t) ∧
    takes 0x21 (.writeAcknowledgement p) (fun _ c r t =>
      if c.kind = 1 then tryEnd c.id (progress c r.len t) else tryEndRemote c.id t) ∧
    (∀ f c r, fabFirst s p 0x22 = some f → answered s f = some (c, r) → clear f c →
      c.phase ≠ .stopping → r.late = false → dataGood f r = false → exec (.atomicResult p) s = (tidyPorts (stopCmd c (causeCode .remoteData) 0 0 3 (settleReq p f c r s))).ends) ∧
    (∀ f c r s1, fabFirst s p 0x22 = some f → answered s f = some (c, r) → clear f c →
      c.phase ≠ .stopping → r.late = false → dataGood f r = true →
      let a := cmdSga c (parLaddr c.par)
      admitBanks (cmdAccessor c) (extentBanks a 8) s = some s1 →
      let l := recordValue c.ctx (cmdLogOwner c (taskOf s c.task) 0) (BitVec.ofNat 64 (leNat (reqPayload f))) (settleReq p f c r s1)
      exec (.atomicResult p) s = (tidyPorts (tryEndRemote c.id
        (watchCmd c true [(a, 8)] (l.1.swardWrite a (leBytes 8 l.2.toNat))))).ends) ∧
    takes 0x23 (.multicastMemberAcknowledgement p) (fun _ c _ t =>
      tryEndRemote c.id (modCmd c.id (fun x => { x with done_ := x.done_ + 1 }) t)) ∧
    takes 0x24 (.arriveAcknowledgement p) (fun _ c _ t => tryEndRemote c.id t) ∧
    takes 0x28 (.refusal p) (fun f c r t =>
      if c.kind = 8 then tryEndRemote c.id (failMember c r t)
      else stopCmd c (causeCode .remoteRefused) (field (ytOffset (reqHeader f)) 0 8) 0 3 t) ∧
    (∀ c, s.cmd? id = some c → exec (.remoteTimeout id) s = (tryEndRemote id
      ((c.reqs.filter fun r => !r.late && decide (r.sent + s.remoteTimeout ≤ s.timeNs)).foldl (timeoutReq c) s)).ends) ∧
    (let isOver := s.ports.all fun x => x.fab.all fun f => !f.drains
     s.draining = true → exec .fabricDrain s = ({ s with drained := isOver, draining := !isOver }).ends) ∧
    (s.draining = false → ∃ u, exec .fabricDrain s = .next u ∧ u.draining = !u.drained ∧
      u.drained = (s.ports.all fun x => x.fab.all fun f => !isRequest (ytOpc (reqHeader f)))) ∧
    (let n := s.hostDrain.getD s.accepts
     let isOver := s.tiles.all fun x => x.hostPend.all fun w => decide (n ≤ w.num)
     exec .hostLinkDrain s = ({ s with drained := isOver, hostDrain := if isOver then none else some n }).ends)

/-! ### What Kenval writes and orders -/

/-- The writes of Kenval's windows (R20 to R22, R80 to R86, R102, R106, R110, R124, R141, R159, R262, R317): a value that its rule
allows is taken, with the measurement that goes with it; any other is refused and changes nothing but the window's error. The model's
own readings: refusals that only set the window's error (log 109), writes in service slots (log 131), the bits of a bank word that
Kenval's write keeps (log 60), refusals of an entry (log 84), maps of both dies (log 83), a descriptor that says FREE (log 114), and
a lookup table's ESZ (log 146). -/
def Obligations.WindowWriteResults : Prop :=
  ∀ (s : State) (p : BitVec 3) (die : BitVec 1) (i : BitVec 6) (c : CtxId) (q : BitVec 7) (b : BitVec 11) (stage map : BitVec 4)
    (base : BitVec 12) (dst : BitVec 10) (d : BitVec 128) (v32 : BitVec 32) (e : BitVec 320) (v : BitVec 512)
    (slot : Option (BitVec 24)) (words : List (BitVec 32)) (es : List (BitVec 16)),
    let refused : Out := ({ s with winErr := true }).ends
    (classDescOk s p d = true → exec (.classificationDescriptorWrite p d) s = (s.modPipe p fun x => { x with cls := d }).ends) ∧
    (classDescOk s p d = false → exec (.classificationDescriptorWrite p d) s = refused) ∧
    (tableDescOk d = true → ∃ u, exec (.tableDescriptorWrite die i d) s = .next u ∧ u.table die i = d ∧
      (∀ j, j ≠ i → u.table die j = s.table die j) ∧ u.sward = s.sward) ∧
    (tableDescOk d = false → exec (.tableDescriptorWrite die i d) s = refused) ∧
    (let t := s.table die i
     let n := match slot with | some k => k.toNat + 1 | none => 0
     (tblKind t ≠ 3 → n ≤ tblEntn t →
       let u := (inService (diePipes die) s).swardWrite (tblBase t + 64 * n) (leBytes 64 v.toNat)
       (s.scrubbing.contains (sgaBank (tblBase t + 64 * n)) = true → exec (.tableEntryWrite die i slot v) s = s.ends) ∧
       (s.scrubbing.contains (sgaBank (tblBase t + 64 * n)) = false → exec (.tableEntryWrite die i slot v) s =
         (match slot with | some k => u.modDie die (latestPrefix i k.toNat) | none => u).ends)) ∧
     (tblKind t = 3 ∨ tblEntn t < n → exec (.tableEntryWrite die i slot v) s = refused)) ∧
    (stageEntryOk s p stage c e = true → ∃ u, exec (.stageEntryWrite p stage c e) s =
      (extend 5 6 c (leBytes 40 e.toNat) u).ends ∧
      u = s.modPipe p fun x => { x with entries := smSet 0 x.entries (64 * stage.toNat + c.toNat) e }) ∧
    (stageEntryOk s p stage c e = false → exec (.stageEntryWrite p stage c e) s = refused) ∧
    (words.length ≤ 512 → words.all (parserWordOk (statesOf words.length)) = true → exec (.parserProgramLoad p words) s =
      (extend 4 5 0 (wordBytes words) (s.modPipe p fun x =>
        { x with pmem := storeWords 0 words [], pstates := statesOf words.length })).ends) ∧
    (base.toNat + words.length ≤ 4096 → (∀ w ∈ words, (decodeAC w).isSome = true) →
      exec (.actionCodeLoad p stage base words) s = (extend 5 6 0 (wordBytes words) (s.modPipe p fun x =>
        { x with amem := storeWords (4096 * stage.toNat + base.toNat) words x.amem })).ends) ∧
    (map ≠ 0 → es.length = 1024 → es.all entryOk = true → ∃ u, exec (.decodeMapWrite map es) s =
      (extend 3 4 0 (BitVec.ofNat 8 map.toNat :: es.flatMap fun x => leBytes 2 x.toNat) u).ends ∧
      ∀ y, (u.die y).maps = (s.die y).maps.setIfInBounds (map.toNat - 1) es) ∧
    (field v32 25 7 = 0 → exec (.routingEntryWrite p dst v32) s =
      ((inService [p] s).modPipe p fun x => { x with routes := smSet 0 x.routes dst.toNat v32 }).ends) ∧
    (ctxDescOk v = true →
      let st : BitVec 3 := field v 0 3
      let s1 := if st = 1 ∨ st = 2 then s else endContext c st s
      let s2 := if st = 1 ∧ s.ctxActive c = true then s1 else stopHolding c s1
      exec (.contextDescriptorWrite c v) s = (s2.modCtx c fun x => { x with desc := v }).ends) ∧
    (ctxDescOk v = false → exec (.contextDescriptorWrite c v) s = refused) ∧
    (queueDescOk d = true → ∃ u, exec (.queueDescriptorWrite q d) s = .next u ∧
      (u.queue q).desc = putField d 64 37 (0 : BitVec 37) ∧ ∀ y, ∀ e ∈ (u.die y).reserving, e.1 ≠ q) ∧
    (queueDescOk d = false → exec (.queueDescriptorWrite q d) s = refused) ∧
    (let w := s.bank b.toNat
     let new := putField (putField v32 8 18 (field w 8 18)) 26 6 (0 : BitVec 6)
     (bankOwner w = bankOwner v32 → exec (.bankOwnerWrite b v32) s = (s.setBank b.toNat new).ends) ∧
     (bankOwner w ≠ bankOwner v32 → exec (.bankOwnerWrite b v32) s = (beginScrub b.toNat (s.setBank b.toNat new)).ends)) ∧
    (s.scrubbing.contains b.toNat = true → Memory.wf s.sward = true → ∃ u, exec (.bankScrubComplete b) s = .next u ∧
      (∀ a, b.toNat * 2 ^ 18 ≤ a → a < (b.toNat + 1) * 2 ^ 18 → memGet u.sward a = 0) ∧
      (∀ a, a < b.toNat * 2 ^ 18 ∨ (b.toNat + 1) * 2 ^ 18 ≤ a → memGet u.sward a = memGet s.sward a) ∧
      ∀ l ∈ u.swardPoison, l ∈ s.swardPoison ∧ l / 4096 ≠ b.toNat)

/-- Kenval's registers and orders and the device's own events (R20, R347, R361, R377 to R386, R409): a register write takes its value,
except at an address with nothing behind it, and waits for a scrub of its bank; a core's load takes the bytes at its address;
measurements extend; a cold reset brings the device to its reset state and measures the boot firmware; throttling, capping and
power-off take their bits, and THERMAL halts every context. The model's own readings: what a cold reset keeps (log 108), the stop at a
hole (log 113), the sample period (log 132), and the sizes of Kenval's loads and stores (log 143). -/
def Obligations.ManagementResults : Prop :=
  ∀ (s : State) (r : KReg) (t : TileId) (reg : BitVec 4) (ty : BitVec 8) (bytes : List Byte) (nonce : BitVec 512) (die : BitVec 1)
    (on : Bool),
    (windowHole r = none → scrubHolds r s = false → exec (.kenvalRegisterWrite r) s = (kenvalWrite r s).ends) ∧
    (windowHole r = none → scrubHolds r s = true → exec (.kenvalRegisterWrite r) s = s.ends) ∧
    (∀ f, windowHole r = some f → exec (.kenvalRegisterWrite r) s = .fault f) ∧
    (∀ a (bs : List Byte), a.toNat + bs.length ≤ 2 ^ 29 → ((extentBanks a.toNat bs.length).any s.scrubbing.contains) = false →
      exec (.kenvalRegisterWrite (.sward a bs)) s = (s.swardWrite a.toNat bs).ends) ∧
    (∀ (c : BitVec 2) (rd : BitVec 5) (i : Nat), i < 512 → rd ≠ 0 →
      let at_ (o : Nat) : BitVec 52 := BitVec.ofNat 52 (8589934592 + 4294967296 * die.toNat + o)
      let x (u : State) : Word := (u.kenval[c.toNat]'c.isLt).x[rd.toNat]'rd.isLt
      (∀ w, w < 4 → ∃ u, exec (.kenvalRegisterWrite (.load c rd (at_ (32 * i + 8 * w)) .d)) s = .next u ∧
        x u = field ((s.die die).fqEntries.toList.getD i 0) (64 * w) 64) ∧
      (∃ u, exec (.kenvalRegisterWrite (.load c rd (at_ 0x4000) .d)) s = .next u ∧ x u = readHeader (s.die die)) ∧
      (∃ u, exec (.kenvalRegisterWrite (.load c rd (at_ 0x4010) .d)) s = .next u ∧ x u = (s.die die).reply) ∧
      ∀ v : Word, exec (.kenvalRegisterWrite (.store (at_ 0x4000) (leBytes 8 v.toNat))) s = (writeHeader die v s).ends ∧
        exec (.kenvalRegisterWrite (.store (at_ 0x4010) (leBytes 8 v.toNat))) s = (writeReply die v s).ends) ∧
    (let ctl := (s.die (tileDie t)).traceCtl
     let n := (field ctl 8 5).toNat
     bit ctl 0 = true → 10 ≤ n → n ≤ 24 → (s.tile t).sampleFrom + 2 ^ n ≤ (s.tile t).ic →
      exec (.traceSample t) s = (s.modTile t fun x => { x with sampleFrom := x.ic, sampleDue := true }).ends) ∧
    ((8 ≤ reg.toNat ∧ 0x80 ≤ ty.toNat) ∨ (reg = 1 ∧ ty = 2) →
      exec (.measurementExtend reg ty bytes) s = (extend reg.toFin ty 0 bytes s).ends) ∧
    exec (.attestationReport nonce) s =
      ({ s with out := s.out ++ [Output.report (reportBody nonce s ++ signReport (reportBody nonce s))] }).ends ∧
    exec .coldReset s = (extend 0 1 0 Config.bootFirmware { State.reset with
      hostMem := s.hostMem, cxlMem := s.cxlMem, out := s.out, sched := s.sched, freeCount := s.freeCount }).ends ∧
    (∃ u, exec (.thermalThrottle die on) s = .next u ∧ (u.die die).throttle = on ∧ u.tiles = s.tiles) ∧
    (∃ u, exec (.powerCap die on) s = .next u ∧ (u.die die).powerHeld = on ∧ u.tiles = s.tiles) ∧
    (∃ u, exec (.thermal die) s = .next u ∧ u.thermalStat = true ∧ ∀ c : CtxId,
      u.ctxState c = 2 ∧ (u.ctx c).desc.extractLsb' 3 509 = (s.ctx c).desc.extractLsb' 3 509) ∧
    exec .thermalPowerOff s = ({ s with poweredOff := true }).ends
/-! ### Encoding -/

/-- Words written out from the spec's encodings (R100, R109, R153, R161 to R166) decode, each in its space, to what they
stand for. -/
def Obligations.WrittenWordsDecode : Prop :=
  let tile (w : BitVec 32) : Option Instr := (decodeSlot w).toOption
  tile 0x8000F280 = some (.add 15 10 0) ∧ tile 0x85009FFB = some (.movi 9 (-5)) ∧
  tile 0x86403105 = some (.cmplt 3 4 5) ∧ tile 0x900FFFFE = some (.br (-2)) ∧ tile 0x90C00003 = some (.nopn 3) ∧
  tile 0x91200003 = some (.trap 3) ∧ tile 0x91000000 = some .endTask ∧ tile 0x9260A040 = some (.ldG .d 10 1 0) ∧
  tile 0x92E07140 = some (.stG .d 7 5 0) ∧ tile 0x94000000 = some .qmark ∧ tile 0x94200003 = some (.fence .pkg) ∧
  tile 0x99000053 = some (.relb 3 5) ∧ tile 0x99205100 = some (.arrive 5 4) ∧ tile 0x99800107 = some (.expect 0 4 7) ∧
  tile 0x99606101 = some (.waitc 6 4 .clus) ∧ tile 0xB88050C1 = some (.vld 5 3 1) ∧
  tile 0xC3308187 = some (.vfmaF .f32 .rz 8 6 7) ∧ tile 0xD0800500 = some (.mpush 20) ∧
  tile 0xF020028B = some (.cset 0 10 11) ∧ tile 0xF020130D = some (.cset 1 12 13) ∧
  tile 0xF0823840 = some (.cpy (some 3) (some 1) none) ∧ tile 0xF0623000 = some (.cwait (some 3) none none) ∧
  decodeP 0x14000C00 = some (.pExt 32 0 6 false) ∧ decodeP 0x64C0FFFF = some (.pKey 38 0xFFFF) ∧
  decodeP 0x4000000E = some (.pAdv 14) ∧ decodeP 0x90000000 = some (.pPayld 0) ∧
  decodeP 0xA0000000 = some (.pEnd false) ∧
  decodeAC 0x80600001 = some (.acLdd 12 0 0 1) ∧ decodeAC 0x6400E002 = some (.acSkipnz 14 2) ∧
  decodeAC 0xC4692000 = some (.acAdmit 13 9) ∧ decodeAC 0x40600010 = some (.acMovi 12 16) ∧
  decodeAC 0xC0608001 = some (.acPayAddw 12 4 0 false false) ∧
  decodeAC 0xC060834A = some (.acPayAdds 12 4 13 false true)

/-- Decoding reads what encoding writes: every encoding of a well-formed instruction, under either stop bit and any predicate,
is read as that instruction in its own space, with every operand at every value (R100, R108, R153, R154). -/
def Obligations.DecodingReadsEncoding : Prop :=
  ∀ (i : Instr) (stop : Bool) (p : BitVec 3) (w : BitVec 32), i.wf = true → encode stop p i = some w →
    match encodeFields p i with
    | some f => decodeSlot w = .ok i ∧ slotStop w = stop ∧ splitWord w = f
    | none => decodeP w = some i ∨ decodeAC w = some i

/-- Encoding writes what decoding reads: a slot's word that is read as an instruction is the one encoding of it under its stop
bit and predicate, so that no bit of a word is dropped (R153, R154). -/
def Obligations.EncodingReadsDecoding : Prop :=
  (∀ (w : BitVec 32) (i : Instr), decodeSlot w = .ok i → i.wf = true ∧ encode (slotStop w) (field w 18 3) i = some w) ∧
  (∀ (w : BitVec 32) (i : Instr) (stop : Bool) (p : BitVec 3), decodeP w = some i ∨ decodeAC w = some i →
    i.wf = true ∧ encode stop p i = some w)

/-! ### The step -/

/-- A step runs the decoded instruction: the word of a parse (R102) or of a block (R107, R111), an event of the schedule, and, on
a tile whose next bundle issues, the sole slot of the bundle at the PC (R153, R156, R168). That a step is one turn of the
schedule, and where in the order of a cycle an event stands, is the model's choice (log 1). Around the slot the step sets NPC,
counts the bundle, notes the classes that the slot claimed (R139), and on completion ends its issue cycle; a slot that
freezes leaves the cycle of its wait (R176), and one that traps leaves what the trap wrote, the bundle uncounted. Of several
slots each executes where those before it have completed: the order, and that the first which traps or freezes decides, is
the model's choice (log 140). -/
def Obligations.StepRunsInstruction : Prop :=
  (∀ (s : State) (p : BitVec 3) (i : Instr),
    (s.focus = .parser p → pForm (parserWord p s) = some i → step s = exec i s) ∧
    (s.focus = .stage p → acForm (stageWord p s) = some i → step s = exec i s)) ∧
  (∀ (s : State) (i : Instr) (ts : List Turn), s.focus = .idle → s.sched = .event i :: ts →
    encode true 0 i = none → s.poweredOff = false →
    let s1 : State := { s with sched := ts }
    step s = exec i (inPhase (turnPhase s1 i) s1)) ∧
  (∀ (s : State) (t : TileId) (ts : List Turn) (i : Instr) (e : Nat), s.focus = .idle → s.sched = .tile t :: ts →
    s.poweredOff = false →
    let s1 : State := { s with sched := ts }
    let s0 := s1.onTurn t
    let leaves (u : State) : Prop := step s = freedPhase t s1 (.next u)
    let w := fetchWord s0.me s0.tk.pc 0
    let x := soleSlot w e i
    s0.issues → (fetchRange s0.me).1 ≤ s0.tk.pc.toNat → s0.tk.pc.toNat + 4 ≤ (fetchRange s0.me).2 →
    slotStop w = true → tileMap s0.me = none → decodeSlot w = .ok i →
    modeRefuses s0.tk.mode (splitWord w).opc = false → targetFails s0.me s0.tk.pc i = none →
    slotEngine 0 (opClass (splitWord w).opc) = some e → swpFails s0.tk s0.tk.pc [x] = none →
    (∀ s', exec i (s0.atBundle x 1) = .next s' →
      (s'.sig = .done →
        leaves (afterIssue t s0.tk
          { completeBundle (lateLimit (recordTact s0.tk.gang (noteTouched [x] s0.tk s'))) with sig := .done })) ∧
      (s'.sig = .closed → leaves (afterIssue t s0.tk (recordTact s0.tk.gang (noteTouched [x] s0.tk s')))) ∧
      (∀ y, s'.sig = .frozen y → leaves { waitCycle y s0 with sig := .frozen y }) ∧
      (∀ c v, s'.sig = .trapped c v → s'.slot = 0 → leaves (uncount s0 s')))) ∧
  (∀ (s s' : State) (x : SlotIns) (xs : List SlotIns), exec x.ins (atSlot x s) = .next s' →
    runSlots (x :: xs) s = if s'.sig = .done then runSlots xs s' else .next s')

/-! ### Reset and invariants -/

/-- What reset leaves (R386, R67, R134): no context is live, no tile runs, every port is off, the parsers and stages hold nothing,
and P0 and S0 of every task read as the spec fixes them. That no memory lists a byte, so that each reads as what the model
names, is the model's choice (logs 5 and 6). -/
def Obligations.ResetState : Prop :=
  let r := State.reset
  r.memoryWf = true ∧ r.kenvalTables.wf = true ∧ r.sward = [] ∧ r.hbm = [] ∧ r.hostMem = [] ∧ r.cxlMem = [] ∧
  r.hostWin = [] ∧ r.kenvalSram = [] ∧ r.focus = .idle ∧ r.sched = [] ∧
  (∀ c : CtxId, r.ctxLive c = false) ∧ (∀ t : TileId, (r.tile t).status = .free ∧ (r.tile t).imem = []) ∧
  (∀ p : BitVec 5, (r.port p).mode = 0) ∧
  (∀ p : BitVec 3, (r.pipe p).parse = none ∧ (r.pipe p).run = none ∧ (r.pipe p).waiting = [] ∧ (r.pipe p).pkts = []) ∧
  (∀ t : TileId, readS (r.tile t).task 0 = 0 ∧ readP (r.tile t).task 0 = true)

/-- Every step keeps every memory of the package in canonical form: addresses strictly rising, and no byte listed that reads as an
unlisted one. The form is the model's choice (log 6): no rule of the spec speaks of it. -/
def Obligations.MemoryStaysCanonical : Prop :=
  ∀ s t : State, s.memoryWf = true → step s = .next t → t.memoryWf = true

/-! ### Issue, landing, predicates -/

/-- Predicates and the scoreboard (R153, R178, R179): a slot whose predicate is false has no effect, for every tile slot but those
that take none and the branches, which resolve; every slot that reads or writes an S register with a load still to land
freezes, whatever else it does, and a frozen cycle changes no register, lands no write and counts no issue cycle (R176).
Where the load is held by the branch shadow in which the slot stands, the freeze is an empty issue cycle, which is the
model's choice (log 47). -/
def Obligations.PredicatesAndInterlocks : Prop :=
  (∀ (s : State) (i : Instr), (encodeFields 0 i).isSome = true → heedsNoPredicate i = false → s.guard = false →
    exec i s = s.ends) ∧
  (∀ (s : State) (i : Instr), s.guard = true → (scalarOperands i).any (scoreboarded s.tk) = true →
    exec i s = .next { frozenCycle s with sig := .frozen (scoreWhy s.tk (scalarOperands i)) }) ∧
  (∀ (k : Task) (regs : List (BitVec 6)), regs.any (scoreboarded k) = true →
    (scoreWhy k regs = .scoreboard ↔ regs.any (loadOut k) = true) ∧
    (scoreWhy k regs = .shadow ↔ regs.any (loadOut k) = false ∧ regs.any (loadHeld k) = true)) ∧
  (∀ s : State, waitCycle .scoreboard s = frozenCycle s ∧ waitCycle .shadow s = emptyCycle s) ∧
  (∀ s : State, let t := frozenCycle s
    t.tk.s = s.tk.s ∧ t.tk.a = s.tk.a ∧ t.tk.p = s.tk.p ∧ t.tk.v = s.tk.v ∧ t.tk.pend = s.tk.pend ∧ t.tk.pc = s.tk.pc ∧
      t.me.ic = s.me.ic ∧ t.sward = s.sward)

/-- Landing (R177, R173): the writes of issue cycle c land in it and no others; of several to one S, A, P, LC or V register or
spill doubleword the one from the later slot stands, S0 and P0 take none, and P4 to P7 none while a `LOOP.SWP` is active
(R179); a matrix row commits to what its V register held before the cycle (R177, R250). YFFLAGS takes the last write of an
`SWR` and ORs the flags that land with it (R44, R208), YMOVF the overflows of the rows (R57). An exposed write takes its
place after those of the slots before it. -/
def Obligations.LandingOrder : Prop :=
  (∀ (k : Task) (c : Nat) (r : BitVec 6), r ≠ 0 →
    readS (landCycle c k) r =
      (k.lastDue c fun | .sreg q v => if q = r then some v else none | _ => none).getD (readS k r)) ∧
  (∀ (k : Task) (c : Nat) (r : BitVec 5),
    readA (landCycle c k) r =
      (k.lastDue c fun | .areg q v => if q = r then some v else none | _ => none).getD (readA k r)) ∧
  (∀ (k : Task) (c : Nat) (r : BitVec 3), r ≠ 0 →
    readP (landCycle c k) r =
      if r.toNat ≥ 4 ∧ swpActive k = true then readP k r
      else (k.lastDue c fun | .preg q v => if q = r then some v else none | _ => none).getD (readP k r)) ∧
  (∀ (k : Task) (c : Nat) (r : BitVec 2),
    readLC (landCycle c k) r =
      (k.lastDue c fun | .lcreg q v => if q = r then some v else none | _ => none).getD (readLC k r)) ∧
  (∀ (k : Task) (c : Nat) (r : BitVec 6),
    physReadV (landCycle c k) r =
      (k.lastDue c fun
        | .vreg q v => if q = r then some v else none
        | .row q mac wlo whi adds => if q = r then some (rowCommit mac wlo whi adds (physReadV k r)).1 else none
        | _ => none).getD (physReadV k r)) ∧
  (∀ (k : Task) (c : Nat) (i : BitVec 10), smWf 0 0 k.spill = true →
    readSpill (landCycle c k) i =
      (k.lastDue c fun | .spill q v => if q = i then some v else none | _ => none).getD (readSpill k i)) ∧
  (∀ (k : Task) (c j : Nat),
    (landCycle c k).fflags.getLsbD j =
      (((k.lastDue c fun | .yreg y v => if y = 0x000 then some (v &&& 0x11F) else none | _ => none).getD k.fflags).getLsbD j
        || k.anyDue c fun | .flags f => f.getLsbD j | _ => false) ∧
    (landCycle c k).movf.getLsbD j =
      (((k.lastDue c fun | .yreg y v => if y = 0x001 then some v else none | _ => none).getD k.movf).getLsbD j
        || k.anyDue c fun
          | .row r mac wlo whi adds => r.toNat == j && (rowCommit mac wlo whi adds (physReadV k r)).2
          | _ => false)) ∧
  (∀ (k : Task) (c : Nat), readS (landCycle c k) 0 = 0 ∧ readP (landCycle c k) 0 = true ∧
    ∀ l ∈ (landCycle c k).pend, l.at_ ≠ c ∧ l ∈ k.pend) ∧
  (∀ (l : Landing) (ls : List Landing), ls.Pairwise (fun x y => x.ord ≤ y.ord) →
    (insertLanding l ls).Pairwise (fun x y => x.ord ≤ y.ord) ∧
    ∃ before after, ls = before ++ after ∧ insertLanding l ls = before ++ l :: after ∧ ∀ x ∈ before, x.ord ≤ l.ord)

/-- The frame of the register forms: one that completes leaves exposed writes of its destination, and of FFLAGS where its rule
raises flags, and nothing else, the special functions as every other; what is left with them is the acting task's list of
writes in flight. -/
def Obligations.RegisterFormFrame : Prop :=
  (∀ (s t : State) (i : Instr) (g : LandVal → Bool), s.registerForm i = some g → exec i s = .next t → t.sig = .done →
    ∃ ws : List (Nat × LandVal), t = s.after ws ∧ ∀ w ∈ ws, g w.2 = true) ∧
  (∀ (s t : State) (i : Instr) (d : BitVec 6), specialForm i = some d → exec i s = .next t → t.sig = .done →
    ∃ ws : List (Nat × LandVal), t = s.after ws ∧ ∀ w ∈ ws, s.writesV d w.2 = true) ∧
  (∀ (s : State) (ws : List (Nat × LandVal)), ∃ pend : List Landing,
    s.after ws = { s.modTask (fun k => { k with pend := pend }) with sig := .done } ∧
    ∀ l, l ∈ pend ↔ l ∈ s.tk.pend ∨ ∃ w ∈ ws, l = ⟨s.me.ic + w.1, s.ordNow, w.2⟩)
end

