-- ==== Sys2Proof/Laws/Dispatch.lean ====
section
/-! SUPPORT. What `exec` is on each instruction: one equation per constructor, so that no proof unfolds the dispatch. -/

namespace Sys2Proof.Machine

variable (s : State)

@[simp] theorem exec_pNop : exec .pNop s = execPNop s := rfl
@[simp] theorem exec_pExt (d : BitVec 7) (off : BitVec 8) (nm1 : BitVec 4) (le : Bool) :
    exec (.pExt d off nm1 le) s = execPExt d off nm1 le s := rfl
@[simp] theorem exec_pExtb (d : BitVec 7) (off : BitVec 8) (lsb : BitVec 4) (wm1 : BitVec 4) :
    exec (.pExtb d off lsb wm1) s = execPExtb d off lsb wm1 s := rfl
@[simp] theorem exec_pSet (d : BitVec 7) (imm : BitVec 16) : exec (.pSet d imm) s = execPSet d imm s := rfl
@[simp] theorem exec_pAdv (n : BitVec 9) : exec (.pAdv n) s = execPAdv n s := rfl
@[simp] theorem exec_pAdvf (a : BitVec 7) (lsb : BitVec 4) (wm1 : BitVec 4) (sc : BitVec 2) :
    exec (.pAdvf a lsb wm1 sc) s = execPAdvf a lsb wm1 sc s := rfl
@[simp] theorem exec_pKey (a : BitVec 7) (mask : BitVec 16) : exec (.pKey a mask) s = execPKey a mask s := rfl
@[simp] theorem exec_pCase (st : BitVec 6) (value : BitVec 16) : exec (.pCase st value) s = execPCase st value s := rfl
@[simp] theorem exec_pGoto (st : BitVec 6) : exec (.pGoto st) s = execPGoto st s := rfl
@[simp] theorem exec_pPayld (n : BitVec 9) : exec (.pPayld n) s = execPPayld n s := rfl
@[simp] theorem exec_pEnd (err : Bool) : exec (.pEnd err) s = execPEnd err s := rfl
@[simp] theorem exec_acNop : exec .acNop s = execAcNop s := rfl
@[simp] theorem exec_acMov (d : BitVec 7) (a : BitVec 7) : exec (.acMov d a) s = execAcMov d a s := rfl
@[simp] theorem exec_acAdd (d : BitVec 7) (a : BitVec 7) (b : BitVec 7) (sat : Bool) :
    exec (.acAdd d a b sat) s = execAcAdd d a b sat s := rfl
@[simp] theorem exec_acSub (d : BitVec 7) (a : BitVec 7) (b : BitVec 7) (sat : Bool) :
    exec (.acSub d a b sat) s = execAcSub d a b sat s := rfl
@[simp] theorem exec_acAnd (d : BitVec 7) (a : BitVec 7) (b : BitVec 7) :
    exec (.acAnd d a b) s = execAcAnd d a b s := rfl
@[simp] theorem exec_acOr (d : BitVec 7) (a : BitVec 7) (b : BitVec 7) : exec (.acOr d a b) s = execAcOr d a b s := rfl
@[simp] theorem exec_acXor (d : BitVec 7) (a : BitVec 7) (b : BitVec 7) :
    exec (.acXor d a b) s = execAcXor d a b s := rfl
@[simp] theorem exec_acShl (d : BitVec 7) (a : BitVec 7) (w : BitVec 5) :
    exec (.acShl d a w) s = execAcShl d a w s := rfl
@[simp] theorem exec_acShr (d : BitVec 7) (a : BitVec 7) (w : BitVec 5) :
    exec (.acShr d a w) s = execAcShr d a w s := rfl
@[simp] theorem exec_acMin (d : BitVec 7) (a : BitVec 7) (b : BitVec 7) :
    exec (.acMin d a b) s = execAcMin d a b s := rfl
@[simp] theorem exec_acMax (d : BitVec 7) (a : BitVec 7) (b : BitVec 7) :
    exec (.acMax d a b) s = execAcMax d a b s := rfl
@[simp] theorem exec_acSlt (d : BitVec 7) (a : BitVec 7) (b : BitVec 7) :
    exec (.acSlt d a b) s = execAcSlt d a b s := rfl
@[simp] theorem exec_acMovi (d : BitVec 7) (imm : BitVec 12) : exec (.acMovi d imm) s = execAcMovi d imm s := rfl
@[simp] theorem exec_acAddi (d : BitVec 7) (a : BitVec 7) (imm : BitVec 12) :
    exec (.acAddi d a imm) s = execAcAddi d a imm s := rfl
@[simp] theorem exec_acAndi (d : BitVec 7) (a : BitVec 7) (imm : BitVec 12) :
    exec (.acAndi d a imm) s = execAcAndi d a imm s := rfl
@[simp] theorem exec_acOri (d : BitVec 7) (a : BitVec 7) (imm : BitVec 12) :
    exec (.acOri d a imm) s = execAcOri d a imm s := rfl
@[simp] theorem exec_acMovh (d : BitVec 7) (imm : BitVec 4) : exec (.acMovh d imm) s = execAcMovh d imm s := rfl
@[simp] theorem exec_acSeqi (d : BitVec 7) (a : BitVec 7) (imm : BitVec 12) :
    exec (.acSeqi d a imm) s = execAcSeqi d a imm s := rfl
@[simp] theorem exec_acSkipz (a : BitVec 7) (n : BitVec 4) : exec (.acSkipz a n) s = execAcSkipz a n s := rfl
@[simp] theorem exec_acSkipnz (a : BitVec 7) (n : BitVec 4) : exec (.acSkipnz a n) s = execAcSkipnz a n s := rfl
@[simp] theorem exec_acDone : exec .acDone s = execAcDone s := rfl
@[simp] theorem exec_acLdd (d : BitVec 7) (off : BitVec 6) (j : BitVec 2) (nm1 : BitVec 4) :
    exec (.acLdd d off j nm1) s = execAcLdd d off j nm1 s := rfl
@[simp] theorem exec_acHit (d : BitVec 7) (j : BitVec 2) : exec (.acHit d j) s = execAcHit d j s := rfl
@[simp] theorem exec_acFwd (a : BitVec 7) : exec (.acFwd a) s = execAcFwd a s := rfl
@[simp] theorem exec_acMcast (a : BitVec 7) : exec (.acMcast a) s = execAcMcast a s := rfl
@[simp] theorem exec_acDrop : exec .acDrop s = execAcDrop s := rfl
@[simp] theorem exec_acRoute (a : BitVec 7) : exec (.acRoute a) s = execAcRoute a s := rfl
@[simp] theorem exec_acSrd (x : BitVec 7) (t : BitVec 6) (v : BitVec 7) (word : BitVec 3) :
    exec (.acSrd x t v word) s = execAcSrd x t v word s := rfl
@[simp] theorem exec_acSwr (x : BitVec 7) (t : BitVec 6) (v : BitVec 7) (word : BitVec 3) :
    exec (.acSwr x t v word) s = execAcSwr x t v word s := rfl
@[simp] theorem exec_acSadd (x : BitVec 7) (t : BitVec 6) (v : BitVec 7) (word : BitVec 3) :
    exec (.acSadd x t v word) s = execAcSadd x t v word s := rfl
@[simp] theorem exec_acArrive (d : BitVec 7) (a : BitVec 7) (link : Bool) (one : Bool) :
    exec (.acArrive d a link one) s = execAcArrive d a link one s := rfl
@[simp] theorem exec_acExpect (d : BitVec 7) (a : BitVec 7) : exec (.acExpect d a) s = execAcExpect d a s := rfl
@[simp] theorem exec_acPayWrite (x : BitVec 7) (t : BitVec 6) (v : BitVec 7) (dlv : Bool) (arr : Bool) :
    exec (.acPayWrite x t v dlv arr) s = execAcPayWrite x t v dlv arr s := rfl
@[simp] theorem exec_acPayAddw (x : BitVec 7) (t : BitVec 6) (v : BitVec 7) (dlv : Bool) (arr : Bool) :
    exec (.acPayAddw x t v dlv arr) s = execAcPayAddw x t v dlv arr s := rfl
@[simp] theorem exec_acPayAdds (x : BitVec 7) (t : BitVec 6) (v : BitVec 7) (dlv : Bool) (arr : Bool) :
    exec (.acPayAdds x t v dlv arr) s = execAcPayAdds x t v dlv arr s := rfl
@[simp] theorem exec_acPayAddf (x : BitVec 7) (t : BitVec 6) (v : BitVec 7) (dlv : Bool) (arr : Bool) :
    exec (.acPayAddf x t v dlv arr) s = execAcPayAddf x t v dlv arr s := rfl
@[simp] theorem exec_acAdmit (x : BitVec 7) (t : BitVec 6) : exec (.acAdmit x t) s = execAcAdmit x t s := rfl
@[simp] theorem exec_acClose (x : BitVec 7) (t : BitVec 6) : exec (.acClose x t) s = execAcClose x t s := rfl
@[simp] theorem exec_add (d : BitVec 6) (a : BitVec 6) (b : BitVec 6) : exec (.add d a b) s = execAdd d a b s := rfl
@[simp] theorem exec_sub (d : BitVec 6) (a : BitVec 6) (b : BitVec 6) : exec (.sub d a b) s = execSub d a b s := rfl
@[simp] theorem exec_and (d : BitVec 6) (a : BitVec 6) (b : BitVec 6) : exec (.and d a b) s = execAnd d a b s := rfl
@[simp] theorem exec_or (d : BitVec 6) (a : BitVec 6) (b : BitVec 6) : exec (.or d a b) s = execOr d a b s := rfl
@[simp] theorem exec_xor (d : BitVec 6) (a : BitVec 6) (b : BitVec 6) : exec (.xor d a b) s = execXor d a b s := rfl
@[simp] theorem exec_sll (d : BitVec 6) (a : BitVec 6) (b : BitVec 6) : exec (.sll d a b) s = execSll d a b s := rfl
@[simp] theorem exec_srl (d : BitVec 6) (a : BitVec 6) (b : BitVec 6) : exec (.srl d a b) s = execSrl d a b s := rfl
@[simp] theorem exec_sra (d : BitVec 6) (a : BitVec 6) (b : BitVec 6) : exec (.sra d a b) s = execSra d a b s := rfl
@[simp] theorem exec_min (d : BitVec 6) (a : BitVec 6) (b : BitVec 6) : exec (.min d a b) s = execMin d a b s := rfl
@[simp] theorem exec_max (d : BitVec 6) (a : BitVec 6) (b : BitVec 6) : exec (.max d a b) s = execMax d a b s := rfl
@[simp] theorem exec_minu (d : BitVec 6) (a : BitVec 6) (b : BitVec 6) : exec (.minu d a b) s = execMinu d a b s := rfl
@[simp] theorem exec_maxu (d : BitVec 6) (a : BitVec 6) (b : BitVec 6) : exec (.maxu d a b) s = execMaxu d a b s := rfl
@[simp] theorem exec_mul (d : BitVec 6) (a : BitVec 6) (b : BitVec 6) : exec (.mul d a b) s = execMul d a b s := rfl
@[simp] theorem exec_mulh (d : BitVec 6) (a : BitVec 6) (b : BitVec 6) : exec (.mulh d a b) s = execMulh d a b s := rfl
@[simp] theorem exec_mulhu (d : BitVec 6) (a : BitVec 6) (b : BitVec 6) :
    exec (.mulhu d a b) s = execMulhu d a b s := rfl
@[simp] theorem exec_div (d : BitVec 6) (a : BitVec 6) (b : BitVec 6) : exec (.div d a b) s = execDiv d a b s := rfl
@[simp] theorem exec_divu (d : BitVec 6) (a : BitVec 6) (b : BitVec 6) : exec (.divu d a b) s = execDivu d a b s := rfl
@[simp] theorem exec_rem (d : BitVec 6) (a : BitVec 6) (b : BitVec 6) : exec (.rem d a b) s = execRem d a b s := rfl
@[simp] theorem exec_remu (d : BitVec 6) (a : BitVec 6) (b : BitVec 6) : exec (.remu d a b) s = execRemu d a b s := rfl
@[simp] theorem exec_addi (d : BitVec 6) (a : BitVec 6) (imm : BitVec 6) :
    exec (.addi d a imm) s = execAddi d a imm s := rfl
@[simp] theorem exec_andi (d : BitVec 6) (a : BitVec 6) (imm : BitVec 6) :
    exec (.andi d a imm) s = execAndi d a imm s := rfl
@[simp] theorem exec_ori (d : BitVec 6) (a : BitVec 6) (imm : BitVec 6) :
    exec (.ori d a imm) s = execOri d a imm s := rfl
@[simp] theorem exec_xori (d : BitVec 6) (a : BitVec 6) (imm : BitVec 6) :
    exec (.xori d a imm) s = execXori d a imm s := rfl
@[simp] theorem exec_slli (d : BitVec 6) (a : BitVec 6) (imm : BitVec 6) :
    exec (.slli d a imm) s = execSlli d a imm s := rfl
@[simp] theorem exec_srli (d : BitVec 6) (a : BitVec 6) (imm : BitVec 6) :
    exec (.srli d a imm) s = execSrli d a imm s := rfl
@[simp] theorem exec_srai (d : BitVec 6) (a : BitVec 6) (imm : BitVec 6) :
    exec (.srai d a imm) s = execSrai d a imm s := rfl
@[simp] theorem exec_movi (d : BitVec 6) (imm : BitVec 12) : exec (.movi d imm) s = execMovi d imm s := rfl
@[simp] theorem exec_movk (d : BitVec 6) (imm : BitVec 12) : exec (.movk d imm) s = execMovk d imm s := rfl
@[simp] theorem exec_cmpeq (d : BitVec 3) (a : BitVec 6) (b : BitVec 6) :
    exec (.cmpeq d a b) s = execCmpeq d a b s := rfl
@[simp] theorem exec_cmpne (d : BitVec 3) (a : BitVec 6) (b : BitVec 6) :
    exec (.cmpne d a b) s = execCmpne d a b s := rfl
@[simp] theorem exec_cmplt (d : BitVec 3) (a : BitVec 6) (b : BitVec 6) :
    exec (.cmplt d a b) s = execCmplt d a b s := rfl
@[simp] theorem exec_cmpltu (d : BitVec 3) (a : BitVec 6) (b : BitVec 6) :
    exec (.cmpltu d a b) s = execCmpltu d a b s := rfl
@[simp] theorem exec_cmple (d : BitVec 3) (a : BitVec 6) (b : BitVec 6) :
    exec (.cmple d a b) s = execCmple d a b s := rfl
@[simp] theorem exec_cmpleu (d : BitVec 3) (a : BitVec 6) (b : BitVec 6) :
    exec (.cmpleu d a b) s = execCmpleu d a b s := rfl
@[simp] theorem exec_cmpeqi (d : BitVec 3) (a : BitVec 6) (imm : BitVec 6) :
    exec (.cmpeqi d a imm) s = execCmpeqi d a imm s := rfl
@[simp] theorem exec_cmplti (d : BitVec 3) (a : BitVec 6) (imm : BitVec 6) :
    exec (.cmplti d a imm) s = execCmplti d a imm s := rfl
@[simp] theorem exec_cmplei (d : BitVec 3) (a : BitVec 6) (imm : BitVec 6) :
    exec (.cmplei d a imm) s = execCmplei d a imm s := rfl
@[simp] theorem exec_pand (d : BitVec 3) (a : BitVec 3) (b : BitVec 3) : exec (.pand d a b) s = execPand d a b s := rfl
@[simp] theorem exec_por (d : BitVec 3) (a : BitVec 3) (b : BitVec 3) : exec (.por d a b) s = execPor d a b s := rfl
@[simp] theorem exec_pxor (d : BitVec 3) (a : BitVec 3) (b : BitVec 3) : exec (.pxor d a b) s = execPxor d a b s := rfl
@[simp] theorem exec_pnot (d : BitVec 3) (a : BitVec 3) : exec (.pnot d a) s = execPnot d a s := rfl
@[simp] theorem exec_fadd (r : RMode) (d : BitVec 6) (a : BitVec 6) (b : BitVec 6) :
    exec (.fadd r d a b) s = execFadd r d a b s := rfl
@[simp] theorem exec_fsub (r : RMode) (d : BitVec 6) (a : BitVec 6) (b : BitVec 6) :
    exec (.fsub r d a b) s = execFsub r d a b s := rfl
@[simp] theorem exec_fmul (r : RMode) (d : BitVec 6) (a : BitVec 6) (b : BitVec 6) :
    exec (.fmul r d a b) s = execFmul r d a b s := rfl
@[simp] theorem exec_fdiv (r : RMode) (d : BitVec 6) (a : BitVec 6) (b : BitVec 6) :
    exec (.fdiv r d a b) s = execFdiv r d a b s := rfl
@[simp] theorem exec_fma (r : RMode) (d : BitVec 6) (a : BitVec 6) (b : BitVec 6) :
    exec (.fma r d a b) s = execFma r d a b s := rfl
@[simp] theorem exec_fsqrt (r : RMode) (d : BitVec 6) (a : BitVec 6) : exec (.fsqrt r d a) s = execFsqrt r d a s := rfl
@[simp] theorem exec_fmin (d : BitVec 6) (a : BitVec 6) (b : BitVec 6) : exec (.fmin d a b) s = execFmin d a b s := rfl
@[simp] theorem exec_fmax (d : BitVec 6) (a : BitVec 6) (b : BitVec 6) : exec (.fmax d a b) s = execFmax d a b s := rfl
@[simp] theorem exec_fcmpeq (d : BitVec 3) (a : BitVec 6) (b : BitVec 6) :
    exec (.fcmpeq d a b) s = execFcmpeq d a b s := rfl
@[simp] theorem exec_fcmplt (d : BitVec 3) (a : BitVec 6) (b : BitVec 6) :
    exec (.fcmplt d a b) s = execFcmplt d a b s := rfl
@[simp] theorem exec_fcmple (d : BitVec 3) (a : BitVec 6) (b : BitVec 6) :
    exec (.fcmple d a b) s = execFcmple d a b s := rfl
@[simp] theorem exec_fcvtI64 (r : RMode) (d : BitVec 6) (a : BitVec 6) :
    exec (.fcvtI64 r d a) s = execFcvtI64 r d a s := rfl
@[simp] theorem exec_cvtF32 (r : RMode) (d : BitVec 6) (a : BitVec 6) :
    exec (.cvtF32 r d a) s = execCvtF32 r d a s := rfl
@[simp] theorem exec_br (imm : BitVec 18) : exec (.br imm) s = execBr imm s := rfl
@[simp] theorem exec_brN (imm : BitVec 18) : exec (.brN imm) s = execBrN imm s := rfl
@[simp] theorem exec_call (imm : BitVec 18) : exec (.call imm) s = execCall imm s := rfl
@[simp] theorem exec_jr (a : BitVec 5) : exec (.jr a) s = execJr a s := rfl
@[simp] theorem exec_bswap (imm : BitVec 18) : exec (.bswap imm) s = execBswap imm s := rfl
@[simp] theorem exec_ifence : exec .ifence s = execIfence s := rfl
@[simp] theorem exec_nopn (km1 : BitVec 12) : exec (.nopn km1) s = execNopn km1 s := rfl
@[simp] theorem exec_yield (imm : BitVec 18) : exec (.yield imm) s = execYield imm s := rfl
@[simp] theorem exec_endTask : exec .endTask s = execEnd s := rfl
@[simp] theorem exec_endRetirement (t : TileId) : exec (.endRetirement t) s = execEndRetirement t s := rfl
@[simp] theorem exec_trap (n : BitVec 4) : exec (.trap n) s = execTrap n s := rfl
@[simp] theorem exec_eret : exec .eret s = execEret s := rfl
@[simp] theorem exec_eretSkip : exec .eretSkip s = execEretSkip s := rfl
@[simp] theorem exec_eretRaise : exec .eretRaise s = execEretRaise s := rfl
@[simp] theorem exec_srd (d : BitVec 6) (y : BitVec 12) : exec (.srd d y) s = execSrd d y s := rfl
@[simp] theorem exec_swr (d : BitVec 6) (y : BitVec 12) : exec (.swr d y) s = execSwr d y s := rfl
@[simp] theorem exec_enq (d : BitVec 6) (a : BitVec 6) (b : BitVec 6) : exec (.enq d a b) s = execEnq d a b s := rfl
@[simp] theorem exec_spawnv (d : BitVec 6) (a : BitVec 6) (b : BitVec 6) :
    exec (.spawnv d a b) s = execSpawnv d a b s := rfl
@[simp] theorem exec_nop : exec .nop s = execNop s := rfl
@[simp] theorem exec_ldG (z : MemSize) (d : BitVec 6) (a : BitVec 6) (imm : BitVec 6) :
    exec (.ldG z d a imm) s = execLdG z d a imm s := rfl
@[simp] theorem exec_stG (z : MemSize) (d : BitVec 6) (a : BitVec 6) (imm : BitVec 6) :
    exec (.stG z d a imm) s = execStG z d a imm s := rfl
@[simp] theorem exec_ldGAcq (d : BitVec 6) (a : BitVec 6) (sc : Scope) :
    exec (.ldGAcq d a sc) s = execLdGAcq d a sc s := rfl
@[simp] theorem exec_stGRel (d : BitVec 6) (a : BitVec 6) (sc : Scope) :
    exec (.stGRel d a sc) s = execStGRel d a sc s := rfl
@[simp] theorem exec_qmark : exec .qmark s = execQmark s := rfl
@[simp] theorem exec_fence (sc : Scope) : exec (.fence sc) s = execFence sc s := rfl
@[simp] theorem exec_amoG (o : AmoOp) (d : BitVec 6) (a : BitVec 6) (b : BitVec 6) :
    exec (.amoG o d a b) s = execAmoG o d a b s := rfl
@[simp] theorem exec_amoGAcq (o : AmoOp) (d : BitVec 6) (a : BitVec 6) (sc : Scope) :
    exec (.amoGAcq o d a sc) s = execAmoGAcq o d a sc s := rfl
@[simp] theorem exec_amoGRel (o : AmoOp) (d : BitVec 6) (a : BitVec 6) (sc : Scope) :
    exec (.amoGRel o d a sc) s = execAmoGRel o d a sc s := rfl
@[simp] theorem exec_amoGAr (o : AmoOp) (d : BitVec 6) (a : BitVec 6) (sc : Scope) :
    exec (.amoGAr o d a sc) s = execAmoGAr o d a sc s := rfl
@[simp] theorem exec_relb (reg : BitVec 4) (stg : BitVec 4) : exec (.relb reg stg) s = execRelb reg stg s := rfl
@[simp] theorem exec_relbFree (reg : BitVec 4) : exec (.relbFree reg) s = execRelbFree reg s := rfl
@[simp] theorem exec_relbBankChange (t : TileId) (bank : BitVec 11) :
    exec (.relbBankChange t bank) s = execRelbBankChange t bank s := rfl
@[simp] theorem exec_arrive (d : BitVec 6) (a : BitVec 6) : exec (.arrive d a) s = execArrive d a s := rfl
@[simp] theorem exec_arriveRel (d : BitVec 6) (a : BitVec 6) (sc : Scope) :
    exec (.arriveRel d a sc) s = execArriveRel d a sc s := rfl
@[simp] theorem exec_waitc (d : BitVec 6) (a : BitVec 6) (sc : Scope) :
    exec (.waitc d a sc) s = execWaitc d a sc s := rfl
@[simp] theorem exec_expect (d : BitVec 6) (a : BitVec 6) (b : BitVec 6) :
    exec (.expect d a b) s = execExpect d a b s := rfl
@[simp] theorem exec_aadd (d : BitVec 5) (a : BitVec 5) (b : BitVec 5) : exec (.aadd d a b) s = execAadd d a b s := rfl
@[simp] theorem exec_asub (d : BitVec 5) (a : BitVec 5) (b : BitVec 5) : exec (.asub d a b) s = execAsub d a b s := rfl
@[simp] theorem exec_aaddi (d : BitVec 5) (a : BitVec 5) (imm : BitVec 6) :
    exec (.aaddi d a imm) s = execAaddi d a imm s := rfl
@[simp] theorem exec_amovi (d : BitVec 5) (imm : BitVec 12) : exec (.amovi d imm) s = execAmovi d imm s := rfl
@[simp] theorem exec_amovs (d : BitVec 5) (a : BitVec 6) : exec (.amovs d a) s = execAmovs d a s := rfl
@[simp] theorem exec_smova (d : BitVec 6) (a : BitVec 5) : exec (.smova d a) s = execSmova d a s := rfl
@[simp] theorem exec_ashli (d : BitVec 5) (a : BitVec 5) (imm : BitVec 6) :
    exec (.ashli d a imm) s = execAshli d a imm s := rfl
@[simp] theorem exec_areg (d : BitVec 5) (a : BitVec 5) (j : BitVec 4) : exec (.areg d a j) s = execAreg d a j s := rfl
@[simp] theorem exec_anode (d : BitVec 5) (a : BitVec 5) (b : BitVec 6) :
    exec (.anode d a b) s = execAnode d a b s := rfl
@[simp] theorem exec_anop : exec .anop s = execAnop s := rfl
@[simp] theorem exec_lcset (d : BitVec 2) (a : BitVec 6) : exec (.lcset d a) s = execLcset d a s := rfl
@[simp] theorem exec_lcrd (d : BitVec 6) (a : BitVec 2) : exec (.lcrd d a) s = execLcrd d a s := rfl
@[simp] theorem exec_loop (n : BitVec 2) (imm : BitVec 12) : exec (.loop n imm) s = execLoop n imm s := rfl
@[simp] theorem exec_loopSwp (n : BitVec 2) (sm1 : BitVec 2) (imm : BitVec 12) :
    exec (.loopSwp n sm1 imm) s = execLoopSwp n sm1 imm s := rfl
@[simp] theorem exec_spld (d : BitVec 6) (idx : BitVec 10) : exec (.spld d idx) s = execSpld d idx s := rfl
@[simp] theorem exec_spst (d : BitVec 6) (idx : BitVec 10) : exec (.spst d idx) s = execSpst d idx s := rfl
@[simp] theorem exec_spldA (d : BitVec 5) (idx : BitVec 10) : exec (.spldA d idx) s = execSpldA d idx s := rfl
@[simp] theorem exec_spstA (d : BitVec 5) (idx : BitVec 10) : exec (.spstA d idx) s = execSpstA d idx s := rfl
@[simp] theorem exec_hset (h : BitVec 4) (a : BitVec 5) : exec (.hset h a) s = execHset h a s := rfl
@[simp] theorem exec_halloc (d : BitVec 6) (h : BitVec 4) (b : BitVec 6) :
    exec (.halloc d h b) s = execHalloc d h b s := rfl
@[simp] theorem exec_hpub (h : BitVec 4) (b : BitVec 6) : exec (.hpub h b) s = execHpub h b s := rfl
@[simp] theorem exec_hadv (h : BitVec 4) (b : BitVec 6) : exec (.hadv h b) s = execHadv h b s := rfl
@[simp] theorem exec_headAdvance (t : TileId) (h : BitVec 4) : exec (.headAdvance t h) s = execHeadAdvance t h s := rfl
@[simp] theorem exec_hrd (d : BitVec 6) (h : BitVec 4) : exec (.hrd d h) s = execHrd d h s := rfl
@[simp] theorem exec_vaddInt (t : ITy) (sat : Bool) (d : BitVec 6) (a : BitVec 6) (b : BitVec 6) :
    exec (.vaddInt t sat d a b) s = execVaddInt t sat d a b s := rfl
@[simp] theorem exec_vsubInt (t : ITy) (sat : Bool) (d : BitVec 6) (a : BitVec 6) (b : BitVec 6) :
    exec (.vsubInt t sat d a b) s = execVsubInt t sat d a b s := rfl
@[simp] theorem exec_vmulInt (t : ITy) (sat : Bool) (d : BitVec 6) (a : BitVec 6) (b : BitVec 6) :
    exec (.vmulInt t sat d a b) s = execVmulInt t sat d a b s := rfl
@[simp] theorem exec_vmin (t : ITy) (d : BitVec 6) (a : BitVec 6) (b : BitVec 6) :
    exec (.vmin t d a b) s = execVmin t d a b s := rfl
@[simp] theorem exec_vmax (t : ITy) (d : BitVec 6) (a : BitVec 6) (b : BitVec 6) :
    exec (.vmax t d a b) s = execVmax t d a b s := rfl
@[simp] theorem exec_vshl (w : IWidth) (d : BitVec 6) (a : BitVec 6) (b : BitVec 6) :
    exec (.vshl w d a b) s = execVshl w d a b s := rfl
@[simp] theorem exec_vshr (t : ITy) (d : BitVec 6) (a : BitVec 6) (b : BitVec 6) :
    exec (.vshr t d a b) s = execVshr t d a b s := rfl
@[simp] theorem exec_vld (d : BitVec 6) (a : BitVec 5) (fmt : BitVec 6) :
    exec (.vld d a fmt) s = execVld d a fmt s := rfl
@[simp] theorem exec_vst (d : BitVec 6) (a : BitVec 5) : exec (.vst d a) s = execVst d a s := rfl
@[simp] theorem exec_vlds (d : BitVec 6) (a : BitVec 5) (b : BitVec 5) : exec (.vlds d a b) s = execVlds d a b s := rfl
@[simp] theorem exec_vsts (d : BitVec 6) (a : BitVec 5) (b : BitVec 5) : exec (.vsts d a b) s = execVsts d a b s := rfl
@[simp] theorem exec_vldx (d : BitVec 6) (a : BitVec 5) (b : BitVec 6) : exec (.vldx d a b) s = execVldx d a b s := rfl
@[simp] theorem exec_vstx (d : BitVec 6) (a : BitVec 5) (b : BitVec 6) : exec (.vstx d a b) s = execVstx d a b s := rfl
@[simp] theorem exec_vcmpeq (w : IWidth) (d : BitVec 6) (a : BitVec 6) (b : BitVec 6) :
    exec (.vcmpeq w d a b) s = execVcmpeq w d a b s := rfl
@[simp] theorem exec_vcmplt (t : ITy) (d : BitVec 6) (a : BitVec 6) (b : BitVec 6) :
    exec (.vcmplt t d a b) s = execVcmplt t d a b s := rfl
@[simp] theorem exec_vcmple (t : ITy) (d : BitVec 6) (a : BitVec 6) (b : BitVec 6) :
    exec (.vcmple t d a b) s = execVcmple t d a b s := rfl
@[simp] theorem exec_vredsum (t : ITy) (sat : Bool) (d : BitVec 6) (a : BitVec 6) :
    exec (.vredsum t sat d a) s = execVredsum t sat d a s := rfl
@[simp] theorem exec_vand (d : BitVec 6) (a : BitVec 6) (b : BitVec 6) : exec (.vand d a b) s = execVand d a b s := rfl
@[simp] theorem exec_vor (d : BitVec 6) (a : BitVec 6) (b : BitVec 6) : exec (.vor d a b) s = execVor d a b s := rfl
@[simp] theorem exec_vxor (d : BitVec 6) (a : BitVec 6) (b : BitVec 6) : exec (.vxor d a b) s = execVxor d a b s := rfl
@[simp] theorem exec_vnot (d : BitVec 6) (a : BitVec 6) : exec (.vnot d a) s = execVnot d a s := rfl
@[simp] theorem exec_vsel (d : BitVec 6) (a : BitVec 6) (b : BitVec 6) : exec (.vsel d a b) s = execVsel d a b s := rfl
@[simp] theorem exec_vmov (d : BitVec 6) (a : BitVec 6) : exec (.vmov d a) s = execVmov d a s := rfl
@[simp] theorem exec_vnop : exec .vnop s = execVnop s := rfl
@[simp] theorem exec_vaddF (f : FTy) (r : RMode) (d : BitVec 6) (a : BitVec 6) (b : BitVec 6) :
    exec (.vaddF f r d a b) s = execVaddF f r d a b s := rfl
@[simp] theorem exec_vsubF (f : FTy) (r : RMode) (d : BitVec 6) (a : BitVec 6) (b : BitVec 6) :
    exec (.vsubF f r d a b) s = execVsubF f r d a b s := rfl
@[simp] theorem exec_vmulF (f : FTy) (r : RMode) (d : BitVec 6) (a : BitVec 6) (b : BitVec 6) :
    exec (.vmulF f r d a b) s = execVmulF f r d a b s := rfl
@[simp] theorem exec_vfmaF (f : FTy) (r : RMode) (d : BitVec 6) (a : BitVec 6) (b : BitVec 6) :
    exec (.vfmaF f r d a b) s = execVfmaF f r d a b s := rfl
@[simp] theorem exec_vaddE (e : ETy) (d : BitVec 6) (a : BitVec 6) (b : BitVec 6) :
    exec (.vaddE e d a b) s = execVaddE e d a b s := rfl
@[simp] theorem exec_vsubE (e : ETy) (d : BitVec 6) (a : BitVec 6) (b : BitVec 6) :
    exec (.vsubE e d a b) s = execVsubE e d a b s := rfl
@[simp] theorem exec_vmulE (e : ETy) (d : BitVec 6) (a : BitVec 6) (b : BitVec 6) :
    exec (.vmulE e d a b) s = execVmulE e d a b s := rfl
@[simp] theorem exec_vfmaE (e : ETy) (d : BitVec 6) (a : BitVec 6) (b : BitVec 6) :
    exec (.vfmaE e d a b) s = execVfmaE e d a b s := rfl
@[simp] theorem exec_vminF (f : FTy) (d : BitVec 6) (a : BitVec 6) (b : BitVec 6) :
    exec (.vminF f d a b) s = execVminF f d a b s := rfl
@[simp] theorem exec_vmaxF (f : FTy) (d : BitVec 6) (a : BitVec 6) (b : BitVec 6) :
    exec (.vmaxF f d a b) s = execVmaxF f d a b s := rfl
@[simp] theorem exec_vcmpeqF (f : FTy) (d : BitVec 6) (a : BitVec 6) (b : BitVec 6) :
    exec (.vcmpeqF f d a b) s = execVcmpeqF f d a b s := rfl
@[simp] theorem exec_vcmpltF (f : FTy) (d : BitVec 6) (a : BitVec 6) (b : BitVec 6) :
    exec (.vcmpltF f d a b) s = execVcmpltF f d a b s := rfl
@[simp] theorem exec_vcmpleF (f : FTy) (d : BitVec 6) (a : BitVec 6) (b : BitVec 6) :
    exec (.vcmpleF f d a b) s = execVcmpleF f d a b s := rfl
@[simp] theorem exec_vredsumF32 (r : RMode) (d : BitVec 6) (a : BitVec 6) :
    exec (.vredsumF32 r d a) s = execVredsumF32 r d a s := rfl
@[simp] theorem exec_vredmaxF32 (d : BitVec 6) (a : BitVec 6) : exec (.vredmaxF32 d a) s = execVredmaxF32 d a s := rfl
@[simp] theorem exec_vargmaxF32 (d : BitVec 6) (a : BitVec 6) : exec (.vargmaxF32 d a) s = execVargmaxF32 d a s := rfl
@[simp] theorem exec_vredmaxI32 (d : BitVec 6) (a : BitVec 6) : exec (.vredmaxI32 d a) s = execVredmaxI32 d a s := rfl
@[simp] theorem exec_vargmaxI32 (d : BitVec 6) (a : BitVec 6) : exec (.vargmaxI32 d a) s = execVargmaxI32 d a s := rfl
@[simp] theorem exec_vexp2 (d : BitVec 6) (a : BitVec 6) : exec (.vexp2 d a) s = execVexp2 d a s := rfl
@[simp] theorem exec_vlog2 (d : BitVec 6) (a : BitVec 6) : exec (.vlog2 d a) s = execVlog2 d a s := rfl
@[simp] theorem exec_vrcp (d : BitVec 6) (a : BitVec 6) : exec (.vrcp d a) s = execVrcp d a s := rfl
@[simp] theorem exec_vrsq (d : BitVec 6) (a : BitVec 6) : exec (.vrsq d a) s = execVrsq d a s := rfl
@[simp] theorem exec_vtanh (d : BitVec 6) (a : BitVec 6) : exec (.vtanh d a) s = execVtanh d a s := rfl
@[simp] theorem exec_vsin (d : BitVec 6) (a : BitVec 6) : exec (.vsin d a) s = execVsin d a s := rfl
@[simp] theorem exec_vbcastF32 (d : BitVec 6) (a : BitVec 6) : exec (.vbcastF32 d a) s = execVbcastF32 d a s := rfl
@[simp] theorem exec_vbcastI32 (d : BitVec 6) (a : BitVec 6) : exec (.vbcastI32 d a) s = execVbcastI32 d a s := rfl
@[simp] theorem exec_viota (d : BitVec 6) (a : BitVec 6) : exec (.viota d a) s = execViota d a s := rfl
@[simp] theorem exec_vperm (d : BitVec 6) (a : BitVec 6) (b : BitVec 6) :
    exec (.vperm d a b) s = execVperm d a b s := rfl
@[simp] theorem exec_vrot (d : BitVec 6) (a : BitVec 6) (b : BitVec 6) : exec (.vrot d a b) s = execVrot d a b s := rfl
@[simp] theorem exec_vretag (d : BitVec 6) (fmt : BitVec 6) : exec (.vretag d fmt) s = execVretag d fmt s := rfl
@[simp] theorem exec_vplane (d : BitVec 6) (a : BitVec 6) (pl : BitVec 4) (part : BitVec 2) :
    exec (.vplane d a pl part) s = execVplane d a pl part s := rfl
@[simp] theorem exec_vptmask (d : BitVec 6) (a : BitVec 6) (b : BitVec 6) :
    exec (.vptmask d a b) s = execVptmask d a b s := rfl
@[simp] theorem exec_vcvtI32Sat (d : BitVec 6) (a : BitVec 6) : exec (.vcvtI32Sat d a) s = execVcvtI32Sat d a s := rfl
@[simp] theorem exec_vcvtI32Wrap (d : BitVec 6) (a : BitVec 6) :
    exec (.vcvtI32Wrap d a) s = execVcvtI32Wrap d a s := rfl
@[simp] theorem exec_vscale (r : RMode) (d : BitVec 6) (a : BitVec 6) (b : BitVec 6) :
    exec (.vscale r d a b) s = execVscale r d a b s := rfl
@[simp] theorem exec_vcvtF32 (r : RMode) (d : BitVec 6) (a : BitVec 6) (part : BitVec 3) :
    exec (.vcvtF32 r d a part) s = execVcvtF32 r d a part s := rfl
@[simp] theorem exec_vcvtBf16x2 (r : RMode) (d : BitVec 6) (a : BitVec 6) (part : BitVec 3) :
    exec (.vcvtBf16x2 r d a part) s = execVcvtBf16x2 r d a part s := rfl
@[simp] theorem exec_vcvtFp16 (r : RMode) (d : BitVec 6) (a : BitVec 6) (part : BitVec 3) :
    exec (.vcvtFp16 r d a part) s = execVcvtFp16 r d a part s := rfl
@[simp] theorem exec_vcvtE4m3 (r : RMode) (d : BitVec 6) (a : BitVec 6) (part : BitVec 3) :
    exec (.vcvtE4m3 r d a part) s = execVcvtE4m3 r d a part s := rfl
@[simp] theorem exec_vcvtE5m2 (r : RMode) (d : BitVec 6) (a : BitVec 6) (part : BitVec 3) :
    exec (.vcvtE5m2 r d a part) s = execVcvtE5m2 r d a part s := rfl
@[simp] theorem exec_vcvtInt (t : ITy) (d : BitVec 6) (a : BitVec 6) (part : BitVec 3) :
    exec (.vcvtInt t d a part) s = execVcvtInt t d a part s := rfl
@[simp] theorem exec_vcvtIntRz (t : ITy) (d : BitVec 6) (a : BitVec 6) (part : BitVec 3) :
    exec (.vcvtIntRz t d a part) s = execVcvtIntRz t d a part s := rfl
@[simp] theorem exec_mcfg (a : BitVec 6) : exec (.mcfg a) s = execMcfg a s := rfl
@[simp] theorem exec_mloadb (h : BitVec 4) (a : BitVec 6) : exec (.mloadb h a) s = execMloadb h a s := rfl
@[simp] theorem exec_mloadbs (h : BitVec 4) (a : BitVec 6) : exec (.mloadbs h a) s = execMloadbs h a s := rfl
@[simp] theorem exec_matrixLoadComplete (t : TileId) :
    exec (.matrixLoadComplete t) s = execMatrixLoadComplete t s := rfl
@[simp] theorem exec_mfeed (h : BitVec 4) (mm1 : BitVec 6) (adv : Bool) :
    exec (.mfeed h mm1 adv) s = execMfeed h mm1 adv s := rfl
@[simp] theorem exec_mfeedLanding (t : TileId) : exec (.mfeedLanding t) s = execMfeedLanding t s := rfl
@[simp] theorem exec_mpush (a : BitVec 6) : exec (.mpush a) s = execMpush a s := rfl
@[simp] theorem exec_mmul (d : BitVec 6) (mm1 : BitVec 6) : exec (.mmul d mm1) s = execMmul d mm1 s := rfl
@[simp] theorem exec_mmac (d : BitVec 6) (mm1 : BitVec 6) : exec (.mmac d mm1) s = execMmac d mm1 s := rfl
@[simp] theorem exec_mmulMid (d : BitVec 6) (mm1 : BitVec 6) : exec (.mmulMid d mm1) s = execMmulMid d mm1 s := rfl
@[simp] theorem exec_mmacMid (d : BitVec 6) (mm1 : BitVec 6) : exec (.mmacMid d mm1) s = execMmacMid d mm1 s := rfl
@[simp] theorem exec_mdesc (d : BitVec 6) (a : BitVec 6) (b : BitVec 6) :
    exec (.mdesc d a b) s = execMdesc d a b s := rfl
@[simp] theorem exec_mregroup (d : BitVec 6) (a : BitVec 6) (b : BitVec 6) :
    exec (.mregroup d a b) s = execMregroup d a b s := rfl
@[simp] theorem exec_mclrW (rb : Bool) (cfg : Bool) : exec (.mclrW rb cfg) s = execMclrW rb cfg s := rfl
@[simp] theorem exec_mclrRb (cfg : Bool) : exec (.mclrRb cfg) s = execMclrRb cfg s := rfl
@[simp] theorem exec_mclrCfg : exec .mclrCfg s = execMclrCfg s := rfl
@[simp] theorem exec_xpush (a : BitVec 6) : exec (.xpush a) s = execXpush a s := rfl
@[simp] theorem exec_xpop (d : BitVec 6) : exec (.xpop d) s = execXpop d s := rfl
@[simp] theorem exec_xcfg (rows : BitVec 6) : exec (.xcfg rows) s = execXcfg rows s := rfl
@[simp] theorem exec_xclr : exec .xclr s = execXclr s := rfl
@[simp] theorem exec_xcnt (d : BitVec 6) : exec (.xcnt d) s = execXcnt d s := rfl
@[simp] theorem exec_cnop : exec .cnop s = execCnop s := rfl
@[simp] theorem exec_cset (j : BitVec 2) (a : BitVec 6) (b : BitVec 6) : exec (.cset j a b) s = execCset j a b s := rfl
@[simp] theorem exec_cclr : exec .cclr s = execCclr s := rfl
@[simp] theorem exec_cgo (kp : Option (BitVec 5)) (kx : Option (BitVec 5)) (ky : Option (BitVec 5)) :
    exec (.cgo kp kx ky) s = execCgo kp kx ky s := rfl
@[simp] theorem exec_cwait (kp : Option (BitVec 5)) (kx : Option (BitVec 5)) (ky : Option (BitVec 5)) :
    exec (.cwait kp kx ky) s = execCwait kp kx ky s := rfl
@[simp] theorem exec_cstat (d : BitVec 6) (k : BitVec 5) : exec (.cstat d k) s = execCstat d k s := rfl
@[simp] theorem exec_cpy (kp : Option (BitVec 5)) (kx : Option (BitVec 5)) (ky : Option (BitVec 5)) :
    exec (.cpy kp kx ky) s = execCpy kp kx ky s := rfl
@[simp] theorem exec_cpyAs (kp : Option (BitVec 5)) (kx : Option (BitVec 5)) (ky : Option (BitVec 5)) :
    exec (.cpyAs kp kx ky) s = execCpyAs kp kx ky s := rfl
@[simp] theorem exec_gath (kp : Option (BitVec 5)) (kx : Option (BitVec 5)) (ky : Option (BitVec 5)) :
    exec (.gath kp kx ky) s = execGath kp kx ky s := rfl
@[simp] theorem exec_pool (kp : Option (BitVec 5)) (kx : Option (BitVec 5)) (ky : Option (BitVec 5)) :
    exec (.pool kp kx ky) s = execPool kp kx ky s := rfl
@[simp] theorem exec_rld (kp : Option (BitVec 5)) (kx : Option (BitVec 5)) (ky : Option (BitVec 5)) :
    exec (.rld kp kx ky) s = execRld kp kx ky s := rfl
@[simp] theorem exec_rst (kp : Option (BitVec 5)) (kx : Option (BitVec 5)) (ky : Option (BitVec 5)) :
    exec (.rst kp kx ky) s = execRst kp kx ky s := rfl
@[simp] theorem exec_ramo (kp : Option (BitVec 5)) (kx : Option (BitVec 5)) (ky : Option (BitVec 5)) :
    exec (.ramo kp kx ky) s = execRamo kp kx ky s := rfl
@[simp] theorem exec_mcst (kp : Option (BitVec 5)) (kx : Option (BitVec 5)) (ky : Option (BitVec 5)) :
    exec (.mcst kp kx ky) s = execMcst kp kx ky s := rfl
@[simp] theorem exec_rarrive (kp : Option (BitVec 5)) (kx : Option (BitVec 5)) (ky : Option (BitVec 5)) :
    exec (.rarrive kp kx ky) s = execRarrive kp kx ky s := rfl
@[simp] theorem exec_commandStart (id : Nat) : exec (.commandStart id) s = execCommandStart id s := rfl
@[simp] theorem exec_copyBeat (id : Nat) : exec (.copyBeat id) s = execCopyBeat id s := rfl
@[simp] theorem exec_commandCompletion (id : Nat) : exec (.commandCompletion id) s = execCommandCompletion id s := rfl
@[simp] theorem exec_leaseRenewal (id : Nat) : exec (.leaseRenewal id) s = execLeaseRenewal id s := rfl
@[simp] theorem exec_leaseExpiry (u : XUnit) : exec (.leaseExpiry u) s = execLeaseExpiry u s := rfl
@[simp] theorem exec_pageWalk (u : XUnit) (ctx : CtxId) (va : BitVec 64) (k : AccessKind) :
    exec (.pageWalk u ctx va k) s = execPageWalk u ctx va k s := rfl
@[simp] theorem exec_scalarAccessPerform (t : TileId) (q : QueueSel) :
    exec (.scalarAccessPerform t q) s = execScalarAccessPerform t q s := rfl
@[simp] theorem exec_sideLogReplay (t : TileId) : exec (.sideLogReplay t) s = execSideLogReplay t s := rfl
@[simp] theorem exec_impreciseTrap (t : TileId) : exec (.impreciseTrap t) s = execImpreciseTrap t s := rfl
@[simp] theorem exec_clockSkew (u : XUnit) : exec (.clockSkew u) s = execClockSkew u s := rfl
@[simp] theorem exec_cellExpect (ctx : CtxId) (i : BitVec 16) (n : BitVec 32) :
    exec (.cellExpect ctx i n) s = execCellExpect ctx i n s := rfl
@[simp] theorem exec_cellDelivery (ctx : CtxId) (i : BitVec 16) (n : BitVec 32) :
    exec (.cellDelivery ctx i n) s = execCellDelivery ctx i n s := rfl
@[simp] theorem exec_cellArrive (ctx : CtxId) (i : BitVec 16) (k : BitVec 17) :
    exec (.cellArrive ctx i k) s = execCellArrive ctx i k s := rfl
@[simp] theorem exec_cellRemoteArrive (ctx : CtxId) (i : BitVec 16) (k : BitVec 17) :
    exec (.cellRemoteArrive ctx i k) s = execCellRemoteArrive ctx i k s := rfl
@[simp] theorem exec_cellPhaseRead (ctx : CtxId) (i : BitVec 16) :
    exec (.cellPhaseRead ctx i) s = execCellPhaseRead ctx i s := rfl
@[simp] theorem exec_cellRewrite (ctx : CtxId) (i : BitVec 16) (v : BitVec 256) :
    exec (.cellRewrite ctx i v) s = execCellRewrite ctx i v s := rfl
@[simp] theorem exec_heldRecordMove (ctx : CtxId) (i : BitVec 16) :
    exec (.heldRecordMove ctx i) s = execHeldRecordMove ctx i s := rfl
@[simp] theorem exec_recordLanding (q : BitVec 7) : exec (.recordLanding q) s = execRecordLanding q s := rfl
@[simp] theorem exec_launcherSelection (die : BitVec 1) :
    exec (.launcherSelection die) s = execLauncherSelection die s := rfl
@[simp] theorem exec_imageLoadComplete (t : TileId) : exec (.imageLoadComplete t) s = execImageLoadComplete t s := rfl
@[simp] theorem exec_sliceExpiry (t : TileId) : exec (.sliceExpiry t) s = execSliceExpiry t s := rfl
@[simp] theorem exec_yieldOverrun (t : TileId) : exec (.yieldOverrun t) s = execYieldOverrun t s := rfl
@[simp] theorem exec_preemptionStop (t : TileId) : exec (.preemptionStop t) s = execPreemptionStop t s := rfl
@[simp] theorem exec_gangStop (t : TileId) : exec (.gangStop t) s = execGangStop t s := rfl
@[simp] theorem exec_classSaveComplete (t : TileId) (c : ResClass) :
    exec (.classSaveComplete t c) s = execClassSaveComplete t c s := rfl
@[simp] theorem exec_timedLaunchLead (die : BitVec 1) (i : BitVec 4) :
    exec (.timedLaunchLead die i) s = execTimedLaunchLead die i s := rfl
@[simp] theorem exec_timedLaunchStart (die : BitVec 1) (i : BitVec 4) :
    exec (.timedLaunchStart die i) s = execTimedLaunchStart die i s := rfl
@[simp] theorem exec_timedLaunchDisarm (die : BitVec 1) (i : BitVec 4) :
    exec (.timedLaunchDisarm die i) s = execTimedLaunchDisarm die i s := rfl
@[simp] theorem exec_contextDescriptorWrite (ctx : CtxId) (v : BitVec 512) :
    exec (.contextDescriptorWrite ctx v) s = execContextDescriptorWrite ctx v s := rfl
@[simp] theorem exec_queueDescriptorWrite (q : BitVec 7) (v : BitVec 128) :
    exec (.queueDescriptorWrite q v) s = execQueueDescriptorWrite q v s := rfl
@[simp] theorem exec_bankOwnerWrite (bank : BitVec 11) (v : BitVec 32) :
    exec (.bankOwnerWrite bank v) s = execBankOwnerWrite bank v s := rfl
@[simp] theorem exec_bankScrubComplete (bank : BitVec 11) :
    exec (.bankScrubComplete bank) s = execBankScrubComplete bank s := rfl
@[simp] theorem exec_contextSave (ctx : CtxId) : exec (.contextSave ctx) s = execContextSave ctx s := rfl
@[simp] theorem exec_portConfigWrite (port : BitVec 5) (v : BitVec 64) :
    exec (.portConfigWrite port v) s = execPortConfigWrite port v s := rfl
@[simp] theorem exec_portModeChange (port : BitVec 5) : exec (.portModeChange port) s = execPortModeChange port s := rfl
@[simp] theorem exec_ethernetFrameReceive (port : BitVec 5) (bytes : List Byte) :
    exec (.ethernetFrameReceive port bytes) s = execEthernetFrameReceive port bytes s := rfl
@[simp] theorem exec_fabricFrameReceive (port : BitVec 5) (bytes : List Byte) :
    exec (.fabricFrameReceive port bytes) s = execFabricFrameReceive port bytes s := rfl
@[simp] theorem exec_timesync (port : BitVec 5) (offset : Int) :
    exec (.timesync port offset) s = execTimesync port offset s := rfl
@[simp] theorem exec_timesyncSend (port : BitVec 5) : exec (.timesyncSend port) s = execTimesyncSend port s := rfl
@[simp] theorem exec_timeUnsync : exec .timeUnsync s = execTimeUnsync s := rfl
@[simp] theorem exec_laneswap (port : BitVec 5) (lane : BitVec 3) (accept : Bool) (ts : BitVec 64) :
    exec (.laneswap port lane accept ts) s = execLaneswap port lane accept ts s := rfl
@[simp] theorem exec_laneWeak (port : BitVec 5) (lane : BitVec 3) :
    exec (.laneWeak port lane) s = execLaneWeak port lane s := rfl
@[simp] theorem exec_laneSwapped (port : BitVec 5) : exec (.laneSwapped port) s = execLaneSwapped port s := rfl
@[simp] theorem exec_linkDown (port : BitVec 5) : exec (.linkDown port) s = execLinkDown port s := rfl
@[simp] theorem exec_hostIngressWrite (addr : BitVec 20) (bytes : List Byte) :
    exec (.hostIngressWrite addr bytes) s = execHostIngressWrite addr bytes s := rfl
@[simp] theorem exec_hostFrameTake : exec .hostFrameTake s = execHostFrameTake s := rfl
@[simp] theorem exec_serviceSlot : exec .serviceSlot s = execServiceSlot s := rfl
@[simp] theorem exec_packetParse (pipe : BitVec 3) : exec (.packetParse pipe) s = execPacketParse pipe s := rfl
@[simp] theorem exec_stageExecute (pipe : BitVec 3) (stage : BitVec 4) :
    exec (.stageExecute pipe stage) s = execStageExecute pipe stage s := rfl
@[simp] theorem exec_packetDisposition (pipe : BitVec 3) :
    exec (.packetDisposition pipe) s = execPacketDisposition pipe s := rfl
@[simp] theorem exec_payloadWrite (eng : BitVec 4) : exec (.payloadWrite eng) s = execPayloadWrite eng s := rfl
@[simp] theorem exec_payloadAddw (eng : BitVec 4) : exec (.payloadAddw eng) s = execPayloadAddw eng s := rfl
@[simp] theorem exec_payloadAdds (eng : BitVec 4) : exec (.payloadAdds eng) s = execPayloadAdds eng s := rfl
@[simp] theorem exec_payloadAddf (eng : BitVec 4) : exec (.payloadAddf eng) s = execPayloadAddf eng s := rfl
@[simp] theorem exec_creditWaitDiscard (port : BitVec 5) :
    exec (.creditWaitDiscard port) s = execCreditWaitDiscard port s := rfl
@[simp] theorem exec_readRequest (port : BitVec 5) : exec (.readRequest port) s = execReadRequest port s := rfl
@[simp] theorem exec_writeRequest (port : BitVec 5) : exec (.writeRequest port) s = execWriteRequest port s := rfl
@[simp] theorem exec_atomicRequest (port : BitVec 5) : exec (.atomicRequest port) s = execAtomicRequest port s := rfl
@[simp] theorem exec_multicastWrite (port : BitVec 5) : exec (.multicastWrite port) s = execMulticastWrite port s := rfl
@[simp] theorem exec_remoteArrive (port : BitVec 5) : exec (.remoteArrive port) s = execRemoteArrive port s := rfl
@[simp] theorem exec_readData (port : BitVec 5) : exec (.readData port) s = execReadData port s := rfl
@[simp] theorem exec_writeAcknowledgement (port : BitVec 5) :
    exec (.writeAcknowledgement port) s = execWriteAcknowledgement port s := rfl
@[simp] theorem exec_atomicResult (port : BitVec 5) : exec (.atomicResult port) s = execAtomicResult port s := rfl
@[simp] theorem exec_multicastMemberAcknowledgement (port : BitVec 5) :
    exec (.multicastMemberAcknowledgement port) s = execMulticastMemberAcknowledgement port s := rfl
@[simp] theorem exec_arriveAcknowledgement (port : BitVec 5) :
    exec (.arriveAcknowledgement port) s = execArriveAcknowledgement port s := rfl
@[simp] theorem exec_refusal (port : BitVec 5) : exec (.refusal port) s = execRefusal port s := rfl
@[simp] theorem exec_remoteTimeout (id : Nat) : exec (.remoteTimeout id) s = execRemoteTimeout id s := rfl
@[simp] theorem exec_fabricDrain : exec .fabricDrain s = execFabricDrain s := rfl
@[simp] theorem exec_hostLinkDrain : exec .hostLinkDrain s = execHostLinkDrain s := rfl
@[simp] theorem exec_classificationDescriptorWrite (pipe : BitVec 3) (v : BitVec 128) :
    exec (.classificationDescriptorWrite pipe v) s = execClassificationDescriptorWrite pipe v s := rfl
@[simp] theorem exec_tableDescriptorWrite (die : BitVec 1) (i : BitVec 6) (v : BitVec 128) :
    exec (.tableDescriptorWrite die i v) s = execTableDescriptorWrite die i v s := rfl
@[simp] theorem exec_tableEntryWrite (die : BitVec 1) (i : BitVec 6) (slot : Option (BitVec 24)) (v : BitVec 512) :
    exec (.tableEntryWrite die i slot v) s = execTableEntryWrite die i slot v s := rfl
@[simp] theorem exec_stageEntryWrite (pipe : BitVec 3) (stage : BitVec 4) (ctx : CtxId) (v : BitVec 320) :
    exec (.stageEntryWrite pipe stage ctx v) s = execStageEntryWrite pipe stage ctx v s := rfl
@[simp] theorem exec_parserProgramLoad (pipe : BitVec 3) (words : List (BitVec 32)) :
    exec (.parserProgramLoad pipe words) s = execParserProgramLoad pipe words s := rfl
@[simp] theorem exec_actionCodeLoad (pipe : BitVec 3) (stage : BitVec 4) (base : BitVec 12) (words : List (BitVec 32)) :
    exec (.actionCodeLoad pipe stage base words) s = execActionCodeLoad pipe stage base words s := rfl
@[simp] theorem exec_decodeMapWrite (map : BitVec 4) (entries : List (BitVec 16)) :
    exec (.decodeMapWrite map entries) s = execDecodeMapWrite map entries s := rfl
@[simp] theorem exec_routingEntryWrite (pipe : BitVec 3) (dst : BitVec 10) (v : BitVec 32) :
    exec (.routingEntryWrite pipe dst v) s = execRoutingEntryWrite pipe dst v s := rfl
@[simp] theorem exec_faultQueueHeaderWrite (die : BitVec 1) (v : BitVec 64) :
    exec (.faultQueueHeaderWrite die v) s = execFaultQueueHeaderWrite die v s := rfl
@[simp] theorem exec_heldFaultEntry (die : BitVec 1) : exec (.heldFaultEntry die) s = execHeldFaultEntry die s := rfl
@[simp] theorem exec_pagingReplyMapped (die : BitVec 1) (ctx : CtxId) (page : BitVec 32) :
    exec (.pagingReplyMapped die ctx page) s = execPagingReplyMapped die ctx page s := rfl
@[simp] theorem exec_pagingReplyFail (die : BitVec 1) (ctx : CtxId) (page : BitVec 32) :
    exec (.pagingReplyFail die ctx page) s = execPagingReplyFail die ctx page s := rfl
@[simp] theorem exec_kenvalResume (t : TileId) (skip : Bool) :
    exec (.kenvalResume t skip) s = execKenvalResume t skip s := rfl
@[simp] theorem exec_kenvalDiscard (t : TileId) : exec (.kenvalDiscard t) s = execKenvalDiscard t s := rfl
@[simp] theorem exec_kenvalTerminate (t : TileId) : exec (.kenvalTerminate t) s = execKenvalTerminate t s := rfl
@[simp] theorem exec_kenvalPreemptRequest (t : TileId) :
    exec (.kenvalPreemptRequest t) s = execKenvalPreemptRequest t s := rfl
@[simp] theorem exec_debugStop (t : TileId) : exec (.debugStop t) s = execDebugStop t s := rfl
@[simp] theorem exec_watchCopyRelease (id : Nat) : exec (.watchCopyRelease id) s = execWatchCopyRelease id s := rfl
@[simp] theorem exec_coreDump (ctx : CtxId) : exec (.coreDump ctx) s = execCoreDump ctx s := rfl
@[simp] theorem exec_watchdog (t : TileId) : exec (.watchdog t) s = execWatchdog t s := rfl
@[simp] theorem exec_ctxLost (ctx : CtxId) : exec (.ctxLost ctx) s = execCtxLost ctx s := rfl
@[simp] theorem exec_traceSample (t : TileId) : exec (.traceSample t) s = execTraceSample t s := rfl
@[simp] theorem exec_measurementExtend (reg : BitVec 4) (ty : BitVec 8) (content : List Byte) :
    exec (.measurementExtend reg ty content) s = execMeasurementExtend reg ty content s := rfl
@[simp] theorem exec_attestationReport (nonce : BitVec 512) :
    exec (.attestationReport nonce) s = execAttestationReport nonce s := rfl
@[simp] theorem exec_coldReset : exec .coldReset s = execColdReset s := rfl
@[simp] theorem exec_thermalThrottle (die : BitVec 1) (hot : Bool) :
    exec (.thermalThrottle die hot) s = execThermalThrottle die hot s := rfl
@[simp] theorem exec_thermal (die : BitVec 1) : exec (.thermal die) s = execThermal die s := rfl
@[simp] theorem exec_thermalPowerOff : exec .thermalPowerOff s = execThermalPowerOff s := rfl
@[simp] theorem exec_kenvalRegisterWrite (r : KReg) :
    exec (.kenvalRegisterWrite r) s = execKenvalRegisterWrite r s := rfl
@[simp] theorem exec_backInStep (u : XUnit) : exec (.backInStep u) s = execBackInStep u s := rfl
@[simp] theorem exec_d2dLink : exec .d2dLink s = execD2dLink s := rfl
@[simp] theorem exec_stateParity (t : TileId) : exec (.stateParity t) s = execStateParity t s := rfl
@[simp] theorem exec_powerCap (die : BitVec 1) (on : Bool) : exec (.powerCap die on) s = execPowerCap die on s := rfl

end Sys2Proof.Machine
end

