-- ==== Sys2Proof/Laws/Memory.lean ====
section
/-! SUPPORT. Laws of the sparse tables and of the memories made of them: reading after writing, and the canonical form that
every operation keeps. -/

namespace Sys2Proof.Machine

variable {α : Type} [DecidableEq α]

/-! ### Tables -/

/-- A canonical table from a higher key on is one from a lower key on. -/
theorem smWf_mono (d : α) (m : SMap α) {lo lo' : Nat} (h : lo ≤ lo') (hw : smWf d lo' m = true) : smWf d lo m = true := by
  cases m with
  | nil => rfl
  | cons c m =>
    simp only [smWf, Bool.and_eq_true, decide_eq_true_eq] at hw ⊢
    exact ⟨⟨Nat.le_trans h hw.1.1, hw.1.2⟩, hw.2⟩

/-- A key below the first one is not listed. -/
theorem smGet_below (d : α) (m : SMap α) (lo k : Nat) (h : k < lo) (hw : smWf d lo m = true) : smGet d m k = d := by
  cases m with
  | nil => rfl
  | cons c m =>
    simp only [smWf, Bool.and_eq_true, decide_eq_true_eq] at hw
    have : k < c.1 := Nat.lt_of_lt_of_le h hw.1.1
    simp [smGet, this, Nat.ne_of_lt this]

/-- Writing keeps the canonical form. -/
theorem smSet_wf (d : α) (m : SMap α) (lo k : Nat) (v : α) (hlo : lo ≤ k) (hw : smWf d lo m = true) :
    smWf d lo (smSet d m k v) = true := by
  induction m generalizing lo with
  | nil =>
    unfold smSet
    split
    · rfl
    · simp [smWf, *]
  | cons c m ih =>
    obtain ⟨a, w⟩ := c
    simp only [smWf, Bool.and_eq_true, decide_eq_true_eq] at hw
    unfold smSet
    split
    · split
      · exact smWf_mono d m (by omega) hw.2
      · subst_vars
        simp [smWf, hw.2, *]
    · split
      · split
        · simp [smWf, hw]
        · simp [smWf, hw.1.2, hw.2, *] <;> omega
      · simp [smWf, hw.1, ih (a + 1) (by omega) hw.2]

/-- A key reads as it was last written. -/
theorem smGet_smSet_same (d : α) (m : SMap α) (lo k : Nat) (v : α) (hw : smWf d lo m = true) :
    smGet d (smSet d m k v) k = v := by
  induction m generalizing lo with
  | nil =>
    unfold smSet
    split <;> simp [smGet, *]
  | cons c m ih =>
    obtain ⟨a, w⟩ := c
    simp only [smWf, Bool.and_eq_true, decide_eq_true_eq] at hw
    unfold smSet
    split
    · rename_i hk
      subst hk
      split
      · rename_i hv
        rw [smGet_below d m (k + 1) k (by omega) hw.2, hv]
      · simp [smGet]
    · split
      · split
        · rename_i hv
          simp [smGet, *]
        · simp [smGet]
      · simp [smGet, *, ih (a + 1) hw.2]

/-- Any other key reads as before. -/
theorem smGet_smSet_other (d : α) (m : SMap α) (lo k j : Nat) (v : α) (hj : j ≠ k) (hw : smWf d lo m = true) :
    smGet d (smSet d m k v) j = smGet d m j := by
  induction m generalizing lo with
  | nil =>
    unfold smSet
    split <;> simp [smGet, hj]
  | cons c m ih =>
    obtain ⟨a, w⟩ := c
    simp only [smWf, Bool.and_eq_true, decide_eq_true_eq] at hw
    unfold smSet
    split
    · rename_i hk
      subst hk
      split
      · by_cases h : j < k
        · rw [smGet_below d m (k + 1) j (by omega) hw.2]
          simp [smGet, hj, h]
        · simp [smGet, hj, h]
      · simp [smGet, hj]
    · split
      · split
        · rfl
        · by_cases h : j < k
          · have : j < a := by omega
            simp [smGet, hj, h, this, Nat.ne_of_lt this]
          · simp [smGet, hj, h]
      · simp only [smGet, ih (a + 1) hw.2]

/-- Leaving entries out keeps the canonical form. -/
theorem smWf_filter (d : α) (m : SMap α) (p : Nat × α → Bool) (lo : Nat) (hw : smWf d lo m = true) :
    smWf d lo (m.filter p) = true := by
  induction m generalizing lo with
  | nil => rfl
  | cons c m ih =>
    obtain ⟨a, w⟩ := c
    simp only [smWf, Bool.and_eq_true, decide_eq_true_eq] at hw
    rw [List.filter_cons]
    split
    · simp [smWf, hw.1, ih _ hw.2]
    · exact smWf_mono d _ (by omega) (ih _ hw.2)

/-! ### Memories -/

/-- No memory lists anything at reset. -/
theorem memWf_nil : Memory.wf [] = true := rfl

theorem memSet_wf (m : Mem) (a : Nat) (v : Byte) (h : Memory.wf m = true) : Memory.wf (memSet m a v) = true :=
  smSet_wf 0 m 0 a v (Nat.zero_le a) h

theorem memWrite_wf (bs : List Byte) (m : Mem) (a : Nat) (h : Memory.wf m = true) : Memory.wf (memWrite m a bs) = true := by
  induction bs generalizing m a with
  | nil => exact h
  | cons b bs ih => exact ih _ _ (memSet_wf m a b h)

theorem memWriteLE_wf (m : Mem) (a n v : Nat) (h : Memory.wf m = true) : Memory.wf (memWriteLE m a n v) = true :=
  memWrite_wf _ m a h

theorem memZero_wf (m : Mem) (a n : Nat) (h : Memory.wf m = true) : Memory.wf (memZero m a n) = true :=
  smWf_filter 0 m _ 0 h

/-- A byte reads as it was last written. -/
theorem memGet_memSet_same (m : Mem) (a : Nat) (v : Byte) (h : Memory.wf m = true) : memGet (memSet m a v) a = v :=
  smGet_smSet_same 0 m 0 a v h

/-- Any other byte reads as before. -/
theorem memGet_memSet_other (m : Mem) (a x : Nat) (v : Byte) (hx : x ≠ a) (h : Memory.wf m = true) :
    memGet (memSet m a v) x = memGet m x :=
  smGet_smSet_other 0 m 0 a x v hx h

/-- A byte outside what is written reads as before. -/
theorem memGet_memWrite_other (bs : List Byte) (m : Mem) (a x : Nat) (h : Memory.wf m = true)
    (hx : x < a ∨ a + bs.length ≤ x) : memGet (memWrite m a bs) x = memGet m x := by
  induction bs generalizing m a with
  | nil => rfl
  | cons b bs ih =>
    simp only [List.length_cons] at hx
    unfold memWrite
    rw [ih _ _ (memSet_wf m a b h) (by omega), memGet_memSet_other m a x b (by omega) h]

/-- A byte of what is written reads as it. -/
theorem memGet_memWrite_same (bs : List Byte) (m : Mem) (a i : Nat) (h : Memory.wf m = true) (hi : i < bs.length) :
    memGet (memWrite m a bs) (a + i) = bs[i] := by
  induction bs generalizing m a i with
  | nil => simp at hi
  | cons b bs ih =>
    unfold memWrite
    cases i with
    | zero =>
      show memGet (memWrite (memSet m a b) (a + 1) bs) a = b
      rw [memGet_memWrite_other bs _ _ _ (memSet_wf m a b h) (by omega), memGet_memSet_same m a b h]
    | succ i =>
      simp only [List.length_cons] at hi
      have := ih (memSet m a b) (a + 1) i (memSet_wf m a b h) (by omega)
      rw [show a + (i + 1) = a + 1 + i by omega, this]
      rfl

/-- Bytes in a zeroed range read as zero, whatever the memory. -/
theorem memGet_memZero_in (m : Mem) (a n x : Nat) (h : Memory.wf m = true) (hx : a ≤ x ∧ x < a + n) :
    memGet (memZero m a n) x = 0 := by
  have key : ∀ (m : Mem) (lo : Nat), smWf (0 : Byte) lo m = true →
      smGet 0 (m.filter fun c => decide (c.1 < a ∨ a + n ≤ c.1)) x = 0 := by
    intro m
    induction m with
    | nil => intro lo _; rfl
    | cons c m ih =>
      intro lo hw
      obtain ⟨b, w⟩ := c
      simp only [smWf, Bool.and_eq_true, decide_eq_true_eq] at hw
      rw [List.filter_cons]
      split
      · rename_i hb
        simp only [decide_eq_true_eq] at hb
        have : x ≠ b := by omega
        simp only [smGet, this, if_false]
        split
        · rfl
        · exact ih _ hw.2
      · exact ih _ hw.2
  exact key m 0 h

/-! ### The package -/

/-- The memories of the package are in canonical form at reset. -/
theorem reset_memoryWf : State.reset.memoryWf = true := by
  decide +kernel

end Sys2Proof.Machine
end

