-- ==== Sys2Proof/Laws/State.lean ====
section
/-! SUPPORT. The fields of State under the updates of its parts, one lemma per field and update, and the parts read back. -/

namespace Sys2Proof.Machine

/-! ### modTile -/

@[simp] theorem State.modTile_sched (s : State) (t : TileId) (f : Tile → Tile) : (s.modTile t f).sched = s.sched := rfl
@[simp] theorem State.modTile_focus (s : State) (t : TileId) (f : Tile → Tile) : (s.modTile t f).focus = s.focus := rfl
@[simp] theorem State.modTile_cur (s : State) (t : TileId) (f : Tile → Tile) : (s.modTile t f).cur = s.cur := rfl
@[simp] theorem State.modTile_slot (s : State) (t : TileId) (f : Tile → Tile) : (s.modTile t f).slot = s.slot := rfl
@[simp] theorem State.modTile_eng (s : State) (t : TileId) (f : Tile → Tile) : (s.modTile t f).eng = s.eng := rfl
@[simp] theorem State.modTile_slotWord (s : State) (t : TileId) (f : Tile → Tile) : (s.modTile t f).slotWord = s.slotWord := rfl
@[simp] theorem State.modTile_sig (s : State) (t : TileId) (f : Tile → Tile) : (s.modTile t f).sig = s.sig := rfl
@[simp] theorem State.modTile_freeCount (s : State) (t : TileId) (f : Tile → Tile) : (s.modTile t f).freeCount = s.freeCount := rfl
@[simp] theorem State.modTile_uids (s : State) (t : TileId) (f : Tile → Tile) : (s.modTile t f).uids = s.uids := rfl
@[simp] theorem State.modTile_cmdIds (s : State) (t : TileId) (f : Tile → Tile) : (s.modTile t f).cmdIds = s.cmdIds := rfl
@[simp] theorem State.modTile_accepts (s : State) (t : TileId) (f : Tile → Tile) : (s.modTile t f).accepts = s.accepts := rfl
@[simp] theorem State.modTile_cycle (s : State) (t : TileId) (f : Tile → Tile) : (s.modTile t f).cycle = s.cycle := rfl
@[simp] theorem State.modTile_phase (s : State) (t : TileId) (f : Tile → Tile) : (s.modTile t f).phase = s.phase := rfl
@[simp] theorem State.modTile_timeNs (s : State) (t : TileId) (f : Tile → Tile) : (s.modTile t f).timeNs = s.timeNs := rfl
@[simp] theorem State.modTile_timeFrac (s : State) (t : TileId) (f : Tile → Tile) : (s.modTile t f).timeFrac = s.timeFrac := rfl
@[simp] theorem State.modTile_ctxs (s : State) (t : TileId) (f : Tile → Tile) : (s.modTile t f).ctxs = s.ctxs := rfl
@[simp] theorem State.modTile_queues (s : State) (t : TileId) (f : Tile → Tile) : (s.modTile t f).queues = s.queues := rfl
@[simp] theorem State.modTile_dies (s : State) (t : TileId) (f : Tile → Tile) : (s.modTile t f).dies = s.dies := rfl
@[simp] theorem State.modTile_clusters (s : State) (t : TileId) (f : Tile → Tile) : (s.modTile t f).clusters = s.clusters := rfl
@[simp] theorem State.modTile_payWait (s : State) (t : TileId) (f : Tile → Tile) : (s.modTile t f).payWait = s.payWait := rfl
@[simp] theorem State.modTile_e2eFailed (s : State) (t : TileId) (f : Tile → Tile) : (s.modTile t f).e2eFailed = s.e2eFailed := rfl
@[simp] theorem State.modTile_kenval (s : State) (t : TileId) (f : Tile → Tile) : (s.modTile t f).kenval = s.kenval := rfl
@[simp] theorem State.modTile_kenvalSram (s : State) (t : TileId) (f : Tile → Tile) : (s.modTile t f).kenvalSram = s.kenvalSram := rfl
@[simp] theorem State.modTile_pipes (s : State) (t : TileId) (f : Tile → Tile) : (s.modTile t f).pipes = s.pipes := rfl
@[simp] theorem State.modTile_ports (s : State) (t : TileId) (f : Tile → Tile) : (s.modTile t f).ports = s.ports := rfl
@[simp] theorem State.modTile_hostWin (s : State) (t : TileId) (f : Tile → Tile) : (s.modTile t f).hostWin = s.hostWin := rfl
@[simp] theorem State.modTile_hostOrder (s : State) (t : TileId) (f : Tile → Tile) : (s.modTile t f).hostOrder = s.hostOrder := rfl
@[simp] theorem State.modTile_hostCtr (s : State) (t : TileId) (f : Tile → Tile) : (s.modTile t f).hostCtr = s.hostCtr := rfl
@[simp] theorem State.modTile_cmds (s : State) (t : TileId) (f : Tile → Tile) : (s.modTile t f).cmds = s.cmds := rfl
@[simp] theorem State.modTile_heldRecs (s : State) (t : TileId) (f : Tile → Tile) : (s.modTile t f).heldRecs = s.heldRecs := rfl
@[simp] theorem State.modTile_sward (s : State) (t : TileId) (f : Tile → Tile) : (s.modTile t f).sward = s.sward := rfl
@[simp] theorem State.modTile_hbm (s : State) (t : TileId) (f : Tile → Tile) : (s.modTile t f).hbm = s.hbm := rfl
@[simp] theorem State.modTile_hostMem (s : State) (t : TileId) (f : Tile → Tile) : (s.modTile t f).hostMem = s.hostMem := rfl
@[simp] theorem State.modTile_cxlMem (s : State) (t : TileId) (f : Tile → Tile) : (s.modTile t f).cxlMem = s.cxlMem := rfl
@[simp] theorem State.modTile_swardPoison (s : State) (t : TileId) (f : Tile → Tile) : (s.modTile t f).swardPoison = s.swardPoison := rfl
@[simp] theorem State.modTile_hbmPoison (s : State) (t : TileId) (f : Tile → Tile) : (s.modTile t f).hbmPoison = s.hbmPoison := rfl
@[simp] theorem State.modTile_banks (s : State) (t : TileId) (f : Tile → Tile) : (s.modTile t f).banks = s.banks := rfl
@[simp] theorem State.modTile_scrubbing (s : State) (t : TileId) (f : Tile → Tile) : (s.modTile t f).scrubbing = s.scrubbing := rfl
@[simp] theorem State.modTile_images (s : State) (t : TileId) (f : Tile → Tile) : (s.modTile t f).images = s.images := rfl
@[simp] theorem State.modTile_packetGroups (s : State) (t : TileId) (f : Tile → Tile) : (s.modTile t f).packetGroups = s.packetGroups := rfl
@[simp] theorem State.modTile_windows (s : State) (t : TileId) (f : Tile → Tile) : (s.modTile t f).windows = s.windows := rfl
@[simp] theorem State.modTile_grantBase (s : State) (t : TileId) (f : Tile → Tile) : (s.modTile t f).grantBase = s.grantBase := rfl
@[simp] theorem State.modTile_fabGroups (s : State) (t : TileId) (f : Tile → Tile) : (s.modTile t f).fabGroups = s.fabGroups := rfl
@[simp] theorem State.modTile_remoteTimeout (s : State) (t : TileId) (f : Tile → Tile) : (s.modTile t f).remoteTimeout = s.remoteTimeout := rfl
@[simp] theorem State.modTile_targetsOut (s : State) (t : TileId) (f : Tile → Tile) : (s.modTile t f).targetsOut = s.targetsOut := rfl
@[simp] theorem State.modTile_offsetSince (s : State) (t : TileId) (f : Tile → Tile) : (s.modTile t f).offsetSince = s.offsetSince := rfl
@[simp] theorem State.modTile_unsynced (s : State) (t : TileId) (f : Tile → Tile) : (s.modTile t f).unsynced = s.unsynced := rfl
@[simp] theorem State.modTile_lastSync (s : State) (t : TileId) (f : Tile → Tile) : (s.modTile t f).lastSync = s.lastSync := rfl
@[simp] theorem State.modTile_slew (s : State) (t : TileId) (f : Tile → Tile) : (s.modTile t f).slew = s.slew := rfl
@[simp] theorem State.modTile_meas (s : State) (t : TileId) (f : Tile → Tile) : (s.modTile t f).meas = s.meas := rfl
@[simp] theorem State.modTile_extends (s : State) (t : TileId) (f : Tile → Tile) : (s.modTile t f).extends_ = s.extends_ := rfl
@[simp] theorem State.modTile_thermalStat (s : State) (t : TileId) (f : Tile → Tile) : (s.modTile t f).thermalStat = s.thermalStat := rfl
@[simp] theorem State.modTile_poweredOff (s : State) (t : TileId) (f : Tile → Tile) : (s.modTile t f).poweredOff = s.poweredOff := rfl
@[simp] theorem State.modTile_powerCap (s : State) (t : TileId) (f : Tile → Tile) : (s.modTile t f).powerCap = s.powerCap := rfl
@[simp] theorem State.modTile_winErr (s : State) (t : TileId) (f : Tile → Tile) : (s.modTile t f).winErr = s.winErr := rfl
@[simp] theorem State.modTile_draining (s : State) (t : TileId) (f : Tile → Tile) : (s.modTile t f).draining = s.draining := rfl
@[simp] theorem State.modTile_hostDrain (s : State) (t : TileId) (f : Tile → Tile) : (s.modTile t f).hostDrain = s.hostDrain := rfl
@[simp] theorem State.modTile_drained (s : State) (t : TileId) (f : Tile → Tile) : (s.modTile t f).drained = s.drained := rfl
@[simp] theorem State.modTile_out (s : State) (t : TileId) (f : Tile → Tile) : (s.modTile t f).out = s.out := rfl

/-- The part that modTile updates, read back. -/
@[simp] theorem State.modTile_tile_same (s : State) (t : TileId) (f : Tile → Tile) : (s.modTile t f).tile t = f (s.tile t) := by
  simp [State.tile, State.modTile, State.setTile]

/-- The other parts are as before. -/
theorem State.modTile_tile_other (s : State) (t x : TileId) (f : Tile → Tile) (h : x ≠ t) : (s.modTile t f).tile x = s.tile x := by
  have h' : t.toNat ≠ x.toNat := fun e => h (BitVec.eq_of_toNat_eq e.symm)
  simp [State.tile, State.modTile, State.setTile, h']

/-! ### modCtx -/

@[simp] theorem State.modCtx_sched (s : State) (c : CtxId) (f : Context → Context) : (s.modCtx c f).sched = s.sched := rfl
@[simp] theorem State.modCtx_focus (s : State) (c : CtxId) (f : Context → Context) : (s.modCtx c f).focus = s.focus := rfl
@[simp] theorem State.modCtx_cur (s : State) (c : CtxId) (f : Context → Context) : (s.modCtx c f).cur = s.cur := rfl
@[simp] theorem State.modCtx_slot (s : State) (c : CtxId) (f : Context → Context) : (s.modCtx c f).slot = s.slot := rfl
@[simp] theorem State.modCtx_eng (s : State) (c : CtxId) (f : Context → Context) : (s.modCtx c f).eng = s.eng := rfl
@[simp] theorem State.modCtx_slotWord (s : State) (c : CtxId) (f : Context → Context) : (s.modCtx c f).slotWord = s.slotWord := rfl
@[simp] theorem State.modCtx_sig (s : State) (c : CtxId) (f : Context → Context) : (s.modCtx c f).sig = s.sig := rfl
@[simp] theorem State.modCtx_freeCount (s : State) (c : CtxId) (f : Context → Context) : (s.modCtx c f).freeCount = s.freeCount := rfl
@[simp] theorem State.modCtx_uids (s : State) (c : CtxId) (f : Context → Context) : (s.modCtx c f).uids = s.uids := rfl
@[simp] theorem State.modCtx_cmdIds (s : State) (c : CtxId) (f : Context → Context) : (s.modCtx c f).cmdIds = s.cmdIds := rfl
@[simp] theorem State.modCtx_accepts (s : State) (c : CtxId) (f : Context → Context) : (s.modCtx c f).accepts = s.accepts := rfl
@[simp] theorem State.modCtx_cycle (s : State) (c : CtxId) (f : Context → Context) : (s.modCtx c f).cycle = s.cycle := rfl
@[simp] theorem State.modCtx_phase (s : State) (c : CtxId) (f : Context → Context) : (s.modCtx c f).phase = s.phase := rfl
@[simp] theorem State.modCtx_timeNs (s : State) (c : CtxId) (f : Context → Context) : (s.modCtx c f).timeNs = s.timeNs := rfl
@[simp] theorem State.modCtx_timeFrac (s : State) (c : CtxId) (f : Context → Context) : (s.modCtx c f).timeFrac = s.timeFrac := rfl
@[simp] theorem State.modCtx_tiles (s : State) (c : CtxId) (f : Context → Context) : (s.modCtx c f).tiles = s.tiles := rfl
@[simp] theorem State.modCtx_queues (s : State) (c : CtxId) (f : Context → Context) : (s.modCtx c f).queues = s.queues := rfl
@[simp] theorem State.modCtx_dies (s : State) (c : CtxId) (f : Context → Context) : (s.modCtx c f).dies = s.dies := rfl
@[simp] theorem State.modCtx_clusters (s : State) (c : CtxId) (f : Context → Context) : (s.modCtx c f).clusters = s.clusters := rfl
@[simp] theorem State.modCtx_payWait (s : State) (c : CtxId) (f : Context → Context) : (s.modCtx c f).payWait = s.payWait := rfl
@[simp] theorem State.modCtx_e2eFailed (s : State) (c : CtxId) (f : Context → Context) : (s.modCtx c f).e2eFailed = s.e2eFailed := rfl
@[simp] theorem State.modCtx_kenval (s : State) (c : CtxId) (f : Context → Context) : (s.modCtx c f).kenval = s.kenval := rfl
@[simp] theorem State.modCtx_kenvalSram (s : State) (c : CtxId) (f : Context → Context) : (s.modCtx c f).kenvalSram = s.kenvalSram := rfl
@[simp] theorem State.modCtx_pipes (s : State) (c : CtxId) (f : Context → Context) : (s.modCtx c f).pipes = s.pipes := rfl
@[simp] theorem State.modCtx_ports (s : State) (c : CtxId) (f : Context → Context) : (s.modCtx c f).ports = s.ports := rfl
@[simp] theorem State.modCtx_hostWin (s : State) (c : CtxId) (f : Context → Context) : (s.modCtx c f).hostWin = s.hostWin := rfl
@[simp] theorem State.modCtx_hostOrder (s : State) (c : CtxId) (f : Context → Context) : (s.modCtx c f).hostOrder = s.hostOrder := rfl
@[simp] theorem State.modCtx_hostCtr (s : State) (c : CtxId) (f : Context → Context) : (s.modCtx c f).hostCtr = s.hostCtr := rfl
@[simp] theorem State.modCtx_cmds (s : State) (c : CtxId) (f : Context → Context) : (s.modCtx c f).cmds = s.cmds := rfl
@[simp] theorem State.modCtx_heldRecs (s : State) (c : CtxId) (f : Context → Context) : (s.modCtx c f).heldRecs = s.heldRecs := rfl
@[simp] theorem State.modCtx_sward (s : State) (c : CtxId) (f : Context → Context) : (s.modCtx c f).sward = s.sward := rfl
@[simp] theorem State.modCtx_hbm (s : State) (c : CtxId) (f : Context → Context) : (s.modCtx c f).hbm = s.hbm := rfl
@[simp] theorem State.modCtx_hostMem (s : State) (c : CtxId) (f : Context → Context) : (s.modCtx c f).hostMem = s.hostMem := rfl
@[simp] theorem State.modCtx_cxlMem (s : State) (c : CtxId) (f : Context → Context) : (s.modCtx c f).cxlMem = s.cxlMem := rfl
@[simp] theorem State.modCtx_swardPoison (s : State) (c : CtxId) (f : Context → Context) : (s.modCtx c f).swardPoison = s.swardPoison := rfl
@[simp] theorem State.modCtx_hbmPoison (s : State) (c : CtxId) (f : Context → Context) : (s.modCtx c f).hbmPoison = s.hbmPoison := rfl
@[simp] theorem State.modCtx_banks (s : State) (c : CtxId) (f : Context → Context) : (s.modCtx c f).banks = s.banks := rfl
@[simp] theorem State.modCtx_scrubbing (s : State) (c : CtxId) (f : Context → Context) : (s.modCtx c f).scrubbing = s.scrubbing := rfl
@[simp] theorem State.modCtx_images (s : State) (c : CtxId) (f : Context → Context) : (s.modCtx c f).images = s.images := rfl
@[simp] theorem State.modCtx_packetGroups (s : State) (c : CtxId) (f : Context → Context) : (s.modCtx c f).packetGroups = s.packetGroups := rfl
@[simp] theorem State.modCtx_windows (s : State) (c : CtxId) (f : Context → Context) : (s.modCtx c f).windows = s.windows := rfl
@[simp] theorem State.modCtx_grantBase (s : State) (c : CtxId) (f : Context → Context) : (s.modCtx c f).grantBase = s.grantBase := rfl
@[simp] theorem State.modCtx_fabGroups (s : State) (c : CtxId) (f : Context → Context) : (s.modCtx c f).fabGroups = s.fabGroups := rfl
@[simp] theorem State.modCtx_remoteTimeout (s : State) (c : CtxId) (f : Context → Context) : (s.modCtx c f).remoteTimeout = s.remoteTimeout := rfl
@[simp] theorem State.modCtx_targetsOut (s : State) (c : CtxId) (f : Context → Context) : (s.modCtx c f).targetsOut = s.targetsOut := rfl
@[simp] theorem State.modCtx_offsetSince (s : State) (c : CtxId) (f : Context → Context) : (s.modCtx c f).offsetSince = s.offsetSince := rfl
@[simp] theorem State.modCtx_unsynced (s : State) (c : CtxId) (f : Context → Context) : (s.modCtx c f).unsynced = s.unsynced := rfl
@[simp] theorem State.modCtx_lastSync (s : State) (c : CtxId) (f : Context → Context) : (s.modCtx c f).lastSync = s.lastSync := rfl
@[simp] theorem State.modCtx_slew (s : State) (c : CtxId) (f : Context → Context) : (s.modCtx c f).slew = s.slew := rfl
@[simp] theorem State.modCtx_meas (s : State) (c : CtxId) (f : Context → Context) : (s.modCtx c f).meas = s.meas := rfl
@[simp] theorem State.modCtx_extends (s : State) (c : CtxId) (f : Context → Context) : (s.modCtx c f).extends_ = s.extends_ := rfl
@[simp] theorem State.modCtx_thermalStat (s : State) (c : CtxId) (f : Context → Context) : (s.modCtx c f).thermalStat = s.thermalStat := rfl
@[simp] theorem State.modCtx_poweredOff (s : State) (c : CtxId) (f : Context → Context) : (s.modCtx c f).poweredOff = s.poweredOff := rfl
@[simp] theorem State.modCtx_powerCap (s : State) (c : CtxId) (f : Context → Context) : (s.modCtx c f).powerCap = s.powerCap := rfl
@[simp] theorem State.modCtx_winErr (s : State) (c : CtxId) (f : Context → Context) : (s.modCtx c f).winErr = s.winErr := rfl
@[simp] theorem State.modCtx_draining (s : State) (c : CtxId) (f : Context → Context) : (s.modCtx c f).draining = s.draining := rfl
@[simp] theorem State.modCtx_hostDrain (s : State) (c : CtxId) (f : Context → Context) : (s.modCtx c f).hostDrain = s.hostDrain := rfl
@[simp] theorem State.modCtx_drained (s : State) (c : CtxId) (f : Context → Context) : (s.modCtx c f).drained = s.drained := rfl
@[simp] theorem State.modCtx_out (s : State) (c : CtxId) (f : Context → Context) : (s.modCtx c f).out = s.out := rfl

/-- The part that modCtx updates, read back. -/
@[simp] theorem State.modCtx_ctx_same (s : State) (c : CtxId) (f : Context → Context) : (s.modCtx c f).ctx c = f (s.ctx c) := by
  simp [State.ctx, State.modCtx]

/-- The other parts are as before. -/
theorem State.modCtx_ctx_other (s : State) (c x : CtxId) (f : Context → Context) (h : x ≠ c) : (s.modCtx c f).ctx x = s.ctx x := by
  have h' : c.toNat ≠ x.toNat := fun e => h (BitVec.eq_of_toNat_eq e.symm)
  simp [State.ctx, State.modCtx, h']

/-! ### modQueue -/

@[simp] theorem State.modQueue_sched (s : State) (q : BitVec 7) (f : HwQueue → HwQueue) : (s.modQueue q f).sched = s.sched := rfl
@[simp] theorem State.modQueue_focus (s : State) (q : BitVec 7) (f : HwQueue → HwQueue) : (s.modQueue q f).focus = s.focus := rfl
@[simp] theorem State.modQueue_cur (s : State) (q : BitVec 7) (f : HwQueue → HwQueue) : (s.modQueue q f).cur = s.cur := rfl
@[simp] theorem State.modQueue_slot (s : State) (q : BitVec 7) (f : HwQueue → HwQueue) : (s.modQueue q f).slot = s.slot := rfl
@[simp] theorem State.modQueue_eng (s : State) (q : BitVec 7) (f : HwQueue → HwQueue) : (s.modQueue q f).eng = s.eng := rfl
@[simp] theorem State.modQueue_slotWord (s : State) (q : BitVec 7) (f : HwQueue → HwQueue) : (s.modQueue q f).slotWord = s.slotWord := rfl
@[simp] theorem State.modQueue_sig (s : State) (q : BitVec 7) (f : HwQueue → HwQueue) : (s.modQueue q f).sig = s.sig := rfl
@[simp] theorem State.modQueue_freeCount (s : State) (q : BitVec 7) (f : HwQueue → HwQueue) : (s.modQueue q f).freeCount = s.freeCount := rfl
@[simp] theorem State.modQueue_uids (s : State) (q : BitVec 7) (f : HwQueue → HwQueue) : (s.modQueue q f).uids = s.uids := rfl
@[simp] theorem State.modQueue_cmdIds (s : State) (q : BitVec 7) (f : HwQueue → HwQueue) : (s.modQueue q f).cmdIds = s.cmdIds := rfl
@[simp] theorem State.modQueue_accepts (s : State) (q : BitVec 7) (f : HwQueue → HwQueue) : (s.modQueue q f).accepts = s.accepts := rfl
@[simp] theorem State.modQueue_cycle (s : State) (q : BitVec 7) (f : HwQueue → HwQueue) : (s.modQueue q f).cycle = s.cycle := rfl
@[simp] theorem State.modQueue_phase (s : State) (q : BitVec 7) (f : HwQueue → HwQueue) : (s.modQueue q f).phase = s.phase := rfl
@[simp] theorem State.modQueue_timeNs (s : State) (q : BitVec 7) (f : HwQueue → HwQueue) : (s.modQueue q f).timeNs = s.timeNs := rfl
@[simp] theorem State.modQueue_timeFrac (s : State) (q : BitVec 7) (f : HwQueue → HwQueue) : (s.modQueue q f).timeFrac = s.timeFrac := rfl
@[simp] theorem State.modQueue_tiles (s : State) (q : BitVec 7) (f : HwQueue → HwQueue) : (s.modQueue q f).tiles = s.tiles := rfl
@[simp] theorem State.modQueue_ctxs (s : State) (q : BitVec 7) (f : HwQueue → HwQueue) : (s.modQueue q f).ctxs = s.ctxs := rfl
@[simp] theorem State.modQueue_dies (s : State) (q : BitVec 7) (f : HwQueue → HwQueue) : (s.modQueue q f).dies = s.dies := rfl
@[simp] theorem State.modQueue_clusters (s : State) (q : BitVec 7) (f : HwQueue → HwQueue) : (s.modQueue q f).clusters = s.clusters := rfl
@[simp] theorem State.modQueue_payWait (s : State) (q : BitVec 7) (f : HwQueue → HwQueue) : (s.modQueue q f).payWait = s.payWait := rfl
@[simp] theorem State.modQueue_e2eFailed (s : State) (q : BitVec 7) (f : HwQueue → HwQueue) : (s.modQueue q f).e2eFailed = s.e2eFailed := rfl
@[simp] theorem State.modQueue_kenval (s : State) (q : BitVec 7) (f : HwQueue → HwQueue) : (s.modQueue q f).kenval = s.kenval := rfl
@[simp] theorem State.modQueue_kenvalSram (s : State) (q : BitVec 7) (f : HwQueue → HwQueue) : (s.modQueue q f).kenvalSram = s.kenvalSram := rfl
@[simp] theorem State.modQueue_pipes (s : State) (q : BitVec 7) (f : HwQueue → HwQueue) : (s.modQueue q f).pipes = s.pipes := rfl
@[simp] theorem State.modQueue_ports (s : State) (q : BitVec 7) (f : HwQueue → HwQueue) : (s.modQueue q f).ports = s.ports := rfl
@[simp] theorem State.modQueue_hostWin (s : State) (q : BitVec 7) (f : HwQueue → HwQueue) : (s.modQueue q f).hostWin = s.hostWin := rfl
@[simp] theorem State.modQueue_hostOrder (s : State) (q : BitVec 7) (f : HwQueue → HwQueue) : (s.modQueue q f).hostOrder = s.hostOrder := rfl
@[simp] theorem State.modQueue_hostCtr (s : State) (q : BitVec 7) (f : HwQueue → HwQueue) : (s.modQueue q f).hostCtr = s.hostCtr := rfl
@[simp] theorem State.modQueue_cmds (s : State) (q : BitVec 7) (f : HwQueue → HwQueue) : (s.modQueue q f).cmds = s.cmds := rfl
@[simp] theorem State.modQueue_heldRecs (s : State) (q : BitVec 7) (f : HwQueue → HwQueue) : (s.modQueue q f).heldRecs = s.heldRecs := rfl
@[simp] theorem State.modQueue_sward (s : State) (q : BitVec 7) (f : HwQueue → HwQueue) : (s.modQueue q f).sward = s.sward := rfl
@[simp] theorem State.modQueue_hbm (s : State) (q : BitVec 7) (f : HwQueue → HwQueue) : (s.modQueue q f).hbm = s.hbm := rfl
@[simp] theorem State.modQueue_hostMem (s : State) (q : BitVec 7) (f : HwQueue → HwQueue) : (s.modQueue q f).hostMem = s.hostMem := rfl
@[simp] theorem State.modQueue_cxlMem (s : State) (q : BitVec 7) (f : HwQueue → HwQueue) : (s.modQueue q f).cxlMem = s.cxlMem := rfl
@[simp] theorem State.modQueue_swardPoison (s : State) (q : BitVec 7) (f : HwQueue → HwQueue) : (s.modQueue q f).swardPoison = s.swardPoison := rfl
@[simp] theorem State.modQueue_hbmPoison (s : State) (q : BitVec 7) (f : HwQueue → HwQueue) : (s.modQueue q f).hbmPoison = s.hbmPoison := rfl
@[simp] theorem State.modQueue_banks (s : State) (q : BitVec 7) (f : HwQueue → HwQueue) : (s.modQueue q f).banks = s.banks := rfl
@[simp] theorem State.modQueue_scrubbing (s : State) (q : BitVec 7) (f : HwQueue → HwQueue) : (s.modQueue q f).scrubbing = s.scrubbing := rfl
@[simp] theorem State.modQueue_images (s : State) (q : BitVec 7) (f : HwQueue → HwQueue) : (s.modQueue q f).images = s.images := rfl
@[simp] theorem State.modQueue_packetGroups (s : State) (q : BitVec 7) (f : HwQueue → HwQueue) : (s.modQueue q f).packetGroups = s.packetGroups := rfl
@[simp] theorem State.modQueue_windows (s : State) (q : BitVec 7) (f : HwQueue → HwQueue) : (s.modQueue q f).windows = s.windows := rfl
@[simp] theorem State.modQueue_grantBase (s : State) (q : BitVec 7) (f : HwQueue → HwQueue) : (s.modQueue q f).grantBase = s.grantBase := rfl
@[simp] theorem State.modQueue_fabGroups (s : State) (q : BitVec 7) (f : HwQueue → HwQueue) : (s.modQueue q f).fabGroups = s.fabGroups := rfl
@[simp] theorem State.modQueue_remoteTimeout (s : State) (q : BitVec 7) (f : HwQueue → HwQueue) : (s.modQueue q f).remoteTimeout = s.remoteTimeout := rfl
@[simp] theorem State.modQueue_targetsOut (s : State) (q : BitVec 7) (f : HwQueue → HwQueue) : (s.modQueue q f).targetsOut = s.targetsOut := rfl
@[simp] theorem State.modQueue_offsetSince (s : State) (q : BitVec 7) (f : HwQueue → HwQueue) : (s.modQueue q f).offsetSince = s.offsetSince := rfl
@[simp] theorem State.modQueue_unsynced (s : State) (q : BitVec 7) (f : HwQueue → HwQueue) : (s.modQueue q f).unsynced = s.unsynced := rfl
@[simp] theorem State.modQueue_lastSync (s : State) (q : BitVec 7) (f : HwQueue → HwQueue) : (s.modQueue q f).lastSync = s.lastSync := rfl
@[simp] theorem State.modQueue_slew (s : State) (q : BitVec 7) (f : HwQueue → HwQueue) : (s.modQueue q f).slew = s.slew := rfl
@[simp] theorem State.modQueue_meas (s : State) (q : BitVec 7) (f : HwQueue → HwQueue) : (s.modQueue q f).meas = s.meas := rfl
@[simp] theorem State.modQueue_extends (s : State) (q : BitVec 7) (f : HwQueue → HwQueue) : (s.modQueue q f).extends_ = s.extends_ := rfl
@[simp] theorem State.modQueue_thermalStat (s : State) (q : BitVec 7) (f : HwQueue → HwQueue) : (s.modQueue q f).thermalStat = s.thermalStat := rfl
@[simp] theorem State.modQueue_poweredOff (s : State) (q : BitVec 7) (f : HwQueue → HwQueue) : (s.modQueue q f).poweredOff = s.poweredOff := rfl
@[simp] theorem State.modQueue_powerCap (s : State) (q : BitVec 7) (f : HwQueue → HwQueue) : (s.modQueue q f).powerCap = s.powerCap := rfl
@[simp] theorem State.modQueue_winErr (s : State) (q : BitVec 7) (f : HwQueue → HwQueue) : (s.modQueue q f).winErr = s.winErr := rfl
@[simp] theorem State.modQueue_draining (s : State) (q : BitVec 7) (f : HwQueue → HwQueue) : (s.modQueue q f).draining = s.draining := rfl
@[simp] theorem State.modQueue_hostDrain (s : State) (q : BitVec 7) (f : HwQueue → HwQueue) : (s.modQueue q f).hostDrain = s.hostDrain := rfl
@[simp] theorem State.modQueue_drained (s : State) (q : BitVec 7) (f : HwQueue → HwQueue) : (s.modQueue q f).drained = s.drained := rfl
@[simp] theorem State.modQueue_out (s : State) (q : BitVec 7) (f : HwQueue → HwQueue) : (s.modQueue q f).out = s.out := rfl

/-- The part that modQueue updates, read back. -/
@[simp] theorem State.modQueue_queue_same (s : State) (q : BitVec 7) (f : HwQueue → HwQueue) : (s.modQueue q f).queue q = f (s.queue q) := by
  simp [State.queue, State.modQueue]

/-- The other parts are as before. -/
theorem State.modQueue_queue_other (s : State) (q x : BitVec 7) (f : HwQueue → HwQueue) (h : x ≠ q) : (s.modQueue q f).queue x = s.queue x := by
  have h' : q.toNat ≠ x.toNat := fun e => h (BitVec.eq_of_toNat_eq e.symm)
  simp [State.queue, State.modQueue, h']

/-! ### modDie -/

@[simp] theorem State.modDie_sched (s : State) (d : BitVec 1) (f : Die → Die) : (s.modDie d f).sched = s.sched := rfl
@[simp] theorem State.modDie_focus (s : State) (d : BitVec 1) (f : Die → Die) : (s.modDie d f).focus = s.focus := rfl
@[simp] theorem State.modDie_cur (s : State) (d : BitVec 1) (f : Die → Die) : (s.modDie d f).cur = s.cur := rfl
@[simp] theorem State.modDie_slot (s : State) (d : BitVec 1) (f : Die → Die) : (s.modDie d f).slot = s.slot := rfl
@[simp] theorem State.modDie_eng (s : State) (d : BitVec 1) (f : Die → Die) : (s.modDie d f).eng = s.eng := rfl
@[simp] theorem State.modDie_slotWord (s : State) (d : BitVec 1) (f : Die → Die) : (s.modDie d f).slotWord = s.slotWord := rfl
@[simp] theorem State.modDie_sig (s : State) (d : BitVec 1) (f : Die → Die) : (s.modDie d f).sig = s.sig := rfl
@[simp] theorem State.modDie_freeCount (s : State) (d : BitVec 1) (f : Die → Die) : (s.modDie d f).freeCount = s.freeCount := rfl
@[simp] theorem State.modDie_uids (s : State) (d : BitVec 1) (f : Die → Die) : (s.modDie d f).uids = s.uids := rfl
@[simp] theorem State.modDie_cmdIds (s : State) (d : BitVec 1) (f : Die → Die) : (s.modDie d f).cmdIds = s.cmdIds := rfl
@[simp] theorem State.modDie_accepts (s : State) (d : BitVec 1) (f : Die → Die) : (s.modDie d f).accepts = s.accepts := rfl
@[simp] theorem State.modDie_cycle (s : State) (d : BitVec 1) (f : Die → Die) : (s.modDie d f).cycle = s.cycle := rfl
@[simp] theorem State.modDie_phase (s : State) (d : BitVec 1) (f : Die → Die) : (s.modDie d f).phase = s.phase := rfl
@[simp] theorem State.modDie_timeNs (s : State) (d : BitVec 1) (f : Die → Die) : (s.modDie d f).timeNs = s.timeNs := rfl
@[simp] theorem State.modDie_timeFrac (s : State) (d : BitVec 1) (f : Die → Die) : (s.modDie d f).timeFrac = s.timeFrac := rfl
@[simp] theorem State.modDie_tiles (s : State) (d : BitVec 1) (f : Die → Die) : (s.modDie d f).tiles = s.tiles := rfl
@[simp] theorem State.modDie_ctxs (s : State) (d : BitVec 1) (f : Die → Die) : (s.modDie d f).ctxs = s.ctxs := rfl
@[simp] theorem State.modDie_queues (s : State) (d : BitVec 1) (f : Die → Die) : (s.modDie d f).queues = s.queues := rfl
@[simp] theorem State.modDie_clusters (s : State) (d : BitVec 1) (f : Die → Die) : (s.modDie d f).clusters = s.clusters := rfl
@[simp] theorem State.modDie_payWait (s : State) (d : BitVec 1) (f : Die → Die) : (s.modDie d f).payWait = s.payWait := rfl
@[simp] theorem State.modDie_e2eFailed (s : State) (d : BitVec 1) (f : Die → Die) : (s.modDie d f).e2eFailed = s.e2eFailed := rfl
@[simp] theorem State.modDie_kenval (s : State) (d : BitVec 1) (f : Die → Die) : (s.modDie d f).kenval = s.kenval := rfl
@[simp] theorem State.modDie_kenvalSram (s : State) (d : BitVec 1) (f : Die → Die) : (s.modDie d f).kenvalSram = s.kenvalSram := rfl
@[simp] theorem State.modDie_pipes (s : State) (d : BitVec 1) (f : Die → Die) : (s.modDie d f).pipes = s.pipes := rfl
@[simp] theorem State.modDie_ports (s : State) (d : BitVec 1) (f : Die → Die) : (s.modDie d f).ports = s.ports := rfl
@[simp] theorem State.modDie_hostWin (s : State) (d : BitVec 1) (f : Die → Die) : (s.modDie d f).hostWin = s.hostWin := rfl
@[simp] theorem State.modDie_hostOrder (s : State) (d : BitVec 1) (f : Die → Die) : (s.modDie d f).hostOrder = s.hostOrder := rfl
@[simp] theorem State.modDie_hostCtr (s : State) (d : BitVec 1) (f : Die → Die) : (s.modDie d f).hostCtr = s.hostCtr := rfl
@[simp] theorem State.modDie_cmds (s : State) (d : BitVec 1) (f : Die → Die) : (s.modDie d f).cmds = s.cmds := rfl
@[simp] theorem State.modDie_heldRecs (s : State) (d : BitVec 1) (f : Die → Die) : (s.modDie d f).heldRecs = s.heldRecs := rfl
@[simp] theorem State.modDie_sward (s : State) (d : BitVec 1) (f : Die → Die) : (s.modDie d f).sward = s.sward := rfl
@[simp] theorem State.modDie_hbm (s : State) (d : BitVec 1) (f : Die → Die) : (s.modDie d f).hbm = s.hbm := rfl
@[simp] theorem State.modDie_hostMem (s : State) (d : BitVec 1) (f : Die → Die) : (s.modDie d f).hostMem = s.hostMem := rfl
@[simp] theorem State.modDie_cxlMem (s : State) (d : BitVec 1) (f : Die → Die) : (s.modDie d f).cxlMem = s.cxlMem := rfl
@[simp] theorem State.modDie_swardPoison (s : State) (d : BitVec 1) (f : Die → Die) : (s.modDie d f).swardPoison = s.swardPoison := rfl
@[simp] theorem State.modDie_hbmPoison (s : State) (d : BitVec 1) (f : Die → Die) : (s.modDie d f).hbmPoison = s.hbmPoison := rfl
@[simp] theorem State.modDie_banks (s : State) (d : BitVec 1) (f : Die → Die) : (s.modDie d f).banks = s.banks := rfl
@[simp] theorem State.modDie_scrubbing (s : State) (d : BitVec 1) (f : Die → Die) : (s.modDie d f).scrubbing = s.scrubbing := rfl
@[simp] theorem State.modDie_images (s : State) (d : BitVec 1) (f : Die → Die) : (s.modDie d f).images = s.images := rfl
@[simp] theorem State.modDie_packetGroups (s : State) (d : BitVec 1) (f : Die → Die) : (s.modDie d f).packetGroups = s.packetGroups := rfl
@[simp] theorem State.modDie_windows (s : State) (d : BitVec 1) (f : Die → Die) : (s.modDie d f).windows = s.windows := rfl
@[simp] theorem State.modDie_grantBase (s : State) (d : BitVec 1) (f : Die → Die) : (s.modDie d f).grantBase = s.grantBase := rfl
@[simp] theorem State.modDie_fabGroups (s : State) (d : BitVec 1) (f : Die → Die) : (s.modDie d f).fabGroups = s.fabGroups := rfl
@[simp] theorem State.modDie_remoteTimeout (s : State) (d : BitVec 1) (f : Die → Die) : (s.modDie d f).remoteTimeout = s.remoteTimeout := rfl
@[simp] theorem State.modDie_targetsOut (s : State) (d : BitVec 1) (f : Die → Die) : (s.modDie d f).targetsOut = s.targetsOut := rfl
@[simp] theorem State.modDie_offsetSince (s : State) (d : BitVec 1) (f : Die → Die) : (s.modDie d f).offsetSince = s.offsetSince := rfl
@[simp] theorem State.modDie_unsynced (s : State) (d : BitVec 1) (f : Die → Die) : (s.modDie d f).unsynced = s.unsynced := rfl
@[simp] theorem State.modDie_lastSync (s : State) (d : BitVec 1) (f : Die → Die) : (s.modDie d f).lastSync = s.lastSync := rfl
@[simp] theorem State.modDie_slew (s : State) (d : BitVec 1) (f : Die → Die) : (s.modDie d f).slew = s.slew := rfl
@[simp] theorem State.modDie_meas (s : State) (d : BitVec 1) (f : Die → Die) : (s.modDie d f).meas = s.meas := rfl
@[simp] theorem State.modDie_extends (s : State) (d : BitVec 1) (f : Die → Die) : (s.modDie d f).extends_ = s.extends_ := rfl
@[simp] theorem State.modDie_thermalStat (s : State) (d : BitVec 1) (f : Die → Die) : (s.modDie d f).thermalStat = s.thermalStat := rfl
@[simp] theorem State.modDie_poweredOff (s : State) (d : BitVec 1) (f : Die → Die) : (s.modDie d f).poweredOff = s.poweredOff := rfl
@[simp] theorem State.modDie_powerCap (s : State) (d : BitVec 1) (f : Die → Die) : (s.modDie d f).powerCap = s.powerCap := rfl
@[simp] theorem State.modDie_winErr (s : State) (d : BitVec 1) (f : Die → Die) : (s.modDie d f).winErr = s.winErr := rfl
@[simp] theorem State.modDie_draining (s : State) (d : BitVec 1) (f : Die → Die) : (s.modDie d f).draining = s.draining := rfl
@[simp] theorem State.modDie_hostDrain (s : State) (d : BitVec 1) (f : Die → Die) : (s.modDie d f).hostDrain = s.hostDrain := rfl
@[simp] theorem State.modDie_drained (s : State) (d : BitVec 1) (f : Die → Die) : (s.modDie d f).drained = s.drained := rfl
@[simp] theorem State.modDie_out (s : State) (d : BitVec 1) (f : Die → Die) : (s.modDie d f).out = s.out := rfl

/-- The part that modDie updates, read back. -/
@[simp] theorem State.modDie_die_same (s : State) (d : BitVec 1) (f : Die → Die) : (s.modDie d f).die d = f (s.die d) := by
  simp [State.die, State.modDie]

/-- The other parts are as before. -/
theorem State.modDie_die_other (s : State) (d x : BitVec 1) (f : Die → Die) (h : x ≠ d) : (s.modDie d f).die x = s.die x := by
  have h' : d.toNat ≠ x.toNat := fun e => h (BitVec.eq_of_toNat_eq e.symm)
  simp [State.die, State.modDie, h']

/-! ### modCluster -/

@[simp] theorem State.modCluster_sched (s : State) (c : BitVec 4) (f : Cluster → Cluster) : (s.modCluster c f).sched = s.sched := rfl
@[simp] theorem State.modCluster_focus (s : State) (c : BitVec 4) (f : Cluster → Cluster) : (s.modCluster c f).focus = s.focus := rfl
@[simp] theorem State.modCluster_cur (s : State) (c : BitVec 4) (f : Cluster → Cluster) : (s.modCluster c f).cur = s.cur := rfl
@[simp] theorem State.modCluster_slot (s : State) (c : BitVec 4) (f : Cluster → Cluster) : (s.modCluster c f).slot = s.slot := rfl
@[simp] theorem State.modCluster_eng (s : State) (c : BitVec 4) (f : Cluster → Cluster) : (s.modCluster c f).eng = s.eng := rfl
@[simp] theorem State.modCluster_slotWord (s : State) (c : BitVec 4) (f : Cluster → Cluster) : (s.modCluster c f).slotWord = s.slotWord := rfl
@[simp] theorem State.modCluster_sig (s : State) (c : BitVec 4) (f : Cluster → Cluster) : (s.modCluster c f).sig = s.sig := rfl
@[simp] theorem State.modCluster_freeCount (s : State) (c : BitVec 4) (f : Cluster → Cluster) : (s.modCluster c f).freeCount = s.freeCount := rfl
@[simp] theorem State.modCluster_uids (s : State) (c : BitVec 4) (f : Cluster → Cluster) : (s.modCluster c f).uids = s.uids := rfl
@[simp] theorem State.modCluster_cmdIds (s : State) (c : BitVec 4) (f : Cluster → Cluster) : (s.modCluster c f).cmdIds = s.cmdIds := rfl
@[simp] theorem State.modCluster_accepts (s : State) (c : BitVec 4) (f : Cluster → Cluster) : (s.modCluster c f).accepts = s.accepts := rfl
@[simp] theorem State.modCluster_cycle (s : State) (c : BitVec 4) (f : Cluster → Cluster) : (s.modCluster c f).cycle = s.cycle := rfl
@[simp] theorem State.modCluster_phase (s : State) (c : BitVec 4) (f : Cluster → Cluster) : (s.modCluster c f).phase = s.phase := rfl
@[simp] theorem State.modCluster_timeNs (s : State) (c : BitVec 4) (f : Cluster → Cluster) : (s.modCluster c f).timeNs = s.timeNs := rfl
@[simp] theorem State.modCluster_timeFrac (s : State) (c : BitVec 4) (f : Cluster → Cluster) : (s.modCluster c f).timeFrac = s.timeFrac := rfl
@[simp] theorem State.modCluster_tiles (s : State) (c : BitVec 4) (f : Cluster → Cluster) : (s.modCluster c f).tiles = s.tiles := rfl
@[simp] theorem State.modCluster_ctxs (s : State) (c : BitVec 4) (f : Cluster → Cluster) : (s.modCluster c f).ctxs = s.ctxs := rfl
@[simp] theorem State.modCluster_queues (s : State) (c : BitVec 4) (f : Cluster → Cluster) : (s.modCluster c f).queues = s.queues := rfl
@[simp] theorem State.modCluster_dies (s : State) (c : BitVec 4) (f : Cluster → Cluster) : (s.modCluster c f).dies = s.dies := rfl
@[simp] theorem State.modCluster_payWait (s : State) (c : BitVec 4) (f : Cluster → Cluster) : (s.modCluster c f).payWait = s.payWait := rfl
@[simp] theorem State.modCluster_e2eFailed (s : State) (c : BitVec 4) (f : Cluster → Cluster) : (s.modCluster c f).e2eFailed = s.e2eFailed := rfl
@[simp] theorem State.modCluster_kenval (s : State) (c : BitVec 4) (f : Cluster → Cluster) : (s.modCluster c f).kenval = s.kenval := rfl
@[simp] theorem State.modCluster_kenvalSram (s : State) (c : BitVec 4) (f : Cluster → Cluster) : (s.modCluster c f).kenvalSram = s.kenvalSram := rfl
@[simp] theorem State.modCluster_pipes (s : State) (c : BitVec 4) (f : Cluster → Cluster) : (s.modCluster c f).pipes = s.pipes := rfl
@[simp] theorem State.modCluster_ports (s : State) (c : BitVec 4) (f : Cluster → Cluster) : (s.modCluster c f).ports = s.ports := rfl
@[simp] theorem State.modCluster_hostWin (s : State) (c : BitVec 4) (f : Cluster → Cluster) : (s.modCluster c f).hostWin = s.hostWin := rfl
@[simp] theorem State.modCluster_hostOrder (s : State) (c : BitVec 4) (f : Cluster → Cluster) : (s.modCluster c f).hostOrder = s.hostOrder := rfl
@[simp] theorem State.modCluster_hostCtr (s : State) (c : BitVec 4) (f : Cluster → Cluster) : (s.modCluster c f).hostCtr = s.hostCtr := rfl
@[simp] theorem State.modCluster_cmds (s : State) (c : BitVec 4) (f : Cluster → Cluster) : (s.modCluster c f).cmds = s.cmds := rfl
@[simp] theorem State.modCluster_heldRecs (s : State) (c : BitVec 4) (f : Cluster → Cluster) : (s.modCluster c f).heldRecs = s.heldRecs := rfl
@[simp] theorem State.modCluster_sward (s : State) (c : BitVec 4) (f : Cluster → Cluster) : (s.modCluster c f).sward = s.sward := rfl
@[simp] theorem State.modCluster_hbm (s : State) (c : BitVec 4) (f : Cluster → Cluster) : (s.modCluster c f).hbm = s.hbm := rfl
@[simp] theorem State.modCluster_hostMem (s : State) (c : BitVec 4) (f : Cluster → Cluster) : (s.modCluster c f).hostMem = s.hostMem := rfl
@[simp] theorem State.modCluster_cxlMem (s : State) (c : BitVec 4) (f : Cluster → Cluster) : (s.modCluster c f).cxlMem = s.cxlMem := rfl
@[simp] theorem State.modCluster_swardPoison (s : State) (c : BitVec 4) (f : Cluster → Cluster) : (s.modCluster c f).swardPoison = s.swardPoison := rfl
@[simp] theorem State.modCluster_hbmPoison (s : State) (c : BitVec 4) (f : Cluster → Cluster) : (s.modCluster c f).hbmPoison = s.hbmPoison := rfl
@[simp] theorem State.modCluster_banks (s : State) (c : BitVec 4) (f : Cluster → Cluster) : (s.modCluster c f).banks = s.banks := rfl
@[simp] theorem State.modCluster_scrubbing (s : State) (c : BitVec 4) (f : Cluster → Cluster) : (s.modCluster c f).scrubbing = s.scrubbing := rfl
@[simp] theorem State.modCluster_images (s : State) (c : BitVec 4) (f : Cluster → Cluster) : (s.modCluster c f).images = s.images := rfl
@[simp] theorem State.modCluster_packetGroups (s : State) (c : BitVec 4) (f : Cluster → Cluster) : (s.modCluster c f).packetGroups = s.packetGroups := rfl
@[simp] theorem State.modCluster_windows (s : State) (c : BitVec 4) (f : Cluster → Cluster) : (s.modCluster c f).windows = s.windows := rfl
@[simp] theorem State.modCluster_grantBase (s : State) (c : BitVec 4) (f : Cluster → Cluster) : (s.modCluster c f).grantBase = s.grantBase := rfl
@[simp] theorem State.modCluster_fabGroups (s : State) (c : BitVec 4) (f : Cluster → Cluster) : (s.modCluster c f).fabGroups = s.fabGroups := rfl
@[simp] theorem State.modCluster_remoteTimeout (s : State) (c : BitVec 4) (f : Cluster → Cluster) : (s.modCluster c f).remoteTimeout = s.remoteTimeout := rfl
@[simp] theorem State.modCluster_targetsOut (s : State) (c : BitVec 4) (f : Cluster → Cluster) : (s.modCluster c f).targetsOut = s.targetsOut := rfl
@[simp] theorem State.modCluster_offsetSince (s : State) (c : BitVec 4) (f : Cluster → Cluster) : (s.modCluster c f).offsetSince = s.offsetSince := rfl
@[simp] theorem State.modCluster_unsynced (s : State) (c : BitVec 4) (f : Cluster → Cluster) : (s.modCluster c f).unsynced = s.unsynced := rfl
@[simp] theorem State.modCluster_lastSync (s : State) (c : BitVec 4) (f : Cluster → Cluster) : (s.modCluster c f).lastSync = s.lastSync := rfl
@[simp] theorem State.modCluster_slew (s : State) (c : BitVec 4) (f : Cluster → Cluster) : (s.modCluster c f).slew = s.slew := rfl
@[simp] theorem State.modCluster_meas (s : State) (c : BitVec 4) (f : Cluster → Cluster) : (s.modCluster c f).meas = s.meas := rfl
@[simp] theorem State.modCluster_extends (s : State) (c : BitVec 4) (f : Cluster → Cluster) : (s.modCluster c f).extends_ = s.extends_ := rfl
@[simp] theorem State.modCluster_thermalStat (s : State) (c : BitVec 4) (f : Cluster → Cluster) : (s.modCluster c f).thermalStat = s.thermalStat := rfl
@[simp] theorem State.modCluster_poweredOff (s : State) (c : BitVec 4) (f : Cluster → Cluster) : (s.modCluster c f).poweredOff = s.poweredOff := rfl
@[simp] theorem State.modCluster_powerCap (s : State) (c : BitVec 4) (f : Cluster → Cluster) : (s.modCluster c f).powerCap = s.powerCap := rfl
@[simp] theorem State.modCluster_winErr (s : State) (c : BitVec 4) (f : Cluster → Cluster) : (s.modCluster c f).winErr = s.winErr := rfl
@[simp] theorem State.modCluster_draining (s : State) (c : BitVec 4) (f : Cluster → Cluster) : (s.modCluster c f).draining = s.draining := rfl
@[simp] theorem State.modCluster_hostDrain (s : State) (c : BitVec 4) (f : Cluster → Cluster) : (s.modCluster c f).hostDrain = s.hostDrain := rfl
@[simp] theorem State.modCluster_drained (s : State) (c : BitVec 4) (f : Cluster → Cluster) : (s.modCluster c f).drained = s.drained := rfl
@[simp] theorem State.modCluster_out (s : State) (c : BitVec 4) (f : Cluster → Cluster) : (s.modCluster c f).out = s.out := rfl

/-- The part that modCluster updates, read back. -/
@[simp] theorem State.modCluster_cluster_same (s : State) (c : BitVec 4) (f : Cluster → Cluster) : (s.modCluster c f).cluster c = f (s.cluster c) := by
  simp [State.cluster, State.modCluster]

/-- The other parts are as before. -/
theorem State.modCluster_cluster_other (s : State) (c x : BitVec 4) (f : Cluster → Cluster) (h : x ≠ c) : (s.modCluster c f).cluster x = s.cluster x := by
  have h' : c.toNat ≠ x.toNat := fun e => h (BitVec.eq_of_toNat_eq e.symm)
  simp [State.cluster, State.modCluster, h']

/-! ### modPipe -/

@[simp] theorem State.modPipe_sched (s : State) (p : BitVec 3) (f : Pipe → Pipe) : (s.modPipe p f).sched = s.sched := rfl
@[simp] theorem State.modPipe_focus (s : State) (p : BitVec 3) (f : Pipe → Pipe) : (s.modPipe p f).focus = s.focus := rfl
@[simp] theorem State.modPipe_cur (s : State) (p : BitVec 3) (f : Pipe → Pipe) : (s.modPipe p f).cur = s.cur := rfl
@[simp] theorem State.modPipe_slot (s : State) (p : BitVec 3) (f : Pipe → Pipe) : (s.modPipe p f).slot = s.slot := rfl
@[simp] theorem State.modPipe_eng (s : State) (p : BitVec 3) (f : Pipe → Pipe) : (s.modPipe p f).eng = s.eng := rfl
@[simp] theorem State.modPipe_slotWord (s : State) (p : BitVec 3) (f : Pipe → Pipe) : (s.modPipe p f).slotWord = s.slotWord := rfl
@[simp] theorem State.modPipe_sig (s : State) (p : BitVec 3) (f : Pipe → Pipe) : (s.modPipe p f).sig = s.sig := rfl
@[simp] theorem State.modPipe_freeCount (s : State) (p : BitVec 3) (f : Pipe → Pipe) : (s.modPipe p f).freeCount = s.freeCount := rfl
@[simp] theorem State.modPipe_uids (s : State) (p : BitVec 3) (f : Pipe → Pipe) : (s.modPipe p f).uids = s.uids := rfl
@[simp] theorem State.modPipe_cmdIds (s : State) (p : BitVec 3) (f : Pipe → Pipe) : (s.modPipe p f).cmdIds = s.cmdIds := rfl
@[simp] theorem State.modPipe_accepts (s : State) (p : BitVec 3) (f : Pipe → Pipe) : (s.modPipe p f).accepts = s.accepts := rfl
@[simp] theorem State.modPipe_cycle (s : State) (p : BitVec 3) (f : Pipe → Pipe) : (s.modPipe p f).cycle = s.cycle := rfl
@[simp] theorem State.modPipe_phase (s : State) (p : BitVec 3) (f : Pipe → Pipe) : (s.modPipe p f).phase = s.phase := rfl
@[simp] theorem State.modPipe_timeNs (s : State) (p : BitVec 3) (f : Pipe → Pipe) : (s.modPipe p f).timeNs = s.timeNs := rfl
@[simp] theorem State.modPipe_timeFrac (s : State) (p : BitVec 3) (f : Pipe → Pipe) : (s.modPipe p f).timeFrac = s.timeFrac := rfl
@[simp] theorem State.modPipe_tiles (s : State) (p : BitVec 3) (f : Pipe → Pipe) : (s.modPipe p f).tiles = s.tiles := rfl
@[simp] theorem State.modPipe_ctxs (s : State) (p : BitVec 3) (f : Pipe → Pipe) : (s.modPipe p f).ctxs = s.ctxs := rfl
@[simp] theorem State.modPipe_queues (s : State) (p : BitVec 3) (f : Pipe → Pipe) : (s.modPipe p f).queues = s.queues := rfl
@[simp] theorem State.modPipe_dies (s : State) (p : BitVec 3) (f : Pipe → Pipe) : (s.modPipe p f).dies = s.dies := rfl
@[simp] theorem State.modPipe_clusters (s : State) (p : BitVec 3) (f : Pipe → Pipe) : (s.modPipe p f).clusters = s.clusters := rfl
@[simp] theorem State.modPipe_payWait (s : State) (p : BitVec 3) (f : Pipe → Pipe) : (s.modPipe p f).payWait = s.payWait := rfl
@[simp] theorem State.modPipe_e2eFailed (s : State) (p : BitVec 3) (f : Pipe → Pipe) : (s.modPipe p f).e2eFailed = s.e2eFailed := rfl
@[simp] theorem State.modPipe_kenval (s : State) (p : BitVec 3) (f : Pipe → Pipe) : (s.modPipe p f).kenval = s.kenval := rfl
@[simp] theorem State.modPipe_kenvalSram (s : State) (p : BitVec 3) (f : Pipe → Pipe) : (s.modPipe p f).kenvalSram = s.kenvalSram := rfl
@[simp] theorem State.modPipe_ports (s : State) (p : BitVec 3) (f : Pipe → Pipe) : (s.modPipe p f).ports = s.ports := rfl
@[simp] theorem State.modPipe_hostWin (s : State) (p : BitVec 3) (f : Pipe → Pipe) : (s.modPipe p f).hostWin = s.hostWin := rfl
@[simp] theorem State.modPipe_hostOrder (s : State) (p : BitVec 3) (f : Pipe → Pipe) : (s.modPipe p f).hostOrder = s.hostOrder := rfl
@[simp] theorem State.modPipe_hostCtr (s : State) (p : BitVec 3) (f : Pipe → Pipe) : (s.modPipe p f).hostCtr = s.hostCtr := rfl
@[simp] theorem State.modPipe_cmds (s : State) (p : BitVec 3) (f : Pipe → Pipe) : (s.modPipe p f).cmds = s.cmds := rfl
@[simp] theorem State.modPipe_heldRecs (s : State) (p : BitVec 3) (f : Pipe → Pipe) : (s.modPipe p f).heldRecs = s.heldRecs := rfl
@[simp] theorem State.modPipe_sward (s : State) (p : BitVec 3) (f : Pipe → Pipe) : (s.modPipe p f).sward = s.sward := rfl
@[simp] theorem State.modPipe_hbm (s : State) (p : BitVec 3) (f : Pipe → Pipe) : (s.modPipe p f).hbm = s.hbm := rfl
@[simp] theorem State.modPipe_hostMem (s : State) (p : BitVec 3) (f : Pipe → Pipe) : (s.modPipe p f).hostMem = s.hostMem := rfl
@[simp] theorem State.modPipe_cxlMem (s : State) (p : BitVec 3) (f : Pipe → Pipe) : (s.modPipe p f).cxlMem = s.cxlMem := rfl
@[simp] theorem State.modPipe_swardPoison (s : State) (p : BitVec 3) (f : Pipe → Pipe) : (s.modPipe p f).swardPoison = s.swardPoison := rfl
@[simp] theorem State.modPipe_hbmPoison (s : State) (p : BitVec 3) (f : Pipe → Pipe) : (s.modPipe p f).hbmPoison = s.hbmPoison := rfl
@[simp] theorem State.modPipe_banks (s : State) (p : BitVec 3) (f : Pipe → Pipe) : (s.modPipe p f).banks = s.banks := rfl
@[simp] theorem State.modPipe_scrubbing (s : State) (p : BitVec 3) (f : Pipe → Pipe) : (s.modPipe p f).scrubbing = s.scrubbing := rfl
@[simp] theorem State.modPipe_images (s : State) (p : BitVec 3) (f : Pipe → Pipe) : (s.modPipe p f).images = s.images := rfl
@[simp] theorem State.modPipe_packetGroups (s : State) (p : BitVec 3) (f : Pipe → Pipe) : (s.modPipe p f).packetGroups = s.packetGroups := rfl
@[simp] theorem State.modPipe_windows (s : State) (p : BitVec 3) (f : Pipe → Pipe) : (s.modPipe p f).windows = s.windows := rfl
@[simp] theorem State.modPipe_grantBase (s : State) (p : BitVec 3) (f : Pipe → Pipe) : (s.modPipe p f).grantBase = s.grantBase := rfl
@[simp] theorem State.modPipe_fabGroups (s : State) (p : BitVec 3) (f : Pipe → Pipe) : (s.modPipe p f).fabGroups = s.fabGroups := rfl
@[simp] theorem State.modPipe_remoteTimeout (s : State) (p : BitVec 3) (f : Pipe → Pipe) : (s.modPipe p f).remoteTimeout = s.remoteTimeout := rfl
@[simp] theorem State.modPipe_targetsOut (s : State) (p : BitVec 3) (f : Pipe → Pipe) : (s.modPipe p f).targetsOut = s.targetsOut := rfl
@[simp] theorem State.modPipe_offsetSince (s : State) (p : BitVec 3) (f : Pipe → Pipe) : (s.modPipe p f).offsetSince = s.offsetSince := rfl
@[simp] theorem State.modPipe_unsynced (s : State) (p : BitVec 3) (f : Pipe → Pipe) : (s.modPipe p f).unsynced = s.unsynced := rfl
@[simp] theorem State.modPipe_lastSync (s : State) (p : BitVec 3) (f : Pipe → Pipe) : (s.modPipe p f).lastSync = s.lastSync := rfl
@[simp] theorem State.modPipe_slew (s : State) (p : BitVec 3) (f : Pipe → Pipe) : (s.modPipe p f).slew = s.slew := rfl
@[simp] theorem State.modPipe_meas (s : State) (p : BitVec 3) (f : Pipe → Pipe) : (s.modPipe p f).meas = s.meas := rfl
@[simp] theorem State.modPipe_extends (s : State) (p : BitVec 3) (f : Pipe → Pipe) : (s.modPipe p f).extends_ = s.extends_ := rfl
@[simp] theorem State.modPipe_thermalStat (s : State) (p : BitVec 3) (f : Pipe → Pipe) : (s.modPipe p f).thermalStat = s.thermalStat := rfl
@[simp] theorem State.modPipe_poweredOff (s : State) (p : BitVec 3) (f : Pipe → Pipe) : (s.modPipe p f).poweredOff = s.poweredOff := rfl
@[simp] theorem State.modPipe_powerCap (s : State) (p : BitVec 3) (f : Pipe → Pipe) : (s.modPipe p f).powerCap = s.powerCap := rfl
@[simp] theorem State.modPipe_winErr (s : State) (p : BitVec 3) (f : Pipe → Pipe) : (s.modPipe p f).winErr = s.winErr := rfl
@[simp] theorem State.modPipe_draining (s : State) (p : BitVec 3) (f : Pipe → Pipe) : (s.modPipe p f).draining = s.draining := rfl
@[simp] theorem State.modPipe_hostDrain (s : State) (p : BitVec 3) (f : Pipe → Pipe) : (s.modPipe p f).hostDrain = s.hostDrain := rfl
@[simp] theorem State.modPipe_drained (s : State) (p : BitVec 3) (f : Pipe → Pipe) : (s.modPipe p f).drained = s.drained := rfl
@[simp] theorem State.modPipe_out (s : State) (p : BitVec 3) (f : Pipe → Pipe) : (s.modPipe p f).out = s.out := rfl

/-- The part that modPipe updates, read back. -/
@[simp] theorem State.modPipe_pipe_same (s : State) (p : BitVec 3) (f : Pipe → Pipe) : (s.modPipe p f).pipe p = f (s.pipe p) := by
  simp [State.pipe, State.modPipe]

/-- The other parts are as before. -/
theorem State.modPipe_pipe_other (s : State) (p x : BitVec 3) (f : Pipe → Pipe) (h : x ≠ p) : (s.modPipe p f).pipe x = s.pipe x := by
  have h' : p.toNat ≠ x.toNat := fun e => h (BitVec.eq_of_toNat_eq e.symm)
  simp [State.pipe, State.modPipe, h']

/-! ### modPort -/

@[simp] theorem State.modPort_sched (s : State) (p : BitVec 5) (f : Port → Port) : (s.modPort p f).sched = s.sched := rfl
@[simp] theorem State.modPort_focus (s : State) (p : BitVec 5) (f : Port → Port) : (s.modPort p f).focus = s.focus := rfl
@[simp] theorem State.modPort_cur (s : State) (p : BitVec 5) (f : Port → Port) : (s.modPort p f).cur = s.cur := rfl
@[simp] theorem State.modPort_slot (s : State) (p : BitVec 5) (f : Port → Port) : (s.modPort p f).slot = s.slot := rfl
@[simp] theorem State.modPort_eng (s : State) (p : BitVec 5) (f : Port → Port) : (s.modPort p f).eng = s.eng := rfl
@[simp] theorem State.modPort_slotWord (s : State) (p : BitVec 5) (f : Port → Port) : (s.modPort p f).slotWord = s.slotWord := rfl
@[simp] theorem State.modPort_sig (s : State) (p : BitVec 5) (f : Port → Port) : (s.modPort p f).sig = s.sig := rfl
@[simp] theorem State.modPort_freeCount (s : State) (p : BitVec 5) (f : Port → Port) : (s.modPort p f).freeCount = s.freeCount := rfl
@[simp] theorem State.modPort_uids (s : State) (p : BitVec 5) (f : Port → Port) : (s.modPort p f).uids = s.uids := rfl
@[simp] theorem State.modPort_cmdIds (s : State) (p : BitVec 5) (f : Port → Port) : (s.modPort p f).cmdIds = s.cmdIds := rfl
@[simp] theorem State.modPort_accepts (s : State) (p : BitVec 5) (f : Port → Port) : (s.modPort p f).accepts = s.accepts := rfl
@[simp] theorem State.modPort_cycle (s : State) (p : BitVec 5) (f : Port → Port) : (s.modPort p f).cycle = s.cycle := rfl
@[simp] theorem State.modPort_phase (s : State) (p : BitVec 5) (f : Port → Port) : (s.modPort p f).phase = s.phase := rfl
@[simp] theorem State.modPort_timeNs (s : State) (p : BitVec 5) (f : Port → Port) : (s.modPort p f).timeNs = s.timeNs := rfl
@[simp] theorem State.modPort_timeFrac (s : State) (p : BitVec 5) (f : Port → Port) : (s.modPort p f).timeFrac = s.timeFrac := rfl
@[simp] theorem State.modPort_tiles (s : State) (p : BitVec 5) (f : Port → Port) : (s.modPort p f).tiles = s.tiles := rfl
@[simp] theorem State.modPort_ctxs (s : State) (p : BitVec 5) (f : Port → Port) : (s.modPort p f).ctxs = s.ctxs := rfl
@[simp] theorem State.modPort_queues (s : State) (p : BitVec 5) (f : Port → Port) : (s.modPort p f).queues = s.queues := rfl
@[simp] theorem State.modPort_dies (s : State) (p : BitVec 5) (f : Port → Port) : (s.modPort p f).dies = s.dies := rfl
@[simp] theorem State.modPort_clusters (s : State) (p : BitVec 5) (f : Port → Port) : (s.modPort p f).clusters = s.clusters := rfl
@[simp] theorem State.modPort_payWait (s : State) (p : BitVec 5) (f : Port → Port) : (s.modPort p f).payWait = s.payWait := rfl
@[simp] theorem State.modPort_e2eFailed (s : State) (p : BitVec 5) (f : Port → Port) : (s.modPort p f).e2eFailed = s.e2eFailed := rfl
@[simp] theorem State.modPort_kenval (s : State) (p : BitVec 5) (f : Port → Port) : (s.modPort p f).kenval = s.kenval := rfl
@[simp] theorem State.modPort_kenvalSram (s : State) (p : BitVec 5) (f : Port → Port) : (s.modPort p f).kenvalSram = s.kenvalSram := rfl
@[simp] theorem State.modPort_pipes (s : State) (p : BitVec 5) (f : Port → Port) : (s.modPort p f).pipes = s.pipes := rfl
@[simp] theorem State.modPort_hostWin (s : State) (p : BitVec 5) (f : Port → Port) : (s.modPort p f).hostWin = s.hostWin := rfl
@[simp] theorem State.modPort_hostOrder (s : State) (p : BitVec 5) (f : Port → Port) : (s.modPort p f).hostOrder = s.hostOrder := rfl
@[simp] theorem State.modPort_hostCtr (s : State) (p : BitVec 5) (f : Port → Port) : (s.modPort p f).hostCtr = s.hostCtr := rfl
@[simp] theorem State.modPort_cmds (s : State) (p : BitVec 5) (f : Port → Port) : (s.modPort p f).cmds = s.cmds := rfl
@[simp] theorem State.modPort_heldRecs (s : State) (p : BitVec 5) (f : Port → Port) : (s.modPort p f).heldRecs = s.heldRecs := rfl
@[simp] theorem State.modPort_sward (s : State) (p : BitVec 5) (f : Port → Port) : (s.modPort p f).sward = s.sward := rfl
@[simp] theorem State.modPort_hbm (s : State) (p : BitVec 5) (f : Port → Port) : (s.modPort p f).hbm = s.hbm := rfl
@[simp] theorem State.modPort_hostMem (s : State) (p : BitVec 5) (f : Port → Port) : (s.modPort p f).hostMem = s.hostMem := rfl
@[simp] theorem State.modPort_cxlMem (s : State) (p : BitVec 5) (f : Port → Port) : (s.modPort p f).cxlMem = s.cxlMem := rfl
@[simp] theorem State.modPort_swardPoison (s : State) (p : BitVec 5) (f : Port → Port) : (s.modPort p f).swardPoison = s.swardPoison := rfl
@[simp] theorem State.modPort_hbmPoison (s : State) (p : BitVec 5) (f : Port → Port) : (s.modPort p f).hbmPoison = s.hbmPoison := rfl
@[simp] theorem State.modPort_banks (s : State) (p : BitVec 5) (f : Port → Port) : (s.modPort p f).banks = s.banks := rfl
@[simp] theorem State.modPort_scrubbing (s : State) (p : BitVec 5) (f : Port → Port) : (s.modPort p f).scrubbing = s.scrubbing := rfl
@[simp] theorem State.modPort_images (s : State) (p : BitVec 5) (f : Port → Port) : (s.modPort p f).images = s.images := rfl
@[simp] theorem State.modPort_packetGroups (s : State) (p : BitVec 5) (f : Port → Port) : (s.modPort p f).packetGroups = s.packetGroups := rfl
@[simp] theorem State.modPort_windows (s : State) (p : BitVec 5) (f : Port → Port) : (s.modPort p f).windows = s.windows := rfl
@[simp] theorem State.modPort_grantBase (s : State) (p : BitVec 5) (f : Port → Port) : (s.modPort p f).grantBase = s.grantBase := rfl
@[simp] theorem State.modPort_fabGroups (s : State) (p : BitVec 5) (f : Port → Port) : (s.modPort p f).fabGroups = s.fabGroups := rfl
@[simp] theorem State.modPort_remoteTimeout (s : State) (p : BitVec 5) (f : Port → Port) : (s.modPort p f).remoteTimeout = s.remoteTimeout := rfl
@[simp] theorem State.modPort_targetsOut (s : State) (p : BitVec 5) (f : Port → Port) : (s.modPort p f).targetsOut = s.targetsOut := rfl
@[simp] theorem State.modPort_offsetSince (s : State) (p : BitVec 5) (f : Port → Port) : (s.modPort p f).offsetSince = s.offsetSince := rfl
@[simp] theorem State.modPort_unsynced (s : State) (p : BitVec 5) (f : Port → Port) : (s.modPort p f).unsynced = s.unsynced := rfl
@[simp] theorem State.modPort_lastSync (s : State) (p : BitVec 5) (f : Port → Port) : (s.modPort p f).lastSync = s.lastSync := rfl
@[simp] theorem State.modPort_slew (s : State) (p : BitVec 5) (f : Port → Port) : (s.modPort p f).slew = s.slew := rfl
@[simp] theorem State.modPort_meas (s : State) (p : BitVec 5) (f : Port → Port) : (s.modPort p f).meas = s.meas := rfl
@[simp] theorem State.modPort_extends (s : State) (p : BitVec 5) (f : Port → Port) : (s.modPort p f).extends_ = s.extends_ := rfl
@[simp] theorem State.modPort_thermalStat (s : State) (p : BitVec 5) (f : Port → Port) : (s.modPort p f).thermalStat = s.thermalStat := rfl
@[simp] theorem State.modPort_poweredOff (s : State) (p : BitVec 5) (f : Port → Port) : (s.modPort p f).poweredOff = s.poweredOff := rfl
@[simp] theorem State.modPort_powerCap (s : State) (p : BitVec 5) (f : Port → Port) : (s.modPort p f).powerCap = s.powerCap := rfl
@[simp] theorem State.modPort_winErr (s : State) (p : BitVec 5) (f : Port → Port) : (s.modPort p f).winErr = s.winErr := rfl
@[simp] theorem State.modPort_draining (s : State) (p : BitVec 5) (f : Port → Port) : (s.modPort p f).draining = s.draining := rfl
@[simp] theorem State.modPort_hostDrain (s : State) (p : BitVec 5) (f : Port → Port) : (s.modPort p f).hostDrain = s.hostDrain := rfl
@[simp] theorem State.modPort_drained (s : State) (p : BitVec 5) (f : Port → Port) : (s.modPort p f).drained = s.drained := rfl
@[simp] theorem State.modPort_out (s : State) (p : BitVec 5) (f : Port → Port) : (s.modPort p f).out = s.out := rfl

/-- The part that modPort updates, read back. -/
@[simp] theorem State.modPort_port_same (s : State) (p : BitVec 5) (f : Port → Port) : (s.modPort p f).port p = f (s.port p) := by
  simp [State.port, State.modPort]

/-- The other parts are as before. -/
theorem State.modPort_port_other (s : State) (p x : BitVec 5) (f : Port → Port) (h : x ≠ p) : (s.modPort p f).port x = s.port x := by
  have h' : p.toNat ≠ x.toNat := fun e => h (BitVec.eq_of_toNat_eq e.symm)
  simp [State.port, State.modPort, h']

/-! ### The task of a tile -/

@[simp] theorem State.modTaskAt_task (s : State) (t : TileId) (f : Task → Task) : ((s.modTaskAt t f).tile t).task = f (s.tile t).task := by
  simp [State.modTaskAt]

@[simp] theorem State.modTask_tk (s : State) (f : Task → Task) : (s.modTask f).tk = f s.tk := by
  simp [State.modTask, State.modTaskAt, State.tk, State.me]

@[simp] theorem State.modTask_sched (s : State) (f : Task → Task) : (s.modTask f).sched = s.sched := rfl
@[simp] theorem State.modTask_focus (s : State) (f : Task → Task) : (s.modTask f).focus = s.focus := rfl
@[simp] theorem State.modTask_cur (s : State) (f : Task → Task) : (s.modTask f).cur = s.cur := rfl
@[simp] theorem State.modTask_slot (s : State) (f : Task → Task) : (s.modTask f).slot = s.slot := rfl
@[simp] theorem State.modTask_eng (s : State) (f : Task → Task) : (s.modTask f).eng = s.eng := rfl
@[simp] theorem State.modTask_slotWord (s : State) (f : Task → Task) : (s.modTask f).slotWord = s.slotWord := rfl
@[simp] theorem State.modTask_sig (s : State) (f : Task → Task) : (s.modTask f).sig = s.sig := rfl
@[simp] theorem State.modTask_freeCount (s : State) (f : Task → Task) : (s.modTask f).freeCount = s.freeCount := rfl
@[simp] theorem State.modTask_uids (s : State) (f : Task → Task) : (s.modTask f).uids = s.uids := rfl
@[simp] theorem State.modTask_cmdIds (s : State) (f : Task → Task) : (s.modTask f).cmdIds = s.cmdIds := rfl
@[simp] theorem State.modTask_accepts (s : State) (f : Task → Task) : (s.modTask f).accepts = s.accepts := rfl
@[simp] theorem State.modTask_cycle (s : State) (f : Task → Task) : (s.modTask f).cycle = s.cycle := rfl
@[simp] theorem State.modTask_phase (s : State) (f : Task → Task) : (s.modTask f).phase = s.phase := rfl
@[simp] theorem State.modTask_timeNs (s : State) (f : Task → Task) : (s.modTask f).timeNs = s.timeNs := rfl
@[simp] theorem State.modTask_timeFrac (s : State) (f : Task → Task) : (s.modTask f).timeFrac = s.timeFrac := rfl
@[simp] theorem State.modTask_ctxs (s : State) (f : Task → Task) : (s.modTask f).ctxs = s.ctxs := rfl
@[simp] theorem State.modTask_queues (s : State) (f : Task → Task) : (s.modTask f).queues = s.queues := rfl
@[simp] theorem State.modTask_dies (s : State) (f : Task → Task) : (s.modTask f).dies = s.dies := rfl
@[simp] theorem State.modTask_clusters (s : State) (f : Task → Task) : (s.modTask f).clusters = s.clusters := rfl
@[simp] theorem State.modTask_payWait (s : State) (f : Task → Task) : (s.modTask f).payWait = s.payWait := rfl
@[simp] theorem State.modTask_e2eFailed (s : State) (f : Task → Task) : (s.modTask f).e2eFailed = s.e2eFailed := rfl
@[simp] theorem State.modTask_kenval (s : State) (f : Task → Task) : (s.modTask f).kenval = s.kenval := rfl
@[simp] theorem State.modTask_kenvalSram (s : State) (f : Task → Task) : (s.modTask f).kenvalSram = s.kenvalSram := rfl
@[simp] theorem State.modTask_pipes (s : State) (f : Task → Task) : (s.modTask f).pipes = s.pipes := rfl
@[simp] theorem State.modTask_ports (s : State) (f : Task → Task) : (s.modTask f).ports = s.ports := rfl
@[simp] theorem State.modTask_hostWin (s : State) (f : Task → Task) : (s.modTask f).hostWin = s.hostWin := rfl
@[simp] theorem State.modTask_hostOrder (s : State) (f : Task → Task) : (s.modTask f).hostOrder = s.hostOrder := rfl
@[simp] theorem State.modTask_hostCtr (s : State) (f : Task → Task) : (s.modTask f).hostCtr = s.hostCtr := rfl
@[simp] theorem State.modTask_cmds (s : State) (f : Task → Task) : (s.modTask f).cmds = s.cmds := rfl
@[simp] theorem State.modTask_heldRecs (s : State) (f : Task → Task) : (s.modTask f).heldRecs = s.heldRecs := rfl
@[simp] theorem State.modTask_sward (s : State) (f : Task → Task) : (s.modTask f).sward = s.sward := rfl
@[simp] theorem State.modTask_hbm (s : State) (f : Task → Task) : (s.modTask f).hbm = s.hbm := rfl
@[simp] theorem State.modTask_hostMem (s : State) (f : Task → Task) : (s.modTask f).hostMem = s.hostMem := rfl
@[simp] theorem State.modTask_cxlMem (s : State) (f : Task → Task) : (s.modTask f).cxlMem = s.cxlMem := rfl
@[simp] theorem State.modTask_swardPoison (s : State) (f : Task → Task) : (s.modTask f).swardPoison = s.swardPoison := rfl
@[simp] theorem State.modTask_hbmPoison (s : State) (f : Task → Task) : (s.modTask f).hbmPoison = s.hbmPoison := rfl
@[simp] theorem State.modTask_banks (s : State) (f : Task → Task) : (s.modTask f).banks = s.banks := rfl
@[simp] theorem State.modTask_scrubbing (s : State) (f : Task → Task) : (s.modTask f).scrubbing = s.scrubbing := rfl
@[simp] theorem State.modTask_images (s : State) (f : Task → Task) : (s.modTask f).images = s.images := rfl
@[simp] theorem State.modTask_packetGroups (s : State) (f : Task → Task) : (s.modTask f).packetGroups = s.packetGroups := rfl
@[simp] theorem State.modTask_windows (s : State) (f : Task → Task) : (s.modTask f).windows = s.windows := rfl
@[simp] theorem State.modTask_grantBase (s : State) (f : Task → Task) : (s.modTask f).grantBase = s.grantBase := rfl
@[simp] theorem State.modTask_fabGroups (s : State) (f : Task → Task) : (s.modTask f).fabGroups = s.fabGroups := rfl
@[simp] theorem State.modTask_remoteTimeout (s : State) (f : Task → Task) : (s.modTask f).remoteTimeout = s.remoteTimeout := rfl
@[simp] theorem State.modTask_targetsOut (s : State) (f : Task → Task) : (s.modTask f).targetsOut = s.targetsOut := rfl
@[simp] theorem State.modTask_offsetSince (s : State) (f : Task → Task) : (s.modTask f).offsetSince = s.offsetSince := rfl
@[simp] theorem State.modTask_unsynced (s : State) (f : Task → Task) : (s.modTask f).unsynced = s.unsynced := rfl
@[simp] theorem State.modTask_lastSync (s : State) (f : Task → Task) : (s.modTask f).lastSync = s.lastSync := rfl
@[simp] theorem State.modTask_slew (s : State) (f : Task → Task) : (s.modTask f).slew = s.slew := rfl
@[simp] theorem State.modTask_meas (s : State) (f : Task → Task) : (s.modTask f).meas = s.meas := rfl
@[simp] theorem State.modTask_extends (s : State) (f : Task → Task) : (s.modTask f).extends_ = s.extends_ := rfl
@[simp] theorem State.modTask_thermalStat (s : State) (f : Task → Task) : (s.modTask f).thermalStat = s.thermalStat := rfl
@[simp] theorem State.modTask_poweredOff (s : State) (f : Task → Task) : (s.modTask f).poweredOff = s.poweredOff := rfl
@[simp] theorem State.modTask_powerCap (s : State) (f : Task → Task) : (s.modTask f).powerCap = s.powerCap := rfl
@[simp] theorem State.modTask_winErr (s : State) (f : Task → Task) : (s.modTask f).winErr = s.winErr := rfl
@[simp] theorem State.modTask_draining (s : State) (f : Task → Task) : (s.modTask f).draining = s.draining := rfl
@[simp] theorem State.modTask_hostDrain (s : State) (f : Task → Task) : (s.modTask f).hostDrain = s.hostDrain := rfl
@[simp] theorem State.modTask_drained (s : State) (f : Task → Task) : (s.modTask f).drained = s.drained := rfl
@[simp] theorem State.modTask_out (s : State) (f : Task → Task) : (s.modTask f).out = s.out := rfl

end Sys2Proof.Machine
end

