-- ==== Sys2Proof/Laws/Ops.lean ====
section
/-! SUPPORT. What each shared operation can do, once: slots and their outcomes, exposed writes and their landing, tag
checks, traps, the fault queue. -/

namespace Sys2Proof.Machine

/-! ### Slots -/

theorem ready_guard {s : State} {regs : List (BitVec 6)} (h : s.ready regs = true) : s.guard = true := by
  simp only [State.ready, Bool.and_eq_true] at h; exact h.1

theorem ready_regs {s : State} {regs : List (BitVec 6)} (h : s.ready regs = true) :
    regs.any (scoreboarded s.tk) = false := by
  simp only [State.ready, Bool.and_eq_true, Bool.not_eq_true'] at h; exact h.2

theorem readyFor_ready {s : State} {cs : List ResClass} {regs : List (BitVec 6)} (h : s.readyFor cs regs = true) :
    s.ready regs = true := by
  simp only [State.readyFor, Bool.and_eq_true] at h; exact h.1

theorem readyFor_classes {s : State} {cs : List ResClass} {regs : List (BitVec 6)} (h : s.readyFor cs regs = true) :
    cs.any (claimBlocked s) = false := by
  simp only [State.readyFor, Bool.and_eq_true, Bool.not_eq_true'] at h; exact h.2

/-- A slot that is ready has the outcome of its body. -/
theorem runSlot_ready {s : State} {regs : List (BitVec 6)} (body : State → SlotRes) (h : s.ready regs = true) :
    runSlot regs body s = slotOutcome s (body s) := by
  simp [runSlot, ready_guard h, ready_regs h]

/-- A slot whose predicate is false has no effect (R179). -/
theorem runSlot_off {s : State} {regs : List (BitVec 6)} (body : State → SlotRes) (h : s.guard = false) :
    runSlot regs body s = slotDone s := by
  simp [runSlot, h]

/-- A slot that waits for a load freezes its tile (R178). -/
theorem runSlot_waits {s : State} {regs : List (BitVec 6)} (body : State → SlotRes) (h : s.guard = true)
    (hr : regs.any (scoreboarded s.tk) = true) : runSlot regs body s = slotFreeze (scoreWhy s.tk regs) s := by
  simp [runSlot, h, hr]

/-- Classes that are the task's own leave a body as it is (R139). -/
theorem needClasses_own {s : State} (cs : List ResClass) (body : State → SlotRes)
    (h : cs.any (claimBlocked s) = false) : cs.foldr needClass body s = body s := by
  induction cs with
  | nil => rfl
  | cons c cs ih =>
    simp only [List.any_cons, Bool.or_eq_false_iff] at h
    simp [needClass, h.1, ih h.2]

/-- A body that completes under its claims is the body that completed. -/
theorem needClasses_done {s s' : State} (cs : List ResClass) {body : State → SlotRes}
    (h : cs.foldr needClass body s = .ok s') : body s = .ok s' := by
  induction cs with
  | nil => exact h
  | cons c cs ih =>
    simp only [List.foldr_cons, needClass] at h
    split at h
    · exact ih h
    · split at h <;> cases h

/-- A slot that is ready and claims what is its task's has the outcome of its body. -/
theorem runClaiming_ready {s : State} {cs : List ResClass} {regs : List (BitVec 6)} (body : State → SlotRes)
    (h : s.readyFor cs regs = true) : runClaiming cs regs body s = slotOutcome s (body s) := by
  rw [runClaiming, runSlot_ready _ (readyFor_ready h), needClasses_own _ _ (readyFor_classes h)]

/-- A claiming slot whose predicate is false has no effect (R179). -/
theorem runClaiming_off {s : State} {cs : List ResClass} {regs : List (BitVec 6)} (body : State → SlotRes)
    (h : s.guard = false) : runClaiming cs regs body s = slotDone s := runSlot_off _ h

/-- What a slot can do when its tile goes on: nothing, freeze the tile, or what its body answers. -/
theorem runSlot_cases {s t : State} {regs : List (BitVec 6)} {body : State → SlotRes}
    (h : runSlot regs body s = .next t) :
    (s.guard = false ∧ t = { s with sig := .done }) ∨ slotFreeze (scoreWhy s.tk regs) s = .next t ∨
      (s.ready regs = true ∧ slotOutcome s (body s) = .next t) := by
  unfold runSlot at h
  split at h
  · rename_i hg
    exact .inl ⟨by simpa using hg, (Host.Outcome.next.inj h).symm⟩
  · rename_i hg
    split at h
    · exact .inr (.inl h)
    · rename_i hr
      exact .inr (.inr ⟨by simp_all [State.ready], h⟩)

/-- A body's answer under which the slot has completed. -/
theorem slotOutcome_done {s t : State} {r : SlotRes} (h : slotOutcome s r = .next t) (hd : t.sig = .done) :
    ∃ s', r = .ok s' ∧ t = { s' with sig := .done } := by
  cases r with
  | ok s' => exact ⟨s', rfl, (Host.Outcome.next.inj h).symm⟩
  | trap c v => obtain rfl := Host.Outcome.next.inj h; cases hd
  | trapIn s' c v => obtain rfl := Host.Outcome.next.inj h; cases hd
  | freeze w => obtain rfl := Host.Outcome.next.inj h; cases hd

/-- A slot that has completed either had a false predicate or is what its body made. -/
theorem runSlot_done {s t : State} {regs : List (BitVec 6)} {body : State → SlotRes}
    (h : runSlot regs body s = .next t) (hd : t.sig = .done) :
    t = { s with sig := .done } ∨ ∃ s', body s = .ok s' ∧ t = { s' with sig := .done } := by
  rcases runSlot_cases h with ⟨_, rfl⟩ | hf | ⟨_, ho⟩
  · exact .inl rfl
  · obtain rfl := Host.Outcome.next.inj hf; cases hd
  · exact .inr (slotOutcome_done ho hd)

/-- The same of a claiming slot. -/
theorem runClaiming_done {s t : State} {cs : List ResClass} {regs : List (BitVec 6)} {body : State → SlotRes}
    (h : runClaiming cs regs body s = .next t) (hd : t.sig = .done) :
    t = { s with sig := .done } ∨ ∃ s', body s = .ok s' ∧ t = { s' with sig := .done } := by
  rcases runSlot_done h hd with h | ⟨s', hb, h⟩
  · exact .inl h
  · exact .inr ⟨s', needClasses_done cs hb, h⟩

/-! ### Tag checks (R65) -/

/-- With no failure the body runs. -/
theorem checkTags_ok {srcs : List Src} {s : State} (body : State → SlotRes) (h : tagFault srcs = none) :
    checkTags srcs body s = body s := by
  simp [checkTags, h]

/-- A body that completed passed its tag checks. -/
theorem checkTags_done {srcs : List Src} {s s' : State} {body : State → SlotRes}
    (h : checkTags srcs body s = .ok s') : tagFault srcs = none ∧ body s = .ok s' := by
  unfold checkTags at h
  split at h
  · cases h
  · exact ⟨‹_›, h⟩

/-! ### Exposed writes (R7, R175) -/

@[simp] theorem slotOutcome_ok (s t : State) : slotOutcome s (.ok t) = slotDone t := rfl
@[simp] theorem slotOutcome_trap (s : State) (c : Cause) (v : Word) : slotOutcome s (.trap c v) = slotTrap c v s := rfl
@[simp] theorem slotOutcome_trapIn (s t : State) (c : Cause) (v : Word) :
    slotOutcome s (.trapIn t c v) = slotTrap c v t := rfl
@[simp] theorem slotOutcome_freeze (s : State) (w : FreezeWhy) : slotOutcome s (.freeze w) = slotFreeze w s := rfl

/-- A list of exposed writes, one after another: what `State.after` completes with. -/
theorem slotDone_emits (s : State) (ws : List (Nat × LandVal)) :
    slotDone (ws.foldl (fun s w => emit w.1 w.2 s) s) = .next (s.after ws) := rfl

theorem slotDone_same (s : State) : slotDone s = .next (s.after []) := rfl

theorem emits_emits (s : State) (ws vs : List (Nat × LandVal)) :
    vs.foldl (fun s w => emit w.1 w.2 s) (ws.foldl (fun s w => emit w.1 w.2 s) s) =
      (ws ++ vs).foldl (fun s w => emit w.1 w.2 s) s := List.foldl_append.symm

theorem slotDone_emit (s : State) (lat : Nat) (v : LandVal) : slotDone (emit lat v s) = .next (s.after [(lat, v)]) := rfl

theorem emitS_eq (lat : Nat) (r : BitVec 6) (v : Word) (s : State) :
    emitS lat r v s = (landS lat r v).foldl (fun s w => emit w.1 w.2 s) s := by
  unfold emitS landS; split <;> rfl

theorem emitP_eq (lat : Nat) (r : BitVec 3) (v : Bool) (s : State) :
    emitP lat r v s = (landP lat r v).foldl (fun s w => emit w.1 w.2 s) s := by
  unfold emitP landP; split <;> rfl

theorem emitF_eq (lat : Nat) (f : Word) (s : State) :
    emitF lat f s = (landF lat f).foldl (fun s w => emit w.1 w.2 s) s := by
  unfold emitF landF; split <;> rfl

theorem slotDone_emitS (lat : Nat) (r : BitVec 6) (v : Word) (s : State) :
    slotDone (emitS lat r v s) = .next (s.after (landS lat r v)) := by rw [emitS_eq]; rfl

theorem slotDone_emitP (lat : Nat) (r : BitVec 3) (v : Bool) (s : State) :
    slotDone (emitP lat r v s) = .next (s.after (landP lat r v)) := by rw [emitP_eq]; rfl

theorem slotDone_emitA (lat : Nat) (r : BitVec 5) (v : Word) (s : State) :
    slotDone (emitA lat r v s) = .next (s.after (landA lat r v)) := rfl

theorem slotDone_emitV (lat : Nat) (r : BitVec 6) (v : VReg) (s : State) :
    slotDone (emitV lat r v s) = .next (s.after (s.landV lat r v)) := rfl

/-- A scalar result with its flags. -/
theorem slotDone_emitSF (l m : Nat) (r : BitVec 6) (v f : Word) (s : State) :
    slotDone (emitF m f (emitS l r v s)) = .next (s.after (landS l r v ++ landF m f)) := by
  rw [emitF_eq, emitS_eq, emits_emits]; rfl

/-- A predicate with its flags. -/
theorem slotDone_emitPF (l m : Nat) (r : BitVec 3) (v : Bool) (f : Word) (s : State) :
    slotDone (emitF m f (emitP l r v s)) = .next (s.after (landP l r v ++ landF m f)) := by
  rw [emitF_eq, emitP_eq, emits_emits]; rfl

/-- A vector result with its flags. -/
theorem slotDone_emitVF (l m : Nat) (r : BitVec 6) (v : VReg) (f : Word) (s : State) :
    slotDone (emitF m f (emitV l r v s)) = .next (s.after (s.landV l r v ++ landF m f)) := by
  rw [emitF_eq, show emitV l r v s = (s.landV l r v).foldl (fun s w => emit w.1 w.2 s) s from rfl, emits_emits]; rfl

end Sys2Proof.Machine
end

