-- ==== Sys2Proof/Laws/PerInstr.lean ====
section
/-! SUPPORT. The encoding of each instruction read back, one lemma per constructor of Instr: the family Encoding. -/

namespace Sys2Proof.Laws

open Sys2Proof Machine

/-! ### Fields put together and taken apart -/

/-- The fields and the stop bit of a word are those it was made of (R153). -/
theorem join_bits (stop : Bool) (f : Fields) :
    splitWord (joinWord stop f) = f ∧ slotStop (joinWord stop f) = stop := by
  obtain ⟨o, p, d, a, b⟩ := f
  refine ⟨?_, ?_⟩
  · simp only [splitWord, joinWord, field, Fields.mk.injEq]
    refine ⟨?_, ?_, ?_, ?_, ?_⟩ <;> ext i hi <;> simp only [BitVec.getElem_extractLsb', BitVec.getLsbD_append] <;>
      simp only [← BitVec.getLsbD_eq_getElem] <;> repeat' split
    all_goals first | rfl | omega | (congr 1; omega)
  · simp only [slotStop, joinWord, bit, BitVec.getLsbD_append]
    cases stop <;> rfl

theorem lowBits_zext {n m : Nat} (x : BitVec n) (h : n ≤ m) : lowBits n (x.setWidth m) = some x := by
  have h2 : x.toNat < 2 ^ m := Nat.lt_of_lt_of_le x.isLt (Nat.pow_le_pow_right (by decide) h)
  have : (x.setWidth m).toNat = x.toNat := by simp [BitVec.toNat_setWidth, Nat.mod_eq_of_lt h2]
  simp [lowBits, this, x.isLt, h]

@[simp] theorem aReg_zext (x : BitVec 5) : aReg (zext6 x) = some x := lowBits_zext x (by decide)
@[simp] theorem hReg_zext (x : BitVec 4) : hReg (zext6 x) = some x := lowBits_zext x (by decide)
@[simp] theorem low4_zext (x : BitVec 4) : low4 (zext6 x) = some x := lowBits_zext x (by decide)
@[simp] theorem pReg_zext (x : BitVec 3) : pReg (zext6 x) = some x := lowBits_zext x (by decide)
@[simp] theorem lcReg_zext (x : BitVec 2) : lcReg (zext6 x) = some x := lowBits_zext x (by decide)

@[simp] theorem imm12_parts (x : BitVec 12) : hi6 x ++ lo6 x = x := by
  simp only [hi6, lo6, field]
  rw [BitVec.extractLsb'_append_extractLsb'_eq_extractLsb' (by decide)]
  simp

@[simp] theorem imm12_fields (x : BitVec 12) : (field x 6 6 : BitVec 6) ++ (field x 0 6 : BitVec 6) = x := imm12_parts x

@[simp] theorem imm18_parts (x : BitVec 18) :
    (field x 12 6 : BitVec 6) ++ (field x 6 6 : BitVec 6) ++ (field x 0 6 : BitVec 6) = x := by
  simp only [field]
  rw [BitVec.extractLsb'_append_extractLsb'_eq_extractLsb' (by decide),
    BitVec.extractLsb'_append_extractLsb'_eq_extractLsb' (by decide)]
  simp

@[simp] theorem low10_zext (x : BitVec 10) : low10 (x.setWidth 12) = some x := lowBits_zext x (by decide)

@[simp] theorem tok_code (x : Option (BitVec 5)) : tokOf (tokCode x) = some x := by
  cases x with
  | none => rfl
  | some k => decide +revert

@[simp] theorem scope_code (x : Scope) : scopeOf (scopeCode x) = some x := by cases x <;> rfl

@[simp] theorem low4of12_zext (n : BitVec 4) : low4of12 (0#6 ++ zext6 n) = some n := by decide +revert
@[simp] theorem low6_zext (x : BitVec 6) : low6 (0#6 ++ x) = some x := by decide +revert
@[simp] theorem low4_pair (a b : BitVec 2) : low4 (0#2 ++ a ++ b) = some (a ++ b) := by decide +revert
@[simp] theorem pair_low (a b : BitVec 2) : (field (a ++ b) 0 2 : BitVec 2) = b := by decide +revert
@[simp] theorem pair_high (a b : BitVec 2) : (field (a ++ b) 2 2 : BitVec 2) = a := by decide +revert
@[simp] theorem part_low (a : BitVec 2) (b : BitVec 4) : (field (a ++ b) 0 4 : BitVec 4) = b := by decide +revert
@[simp] theorem part_high (a : BitVec 2) (b : BitVec 4) : (field (a ++ b) 4 2 : BitVec 2) = a := by decide +revert
@[simp] theorem low7_flag (a : Bool) (m : BitVec 6) : low7 (b2v 6 a ++ m) = some (b2v 1 a ++ m) := by decide +revert
@[simp] theorem flag_low (a : Bool) (m : BitVec 6) : (field (b2v 1 a ++ m) 0 6 : BitVec 6) = m := by decide +revert
@[simp] theorem flag_high (a : Bool) (m : BitVec 6) : bit (b2v 1 a ++ m) 6 = a := by decide +revert

/-! ### The statement, and what gives it -/

/-- Every encoding of i, if i is well formed, is read as i in its space (R100, R108, R153). -/
def Encoding.Statement (i : Instr) : Prop :=
  i.wf = true →
    (∀ stop p f, encodeFields p i = some f → decodeSlot (joinWord stop f) = .ok i ∧ slotStop (joinWord stop f) = stop) ∧
    (∀ p w, encodeFields p i = none → encodeWord i = some w → decodeP w = some i ∨ decodeAC w = some i)

/-- A word that the fields of i make is read as i. -/
theorem Encoding.slot {i : Instr} {w : BitVec 32} {stop : Bool} {p : BitVec 3} {f : Fields} (h : Encoding.Statement i)
    (hw : i.wf = true) (hf : encodeFields p i = some f) (he : joinWord stop f = w) : decodeSlot w = .ok i :=
  he ▸ ((h hw).1 stop p f hf).1

/-- Of a tile slot, it is enough that its fields are read as it. -/
theorem Encoding.tile {i : Instr} (g : BitVec 3 → Fields) (hf : ∀ p, encodeFields p i = some (g p))
    (hd : i.wf = true → ∀ p, decodeFields (g p) = .ok i) : Encoding.Statement i := by
  refine fun hw => ⟨fun stop p f he => ?_, fun p w he => ?_⟩
  · obtain rfl : g p = f := Option.some.inj ((hf p).symm.trans he)
    rw [decodeSlot, (join_bits stop _).1]
    exact ⟨hd hw p, (join_bits stop _).2⟩
  · rw [hf p] at he
    cases he

/-- Fields are read as what their row builds (R154). -/
theorem Encoding.read {f : Fields} {i : Instr}
    (h : (opRow f.opc).map (fun r => (r.zero f, r.build (f.opc.toNat - r.base) f)) = some (true, some i))
    (hw : i.wf = true) : decodeFields f = .ok i := by
  unfold decodeFields
  cases hr : opRow f.opc with
  | none => simp [hr] at h
  | some r =>
    simp only [hr, Option.map_some, Option.some.injEq, Prod.mk.injEq] at h
    simp [h, hw]

/-- No opcode is in two rows of its page: the first row that holds it is the only one (R160). -/
theorem rows_apart : ((List.range 8).all fun n => (List.range (opPage n).length).all fun k => (List.range k).all fun j =>
    match (opPage n)[j]?, (opPage n)[k]? with
    | some q, some r => decide (q.base + q.count ≤ r.base ∨ r.base + r.count ≤ q.base)
    | _, _ => true) = true := by decide +kernel

/-- Fields whose opcode is in row k of page n are read as what that row builds (R154, R160). -/
theorem Encoding.readAt {o : BitVec 10} {p : BitVec 3} {d a b : BitVec 6} {i : Instr} (n k : Nat) {r : OpRow}
    (hn : o.toNat / 128 = n) (hr : (opPage n)[k]? = some r) (ho : r.base ≤ o.toNat ∧ o.toNat < r.base + r.count)
    (hz : r.zero ⟨o, p, d, a, b⟩ = true) (hb : r.build (o.toNat - r.base) ⟨o, p, d, a, b⟩ = some i) (hw : i.wf = true) :
    decodeFields ⟨o, p, d, a, b⟩ = .ok i := by
  have hn8 : n < 8 := by have := o.isLt; omega
  obtain ⟨hk, hkr⟩ := List.getElem?_eq_some_iff.1 hr
  have : opRow o = some r := by
    rw [opRow, hn, List.find?_eq_some_iff_getElem]
    refine ⟨by simpa using ho, k, hk, hkr, fun j hj => ?_⟩
    have h := rows_apart
    simp only [List.all_eq_true, List.mem_range] at h
    have h := h n hn8 k hk j hj
    rw [hr, List.getElem?_eq_getElem (Nat.lt_trans hj hk)] at h
    simp only [decide_eq_true_eq] at h
    simp only [Bool.not_eq_true', decide_eq_false_iff_not]
    omega
  exact Encoding.read (by simp [this, hz, hb]) hw

/-- Of a parser word, it is enough that the word is read as it. -/
theorem Encoding.parser {i : Instr} (w : BitVec 32) (hf : ∀ p, encodeFields p i = none) (he : encodeWord i = some w)
    (hd : ∀ v, w = v → pForm v = some i) : Encoding.Statement i := by
  refine fun hw => ⟨fun stop p f h => ?_, fun p v _ h => ?_⟩
  · rw [hf p] at h; cases h
  · obtain rfl : w = v := Option.some.inj (he.symm.trans h)
    exact .inl (by simp [decodeP, hd w rfl, Option.filter, hw])

/-- Of an action word, it is enough that the word is read as it. -/
theorem Encoding.action {i : Instr} (w : BitVec 32) (hf : ∀ p, encodeFields p i = none) (he : encodeWord i = some w)
    (hd : ∀ v, w = v → acForm v = some i) : Encoding.Statement i := by
  refine fun hw => ⟨fun stop p f h => ?_, fun p v _ h => ?_⟩
  · rw [hf p] at h; cases h
  · obtain rfl : w = v := Option.some.inj (he.symm.trans h)
    exact .inr (by simp [decodeAC, hd w rfl, Option.filter, hw])

/-- What has no encoding satisfies it. -/
theorem Encoding.event {i : Instr} (hf : ∀ p, encodeFields p i = none) (he : encodeWord i = none) : Encoding.Statement i := by
  refine fun _ => ⟨fun stop p f h => ?_, fun p w _ h => ?_⟩
  · rw [hf p] at h; cases h
  · rw [he] at h; cases h


theorem field_eq {m n : Nat} {w : BitVec m} {lo : Nat} {x : BitVec n} (h : ∀ i, i < n → w.getLsbD (lo + i) = x.getLsbD i) :
    field w lo n = x := by
  simp only [field]; ext i hi
  rw [BitVec.getElem_extractLsb', ← BitVec.getLsbD_eq_getElem]; exact h i hi

/-- The parts of a form F action word (R108). -/
theorem form_f (o : BitVec 6) (d a b : BitVec 7) (w : BitVec 5) {W : BitVec 32} (h : o ++ d ++ a ++ b ++ w = W) :
    field W 26 6 = o ∧ field W 19 7 = d ∧ field W 12 7 = a ∧ field W 5 7 = b ∧ field W 0 5 = w ∧ field W 1 4 = (field w 1 4 : BitVec 4) ∧ bit W 0 = bit w 0 ∧ bit W 1 = bit w 1 ∧ field W 0 12 = b ++ w ∧ field W 0 26 = d ++ a ++ b ++ w ∧ field W 2 10 = b ++ (field w 2 3 : BitVec 3) := by
  subst h
  refine ⟨?_, ?_, ?_, ?_, ?_, ?_, ?_, ?_, ?_, ?_, ?_⟩
  all_goals first
    | (simp only [bit, BitVec.getLsbD_append]; rfl)
    | (refine field_eq fun i hi => ?_
       simp only [field, BitVec.getLsbD_extractLsb', BitVec.getLsbD_append]
       repeat' split
       all_goals first | rfl | omega | (congr 1; omega) | (simp; omega))

/-- The parts of a form I action word (R108). -/
theorem form_i (o : BitVec 6) (d a : BitVec 7) (v : BitVec 12) {W : BitVec 32} (h : o ++ d ++ a ++ v = W) :
    field W 26 6 = o ∧ field W 19 7 = d ∧ field W 12 7 = a ∧ field W 0 12 = v ∧ field W 0 4 = (field v 0 4 : BitVec 4) ∧ field W 4 15 = a ++ (field v 4 8 : BitVec 8) ∧ field W 4 8 = (field v 4 8 : BitVec 8) ∧ field W 6 6 = (field v 6 6 : BitVec 6) ∧ field W 4 2 = (field v 4 2 : BitVec 2) ∧ field W 0 2 = (field v 0 2 : BitVec 2) ∧ field W 2 17 = a ++ (field v 2 10 : BitVec 10) ∧ field W 0 26 = d ++ a ++ v := by
  subst h
  refine ⟨?_, ?_, ?_, ?_, ?_, ?_, ?_, ?_, ?_, ?_, ?_, ?_⟩
  all_goals
    refine field_eq fun i hi => ?_
    simp only [field, BitVec.getLsbD_extractLsb', BitVec.getLsbD_append]
    repeat' split
    all_goals first | rfl | omega | (congr 1; omega) | (simp; omega)

/-- The parts of a form S action word (R108). -/
theorem form_s (o : BitVec 6) (x : BitVec 7) (t : BitVec 6) (v : BitVec 7) (u : BitVec 6) {W : BitVec 32} (h : o ++ x ++ t ++ v ++ u = W) :
    field W 26 6 = o ∧ field W 19 7 = x ∧ field W 13 6 = t ∧ field W 6 7 = v ∧ field W 3 3 = (field u 3 3 : BitVec 3) ∧ field W 0 3 = (field u 0 3 : BitVec 3) ∧ field W 4 2 = (field u 4 2 : BitVec 2) ∧ field W 0 2 = (field u 0 2 : BitVec 2) ∧ bit W 2 = bit u 2 ∧ bit W 3 = bit u 3 ∧ field W 0 13 = v ++ u := by
  subst h
  refine ⟨?_, ?_, ?_, ?_, ?_, ?_, ?_, ?_, ?_, ?_, ?_⟩
  all_goals first
    | (simp only [bit, BitVec.getLsbD_append]; rfl)
    | (refine field_eq fun i hi => ?_
       simp only [field, BitVec.getLsbD_extractLsb', BitVec.getLsbD_append]
       repeat' split
       all_goals first | rfl | omega | (congr 1; omega) | (simp; omega))

theorem word_relb (reg stg : BitVec 4) {W : BitVec 12} (h : (0 : BitVec 4) ++ stg ++ reg = W) :
    field W 9 3 = (0 : BitVec 3) ∧ bit W 8 = false ∧ field W 0 4 = reg ∧ field W 4 4 = stg := by
  subst h; revert reg stg; decide +kernel

theorem word_relbFree (reg : BitVec 4) {W : BitVec 12} (h : (0x10 : BitVec 8) ++ reg = W) :
    field W 9 3 = (0 : BitVec 3) ∧ bit W 8 = true ∧ field W 0 4 = reg ∧ field W 4 4 = (0 : BitVec 4) := by
  subst h; revert reg; decide +kernel

theorem word_ldd (o : BitVec 6) (j : BitVec 2) (n : BitVec 4) {W : BitVec 12} (h : o ++ j ++ n = W) :
    field W 6 6 = o ∧ field W 4 2 = j ∧ field W 0 4 = n := by
  subst h
  refine ⟨?_, ?_, ?_⟩
  all_goals
    refine field_eq fun i hi => ?_
    simp only [BitVec.getLsbD_append]
    repeat' split
    all_goals first | rfl | omega | (congr 1; omega)

/-- The parts of the low six bits of a payload word (R109). -/
theorem word_pay (k : BitVec 2) (dlv arr : Bool) : ∀ u, (0 : BitVec 2) ++ b2v 1 arr ++ b2v 1 dlv ++ k = u →
    field u 4 2 = (0 : BitVec 2) ∧ field u 0 2 = k ∧ bit u 2 = dlv ∧ bit u 3 = arr := by
  rintro u rfl; revert k dlv arr; decide +kernel

theorem word_pExt (d : BitVec 7) (off : BitVec 8) (n : BitVec 4) (le : Bool) {W : BitVec 32} (h : (0x1 : BitVec 4) ++ d ++ off ++ n ++ b2v 1 le ++ (0 : BitVec 8) = W) :
    field W 28 4 = (0x1 : BitVec 4) ∧ field W 0 8 = (0 : BitVec 8) ∧ field W 21 7 = d ∧ field W 13 8 = off ∧ field W 9 4 = n ∧ bit W 8 = le := by
  subst h
  refine ⟨?_, ?_, ?_, ?_, ?_, ?_⟩
  all_goals first
    | (simp only [bit, BitVec.getLsbD_append]; cases le <;> rfl)
    | (refine field_eq fun i hi => ?_
       simp only [BitVec.getLsbD_append]
       repeat' split
       all_goals first | rfl | omega | (congr 1; omega))

theorem word_pExtb (d : BitVec 7) (off : BitVec 8) (l : BitVec 4) (w : BitVec 4) {W : BitVec 32} (h : (0x2 : BitVec 4) ++ d ++ off ++ l ++ w ++ (0 : BitVec 5) = W) :
    field W 28 4 = (0x2 : BitVec 4) ∧ field W 0 5 = (0 : BitVec 5) ∧ field W 21 7 = d ∧ field W 13 8 = off ∧ field W 9 4 = l ∧ field W 5 4 = w := by
  subst h
  refine ⟨?_, ?_, ?_, ?_, ?_, ?_⟩
  all_goals
    refine field_eq fun i hi => ?_
    simp only [BitVec.getLsbD_append]
    repeat' split
    all_goals first | rfl | omega | (congr 1; omega)

theorem word_pSet (d : BitVec 7) (imm : BitVec 16) {W : BitVec 32} (h : (0x3 : BitVec 4) ++ d ++ (0 : BitVec 5) ++ imm = W) :
    field W 28 4 = (0x3 : BitVec 4) ∧ field W 16 5 = (0 : BitVec 5) ∧ field W 21 7 = d ∧ field W 0 16 = imm := by
  subst h
  refine ⟨?_, ?_, ?_, ?_⟩
  all_goals
    refine field_eq fun i hi => ?_
    simp only [BitVec.getLsbD_append]
    repeat' split
    all_goals first | rfl | omega | (congr 1; omega)

theorem word_pAdv (n : BitVec 9) {W : BitVec 32} (h : (0x4 : BitVec 4) ++ (0 : BitVec 19) ++ n = W) :
    field W 28 4 = (0x4 : BitVec 4) ∧ field W 9 19 = (0 : BitVec 19) ∧ field W 0 9 = n := by
  subst h
  refine ⟨?_, ?_, ?_⟩
  all_goals
    refine field_eq fun i hi => ?_
    simp only [BitVec.getLsbD_append]
    repeat' split
    all_goals first | rfl | omega | (congr 1; omega)

theorem word_pAdvf (a : BitVec 7) (l : BitVec 4) (w : BitVec 4) (sc : BitVec 2) {W : BitVec 32} (h : (0x5 : BitVec 4) ++ a ++ l ++ w ++ sc ++ (0 : BitVec 11) = W) :
    field W 28 4 = (0x5 : BitVec 4) ∧ field W 0 11 = (0 : BitVec 11) ∧ field W 21 7 = a ∧ field W 17 4 = l ∧ field W 13 4 = w ∧ field W 11 2 = sc := by
  subst h
  refine ⟨?_, ?_, ?_, ?_, ?_, ?_⟩
  all_goals
    refine field_eq fun i hi => ?_
    simp only [BitVec.getLsbD_append]
    repeat' split
    all_goals first | rfl | omega | (congr 1; omega)

theorem word_pKey (a : BitVec 7) (m : BitVec 16) {W : BitVec 32} (h : (0x6 : BitVec 4) ++ a ++ (0 : BitVec 5) ++ m = W) :
    field W 28 4 = (0x6 : BitVec 4) ∧ field W 16 5 = (0 : BitVec 5) ∧ field W 21 7 = a ∧ field W 0 16 = m := by
  subst h
  refine ⟨?_, ?_, ?_, ?_⟩
  all_goals
    refine field_eq fun i hi => ?_
    simp only [BitVec.getLsbD_append]
    repeat' split
    all_goals first | rfl | omega | (congr 1; omega)

theorem word_pCase (st : BitVec 6) (v : BitVec 16) {W : BitVec 32} (h : (0x7 : BitVec 4) ++ (0 : BitVec 6) ++ st ++ v = W) :
    field W 28 4 = (0x7 : BitVec 4) ∧ field W 22 6 = (0 : BitVec 6) ∧ field W 16 6 = st ∧ field W 0 16 = v := by
  subst h
  refine ⟨?_, ?_, ?_, ?_⟩
  all_goals
    refine field_eq fun i hi => ?_
    simp only [BitVec.getLsbD_append]
    repeat' split
    all_goals first | rfl | omega | (congr 1; omega)

theorem word_pGoto (st : BitVec 6) {W : BitVec 32} (h : (0x8 : BitVec 4) ++ (0 : BitVec 22) ++ st = W) :
    field W 28 4 = (0x8 : BitVec 4) ∧ field W 6 22 = (0 : BitVec 22) ∧ field W 0 6 = st := by
  subst h
  refine ⟨?_, ?_, ?_⟩
  all_goals
    refine field_eq fun i hi => ?_
    simp only [BitVec.getLsbD_append]
    repeat' split
    all_goals first | rfl | omega | (congr 1; omega)

theorem word_pPayld (n : BitVec 9) {W : BitVec 32} (h : (0x9 : BitVec 4) ++ (0 : BitVec 19) ++ n = W) :
    field W 28 4 = (0x9 : BitVec 4) ∧ field W 9 19 = (0 : BitVec 19) ∧ field W 0 9 = n := by
  subst h
  refine ⟨?_, ?_, ?_⟩
  all_goals
    refine field_eq fun i hi => ?_
    simp only [BitVec.getLsbD_append]
    repeat' split
    all_goals first | rfl | omega | (congr 1; omega)

theorem word_pEnd (e : Bool) {W : BitVec 32} (h : (0xA : BitVec 4) ++ (0 : BitVec 27) ++ b2v 1 e = W) :
    field W 28 4 = (0xA : BitVec 4) ∧ field W 1 27 = (0 : BitVec 27) ∧ bit W 0 = e := by
  subst h
  refine ⟨?_, ?_, ?_⟩
  all_goals first
    | (simp only [bit, BitVec.getLsbD_append]; cases e <;> rfl)
    | (refine field_eq fun i hi => ?_
       simp only [BitVec.getLsbD_append]
       repeat' split
       all_goals first | rfl | omega | (congr 1; omega))

/-! ### One lemma per constructor -/

theorem Encoding.pNop : Encoding.Statement .pNop := 
  Encoding.parser _ (fun _ => rfl) rfl (fun _ h => h ▸ rfl)

theorem Encoding.pExt (d : BitVec 7) (off : BitVec 8) (n : BitVec 4) (le : Bool) : Encoding.Statement (.pExt d off n le) := 
  Encoding.parser _ (fun _ => rfl) rfl (fun _ h => by simp [pForm, zeros, word_pExt d off n le h])

theorem Encoding.pExtb (d : BitVec 7) (off : BitVec 8) (l : BitVec 4) (w : BitVec 4) : Encoding.Statement (.pExtb d off l w) := 
  Encoding.parser _ (fun _ => rfl) rfl (fun _ h => by simp [pForm, zeros, word_pExtb d off l w h])

theorem Encoding.pSet (d : BitVec 7) (imm : BitVec 16) : Encoding.Statement (.pSet d imm) := 
  Encoding.parser _ (fun _ => rfl) rfl (fun _ h => by simp [pForm, zeros, word_pSet d imm h])

theorem Encoding.pAdv (n : BitVec 9) : Encoding.Statement (.pAdv n) := 
  Encoding.parser _ (fun _ => rfl) rfl (fun _ h => by simp [pForm, zeros, word_pAdv n h])

theorem Encoding.pAdvf (a : BitVec 7) (l : BitVec 4) (w : BitVec 4) (sc : BitVec 2) : Encoding.Statement (.pAdvf a l w sc) := 
  Encoding.parser _ (fun _ => rfl) rfl (fun _ h => by simp [pForm, zeros, word_pAdvf a l w sc h])

theorem Encoding.pKey (a : BitVec 7) (m : BitVec 16) : Encoding.Statement (.pKey a m) := 
  Encoding.parser _ (fun _ => rfl) rfl (fun _ h => by simp [pForm, zeros, word_pKey a m h])

theorem Encoding.pCase (st : BitVec 6) (v : BitVec 16) : Encoding.Statement (.pCase st v) := 
  Encoding.parser _ (fun _ => rfl) rfl (fun _ h => by simp [pForm, zeros, word_pCase st v h])

theorem Encoding.pGoto (st : BitVec 6) : Encoding.Statement (.pGoto st) := 
  Encoding.parser _ (fun _ => rfl) rfl (fun _ h => by simp [pForm, zeros, word_pGoto st h])

theorem Encoding.pPayld (n : BitVec 9) : Encoding.Statement (.pPayld n) := 
  Encoding.parser _ (fun _ => rfl) rfl (fun _ h => by simp [pForm, zeros, word_pPayld n h])

theorem Encoding.pEnd (e : Bool) : Encoding.Statement (.pEnd e) := 
  Encoding.parser _ (fun _ => rfl) rfl (fun _ h => by simp [pForm, zeros, word_pEnd e h])

theorem Encoding.acNop : Encoding.Statement .acNop := 
  Encoding.action _ (fun _ => rfl) rfl (fun _ h => h ▸ rfl)

theorem Encoding.acMov (d : BitVec 7) (a : BitVec 7) : Encoding.Statement (.acMov d a) := 
  Encoding.action _ (fun _ => rfl) rfl (fun _ h => by simp [acForm, zeros, wD, wA, form_f 0x01 d a 0 0 h])

theorem Encoding.acAdd (d : BitVec 7) (a : BitVec 7) (b : BitVec 7) (s : Bool) : Encoding.Statement (.acAdd d a b s) := 
  Encoding.action _ (fun _ => rfl) rfl (fun _ h => by simp [acForm, acSat, zeros, wD, wA, wB, form_f 0x02 d a b (b2v 5 s) h]; clear h; decide +kernel +revert)

theorem Encoding.acSub (d : BitVec 7) (a : BitVec 7) (b : BitVec 7) (s : Bool) : Encoding.Statement (.acSub d a b s) := 
  Encoding.action _ (fun _ => rfl) rfl (fun _ h => by simp [acForm, acSat, zeros, wD, wA, wB, form_f 0x03 d a b (b2v 5 s) h]; clear h; decide +kernel +revert)

theorem Encoding.acAnd (d : BitVec 7) (a : BitVec 7) (b : BitVec 7) : Encoding.Statement (.acAnd d a b) := 
  Encoding.action _ (fun _ => rfl) rfl (fun _ h => by simp [acForm, acDab, zeros, wD, wA, wB, form_f 0x04 d a b 0 h])

theorem Encoding.acOr (d : BitVec 7) (a : BitVec 7) (b : BitVec 7) : Encoding.Statement (.acOr d a b) := 
  Encoding.action _ (fun _ => rfl) rfl (fun _ h => by simp [acForm, acDab, zeros, wD, wA, wB, form_f 0x05 d a b 0 h])

theorem Encoding.acXor (d : BitVec 7) (a : BitVec 7) (b : BitVec 7) : Encoding.Statement (.acXor d a b) := 
  Encoding.action _ (fun _ => rfl) rfl (fun _ h => by simp [acForm, acDab, zeros, wD, wA, wB, form_f 0x06 d a b 0 h])

theorem Encoding.acShl (d : BitVec 7) (a : BitVec 7) (w : BitVec 5) : Encoding.Statement (.acShl d a w) := 
  Encoding.action _ (fun _ => rfl) rfl (fun _ h => by simp [acForm, acShift, zeros, wD, wA, form_f 0x07 d a 0 w h])

theorem Encoding.acShr (d : BitVec 7) (a : BitVec 7) (w : BitVec 5) : Encoding.Statement (.acShr d a w) := 
  Encoding.action _ (fun _ => rfl) rfl (fun _ h => by simp [acForm, acShift, zeros, wD, wA, form_f 0x08 d a 0 w h])

theorem Encoding.acMin (d : BitVec 7) (a : BitVec 7) (b : BitVec 7) : Encoding.Statement (.acMin d a b) := 
  Encoding.action _ (fun _ => rfl) rfl (fun _ h => by simp [acForm, acDab, zeros, wD, wA, wB, form_f 0x09 d a b 0 h])

theorem Encoding.acMax (d : BitVec 7) (a : BitVec 7) (b : BitVec 7) : Encoding.Statement (.acMax d a b) := 
  Encoding.action _ (fun _ => rfl) rfl (fun _ h => by simp [acForm, acDab, zeros, wD, wA, wB, form_f 0x0A d a b 0 h])

theorem Encoding.acSlt (d : BitVec 7) (a : BitVec 7) (b : BitVec 7) : Encoding.Statement (.acSlt d a b) := 
  Encoding.action _ (fun _ => rfl) rfl (fun _ h => by simp [acForm, acDab, zeros, wD, wA, wB, form_f 0x0B d a b 0 h])

theorem Encoding.acMovi (d : BitVec 7) (imm : BitVec 12) : Encoding.Statement (.acMovi d imm) := 
  Encoding.action _ (fun _ => rfl) rfl (fun _ h => by simp [acForm, zeros, wD, wImm, form_i 0x10 d 0 imm h])

theorem Encoding.acAddi (d : BitVec 7) (a : BitVec 7) (imm : BitVec 12) : Encoding.Statement (.acAddi d a imm) := 
  Encoding.action _ (fun _ => rfl) rfl (fun _ h => by simp [acForm, wD, wA, wImm, form_i 0x11 d a imm h])

theorem Encoding.acAndi (d : BitVec 7) (a : BitVec 7) (imm : BitVec 12) : Encoding.Statement (.acAndi d a imm) := 
  Encoding.action _ (fun _ => rfl) rfl (fun _ h => by simp [acForm, wD, wA, wImm, form_i 0x12 d a imm h])

theorem Encoding.acOri (d : BitVec 7) (a : BitVec 7) (imm : BitVec 12) : Encoding.Statement (.acOri d a imm) := 
  Encoding.action _ (fun _ => rfl) rfl (fun _ h => by simp [acForm, wD, wA, wImm, form_i 0x13 d a imm h])

theorem Encoding.acMovh (d : BitVec 7) (imm : BitVec 4) : Encoding.Statement (.acMovh d imm) := 
  Encoding.action _ (fun _ => rfl) rfl (fun _ h => by simp [acForm, zeros, wD, form_i 0x14 d 0 (imm.setWidth 12) h]; clear h; decide +kernel +revert)

theorem Encoding.acSeqi (d : BitVec 7) (a : BitVec 7) (imm : BitVec 12) : Encoding.Statement (.acSeqi d a imm) := 
  Encoding.action _ (fun _ => rfl) rfl (fun _ h => by simp [acForm, wD, wA, wImm, form_i 0x15 d a imm h])

theorem Encoding.acSkipz (a : BitVec 7) (n : BitVec 4) : Encoding.Statement (.acSkipz a n) := 
  Encoding.action _ (fun _ => rfl) rfl (fun _ h => by simp [acForm, acSkip, zeros, wA, form_i 0x18 0 a (n.setWidth 12) h]; clear h; decide +kernel +revert)

theorem Encoding.acSkipnz (a : BitVec 7) (n : BitVec 4) : Encoding.Statement (.acSkipnz a n) := 
  Encoding.action _ (fun _ => rfl) rfl (fun _ h => by simp [acForm, acSkip, zeros, wA, form_i 0x19 0 a (n.setWidth 12) h]; clear h; decide +kernel +revert)

theorem Encoding.acDone : Encoding.Statement .acDone := 
  Encoding.action _ (fun _ => rfl) rfl (fun _ h => by simp [acForm, zeros, form_i 0x1A 0 0 0 h])

theorem Encoding.acLdd (d : BitVec 7) (o : BitVec 6) (j : BitVec 2) (n : BitVec 4) : Encoding.Statement (.acLdd d o j n) := 
  Encoding.action _ (fun _ => rfl) rfl (fun _ h => by
    have hp := word_ldd o j n rfl
    have hf := form_i 0x20 d 0 _ h
    generalize o ++ j ++ n = u at hp hf
    simp [acForm, zeros, wD, hp, hf])

theorem Encoding.acHit (d : BitVec 7) (j : BitVec 2) : Encoding.Statement (.acHit d j) := 
  Encoding.action _ (fun _ => rfl) rfl (fun _ h => by simp [acForm, zeros, wD, form_i 0x21 d 0 (j.setWidth 12) h]; clear h; decide +kernel +revert)

theorem Encoding.acFwd (a : BitVec 7) : Encoding.Statement (.acFwd a) := 
  Encoding.action _ (fun _ => rfl) rfl (fun _ h => by simp [acForm, acJustA, zeros, wA, form_f 0x22 0 a 0 0 h])

theorem Encoding.acMcast (a : BitVec 7) : Encoding.Statement (.acMcast a) := 
  Encoding.action _ (fun _ => rfl) rfl (fun _ h => by simp [acForm, acJustA, zeros, wA, form_f 0x23 0 a 0 0 h])

theorem Encoding.acDrop : Encoding.Statement .acDrop := 
  Encoding.action _ (fun _ => rfl) rfl (fun _ h => by simp [acForm, zeros, form_f 0x24 0 0 0 0 h])

theorem Encoding.acRoute (a : BitVec 7) : Encoding.Statement (.acRoute a) := 
  Encoding.action _ (fun _ => rfl) rfl (fun _ h => by simp [acForm, acJustA, zeros, wA, form_f 0x25 0 a 0 0 h])

theorem Encoding.acSrd (x : BitVec 7) (t : BitVec 6) (v : BitVec 7) (w : BitVec 3) : Encoding.Statement (.acSrd x t v w) := 
  Encoding.action _ (fun _ => rfl) rfl (fun _ h => by simp [acForm, acCell, zeros, wD, wT, wV, form_s 0x28 x t v (w.setWidth 6) h]; clear h; decide +kernel +revert)

theorem Encoding.acSwr (x : BitVec 7) (t : BitVec 6) (v : BitVec 7) (w : BitVec 3) : Encoding.Statement (.acSwr x t v w) := 
  Encoding.action _ (fun _ => rfl) rfl (fun _ h => by simp [acForm, acCell, zeros, wD, wT, wV, form_s 0x29 x t v (w.setWidth 6) h]; clear h; decide +kernel +revert)

theorem Encoding.acSadd (x : BitVec 7) (t : BitVec 6) (v : BitVec 7) (w : BitVec 3) : Encoding.Statement (.acSadd x t v w) := 
  Encoding.action _ (fun _ => rfl) rfl (fun _ h => by simp [acForm, acCell, zeros, wD, wT, wV, form_s 0x2A x t v (w.setWidth 6) h]; clear h; decide +kernel +revert)

theorem Encoding.acArrive (d : BitVec 7) (a : BitVec 7) (link : Bool) (one : Bool) : Encoding.Statement (.acArrive d a link one) := 
  Encoding.action _ (fun _ => rfl) rfl (fun _ h => by simp [acForm, zeros, wD, wA, form_f 0x2C d a 0 ((0 : BitVec 3) ++ b2v 1 one ++ b2v 1 link) h]; clear h; decide +kernel +revert)

theorem Encoding.acExpect (d : BitVec 7) (a : BitVec 7) : Encoding.Statement (.acExpect d a) := 
  Encoding.action _ (fun _ => rfl) rfl (fun _ h => by simp [acForm, zeros, wD, wA, form_f 0x2D d a 0 0 h])

theorem Encoding.acPayWrite (x : BitVec 7) (t : BitVec 6) (v : BitVec 7) (dlv : Bool) (arr : Bool) : Encoding.Statement (.acPayWrite x t v dlv arr) := 
  Encoding.action _ (fun _ => rfl) rfl (fun _ h => by
    have hp := word_pay 0 dlv arr _ rfl
    have hf := form_s 0x30 x t v _ h
    generalize (0 : BitVec 2) ++ b2v 1 arr ++ b2v 1 dlv ++ (0 : BitVec 2) = u at hp hf
    simp [acForm, acPay, zeros, wD, wT, wV, hp, hf])

theorem Encoding.acPayAddw (x : BitVec 7) (t : BitVec 6) (v : BitVec 7) (dlv : Bool) (arr : Bool) : Encoding.Statement (.acPayAddw x t v dlv arr) := 
  Encoding.action _ (fun _ => rfl) rfl (fun _ h => by
    have hp := word_pay 1 dlv arr _ rfl
    have hf := form_s 0x30 x t v _ h
    generalize (0 : BitVec 2) ++ b2v 1 arr ++ b2v 1 dlv ++ (1 : BitVec 2) = u at hp hf
    simp [acForm, acPay, zeros, wD, wT, wV, hp, hf])

theorem Encoding.acPayAdds (x : BitVec 7) (t : BitVec 6) (v : BitVec 7) (dlv : Bool) (arr : Bool) : Encoding.Statement (.acPayAdds x t v dlv arr) := 
  Encoding.action _ (fun _ => rfl) rfl (fun _ h => by
    have hp := word_pay 2 dlv arr _ rfl
    have hf := form_s 0x30 x t v _ h
    generalize (0 : BitVec 2) ++ b2v 1 arr ++ b2v 1 dlv ++ (2 : BitVec 2) = u at hp hf
    simp [acForm, acPay, zeros, wD, wT, wV, hp, hf])

theorem Encoding.acPayAddf (x : BitVec 7) (t : BitVec 6) (v : BitVec 7) (dlv : Bool) (arr : Bool) : Encoding.Statement (.acPayAddf x t v dlv arr) := 
  Encoding.action _ (fun _ => rfl) rfl (fun _ h => by
    have hp := word_pay 3 dlv arr _ rfl
    have hf := form_s 0x30 x t v _ h
    generalize (0 : BitVec 2) ++ b2v 1 arr ++ b2v 1 dlv ++ (3 : BitVec 2) = u at hp hf
    simp [acForm, acPay, zeros, wD, wT, wV, hp, hf])

theorem Encoding.acAdmit (x : BitVec 7) (t : BitVec 6) : Encoding.Statement (.acAdmit x t) := 
  Encoding.action _ (fun _ => rfl) rfl (fun _ h => by simp [acForm, zeros, wD, wT, form_s 0x31 x t 0 0 h])

theorem Encoding.acClose (x : BitVec 7) (t : BitVec 6) : Encoding.Statement (.acClose x t) := 
  Encoding.action _ (fun _ => rfl) rfl (fun _ h => by simp [acForm, zeros, wD, wT, form_s 0x32 x t 0 0 h])

theorem Encoding.add (d : BitVec 6) (a : BitVec 6) (b : BitVec 6) : Encoding.Statement (.add d a b) := 
  Encoding.tile _ (fun _ => rfl) fun hw p => Encoding.readAt 0 0 (by decide) rfl (by decide) (by simp [zeroBut, onlyPDAB]) (by simp []) hw

theorem Encoding.sub (d : BitVec 6) (a : BitVec 6) (b : BitVec 6) : Encoding.Statement (.sub d a b) := 
  Encoding.tile _ (fun _ => rfl) fun hw p => Encoding.readAt 0 1 (by decide) rfl (by decide) (by simp [zeroBut, onlyPDAB]) (by simp []) hw

theorem Encoding.and (d : BitVec 6) (a : BitVec 6) (b : BitVec 6) : Encoding.Statement (.and d a b) := 
  Encoding.tile _ (fun _ => rfl) fun hw p => Encoding.readAt 0 2 (by decide) rfl (by decide) (by simp [zeroBut, onlyPDAB]) (by simp []) hw

theorem Encoding.or (d : BitVec 6) (a : BitVec 6) (b : BitVec 6) : Encoding.Statement (.or d a b) := 
  Encoding.tile _ (fun _ => rfl) fun hw p => Encoding.readAt 0 3 (by decide) rfl (by decide) (by simp [zeroBut, onlyPDAB]) (by simp []) hw

theorem Encoding.xor (d : BitVec 6) (a : BitVec 6) (b : BitVec 6) : Encoding.Statement (.xor d a b) := 
  Encoding.tile _ (fun _ => rfl) fun hw p => Encoding.readAt 0 4 (by decide) rfl (by decide) (by simp [zeroBut, onlyPDAB]) (by simp []) hw

theorem Encoding.sll (d : BitVec 6) (a : BitVec 6) (b : BitVec 6) : Encoding.Statement (.sll d a b) := 
  Encoding.tile _ (fun _ => rfl) fun hw p => Encoding.readAt 0 5 (by decide) rfl (by decide) (by simp [zeroBut, onlyPDAB]) (by simp []) hw

theorem Encoding.srl (d : BitVec 6) (a : BitVec 6) (b : BitVec 6) : Encoding.Statement (.srl d a b) := 
  Encoding.tile _ (fun _ => rfl) fun hw p => Encoding.readAt 0 6 (by decide) rfl (by decide) (by simp [zeroBut, onlyPDAB]) (by simp []) hw

theorem Encoding.sra (d : BitVec 6) (a : BitVec 6) (b : BitVec 6) : Encoding.Statement (.sra d a b) := 
  Encoding.tile _ (fun _ => rfl) fun hw p => Encoding.readAt 0 7 (by decide) rfl (by decide) (by simp [zeroBut, onlyPDAB]) (by simp []) hw

theorem Encoding.min (d : BitVec 6) (a : BitVec 6) (b : BitVec 6) : Encoding.Statement (.min d a b) := 
  Encoding.tile _ (fun _ => rfl) fun hw p => Encoding.readAt 0 8 (by decide) rfl (by decide) (by simp [zeroBut, onlyPDAB]) (by simp []) hw

theorem Encoding.max (d : BitVec 6) (a : BitVec 6) (b : BitVec 6) : Encoding.Statement (.max d a b) := 
  Encoding.tile _ (fun _ => rfl) fun hw p => Encoding.readAt 0 9 (by decide) rfl (by decide) (by simp [zeroBut, onlyPDAB]) (by simp []) hw

theorem Encoding.minu (d : BitVec 6) (a : BitVec 6) (b : BitVec 6) : Encoding.Statement (.minu d a b) := 
  Encoding.tile _ (fun _ => rfl) fun hw p => Encoding.readAt 0 10 (by decide) rfl (by decide) (by simp [zeroBut, onlyPDAB]) (by simp []) hw

theorem Encoding.maxu (d : BitVec 6) (a : BitVec 6) (b : BitVec 6) : Encoding.Statement (.maxu d a b) := 
  Encoding.tile _ (fun _ => rfl) fun hw p => Encoding.readAt 0 11 (by decide) rfl (by decide) (by simp [zeroBut, onlyPDAB]) (by simp []) hw

theorem Encoding.mul (d : BitVec 6) (a : BitVec 6) (b : BitVec 6) : Encoding.Statement (.mul d a b) := 
  Encoding.tile _ (fun _ => rfl) fun hw p => Encoding.readAt 0 12 (by decide) rfl (by decide) (by simp [zeroBut, onlyPDAB]) (by simp []) hw

theorem Encoding.mulh (d : BitVec 6) (a : BitVec 6) (b : BitVec 6) : Encoding.Statement (.mulh d a b) := 
  Encoding.tile _ (fun _ => rfl) fun hw p => Encoding.readAt 0 13 (by decide) rfl (by decide) (by simp [zeroBut, onlyPDAB]) (by simp []) hw

theorem Encoding.mulhu (d : BitVec 6) (a : BitVec 6) (b : BitVec 6) : Encoding.Statement (.mulhu d a b) := 
  Encoding.tile _ (fun _ => rfl) fun hw p => Encoding.readAt 0 14 (by decide) rfl (by decide) (by simp [zeroBut, onlyPDAB]) (by simp []) hw

theorem Encoding.div (d : BitVec 6) (a : BitVec 6) (b : BitVec 6) : Encoding.Statement (.div d a b) := 
  Encoding.tile _ (fun _ => rfl) fun hw p => Encoding.readAt 0 15 (by decide) rfl (by decide) (by simp [zeroBut, onlyPDAB]) (by simp []) hw

theorem Encoding.divu (d : BitVec 6) (a : BitVec 6) (b : BitVec 6) : Encoding.Statement (.divu d a b) := 
  Encoding.tile _ (fun _ => rfl) fun hw p => Encoding.readAt 0 16 (by decide) rfl (by decide) (by simp [zeroBut, onlyPDAB]) (by simp []) hw

theorem Encoding.rem (d : BitVec 6) (a : BitVec 6) (b : BitVec 6) : Encoding.Statement (.rem d a b) := 
  Encoding.tile _ (fun _ => rfl) fun hw p => Encoding.readAt 0 17 (by decide) rfl (by decide) (by simp [zeroBut, onlyPDAB]) (by simp []) hw

theorem Encoding.remu (d : BitVec 6) (a : BitVec 6) (b : BitVec 6) : Encoding.Statement (.remu d a b) := 
  Encoding.tile _ (fun _ => rfl) fun hw p => Encoding.readAt 0 18 (by decide) rfl (by decide) (by simp [zeroBut, onlyPDAB]) (by simp []) hw

theorem Encoding.addi (d : BitVec 6) (a : BitVec 6) (imm : BitVec 6) : Encoding.Statement (.addi d a imm) := 
  Encoding.tile _ (fun _ => rfl) fun hw p => Encoding.readAt 0 19 (by decide) rfl (by decide) (by simp [zeroBut, onlyPDAB]) (by simp []) hw

theorem Encoding.andi (d : BitVec 6) (a : BitVec 6) (imm : BitVec 6) : Encoding.Statement (.andi d a imm) := 
  Encoding.tile _ (fun _ => rfl) fun hw p => Encoding.readAt 0 20 (by decide) rfl (by decide) (by simp [zeroBut, onlyPDAB]) (by simp []) hw

theorem Encoding.ori (d : BitVec 6) (a : BitVec 6) (imm : BitVec 6) : Encoding.Statement (.ori d a imm) := 
  Encoding.tile _ (fun _ => rfl) fun hw p => Encoding.readAt 0 21 (by decide) rfl (by decide) (by simp [zeroBut, onlyPDAB]) (by simp []) hw

theorem Encoding.xori (d : BitVec 6) (a : BitVec 6) (imm : BitVec 6) : Encoding.Statement (.xori d a imm) := 
  Encoding.tile _ (fun _ => rfl) fun hw p => Encoding.readAt 0 22 (by decide) rfl (by decide) (by simp [zeroBut, onlyPDAB]) (by simp []) hw

theorem Encoding.slli (d : BitVec 6) (a : BitVec 6) (imm : BitVec 6) : Encoding.Statement (.slli d a imm) := 
  Encoding.tile _ (fun _ => rfl) fun hw p => Encoding.readAt 0 23 (by decide) rfl (by decide) (by simp [zeroBut, onlyPDAB]) (by simp []) hw

theorem Encoding.srli (d : BitVec 6) (a : BitVec 6) (imm : BitVec 6) : Encoding.Statement (.srli d a imm) := 
  Encoding.tile _ (fun _ => rfl) fun hw p => Encoding.readAt 0 24 (by decide) rfl (by decide) (by simp [zeroBut, onlyPDAB]) (by simp []) hw

theorem Encoding.srai (d : BitVec 6) (a : BitVec 6) (imm : BitVec 6) : Encoding.Statement (.srai d a imm) := 
  Encoding.tile _ (fun _ => rfl) fun hw p => Encoding.readAt 0 25 (by decide) rfl (by decide) (by simp [zeroBut, onlyPDAB]) (by simp []) hw

theorem Encoding.movi (d : BitVec 6) (imm : BitVec 12) : Encoding.Statement (.movi d imm) := 
  Encoding.tile _ (fun _ => rfl) fun hw p => Encoding.readAt 0 26 (by decide) rfl (by decide) (by simp [zeroBut, onlyPDAB]) (by simp [Fields.imm12]) hw

theorem Encoding.movk (d : BitVec 6) (imm : BitVec 12) : Encoding.Statement (.movk d imm) := 
  Encoding.tile _ (fun _ => rfl) fun hw p => Encoding.readAt 0 27 (by decide) rfl (by decide) (by simp [zeroBut, onlyPDAB]) (by simp [Fields.imm12]) hw

theorem Encoding.cmpeq (d : BitVec 3) (a : BitVec 6) (b : BitVec 6) : Encoding.Statement (.cmpeq d a b) := 
  Encoding.tile _ (fun _ => rfl) fun hw p => Encoding.readAt 0 28 (by decide) rfl (by decide) (by simp [zeroBut, onlyPDAB]) (by simp []) hw

theorem Encoding.cmpne (d : BitVec 3) (a : BitVec 6) (b : BitVec 6) : Encoding.Statement (.cmpne d a b) := 
  Encoding.tile _ (fun _ => rfl) fun hw p => Encoding.readAt 0 29 (by decide) rfl (by decide) (by simp [zeroBut, onlyPDAB]) (by simp []) hw

theorem Encoding.cmplt (d : BitVec 3) (a : BitVec 6) (b : BitVec 6) : Encoding.Statement (.cmplt d a b) := 
  Encoding.tile _ (fun _ => rfl) fun hw p => Encoding.readAt 0 30 (by decide) rfl (by decide) (by simp [zeroBut, onlyPDAB]) (by simp []) hw

theorem Encoding.cmpltu (d : BitVec 3) (a : BitVec 6) (b : BitVec 6) : Encoding.Statement (.cmpltu d a b) := 
  Encoding.tile _ (fun _ => rfl) fun hw p => Encoding.readAt 0 31 (by decide) rfl (by decide) (by simp [zeroBut, onlyPDAB]) (by simp []) hw

theorem Encoding.cmple (d : BitVec 3) (a : BitVec 6) (b : BitVec 6) : Encoding.Statement (.cmple d a b) := 
  Encoding.tile _ (fun _ => rfl) fun hw p => Encoding.readAt 0 32 (by decide) rfl (by decide) (by simp [zeroBut, onlyPDAB]) (by simp []) hw

theorem Encoding.cmpleu (d : BitVec 3) (a : BitVec 6) (b : BitVec 6) : Encoding.Statement (.cmpleu d a b) := 
  Encoding.tile _ (fun _ => rfl) fun hw p => Encoding.readAt 0 33 (by decide) rfl (by decide) (by simp [zeroBut, onlyPDAB]) (by simp []) hw

theorem Encoding.cmpeqi (d : BitVec 3) (a : BitVec 6) (imm : BitVec 6) : Encoding.Statement (.cmpeqi d a imm) := 
  Encoding.tile _ (fun _ => rfl) fun hw p => Encoding.readAt 0 34 (by decide) rfl (by decide) (by simp [zeroBut, onlyPDAB]) (by simp []) hw

theorem Encoding.cmplti (d : BitVec 3) (a : BitVec 6) (imm : BitVec 6) : Encoding.Statement (.cmplti d a imm) := 
  Encoding.tile _ (fun _ => rfl) fun hw p => Encoding.readAt 0 35 (by decide) rfl (by decide) (by simp [zeroBut, onlyPDAB]) (by simp []) hw

theorem Encoding.cmplei (d : BitVec 3) (a : BitVec 6) (imm : BitVec 6) : Encoding.Statement (.cmplei d a imm) := 
  Encoding.tile _ (fun _ => rfl) fun hw p => Encoding.readAt 0 36 (by decide) rfl (by decide) (by simp [zeroBut, onlyPDAB]) (by simp []) hw

theorem Encoding.pand (d : BitVec 3) (a : BitVec 3) (b : BitVec 3) : Encoding.Statement (.pand d a b) := 
  Encoding.tile _ (fun _ => rfl) fun hw p => Encoding.readAt 0 37 (by decide) rfl (by decide) (by simp [zeroBut, onlyPDAB]) (by simp []) hw

theorem Encoding.por (d : BitVec 3) (a : BitVec 3) (b : BitVec 3) : Encoding.Statement (.por d a b) := 
  Encoding.tile _ (fun _ => rfl) fun hw p => Encoding.readAt 0 38 (by decide) rfl (by decide) (by simp [zeroBut, onlyPDAB]) (by simp []) hw

theorem Encoding.pxor (d : BitVec 3) (a : BitVec 3) (b : BitVec 3) : Encoding.Statement (.pxor d a b) := 
  Encoding.tile _ (fun _ => rfl) fun hw p => Encoding.readAt 0 39 (by decide) rfl (by decide) (by simp [zeroBut, onlyPDAB]) (by simp []) hw

theorem Encoding.pnot (d : BitVec 3) (a : BitVec 3) : Encoding.Statement (.pnot d a) := 
  Encoding.tile _ (fun _ => rfl) fun hw p => Encoding.readAt 0 40 (by decide) rfl (by decide) (by simp [zeroBut, onlyPDA]) (by simp []) hw

theorem Encoding.fadd (r : RMode) (d : BitVec 6) (a : BitVec 6) (b : BitVec 6) : Encoding.Statement (.fadd r d a b) := by
  cases r <;> exact Encoding.tile _ (fun _ => rfl) fun hw p => Encoding.readAt 0 41 (by decide) rfl (by decide) (by simp [zeroBut, onlyPDAB]) (by simp [rIdx, rOf]) hw

theorem Encoding.fsub (r : RMode) (d : BitVec 6) (a : BitVec 6) (b : BitVec 6) : Encoding.Statement (.fsub r d a b) := by
  cases r <;> exact Encoding.tile _ (fun _ => rfl) fun hw p => Encoding.readAt 0 42 (by decide) rfl (by decide) (by simp [zeroBut, onlyPDAB]) (by simp [rIdx, rOf]) hw

theorem Encoding.fmul (r : RMode) (d : BitVec 6) (a : BitVec 6) (b : BitVec 6) : Encoding.Statement (.fmul r d a b) := by
  cases r <;> exact Encoding.tile _ (fun _ => rfl) fun hw p => Encoding.readAt 0 43 (by decide) rfl (by decide) (by simp [zeroBut, onlyPDAB]) (by simp [rIdx, rOf]) hw

theorem Encoding.fdiv (r : RMode) (d : BitVec 6) (a : BitVec 6) (b : BitVec 6) : Encoding.Statement (.fdiv r d a b) := by
  cases r <;> exact Encoding.tile _ (fun _ => rfl) fun hw p => Encoding.readAt 0 44 (by decide) rfl (by decide) (by simp [zeroBut, onlyPDAB]) (by simp [rIdx, rOf]) hw

theorem Encoding.fma (r : RMode) (d : BitVec 6) (a : BitVec 6) (b : BitVec 6) : Encoding.Statement (.fma r d a b) := by
  cases r <;> exact Encoding.tile _ (fun _ => rfl) fun hw p => Encoding.readAt 0 45 (by decide) rfl (by decide) (by simp [zeroBut, onlyPDAB]) (by simp [rIdx, rOf]) hw

theorem Encoding.fsqrt (r : RMode) (d : BitVec 6) (a : BitVec 6) : Encoding.Statement (.fsqrt r d a) := by
  cases r <;> exact Encoding.tile _ (fun _ => rfl) fun hw p => Encoding.readAt 0 46 (by decide) rfl (by decide) (by simp [zeroBut, onlyPDA]) (by simp [rIdx, rOf]) hw

theorem Encoding.fmin (d : BitVec 6) (a : BitVec 6) (b : BitVec 6) : Encoding.Statement (.fmin d a b) := 
  Encoding.tile _ (fun _ => rfl) fun hw p => Encoding.readAt 0 47 (by decide) rfl (by decide) (by simp [zeroBut, onlyPDAB]) (by simp []) hw

theorem Encoding.fmax (d : BitVec 6) (a : BitVec 6) (b : BitVec 6) : Encoding.Statement (.fmax d a b) := 
  Encoding.tile _ (fun _ => rfl) fun hw p => Encoding.readAt 0 48 (by decide) rfl (by decide) (by simp [zeroBut, onlyPDAB]) (by simp []) hw

theorem Encoding.fcmpeq (d : BitVec 3) (a : BitVec 6) (b : BitVec 6) : Encoding.Statement (.fcmpeq d a b) := 
  Encoding.tile _ (fun _ => rfl) fun hw p => Encoding.readAt 0 49 (by decide) rfl (by decide) (by simp [zeroBut, onlyPDAB]) (by simp []) hw

theorem Encoding.fcmplt (d : BitVec 3) (a : BitVec 6) (b : BitVec 6) : Encoding.Statement (.fcmplt d a b) := 
  Encoding.tile _ (fun _ => rfl) fun hw p => Encoding.readAt 0 50 (by decide) rfl (by decide) (by simp [zeroBut, onlyPDAB]) (by simp []) hw

theorem Encoding.fcmple (d : BitVec 3) (a : BitVec 6) (b : BitVec 6) : Encoding.Statement (.fcmple d a b) := 
  Encoding.tile _ (fun _ => rfl) fun hw p => Encoding.readAt 0 51 (by decide) rfl (by decide) (by simp [zeroBut, onlyPDAB]) (by simp []) hw

theorem Encoding.fcvtI64 (r : RMode) (d : BitVec 6) (a : BitVec 6) : Encoding.Statement (.fcvtI64 r d a) := by
  cases r <;> exact Encoding.tile _ (fun _ => rfl) fun hw p => Encoding.readAt 0 52 (by decide) rfl (by decide) (by simp [zeroBut, onlyPDA]) (by simp [rIdx, rOf]) hw

theorem Encoding.cvtF32 (r : RMode) (d : BitVec 6) (a : BitVec 6) : Encoding.Statement (.cvtF32 r d a) := by
  cases r <;> exact Encoding.tile _ (fun _ => rfl) fun hw p => Encoding.readAt 0 53 (by decide) rfl (by decide) (by simp [zeroBut, onlyPDA]) (by simp [rIdx, rOf]) hw

theorem Encoding.br (imm : BitVec 18) : Encoding.Statement (.br imm) := 
  Encoding.tile _ (fun _ => rfl) fun hw p => Encoding.readAt 1 0 (by decide) rfl (by decide) (by simp [zeroBut, onlyPDAB]) (by simp [Fields.imm18]) hw

theorem Encoding.brN (imm : BitVec 18) : Encoding.Statement (.brN imm) := 
  Encoding.tile _ (fun _ => rfl) fun hw p => Encoding.readAt 1 1 (by decide) rfl (by decide) (by simp [zeroBut, onlyPDAB]) (by simp [Fields.imm18]) hw

theorem Encoding.call (imm : BitVec 18) : Encoding.Statement (.call imm) := 
  Encoding.tile _ (fun _ => rfl) fun hw p => Encoding.readAt 1 2 (by decide) rfl (by decide) (by simp [zeroBut, onlyPDAB]) (by simp [Fields.imm18]) hw

theorem Encoding.jr (a : BitVec 5) : Encoding.Statement (.jr a) := 
  Encoding.tile _ (fun _ => rfl) fun hw p => Encoding.readAt 1 3 (by decide) rfl (by decide) (by simp [zeroBut, onlyPA]) (by simp []) hw

theorem Encoding.bswap (imm : BitVec 18) : Encoding.Statement (.bswap imm) := 
  Encoding.tile _ (fun _ => rfl) fun hw p => Encoding.readAt 1 4 (by decide) rfl (by decide) (by simp [zeroBut, onlyPDAB]) (by simp [Fields.imm18]) hw

theorem Encoding.ifence : Encoding.Statement .ifence := 
  Encoding.tile _ (fun _ => rfl) fun hw p => Encoding.readAt 1 5 (by decide) rfl (by decide) (by simp [zeroBut, onlyNone]) (by simp []) hw

theorem Encoding.nopn (km1 : BitVec 12) : Encoding.Statement (.nopn km1) := 
  Encoding.tile _ (fun _ => rfl) fun hw p => Encoding.readAt 1 6 (by decide) rfl (by decide) (by simp [zeroBut, onlyPAB]) (by simp [Fields.imm12]) hw

theorem Encoding.yield (imm : BitVec 18) : Encoding.Statement (.yield imm) := 
  Encoding.tile _ (fun _ => rfl) fun hw p => Encoding.readAt 1 7 (by decide) rfl (by decide) (by simp [zeroBut, onlyDAB]) (by simp [Fields.imm18]) hw

theorem Encoding.endTask : Encoding.Statement .endTask := 
  Encoding.tile _ (fun _ => rfl) fun hw p => Encoding.readAt 1 8 (by decide) rfl (by decide) (by simp [zeroBut, onlyP]) (by simp []) hw

theorem Encoding.endRetirement (t : TileId) : Encoding.Statement (.endRetirement t) := Encoding.event (fun _ => rfl) rfl

theorem Encoding.trap (n : BitVec 4) : Encoding.Statement (.trap n) := 
  Encoding.tile _ (fun _ => rfl) fun hw p => Encoding.readAt 1 9 (by decide) rfl (by decide) (by simp [zeroBut, onlyPAB]) (by simp [Fields.imm12]) hw

theorem Encoding.eret : Encoding.Statement .eret := 
  Encoding.tile _ (fun _ => rfl) fun hw p => Encoding.readAt 1 10 (by decide) rfl (by decide) (by simp [zeroBut, onlyB]) (by simp []) hw

theorem Encoding.eretSkip : Encoding.Statement .eretSkip := 
  Encoding.tile _ (fun _ => rfl) fun hw p => Encoding.readAt 1 10 (by decide) rfl (by decide) (by simp [zeroBut, onlyB]) (by simp []) hw

theorem Encoding.eretRaise : Encoding.Statement .eretRaise := 
  Encoding.tile _ (fun _ => rfl) fun hw p => Encoding.readAt 1 10 (by decide) rfl (by decide) (by simp [zeroBut, onlyB]) (by simp []) hw

theorem Encoding.srd (d : BitVec 6) (y : BitVec 12) : Encoding.Statement (.srd d y) := 
  Encoding.tile _ (fun _ => rfl) fun hw p => Encoding.readAt 1 11 (by decide) rfl (by decide) (by simp [zeroBut, onlyPDAB]) (by simp [Fields.imm12]) hw

theorem Encoding.swr (d : BitVec 6) (y : BitVec 12) : Encoding.Statement (.swr d y) := 
  Encoding.tile _ (fun _ => rfl) fun hw p => Encoding.readAt 1 12 (by decide) rfl (by decide) (by simp [zeroBut, onlyPDAB]) (by simp [Fields.imm12]) hw

theorem Encoding.enq (d : BitVec 6) (a : BitVec 6) (b : BitVec 6) : Encoding.Statement (.enq d a b) := 
  Encoding.tile _ (fun _ => rfl) fun hw p => Encoding.readAt 1 13 (by decide) rfl (by decide) (by simp [zeroBut, onlyPDAB]) (by simp []) hw

theorem Encoding.spawnv (d : BitVec 6) (a : BitVec 6) (b : BitVec 6) : Encoding.Statement (.spawnv d a b) := 
  Encoding.tile _ (fun _ => rfl) fun hw p => Encoding.readAt 1 14 (by decide) rfl (by decide) (by simp [zeroBut, onlyPDAB]) (by simp []) hw

theorem Encoding.nop : Encoding.Statement .nop := 
  Encoding.tile _ (fun _ => rfl) fun hw p => Encoding.readAt 1 15 (by decide) rfl (by decide) (by simp [zeroBut, onlyNone]) (by simp []) hw

theorem Encoding.ldG (z : MemSize) (d : BitVec 6) (a : BitVec 6) (imm : BitVec 6) : Encoding.Statement (.ldG z d a imm) := by
  cases z <;> exact Encoding.tile _ (fun _ => rfl) fun hw p => Encoding.readAt 1 16 (by decide) rfl (by decide) (by simp [zeroBut, onlyPDAB]) (by simp [sizeIdx, sizeOf]) hw

theorem Encoding.stG (z : MemSize) (d : BitVec 6) (a : BitVec 6) (imm : BitVec 6) : Encoding.Statement (.stG z d a imm) := by
  cases z <;> exact Encoding.tile _ (fun _ => rfl) fun hw p => Encoding.readAt 1 17 (by decide) rfl (by decide) (by simp [zeroBut, onlyPDAB]) (by simp [sizeIdx, sizeOf]) hw

theorem Encoding.ldGAcq (d : BitVec 6) (a : BitVec 6) (sc : Scope) : Encoding.Statement (.ldGAcq d a sc) := 
  Encoding.tile _ (fun _ => rfl) fun hw p => Encoding.readAt 1 18 (by decide) rfl (by decide) (by simp [zeroBut, onlyPDAB]) (by simp []) hw

theorem Encoding.stGRel (d : BitVec 6) (a : BitVec 6) (sc : Scope) : Encoding.Statement (.stGRel d a sc) := 
  Encoding.tile _ (fun _ => rfl) fun hw p => Encoding.readAt 1 19 (by decide) rfl (by decide) (by simp [zeroBut, onlyPDAB]) (by simp []) hw

theorem Encoding.qmark : Encoding.Statement .qmark := 
  Encoding.tile _ (fun _ => rfl) fun hw p => Encoding.readAt 1 20 (by decide) rfl (by decide) (by simp [zeroBut, onlyP]) (by simp []) hw

theorem Encoding.fence (sc : Scope) : Encoding.Statement (.fence sc) := 
  Encoding.tile _ (fun _ => rfl) fun hw p => Encoding.readAt 1 21 (by decide) rfl (by decide) (by simp [zeroBut, onlyPB]) (by simp []) hw

theorem Encoding.amoG (o : AmoOp) (d : BitVec 6) (a : BitVec 6) (b : BitVec 6) : Encoding.Statement (.amoG o d a b) := by
  cases o <;> exact Encoding.tile _ (fun _ => rfl) fun hw p => Encoding.readAt 1 22 (by decide) rfl (by decide) (by simp [zeroBut, onlyPDAB]) (by simp [amoIdx, amoOf]) hw

theorem Encoding.amoGAcq (o : AmoOp) (d : BitVec 6) (a : BitVec 6) (sc : Scope) : Encoding.Statement (.amoGAcq o d a sc) := by
  cases o <;> exact Encoding.tile _ (fun _ => rfl) fun hw p => Encoding.readAt 1 23 (by decide) rfl (by decide) (by simp [zeroBut, onlyPDAB]) (by simp [amoIdx, amoOf]) hw

theorem Encoding.amoGRel (o : AmoOp) (d : BitVec 6) (a : BitVec 6) (sc : Scope) : Encoding.Statement (.amoGRel o d a sc) := by
  cases o <;> exact Encoding.tile _ (fun _ => rfl) fun hw p => Encoding.readAt 1 24 (by decide) rfl (by decide) (by simp [zeroBut, onlyPDAB]) (by simp [amoIdx, amoOf]) hw

theorem Encoding.amoGAr (o : AmoOp) (d : BitVec 6) (a : BitVec 6) (sc : Scope) : Encoding.Statement (.amoGAr o d a sc) := by
  cases o <;> exact Encoding.tile _ (fun _ => rfl) fun hw p => Encoding.readAt 1 25 (by decide) rfl (by decide) (by simp [zeroBut, onlyPDAB]) (by simp [amoIdx, amoOf]) hw

theorem Encoding.relb (reg : BitVec 4) (stg : BitVec 4) : Encoding.Statement (.relb reg stg) := by
  refine Encoding.tile _ (fun _ => rfl) fun hw p => ?_
  have hp := word_relb reg stg rfl
  generalize (0 : BitVec 4) ++ stg ++ reg = u at hp ⊢
  exact Encoding.readAt 1 26 (by decide) rfl (by decide) (by simp [relbZero, Fields.imm12, hp])
    (by simp [Fields.imm12, hp]) hw

theorem Encoding.relbFree (reg : BitVec 4) : Encoding.Statement (.relbFree reg) := by
  refine Encoding.tile _ (fun _ => rfl) fun hw p => ?_
  have hp := word_relbFree reg rfl
  generalize (0x10 : BitVec 8) ++ reg = u at hp ⊢
  exact Encoding.readAt 1 26 (by decide) rfl (by decide) (by simp [relbZero, Fields.imm12, hp])
    (by simp [Fields.imm12, hp]) hw

theorem Encoding.relbBankChange (t : TileId) (bank : BitVec 11) : Encoding.Statement (.relbBankChange t bank) := Encoding.event (fun _ => rfl) rfl

theorem Encoding.arrive (d : BitVec 6) (a : BitVec 6) : Encoding.Statement (.arrive d a) := 
  Encoding.tile _ (fun _ => rfl) fun hw p => Encoding.readAt 1 27 (by decide) rfl (by decide) (by simp [zeroBut, onlyPDA]) (by simp []) hw

theorem Encoding.arriveRel (d : BitVec 6) (a : BitVec 6) (sc : Scope) : Encoding.Statement (.arriveRel d a sc) := 
  Encoding.tile _ (fun _ => rfl) fun hw p => Encoding.readAt 1 28 (by decide) rfl (by decide) (by simp [zeroBut, onlyPDAB]) (by simp []) hw

theorem Encoding.waitc (d : BitVec 6) (a : BitVec 6) (sc : Scope) : Encoding.Statement (.waitc d a sc) := 
  Encoding.tile _ (fun _ => rfl) fun hw p => Encoding.readAt 1 29 (by decide) rfl (by decide) (by simp [zeroBut, onlyPDAB]) (by simp []) hw

theorem Encoding.expect (d : BitVec 6) (a : BitVec 6) (b : BitVec 6) : Encoding.Statement (.expect d a b) := 
  Encoding.tile _ (fun _ => rfl) fun hw p => Encoding.readAt 1 30 (by decide) rfl (by decide) (by simp [zeroBut, onlyPDAB]) (by simp []) hw

theorem Encoding.aadd (d : BitVec 5) (a : BitVec 5) (b : BitVec 5) : Encoding.Statement (.aadd d a b) := 
  Encoding.tile _ (fun _ => rfl) fun hw p => Encoding.readAt 2 0 (by decide) rfl (by decide) (by simp [zeroBut, onlyPDAB]) (by simp []) hw

theorem Encoding.asub (d : BitVec 5) (a : BitVec 5) (b : BitVec 5) : Encoding.Statement (.asub d a b) := 
  Encoding.tile _ (fun _ => rfl) fun hw p => Encoding.readAt 2 1 (by decide) rfl (by decide) (by simp [zeroBut, onlyPDAB]) (by simp []) hw

theorem Encoding.aaddi (d : BitVec 5) (a : BitVec 5) (imm : BitVec 6) : Encoding.Statement (.aaddi d a imm) := 
  Encoding.tile _ (fun _ => rfl) fun hw p => Encoding.readAt 2 2 (by decide) rfl (by decide) (by simp [zeroBut, onlyPDAB]) (by simp []) hw

theorem Encoding.amovi (d : BitVec 5) (imm : BitVec 12) : Encoding.Statement (.amovi d imm) := 
  Encoding.tile _ (fun _ => rfl) fun hw p => Encoding.readAt 2 3 (by decide) rfl (by decide) (by simp [zeroBut, onlyPDAB]) (by simp [Fields.imm12]) hw

theorem Encoding.amovs (d : BitVec 5) (a : BitVec 6) : Encoding.Statement (.amovs d a) := 
  Encoding.tile _ (fun _ => rfl) fun hw p => Encoding.readAt 2 4 (by decide) rfl (by decide) (by simp [zeroBut, onlyPDA]) (by simp []) hw

theorem Encoding.smova (d : BitVec 6) (a : BitVec 5) : Encoding.Statement (.smova d a) := 
  Encoding.tile _ (fun _ => rfl) fun hw p => Encoding.readAt 2 5 (by decide) rfl (by decide) (by simp [zeroBut, onlyPDA]) (by simp []) hw

theorem Encoding.ashli (d : BitVec 5) (a : BitVec 5) (imm : BitVec 6) : Encoding.Statement (.ashli d a imm) := 
  Encoding.tile _ (fun _ => rfl) fun hw p => Encoding.readAt 2 6 (by decide) rfl (by decide) (by simp [zeroBut, onlyPDAB]) (by simp []) hw

theorem Encoding.areg (d : BitVec 5) (a : BitVec 5) (j : BitVec 4) : Encoding.Statement (.areg d a j) := 
  Encoding.tile _ (fun _ => rfl) fun hw p => Encoding.readAt 2 7 (by decide) rfl (by decide) (by simp [zeroBut, onlyPDAB]) (by simp []) hw

theorem Encoding.anode (d : BitVec 5) (a : BitVec 5) (b : BitVec 6) : Encoding.Statement (.anode d a b) := 
  Encoding.tile _ (fun _ => rfl) fun hw p => Encoding.readAt 2 8 (by decide) rfl (by decide) (by simp [zeroBut, onlyPDAB]) (by simp []) hw

theorem Encoding.anop : Encoding.Statement .anop := 
  Encoding.tile _ (fun _ => rfl) fun hw p => Encoding.readAt 2 22 (by decide) rfl (by decide) (by simp [zeroBut, onlyNone]) (by simp []) hw

theorem Encoding.lcset (d : BitVec 2) (a : BitVec 6) : Encoding.Statement (.lcset d a) := 
  Encoding.tile _ (fun _ => rfl) fun hw p => Encoding.readAt 2 9 (by decide) rfl (by decide) (by simp [zeroBut, onlyPDA]) (by simp []) hw

theorem Encoding.lcrd (d : BitVec 6) (a : BitVec 2) : Encoding.Statement (.lcrd d a) := 
  Encoding.tile _ (fun _ => rfl) fun hw p => Encoding.readAt 2 12 (by decide) rfl (by decide) (by simp [zeroBut, onlyPDA]) (by simp []) hw

theorem Encoding.loop (n : BitVec 2) (imm : BitVec 12) : Encoding.Statement (.loop n imm) := 
  Encoding.tile _ (fun _ => rfl) fun hw p => Encoding.readAt 2 10 (by decide) rfl (by decide) (by simp [zeroBut, onlyDAB]) (by simp [Fields.imm12]) hw

theorem Encoding.loopSwp (n : BitVec 2) (sm1 : BitVec 2) (imm : BitVec 12) : Encoding.Statement (.loopSwp n sm1 imm) := 
  Encoding.tile _ (fun _ => rfl) fun hw p => Encoding.readAt 2 11 (by decide) rfl (by decide) (by simp [zeroBut, onlyDAB]) (by simp [Fields.imm12]) hw

theorem Encoding.spld (d : BitVec 6) (idx : BitVec 10) : Encoding.Statement (.spld d idx) := 
  Encoding.tile _ (fun _ => rfl) fun hw p => Encoding.readAt 2 13 (by decide) rfl (by decide) (by simp [zeroBut, onlyPDAB]) (by simp [Fields.imm12]) hw

theorem Encoding.spst (d : BitVec 6) (idx : BitVec 10) : Encoding.Statement (.spst d idx) := 
  Encoding.tile _ (fun _ => rfl) fun hw p => Encoding.readAt 2 14 (by decide) rfl (by decide) (by simp [zeroBut, onlyPDAB]) (by simp [Fields.imm12]) hw

theorem Encoding.spldA (d : BitVec 5) (idx : BitVec 10) : Encoding.Statement (.spldA d idx) := 
  Encoding.tile _ (fun _ => rfl) fun hw p => Encoding.readAt 2 15 (by decide) rfl (by decide) (by simp [zeroBut, onlyPDAB]) (by simp [Fields.imm12]) hw

theorem Encoding.spstA (d : BitVec 5) (idx : BitVec 10) : Encoding.Statement (.spstA d idx) := 
  Encoding.tile _ (fun _ => rfl) fun hw p => Encoding.readAt 2 16 (by decide) rfl (by decide) (by simp [zeroBut, onlyPDAB]) (by simp [Fields.imm12]) hw

theorem Encoding.hset (h : BitVec 4) (a : BitVec 5) : Encoding.Statement (.hset h a) := 
  Encoding.tile _ (fun _ => rfl) fun hw p => Encoding.readAt 2 17 (by decide) rfl (by decide) (by simp [zeroBut, onlyPDA]) (by simp []) hw

theorem Encoding.halloc (d : BitVec 6) (h : BitVec 4) (b : BitVec 6) : Encoding.Statement (.halloc d h b) := 
  Encoding.tile _ (fun _ => rfl) fun hw p => Encoding.readAt 2 18 (by decide) rfl (by decide) (by simp [zeroBut, onlyPDAB]) (by simp []) hw

theorem Encoding.hpub (h : BitVec 4) (b : BitVec 6) : Encoding.Statement (.hpub h b) := 
  Encoding.tile _ (fun _ => rfl) fun hw p => Encoding.readAt 2 19 (by decide) rfl (by decide) (by simp [zeroBut, onlyPAB]) (by simp []) hw

theorem Encoding.hadv (h : BitVec 4) (b : BitVec 6) : Encoding.Statement (.hadv h b) := 
  Encoding.tile _ (fun _ => rfl) fun hw p => Encoding.readAt 2 20 (by decide) rfl (by decide) (by simp [zeroBut, onlyPAB]) (by simp []) hw

theorem Encoding.headAdvance (t : TileId) (h : BitVec 4) : Encoding.Statement (.headAdvance t h) := Encoding.event (fun _ => rfl) rfl

theorem Encoding.hrd (d : BitVec 6) (h : BitVec 4) : Encoding.Statement (.hrd d h) := 
  Encoding.tile _ (fun _ => rfl) fun hw p => Encoding.readAt 2 21 (by decide) rfl (by decide) (by simp [zeroBut, onlyPDA]) (by simp []) hw

theorem Encoding.vaddInt (t : ITy) (sat : Bool) (d : BitVec 6) (a : BitVec 6) (b : BitVec 6) : Encoding.Statement (.vaddInt t sat d a b) := by
  cases t <;> cases sat <;> exact Encoding.tile _ (fun _ => rfl) fun hw p => Encoding.readAt 3 0 (by decide) rfl (by decide) (by simp [zeroBut, onlyPDAB]) (by simp [tIdx, tOf, b2n]) hw

theorem Encoding.vsubInt (t : ITy) (sat : Bool) (d : BitVec 6) (a : BitVec 6) (b : BitVec 6) : Encoding.Statement (.vsubInt t sat d a b) := by
  cases t <;> cases sat <;> exact Encoding.tile _ (fun _ => rfl) fun hw p => Encoding.readAt 3 1 (by decide) rfl (by decide) (by simp [zeroBut, onlyPDAB]) (by simp [tIdx, tOf, b2n]) hw

theorem Encoding.vmulInt (t : ITy) (sat : Bool) (d : BitVec 6) (a : BitVec 6) (b : BitVec 6) : Encoding.Statement (.vmulInt t sat d a b) := by
  cases t <;> cases sat <;> exact Encoding.tile _ (fun _ => rfl) fun hw p => Encoding.readAt 3 2 (by decide) rfl (by decide) (by simp [zeroBut, onlyPDAB]) (by simp [tIdx, tOf, b2n]) hw

theorem Encoding.vmin (t : ITy) (d : BitVec 6) (a : BitVec 6) (b : BitVec 6) : Encoding.Statement (.vmin t d a b) := by
  cases t <;> exact Encoding.tile _ (fun _ => rfl) fun hw p => Encoding.readAt 3 3 (by decide) rfl (by decide) (by simp [zeroBut, onlyPDAB]) (by simp [tIdx, tOf]) hw

theorem Encoding.vmax (t : ITy) (d : BitVec 6) (a : BitVec 6) (b : BitVec 6) : Encoding.Statement (.vmax t d a b) := by
  cases t <;> exact Encoding.tile _ (fun _ => rfl) fun hw p => Encoding.readAt 3 4 (by decide) rfl (by decide) (by simp [zeroBut, onlyPDAB]) (by simp [tIdx, tOf]) hw

theorem Encoding.vshl (w : IWidth) (d : BitVec 6) (a : BitVec 6) (b : BitVec 6) : Encoding.Statement (.vshl w d a b) := by
  cases w <;> exact Encoding.tile _ (fun _ => rfl) fun hw p => Encoding.readAt 3 5 (by decide) rfl (by decide) (by simp [zeroBut, onlyPDAB]) (by simp [wIdx, wOf]) hw

theorem Encoding.vshr (t : ITy) (d : BitVec 6) (a : BitVec 6) (b : BitVec 6) : Encoding.Statement (.vshr t d a b) := by
  cases t <;> exact Encoding.tile _ (fun _ => rfl) fun hw p => Encoding.readAt 3 10 (by decide) rfl (by decide) (by simp [zeroBut, onlyPDAB]) (by simp [tIdx, tOf]) hw

theorem Encoding.vld (d : BitVec 6) (a : BitVec 5) (fmt : BitVec 6) : Encoding.Statement (.vld d a fmt) := 
  Encoding.tile _ (fun _ => rfl) fun hw p => Encoding.readAt 3 6 (by decide) rfl (by decide) (by simp [zeroBut, onlyPDAB]) (by simp []) hw

theorem Encoding.vst (d : BitVec 6) (a : BitVec 5) : Encoding.Statement (.vst d a) := 
  Encoding.tile _ (fun _ => rfl) fun hw p => Encoding.readAt 3 7 (by decide) rfl (by decide) (by simp [zeroBut, onlyPDA]) (by simp []) hw

theorem Encoding.vlds (d : BitVec 6) (a : BitVec 5) (b : BitVec 5) : Encoding.Statement (.vlds d a b) := 
  Encoding.tile _ (fun _ => rfl) fun hw p => Encoding.readAt 3 8 (by decide) rfl (by decide) (by simp [zeroBut, onlyPDAB]) (by simp []) hw

theorem Encoding.vsts (d : BitVec 6) (a : BitVec 5) (b : BitVec 5) : Encoding.Statement (.vsts d a b) := 
  Encoding.tile _ (fun _ => rfl) fun hw p => Encoding.readAt 3 9 (by decide) rfl (by decide) (by simp [zeroBut, onlyPDAB]) (by simp []) hw

theorem Encoding.vldx (d : BitVec 6) (a : BitVec 5) (b : BitVec 6) : Encoding.Statement (.vldx d a b) := 
  Encoding.tile _ (fun _ => rfl) fun hw p => Encoding.readAt 3 12 (by decide) rfl (by decide) (by simp [zeroBut, onlyPDAB]) (by simp []) hw

theorem Encoding.vstx (d : BitVec 6) (a : BitVec 5) (b : BitVec 6) : Encoding.Statement (.vstx d a b) := 
  Encoding.tile _ (fun _ => rfl) fun hw p => Encoding.readAt 3 13 (by decide) rfl (by decide) (by simp [zeroBut, onlyPDAB]) (by simp []) hw

theorem Encoding.vcmpeq (w : IWidth) (d : BitVec 6) (a : BitVec 6) (b : BitVec 6) : Encoding.Statement (.vcmpeq w d a b) := by
  cases w <;> exact Encoding.tile _ (fun _ => rfl) fun hw p => Encoding.readAt 3 11 (by decide) rfl (by decide) (by simp [zeroBut, onlyPDAB]) (by simp [wIdx, wOf]) hw

theorem Encoding.vcmplt (t : ITy) (d : BitVec 6) (a : BitVec 6) (b : BitVec 6) : Encoding.Statement (.vcmplt t d a b) := by
  cases t <;> exact Encoding.tile _ (fun _ => rfl) fun hw p => Encoding.readAt 3 14 (by decide) rfl (by decide) (by simp [zeroBut, onlyPDAB]) (by simp [tIdx, tOf]) hw

theorem Encoding.vcmple (t : ITy) (d : BitVec 6) (a : BitVec 6) (b : BitVec 6) : Encoding.Statement (.vcmple t d a b) := by
  cases t <;> exact Encoding.tile _ (fun _ => rfl) fun hw p => Encoding.readAt 3 15 (by decide) rfl (by decide) (by simp [zeroBut, onlyPDAB]) (by simp [tIdx, tOf]) hw

theorem Encoding.vredsum (t : ITy) (sat : Bool) (d : BitVec 6) (a : BitVec 6) : Encoding.Statement (.vredsum t sat d a) := by
  cases t <;> cases sat <;> exact Encoding.tile _ (fun _ => rfl) fun hw p => Encoding.readAt 3 16 (by decide) rfl (by decide) (by simp [zeroBut, onlyPDA]) (by simp [tIdx, tOf, b2n]) hw

theorem Encoding.vand (d : BitVec 6) (a : BitVec 6) (b : BitVec 6) : Encoding.Statement (.vand d a b) := 
  Encoding.tile _ (fun _ => rfl) fun hw p => Encoding.readAt 3 17 (by decide) rfl (by decide) (by simp [zeroBut, onlyPDAB]) (by simp []) hw

theorem Encoding.vor (d : BitVec 6) (a : BitVec 6) (b : BitVec 6) : Encoding.Statement (.vor d a b) := 
  Encoding.tile _ (fun _ => rfl) fun hw p => Encoding.readAt 3 18 (by decide) rfl (by decide) (by simp [zeroBut, onlyPDAB]) (by simp []) hw

theorem Encoding.vxor (d : BitVec 6) (a : BitVec 6) (b : BitVec 6) : Encoding.Statement (.vxor d a b) := 
  Encoding.tile _ (fun _ => rfl) fun hw p => Encoding.readAt 3 19 (by decide) rfl (by decide) (by simp [zeroBut, onlyPDAB]) (by simp []) hw

theorem Encoding.vnot (d : BitVec 6) (a : BitVec 6) : Encoding.Statement (.vnot d a) := 
  Encoding.tile _ (fun _ => rfl) fun hw p => Encoding.readAt 3 20 (by decide) rfl (by decide) (by simp [zeroBut, onlyPDA]) (by simp []) hw

theorem Encoding.vsel (d : BitVec 6) (a : BitVec 6) (b : BitVec 6) : Encoding.Statement (.vsel d a b) := 
  Encoding.tile _ (fun _ => rfl) fun hw p => Encoding.readAt 3 21 (by decide) rfl (by decide) (by simp [zeroBut, onlyPDAB]) (by simp []) hw

theorem Encoding.vmov (d : BitVec 6) (a : BitVec 6) : Encoding.Statement (.vmov d a) := 
  Encoding.tile _ (fun _ => rfl) fun hw p => Encoding.readAt 3 22 (by decide) rfl (by decide) (by simp [zeroBut, onlyPDA]) (by simp []) hw

theorem Encoding.vnop : Encoding.Statement .vnop := 
  Encoding.tile _ (fun _ => rfl) fun hw p => Encoding.readAt 3 23 (by decide) rfl (by decide) (by simp [zeroBut, onlyNone]) (by simp []) hw

theorem Encoding.vaddF (f : FTy) (r : RMode) (d : BitVec 6) (a : BitVec 6) (b : BitVec 6) : Encoding.Statement (.vaddF f r d a b) := by
  cases f <;> cases r <;> exact Encoding.tile _ (fun _ => rfl) fun hw p => Encoding.readAt 4 0 (by decide) rfl (by decide) (by simp [zeroBut, onlyPDAB]) (by simp [fIdx, fOf, rIdx, rOf]) hw

theorem Encoding.vsubF (f : FTy) (r : RMode) (d : BitVec 6) (a : BitVec 6) (b : BitVec 6) : Encoding.Statement (.vsubF f r d a b) := by
  cases f <;> cases r <;> exact Encoding.tile _ (fun _ => rfl) fun hw p => Encoding.readAt 4 1 (by decide) rfl (by decide) (by simp [zeroBut, onlyPDAB]) (by simp [fIdx, fOf, rIdx, rOf]) hw

theorem Encoding.vmulF (f : FTy) (r : RMode) (d : BitVec 6) (a : BitVec 6) (b : BitVec 6) : Encoding.Statement (.vmulF f r d a b) := by
  cases f <;> cases r <;> exact Encoding.tile _ (fun _ => rfl) fun hw p => Encoding.readAt 4 2 (by decide) rfl (by decide) (by simp [zeroBut, onlyPDAB]) (by simp [fIdx, fOf, rIdx, rOf]) hw

theorem Encoding.vfmaF (f : FTy) (r : RMode) (d : BitVec 6) (a : BitVec 6) (b : BitVec 6) : Encoding.Statement (.vfmaF f r d a b) := by
  cases f <;> cases r <;> exact Encoding.tile _ (fun _ => rfl) fun hw p => Encoding.readAt 4 3 (by decide) rfl (by decide) (by simp [zeroBut, onlyPDAB]) (by simp [fIdx, fOf, rIdx, rOf]) hw

theorem Encoding.vaddE (e : ETy) (d : BitVec 6) (a : BitVec 6) (b : BitVec 6) : Encoding.Statement (.vaddE e d a b) := by
  cases e <;> exact Encoding.tile _ (fun _ => rfl) fun hw p => Encoding.readAt 4 4 (by decide) rfl (by decide) (by simp [zeroBut, onlyPDAB]) (by simp [eIdx, eOf, eForm]) hw

theorem Encoding.vsubE (e : ETy) (d : BitVec 6) (a : BitVec 6) (b : BitVec 6) : Encoding.Statement (.vsubE e d a b) := by
  cases e <;> exact Encoding.tile _ (fun _ => rfl) fun hw p => Encoding.readAt 4 4 (by decide) rfl (by decide) (by simp [zeroBut, onlyPDAB]) (by simp [eIdx, eOf, eForm]) hw

theorem Encoding.vmulE (e : ETy) (d : BitVec 6) (a : BitVec 6) (b : BitVec 6) : Encoding.Statement (.vmulE e d a b) := by
  cases e <;> exact Encoding.tile _ (fun _ => rfl) fun hw p => Encoding.readAt 4 4 (by decide) rfl (by decide) (by simp [zeroBut, onlyPDAB]) (by simp [eIdx, eOf, eForm]) hw

theorem Encoding.vfmaE (e : ETy) (d : BitVec 6) (a : BitVec 6) (b : BitVec 6) : Encoding.Statement (.vfmaE e d a b) := by
  cases e <;> exact Encoding.tile _ (fun _ => rfl) fun hw p => Encoding.readAt 4 4 (by decide) rfl (by decide) (by simp [zeroBut, onlyPDAB]) (by simp [eIdx, eOf, eForm]) hw

theorem Encoding.vminF (f : FTy) (d : BitVec 6) (a : BitVec 6) (b : BitVec 6) : Encoding.Statement (.vminF f d a b) := by
  cases f <;> exact Encoding.tile _ (fun _ => rfl) fun hw p => Encoding.readAt 4 5 (by decide) rfl (by decide) (by simp [zeroBut, onlyPDAB]) (by simp [fIdx, fOf]) hw

theorem Encoding.vmaxF (f : FTy) (d : BitVec 6) (a : BitVec 6) (b : BitVec 6) : Encoding.Statement (.vmaxF f d a b) := by
  cases f <;> exact Encoding.tile _ (fun _ => rfl) fun hw p => Encoding.readAt 4 5 (by decide) rfl (by decide) (by simp [zeroBut, onlyPDAB]) (by simp [fIdx, fOf]) hw

theorem Encoding.vcmpeqF (f : FTy) (d : BitVec 6) (a : BitVec 6) (b : BitVec 6) : Encoding.Statement (.vcmpeqF f d a b) := by
  cases f <;> exact Encoding.tile _ (fun _ => rfl) fun hw p => Encoding.readAt 4 6 (by decide) rfl (by decide) (by simp [zeroBut, onlyPDAB]) (by simp [fIdx, fOf, cmpForm]) hw

theorem Encoding.vcmpltF (f : FTy) (d : BitVec 6) (a : BitVec 6) (b : BitVec 6) : Encoding.Statement (.vcmpltF f d a b) := by
  cases f <;> exact Encoding.tile _ (fun _ => rfl) fun hw p => Encoding.readAt 4 6 (by decide) rfl (by decide) (by simp [zeroBut, onlyPDAB]) (by simp [fIdx, fOf, cmpForm]) hw

theorem Encoding.vcmpleF (f : FTy) (d : BitVec 6) (a : BitVec 6) (b : BitVec 6) : Encoding.Statement (.vcmpleF f d a b) := by
  cases f <;> exact Encoding.tile _ (fun _ => rfl) fun hw p => Encoding.readAt 4 6 (by decide) rfl (by decide) (by simp [zeroBut, onlyPDAB]) (by simp [fIdx, fOf, cmpForm]) hw

theorem Encoding.vredsumF32 (r : RMode) (d : BitVec 6) (a : BitVec 6) : Encoding.Statement (.vredsumF32 r d a) := by
  cases r <;> exact Encoding.tile _ (fun _ => rfl) fun hw p => Encoding.readAt 4 7 (by decide) rfl (by decide) (by simp [zeroBut, onlyPDA]) (by simp [rIdx, rOf]) hw

theorem Encoding.vredmaxF32 (d : BitVec 6) (a : BitVec 6) : Encoding.Statement (.vredmaxF32 d a) := 
  Encoding.tile _ (fun _ => rfl) fun hw p => Encoding.readAt 4 8 (by decide) rfl (by decide) (by simp [zeroBut, onlyPDA]) (by simp []) hw

theorem Encoding.vargmaxF32 (d : BitVec 6) (a : BitVec 6) : Encoding.Statement (.vargmaxF32 d a) := 
  Encoding.tile _ (fun _ => rfl) fun hw p => Encoding.readAt 4 9 (by decide) rfl (by decide) (by simp [zeroBut, onlyPDA]) (by simp []) hw

theorem Encoding.vredmaxI32 (d : BitVec 6) (a : BitVec 6) : Encoding.Statement (.vredmaxI32 d a) := 
  Encoding.tile _ (fun _ => rfl) fun hw p => Encoding.readAt 4 10 (by decide) rfl (by decide) (by simp [zeroBut, onlyPDA]) (by simp []) hw

theorem Encoding.vargmaxI32 (d : BitVec 6) (a : BitVec 6) : Encoding.Statement (.vargmaxI32 d a) := 
  Encoding.tile _ (fun _ => rfl) fun hw p => Encoding.readAt 4 11 (by decide) rfl (by decide) (by simp [zeroBut, onlyPDA]) (by simp []) hw

theorem Encoding.vexp2 (d : BitVec 6) (a : BitVec 6) : Encoding.Statement (.vexp2 d a) := 
  Encoding.tile _ (fun _ => rfl) fun hw p => Encoding.readAt 4 12 (by decide) rfl (by decide) (by simp [zeroBut, onlyPDA]) (by simp []) hw

theorem Encoding.vlog2 (d : BitVec 6) (a : BitVec 6) : Encoding.Statement (.vlog2 d a) := 
  Encoding.tile _ (fun _ => rfl) fun hw p => Encoding.readAt 4 13 (by decide) rfl (by decide) (by simp [zeroBut, onlyPDA]) (by simp []) hw

theorem Encoding.vrcp (d : BitVec 6) (a : BitVec 6) : Encoding.Statement (.vrcp d a) := 
  Encoding.tile _ (fun _ => rfl) fun hw p => Encoding.readAt 4 14 (by decide) rfl (by decide) (by simp [zeroBut, onlyPDA]) (by simp []) hw

theorem Encoding.vrsq (d : BitVec 6) (a : BitVec 6) : Encoding.Statement (.vrsq d a) := 
  Encoding.tile _ (fun _ => rfl) fun hw p => Encoding.readAt 4 15 (by decide) rfl (by decide) (by simp [zeroBut, onlyPDA]) (by simp []) hw

theorem Encoding.vtanh (d : BitVec 6) (a : BitVec 6) : Encoding.Statement (.vtanh d a) := 
  Encoding.tile _ (fun _ => rfl) fun hw p => Encoding.readAt 4 16 (by decide) rfl (by decide) (by simp [zeroBut, onlyPDA]) (by simp []) hw

theorem Encoding.vsin (d : BitVec 6) (a : BitVec 6) : Encoding.Statement (.vsin d a) := 
  Encoding.tile _ (fun _ => rfl) fun hw p => Encoding.readAt 4 17 (by decide) rfl (by decide) (by simp [zeroBut, onlyPDA]) (by simp []) hw

theorem Encoding.vbcastF32 (d : BitVec 6) (a : BitVec 6) : Encoding.Statement (.vbcastF32 d a) := 
  Encoding.tile _ (fun _ => rfl) fun hw p => Encoding.readAt 4 18 (by decide) rfl (by decide) (by simp [zeroBut, onlyPDA]) (by simp []) hw

theorem Encoding.vbcastI32 (d : BitVec 6) (a : BitVec 6) : Encoding.Statement (.vbcastI32 d a) := 
  Encoding.tile _ (fun _ => rfl) fun hw p => Encoding.readAt 4 19 (by decide) rfl (by decide) (by simp [zeroBut, onlyPDA]) (by simp []) hw

theorem Encoding.viota (d : BitVec 6) (a : BitVec 6) : Encoding.Statement (.viota d a) := 
  Encoding.tile _ (fun _ => rfl) fun hw p => Encoding.readAt 4 25 (by decide) rfl (by decide) (by simp [zeroBut, onlyPDA]) (by simp []) hw

theorem Encoding.vperm (d : BitVec 6) (a : BitVec 6) (b : BitVec 6) : Encoding.Statement (.vperm d a b) := 
  Encoding.tile _ (fun _ => rfl) fun hw p => Encoding.readAt 4 20 (by decide) rfl (by decide) (by simp [zeroBut, onlyPDAB]) (by simp []) hw

theorem Encoding.vrot (d : BitVec 6) (a : BitVec 6) (b : BitVec 6) : Encoding.Statement (.vrot d a b) := 
  Encoding.tile _ (fun _ => rfl) fun hw p => Encoding.readAt 4 21 (by decide) rfl (by decide) (by simp [zeroBut, onlyPDAB]) (by simp []) hw

theorem Encoding.vretag (d : BitVec 6) (fmt : BitVec 6) : Encoding.Statement (.vretag d fmt) := 
  Encoding.tile _ (fun _ => rfl) fun hw p => Encoding.readAt 4 22 (by decide) rfl (by decide) (by simp [zeroBut, onlyPDAB]) (by simp [Fields.imm12]) hw

theorem Encoding.vplane (d : BitVec 6) (a : BitVec 6) (pl : BitVec 4) (part : BitVec 2) : Encoding.Statement (.vplane d a pl part) := 
  Encoding.tile _ (fun _ => rfl) fun hw p => Encoding.readAt 4 23 (by decide) rfl (by decide) (by simp [zeroBut, onlyPDAB]) (by simp []) hw

theorem Encoding.vptmask (d : BitVec 6) (a : BitVec 6) (b : BitVec 6) : Encoding.Statement (.vptmask d a b) := 
  Encoding.tile _ (fun _ => rfl) fun hw p => Encoding.readAt 4 24 (by decide) rfl (by decide) (by simp [zeroBut, onlyPDAB]) (by simp []) hw

theorem Encoding.vcvtI32Sat (d : BitVec 6) (a : BitVec 6) : Encoding.Statement (.vcvtI32Sat d a) := 
  Encoding.tile _ (fun _ => rfl) fun hw p => Encoding.readAt 4 26 (by decide) rfl (by decide) (by simp [zeroBut, onlyPDA]) (by simp []) hw

theorem Encoding.vcvtI32Wrap (d : BitVec 6) (a : BitVec 6) : Encoding.Statement (.vcvtI32Wrap d a) := 
  Encoding.tile _ (fun _ => rfl) fun hw p => Encoding.readAt 4 27 (by decide) rfl (by decide) (by simp [zeroBut, onlyPDA]) (by simp []) hw

theorem Encoding.vscale (r : RMode) (d : BitVec 6) (a : BitVec 6) (b : BitVec 6) : Encoding.Statement (.vscale r d a b) := by
  cases r <;> exact Encoding.tile _ (fun _ => rfl) fun hw p => Encoding.readAt 4 28 (by decide) rfl (by decide) (by simp [zeroBut, onlyPDAB]) (by simp [rIdx, rOf]) hw

theorem Encoding.vcvtF32 (r : RMode) (d : BitVec 6) (a : BitVec 6) (part : BitVec 3) : Encoding.Statement (.vcvtF32 r d a part) := by
  cases r <;> exact Encoding.tile _ (fun _ => rfl) fun hw p => Encoding.readAt 4 29 (by decide) rfl (by decide) (by simp [zeroBut, onlyPDAB]) (by simp [rIdx, rOf]) hw

theorem Encoding.vcvtBf16x2 (r : RMode) (d : BitVec 6) (a : BitVec 6) (part : BitVec 3) : Encoding.Statement (.vcvtBf16x2 r d a part) := by
  cases r <;> exact Encoding.tile _ (fun _ => rfl) fun hw p => Encoding.readAt 4 30 (by decide) rfl (by decide) (by simp [zeroBut, onlyPDAB]) (by simp [rIdx, rOf]) hw

theorem Encoding.vcvtFp16 (r : RMode) (d : BitVec 6) (a : BitVec 6) (part : BitVec 3) : Encoding.Statement (.vcvtFp16 r d a part) := by
  cases r <;> exact Encoding.tile _ (fun _ => rfl) fun hw p => Encoding.readAt 4 31 (by decide) rfl (by decide) (by simp [zeroBut, onlyPDAB]) (by simp [rIdx, rOf]) hw

theorem Encoding.vcvtE4m3 (r : RMode) (d : BitVec 6) (a : BitVec 6) (part : BitVec 3) : Encoding.Statement (.vcvtE4m3 r d a part) := by
  cases r <;> exact Encoding.tile _ (fun _ => rfl) fun hw p => Encoding.readAt 4 32 (by decide) rfl (by decide) (by simp [zeroBut, onlyPDAB]) (by simp [rIdx, rOf]) hw

theorem Encoding.vcvtE5m2 (r : RMode) (d : BitVec 6) (a : BitVec 6) (part : BitVec 3) : Encoding.Statement (.vcvtE5m2 r d a part) := by
  cases r <;> exact Encoding.tile _ (fun _ => rfl) fun hw p => Encoding.readAt 4 33 (by decide) rfl (by decide) (by simp [zeroBut, onlyPDAB]) (by simp [rIdx, rOf]) hw

theorem Encoding.vcvtInt (t : ITy) (d : BitVec 6) (a : BitVec 6) (part : BitVec 3) : Encoding.Statement (.vcvtInt t d a part) := by
  cases t <;> exact Encoding.tile _ (fun _ => rfl) fun hw p => Encoding.readAt 4 34 (by decide) rfl (by decide) (by simp [zeroBut, onlyPDAB]) (by simp [tIdx, tOf]) hw

theorem Encoding.vcvtIntRz (t : ITy) (d : BitVec 6) (a : BitVec 6) (part : BitVec 3) : Encoding.Statement (.vcvtIntRz t d a part) := by
  cases t <;> exact Encoding.tile _ (fun _ => rfl) fun hw p => Encoding.readAt 4 35 (by decide) rfl (by decide) (by simp [zeroBut, onlyPDAB]) (by simp [tIdx, tOf]) hw

theorem Encoding.mcfg (a : BitVec 6) : Encoding.Statement (.mcfg a) := 
  Encoding.tile _ (fun _ => rfl) fun hw p => Encoding.readAt 5 0 (by decide) rfl (by decide) (by simp [zeroBut, onlyPA]) (by simp []) hw

theorem Encoding.mloadb (h : BitVec 4) (a : BitVec 6) : Encoding.Statement (.mloadb h a) := 
  Encoding.tile _ (fun _ => rfl) fun hw p => Encoding.readAt 5 1 (by decide) rfl (by decide) (by simp [zeroBut, onlyPDA]) (by simp []) hw

theorem Encoding.mloadbs (h : BitVec 4) (a : BitVec 6) : Encoding.Statement (.mloadbs h a) := 
  Encoding.tile _ (fun _ => rfl) fun hw p => Encoding.readAt 5 2 (by decide) rfl (by decide) (by simp [zeroBut, onlyPDA]) (by simp []) hw

theorem Encoding.matrixLoadComplete (t : TileId) : Encoding.Statement (.matrixLoadComplete t) := Encoding.event (fun _ => rfl) rfl

theorem Encoding.mfeed (h : BitVec 4) (mm1 : BitVec 6) (adv : Bool) : Encoding.Statement (.mfeed h mm1 adv) := 
  Encoding.tile _ (fun _ => rfl) fun hw p => Encoding.readAt 5 3 (by decide) rfl (by decide) (by simp [zeroBut, onlyPDAB]) (by simp [Fields.imm12]) hw

theorem Encoding.mfeedLanding (t : TileId) : Encoding.Statement (.mfeedLanding t) := Encoding.event (fun _ => rfl) rfl

theorem Encoding.mpush (a : BitVec 6) : Encoding.Statement (.mpush a) := 
  Encoding.tile _ (fun _ => rfl) fun hw p => Encoding.readAt 5 4 (by decide) rfl (by decide) (by simp [zeroBut, onlyPA]) (by simp []) hw

theorem Encoding.mmul (d : BitVec 6) (mm1 : BitVec 6) : Encoding.Statement (.mmul d mm1) := 
  Encoding.tile _ (fun _ => rfl) fun hw p => Encoding.readAt 5 5 (by decide) rfl (by decide) (by simp [zeroBut, onlyPDAB]) (by simp [Fields.imm12]) hw

theorem Encoding.mmac (d : BitVec 6) (mm1 : BitVec 6) : Encoding.Statement (.mmac d mm1) := 
  Encoding.tile _ (fun _ => rfl) fun hw p => Encoding.readAt 5 6 (by decide) rfl (by decide) (by simp [zeroBut, onlyPDAB]) (by simp [Fields.imm12]) hw

theorem Encoding.mmulMid (d : BitVec 6) (mm1 : BitVec 6) : Encoding.Statement (.mmulMid d mm1) := 
  Encoding.tile _ (fun _ => rfl) fun hw p => Encoding.readAt 5 7 (by decide) rfl (by decide) (by simp [zeroBut, onlyPDAB]) (by simp [Fields.imm12]) hw

theorem Encoding.mmacMid (d : BitVec 6) (mm1 : BitVec 6) : Encoding.Statement (.mmacMid d mm1) := 
  Encoding.tile _ (fun _ => rfl) fun hw p => Encoding.readAt 5 8 (by decide) rfl (by decide) (by simp [zeroBut, onlyPDAB]) (by simp [Fields.imm12]) hw

theorem Encoding.mdesc (d : BitVec 6) (a : BitVec 6) (b : BitVec 6) : Encoding.Statement (.mdesc d a b) := 
  Encoding.tile _ (fun _ => rfl) fun hw p => Encoding.readAt 5 9 (by decide) rfl (by decide) (by simp [zeroBut, onlyPDAB]) (by simp []) hw

theorem Encoding.mregroup (d : BitVec 6) (a : BitVec 6) (b : BitVec 6) : Encoding.Statement (.mregroup d a b) := 
  Encoding.tile _ (fun _ => rfl) fun hw p => Encoding.readAt 5 10 (by decide) rfl (by decide) (by simp [zeroBut, onlyPDAB]) (by simp []) hw

theorem Encoding.mclrW (rb : Bool) (cfg : Bool) : Encoding.Statement (.mclrW rb cfg) := by
  refine Encoding.tile _ (fun _ => rfl) fun hw p => Encoding.read ?_ hw
  clear hw; revert p rb cfg; decide +kernel

theorem Encoding.mclrRb (cfg : Bool) : Encoding.Statement (.mclrRb cfg) := by
  refine Encoding.tile _ (fun _ => rfl) fun hw p => Encoding.read ?_ hw
  clear hw; revert p cfg; decide +kernel

theorem Encoding.mclrCfg : Encoding.Statement .mclrCfg := by
  refine Encoding.tile _ (fun _ => rfl) fun hw p => Encoding.read ?_ hw
  clear hw; revert p; decide +kernel

theorem Encoding.xpush (a : BitVec 6) : Encoding.Statement (.xpush a) := 
  Encoding.tile _ (fun _ => rfl) fun hw p => Encoding.readAt 6 0 (by decide) rfl (by decide) (by simp [zeroBut, onlyPA]) (by simp []) hw

theorem Encoding.xpop (d : BitVec 6) : Encoding.Statement (.xpop d) := 
  Encoding.tile _ (fun _ => rfl) fun hw p => Encoding.readAt 6 1 (by decide) rfl (by decide) (by simp [zeroBut, onlyPD]) (by simp []) hw

theorem Encoding.xcfg (rows : BitVec 6) : Encoding.Statement (.xcfg rows) := 
  Encoding.tile _ (fun _ => rfl) fun hw p => Encoding.readAt 6 2 (by decide) rfl (by decide) (by simp [zeroBut, onlyPAB]) (by simp [Fields.imm12]) hw

theorem Encoding.xclr : Encoding.Statement .xclr := 
  Encoding.tile _ (fun _ => rfl) fun hw p => Encoding.readAt 6 3 (by decide) rfl (by decide) (by simp [zeroBut, onlyP]) (by simp []) hw

theorem Encoding.xcnt (d : BitVec 6) : Encoding.Statement (.xcnt d) := 
  Encoding.tile _ (fun _ => rfl) fun hw p => Encoding.readAt 6 4 (by decide) rfl (by decide) (by simp [zeroBut, onlyPD]) (by simp []) hw

theorem Encoding.cnop : Encoding.Statement .cnop := 
  Encoding.tile _ (fun _ => rfl) fun hw p => Encoding.readAt 7 0 (by decide) rfl (by decide) (by simp [zeroBut, onlyNone]) (by simp []) hw

theorem Encoding.cset (j : BitVec 2) (a : BitVec 6) (b : BitVec 6) : Encoding.Statement (.cset j a b) := 
  Encoding.tile _ (fun _ => rfl) fun hw p => Encoding.readAt 7 1 (by decide) rfl (by decide) (by simp [zeroBut, onlyPDAB]) (by simp []) hw

theorem Encoding.cclr : Encoding.Statement .cclr := 
  Encoding.tile _ (fun _ => rfl) fun hw p => Encoding.readAt 7 14 (by decide) rfl (by decide) (by simp [zeroBut, onlyP]) (by simp []) hw

theorem Encoding.cgo (kp : Option (BitVec 5)) (kx : Option (BitVec 5)) (ky : Option (BitVec 5)) : Encoding.Statement (.cgo kp kx ky) := 
  Encoding.tile _ (fun _ => rfl) fun hw p => Encoding.readAt 7 2 (by decide) rfl (by decide) (by simp [zeroBut, onlyPDAB]) (by simp []) hw

theorem Encoding.cwait (kp : Option (BitVec 5)) (kx : Option (BitVec 5)) (ky : Option (BitVec 5)) : Encoding.Statement (.cwait kp kx ky) := 
  Encoding.tile _ (fun _ => rfl) fun hw p => Encoding.readAt 7 3 (by decide) rfl (by decide) (by simp [zeroBut, onlyPDAB]) (by simp []) hw

theorem Encoding.cstat (d : BitVec 6) (k : BitVec 5) : Encoding.Statement (.cstat d k) := 
  Encoding.tile _ (fun _ => rfl) fun hw p => Encoding.readAt 7 13 (by decide) rfl (by decide) (by simp [zeroBut, onlyPDA]) (by simp []) hw

theorem Encoding.cpy (kp : Option (BitVec 5)) (kx : Option (BitVec 5)) (ky : Option (BitVec 5)) : Encoding.Statement (.cpy kp kx ky) := 
  Encoding.tile _ (fun _ => rfl) fun hw p => Encoding.readAt 7 4 (by decide) rfl (by decide) (by simp [zeroBut, onlyPDAB]) (by simp []) hw

theorem Encoding.cpyAs (kp : Option (BitVec 5)) (kx : Option (BitVec 5)) (ky : Option (BitVec 5)) : Encoding.Statement (.cpyAs kp kx ky) := 
  Encoding.tile _ (fun _ => rfl) fun hw p => Encoding.readAt 7 5 (by decide) rfl (by decide) (by simp [zeroBut, onlyPDAB]) (by simp []) hw

theorem Encoding.gath (kp : Option (BitVec 5)) (kx : Option (BitVec 5)) (ky : Option (BitVec 5)) : Encoding.Statement (.gath kp kx ky) := 
  Encoding.tile _ (fun _ => rfl) fun hw p => Encoding.readAt 7 6 (by decide) rfl (by decide) (by simp [zeroBut, onlyPDAB]) (by simp []) hw

theorem Encoding.pool (kp : Option (BitVec 5)) (kx : Option (BitVec 5)) (ky : Option (BitVec 5)) : Encoding.Statement (.pool kp kx ky) := 
  Encoding.tile _ (fun _ => rfl) fun hw p => Encoding.readAt 7 7 (by decide) rfl (by decide) (by simp [zeroBut, onlyPDAB]) (by simp []) hw

theorem Encoding.rld (kp : Option (BitVec 5)) (kx : Option (BitVec 5)) (ky : Option (BitVec 5)) : Encoding.Statement (.rld kp kx ky) := 
  Encoding.tile _ (fun _ => rfl) fun hw p => Encoding.readAt 7 8 (by decide) rfl (by decide) (by simp [zeroBut, onlyPDAB]) (by simp []) hw

theorem Encoding.rst (kp : Option (BitVec 5)) (kx : Option (BitVec 5)) (ky : Option (BitVec 5)) : Encoding.Statement (.rst kp kx ky) := 
  Encoding.tile _ (fun _ => rfl) fun hw p => Encoding.readAt 7 9 (by decide) rfl (by decide) (by simp [zeroBut, onlyPDAB]) (by simp []) hw

theorem Encoding.ramo (kp : Option (BitVec 5)) (kx : Option (BitVec 5)) (ky : Option (BitVec 5)) : Encoding.Statement (.ramo kp kx ky) := 
  Encoding.tile _ (fun _ => rfl) fun hw p => Encoding.readAt 7 10 (by decide) rfl (by decide) (by simp [zeroBut, onlyPDAB]) (by simp []) hw

theorem Encoding.mcst (kp : Option (BitVec 5)) (kx : Option (BitVec 5)) (ky : Option (BitVec 5)) : Encoding.Statement (.mcst kp kx ky) := 
  Encoding.tile _ (fun _ => rfl) fun hw p => Encoding.readAt 7 11 (by decide) rfl (by decide) (by simp [zeroBut, onlyPDAB]) (by simp []) hw

theorem Encoding.rarrive (kp : Option (BitVec 5)) (kx : Option (BitVec 5)) (ky : Option (BitVec 5)) : Encoding.Statement (.rarrive kp kx ky) := 
  Encoding.tile _ (fun _ => rfl) fun hw p => Encoding.readAt 7 12 (by decide) rfl (by decide) (by simp [zeroBut, onlyPDAB]) (by simp []) hw

theorem Encoding.commandStart (id : Nat) : Encoding.Statement (.commandStart id) := Encoding.event (fun _ => rfl) rfl

theorem Encoding.copyBeat (id : Nat) : Encoding.Statement (.copyBeat id) := Encoding.event (fun _ => rfl) rfl

theorem Encoding.commandCompletion (id : Nat) : Encoding.Statement (.commandCompletion id) := Encoding.event (fun _ => rfl) rfl

theorem Encoding.leaseRenewal (id : Nat) : Encoding.Statement (.leaseRenewal id) := Encoding.event (fun _ => rfl) rfl

theorem Encoding.leaseExpiry (u : XUnit) : Encoding.Statement (.leaseExpiry u) := Encoding.event (fun _ => rfl) rfl

theorem Encoding.pageWalk (u : XUnit) (ctx : CtxId) (va : BitVec 64) (k : AccessKind) : Encoding.Statement (.pageWalk u ctx va k) := Encoding.event (fun _ => rfl) rfl

theorem Encoding.scalarAccessPerform (t : TileId) (q : QueueSel) : Encoding.Statement (.scalarAccessPerform t q) := Encoding.event (fun _ => rfl) rfl

theorem Encoding.sideLogReplay (t : TileId) : Encoding.Statement (.sideLogReplay t) := Encoding.event (fun _ => rfl) rfl

theorem Encoding.impreciseTrap (t : TileId) : Encoding.Statement (.impreciseTrap t) := Encoding.event (fun _ => rfl) rfl

theorem Encoding.clockSkew (u : XUnit) : Encoding.Statement (.clockSkew u) := Encoding.event (fun _ => rfl) rfl

theorem Encoding.cellExpect (ctx : CtxId) (i : BitVec 16) (n : BitVec 32) : Encoding.Statement (.cellExpect ctx i n) := Encoding.event (fun _ => rfl) rfl

theorem Encoding.cellDelivery (ctx : CtxId) (i : BitVec 16) (n : BitVec 32) : Encoding.Statement (.cellDelivery ctx i n) := Encoding.event (fun _ => rfl) rfl

theorem Encoding.cellArrive (ctx : CtxId) (i : BitVec 16) (k : BitVec 17) : Encoding.Statement (.cellArrive ctx i k) := Encoding.event (fun _ => rfl) rfl

theorem Encoding.cellRemoteArrive (ctx : CtxId) (i : BitVec 16) (k : BitVec 17) : Encoding.Statement (.cellRemoteArrive ctx i k) := Encoding.event (fun _ => rfl) rfl

theorem Encoding.cellPhaseRead (ctx : CtxId) (i : BitVec 16) : Encoding.Statement (.cellPhaseRead ctx i) := Encoding.event (fun _ => rfl) rfl

theorem Encoding.cellRewrite (ctx : CtxId) (i : BitVec 16) (v : BitVec 256) : Encoding.Statement (.cellRewrite ctx i v) := Encoding.event (fun _ => rfl) rfl

theorem Encoding.heldRecordMove (ctx : CtxId) (i : BitVec 16) : Encoding.Statement (.heldRecordMove ctx i) := Encoding.event (fun _ => rfl) rfl

theorem Encoding.recordLanding (q : BitVec 7) : Encoding.Statement (.recordLanding q) := Encoding.event (fun _ => rfl) rfl

theorem Encoding.launcherSelection (die : BitVec 1) : Encoding.Statement (.launcherSelection die) := Encoding.event (fun _ => rfl) rfl

theorem Encoding.imageLoadComplete (t : TileId) : Encoding.Statement (.imageLoadComplete t) := Encoding.event (fun _ => rfl) rfl

theorem Encoding.sliceExpiry (t : TileId) : Encoding.Statement (.sliceExpiry t) := Encoding.event (fun _ => rfl) rfl

theorem Encoding.yieldOverrun (t : TileId) : Encoding.Statement (.yieldOverrun t) := Encoding.event (fun _ => rfl) rfl

theorem Encoding.preemptionStop (t : TileId) : Encoding.Statement (.preemptionStop t) := Encoding.event (fun _ => rfl) rfl

theorem Encoding.gangStop (t : TileId) : Encoding.Statement (.gangStop t) := Encoding.event (fun _ => rfl) rfl

theorem Encoding.classSaveComplete (t : TileId) (c : ResClass) : Encoding.Statement (.classSaveComplete t c) := Encoding.event (fun _ => rfl) rfl

theorem Encoding.timedLaunchLead (die : BitVec 1) (i : BitVec 4) : Encoding.Statement (.timedLaunchLead die i) := Encoding.event (fun _ => rfl) rfl

theorem Encoding.timedLaunchStart (die : BitVec 1) (i : BitVec 4) : Encoding.Statement (.timedLaunchStart die i) := Encoding.event (fun _ => rfl) rfl

theorem Encoding.timedLaunchDisarm (die : BitVec 1) (i : BitVec 4) : Encoding.Statement (.timedLaunchDisarm die i) := Encoding.event (fun _ => rfl) rfl

theorem Encoding.contextDescriptorWrite (ctx : CtxId) (v : BitVec 512) : Encoding.Statement (.contextDescriptorWrite ctx v) := Encoding.event (fun _ => rfl) rfl

theorem Encoding.queueDescriptorWrite (q : BitVec 7) (v : BitVec 128) : Encoding.Statement (.queueDescriptorWrite q v) := Encoding.event (fun _ => rfl) rfl

theorem Encoding.bankOwnerWrite (bank : BitVec 11) (v : BitVec 32) : Encoding.Statement (.bankOwnerWrite bank v) := Encoding.event (fun _ => rfl) rfl

theorem Encoding.bankScrubComplete (bank : BitVec 11) : Encoding.Statement (.bankScrubComplete bank) := Encoding.event (fun _ => rfl) rfl

theorem Encoding.contextSave (ctx : CtxId) : Encoding.Statement (.contextSave ctx) := Encoding.event (fun _ => rfl) rfl

theorem Encoding.portConfigWrite (port : BitVec 5) (v : BitVec 64) : Encoding.Statement (.portConfigWrite port v) := Encoding.event (fun _ => rfl) rfl

theorem Encoding.portModeChange (port : BitVec 5) : Encoding.Statement (.portModeChange port) := Encoding.event (fun _ => rfl) rfl

theorem Encoding.ethernetFrameReceive (port : BitVec 5) (bytes : List Byte) : Encoding.Statement (.ethernetFrameReceive port bytes) := Encoding.event (fun _ => rfl) rfl

theorem Encoding.fabricFrameReceive (port : BitVec 5) (bytes : List Byte) : Encoding.Statement (.fabricFrameReceive port bytes) := Encoding.event (fun _ => rfl) rfl

theorem Encoding.timesync (port : BitVec 5) (offset : Int) : Encoding.Statement (.timesync port offset) := Encoding.event (fun _ => rfl) rfl

theorem Encoding.timesyncSend (port : BitVec 5) : Encoding.Statement (.timesyncSend port) := Encoding.event (fun _ => rfl) rfl

theorem Encoding.timeUnsync : Encoding.Statement .timeUnsync := Encoding.event (fun _ => rfl) rfl

theorem Encoding.laneswap (port : BitVec 5) (lane : BitVec 3) (accept : Bool) (ts : BitVec 64) : Encoding.Statement (.laneswap port lane accept ts) := Encoding.event (fun _ => rfl) rfl

theorem Encoding.laneWeak (port : BitVec 5) (lane : BitVec 3) : Encoding.Statement (.laneWeak port lane) := Encoding.event (fun _ => rfl) rfl

theorem Encoding.laneSwapped (port : BitVec 5) : Encoding.Statement (.laneSwapped port) := Encoding.event (fun _ => rfl) rfl

theorem Encoding.linkDown (port : BitVec 5) : Encoding.Statement (.linkDown port) := Encoding.event (fun _ => rfl) rfl

theorem Encoding.hostIngressWrite (addr : BitVec 20) (bytes : List Byte) : Encoding.Statement (.hostIngressWrite addr bytes) := Encoding.event (fun _ => rfl) rfl

theorem Encoding.hostFrameTake : Encoding.Statement .hostFrameTake := Encoding.event (fun _ => rfl) rfl

theorem Encoding.serviceSlot : Encoding.Statement .serviceSlot := Encoding.event (fun _ => rfl) rfl

theorem Encoding.packetParse (pipe : BitVec 3) : Encoding.Statement (.packetParse pipe) := Encoding.event (fun _ => rfl) rfl

theorem Encoding.stageExecute (pipe : BitVec 3) (stage : BitVec 4) : Encoding.Statement (.stageExecute pipe stage) := Encoding.event (fun _ => rfl) rfl

theorem Encoding.packetDisposition (pipe : BitVec 3) : Encoding.Statement (.packetDisposition pipe) := Encoding.event (fun _ => rfl) rfl

theorem Encoding.payloadWrite (eng : BitVec 4) : Encoding.Statement (.payloadWrite eng) := Encoding.event (fun _ => rfl) rfl

theorem Encoding.payloadAddw (eng : BitVec 4) : Encoding.Statement (.payloadAddw eng) := Encoding.event (fun _ => rfl) rfl

theorem Encoding.payloadAdds (eng : BitVec 4) : Encoding.Statement (.payloadAdds eng) := Encoding.event (fun _ => rfl) rfl

theorem Encoding.payloadAddf (eng : BitVec 4) : Encoding.Statement (.payloadAddf eng) := Encoding.event (fun _ => rfl) rfl

theorem Encoding.creditWaitDiscard (port : BitVec 5) : Encoding.Statement (.creditWaitDiscard port) := Encoding.event (fun _ => rfl) rfl

theorem Encoding.readRequest (port : BitVec 5) : Encoding.Statement (.readRequest port) := Encoding.event (fun _ => rfl) rfl

theorem Encoding.writeRequest (port : BitVec 5) : Encoding.Statement (.writeRequest port) := Encoding.event (fun _ => rfl) rfl

theorem Encoding.atomicRequest (port : BitVec 5) : Encoding.Statement (.atomicRequest port) := Encoding.event (fun _ => rfl) rfl

theorem Encoding.multicastWrite (port : BitVec 5) : Encoding.Statement (.multicastWrite port) := Encoding.event (fun _ => rfl) rfl

theorem Encoding.remoteArrive (port : BitVec 5) : Encoding.Statement (.remoteArrive port) := Encoding.event (fun _ => rfl) rfl

theorem Encoding.readData (port : BitVec 5) : Encoding.Statement (.readData port) := Encoding.event (fun _ => rfl) rfl

theorem Encoding.writeAcknowledgement (port : BitVec 5) : Encoding.Statement (.writeAcknowledgement port) := Encoding.event (fun _ => rfl) rfl

theorem Encoding.atomicResult (port : BitVec 5) : Encoding.Statement (.atomicResult port) := Encoding.event (fun _ => rfl) rfl

theorem Encoding.multicastMemberAcknowledgement (port : BitVec 5) : Encoding.Statement (.multicastMemberAcknowledgement port) := Encoding.event (fun _ => rfl) rfl

theorem Encoding.arriveAcknowledgement (port : BitVec 5) : Encoding.Statement (.arriveAcknowledgement port) := Encoding.event (fun _ => rfl) rfl

theorem Encoding.refusal (port : BitVec 5) : Encoding.Statement (.refusal port) := Encoding.event (fun _ => rfl) rfl

theorem Encoding.remoteTimeout (id : Nat) : Encoding.Statement (.remoteTimeout id) := Encoding.event (fun _ => rfl) rfl

theorem Encoding.fabricDrain : Encoding.Statement .fabricDrain := Encoding.event (fun _ => rfl) rfl

theorem Encoding.hostLinkDrain : Encoding.Statement .hostLinkDrain := Encoding.event (fun _ => rfl) rfl

theorem Encoding.classificationDescriptorWrite (pipe : BitVec 3) (v : BitVec 128) : Encoding.Statement (.classificationDescriptorWrite pipe v) := Encoding.event (fun _ => rfl) rfl

theorem Encoding.tableDescriptorWrite (die : BitVec 1) (i : BitVec 6) (v : BitVec 128) : Encoding.Statement (.tableDescriptorWrite die i v) := Encoding.event (fun _ => rfl) rfl

theorem Encoding.tableEntryWrite (die : BitVec 1) (i : BitVec 6) (slot : Option (BitVec 24)) (v : BitVec 512) : Encoding.Statement (.tableEntryWrite die i slot v) := Encoding.event (fun _ => rfl) rfl

theorem Encoding.stageEntryWrite (pipe : BitVec 3) (stage : BitVec 4) (ctx : CtxId) (v : BitVec 320) : Encoding.Statement (.stageEntryWrite pipe stage ctx v) := Encoding.event (fun _ => rfl) rfl

theorem Encoding.parserProgramLoad (pipe : BitVec 3) (words : List (BitVec 32)) : Encoding.Statement (.parserProgramLoad pipe words) := Encoding.event (fun _ => rfl) rfl

theorem Encoding.actionCodeLoad (pipe : BitVec 3) (stage : BitVec 4) (base : BitVec 12) (words : List (BitVec 32)) : Encoding.Statement (.actionCodeLoad pipe stage base words) := Encoding.event (fun _ => rfl) rfl

theorem Encoding.decodeMapWrite (map : BitVec 4) (entries : List (BitVec 16)) : Encoding.Statement (.decodeMapWrite map entries) := Encoding.event (fun _ => rfl) rfl

theorem Encoding.routingEntryWrite (pipe : BitVec 3) (dst : BitVec 10) (v : BitVec 32) : Encoding.Statement (.routingEntryWrite pipe dst v) := Encoding.event (fun _ => rfl) rfl

theorem Encoding.faultQueueHeaderWrite (die : BitVec 1) (v : BitVec 64) : Encoding.Statement (.faultQueueHeaderWrite die v) := Encoding.event (fun _ => rfl) rfl

theorem Encoding.heldFaultEntry (die : BitVec 1) : Encoding.Statement (.heldFaultEntry die) := Encoding.event (fun _ => rfl) rfl

theorem Encoding.pagingReplyMapped (die : BitVec 1) (ctx : CtxId) (page : BitVec 32) : Encoding.Statement (.pagingReplyMapped die ctx page) := Encoding.event (fun _ => rfl) rfl

theorem Encoding.pagingReplyFail (die : BitVec 1) (ctx : CtxId) (page : BitVec 32) : Encoding.Statement (.pagingReplyFail die ctx page) := Encoding.event (fun _ => rfl) rfl

theorem Encoding.kenvalResume (t : TileId) (skip : Bool) : Encoding.Statement (.kenvalResume t skip) := Encoding.event (fun _ => rfl) rfl

theorem Encoding.kenvalDiscard (t : TileId) : Encoding.Statement (.kenvalDiscard t) := Encoding.event (fun _ => rfl) rfl

theorem Encoding.kenvalTerminate (t : TileId) : Encoding.Statement (.kenvalTerminate t) := Encoding.event (fun _ => rfl) rfl

theorem Encoding.kenvalPreemptRequest (t : TileId) : Encoding.Statement (.kenvalPreemptRequest t) := Encoding.event (fun _ => rfl) rfl

theorem Encoding.debugStop (t : TileId) : Encoding.Statement (.debugStop t) := Encoding.event (fun _ => rfl) rfl

theorem Encoding.watchCopyRelease (id : Nat) : Encoding.Statement (.watchCopyRelease id) := Encoding.event (fun _ => rfl) rfl

theorem Encoding.coreDump (ctx : CtxId) : Encoding.Statement (.coreDump ctx) := Encoding.event (fun _ => rfl) rfl

theorem Encoding.watchdog (t : TileId) : Encoding.Statement (.watchdog t) := Encoding.event (fun _ => rfl) rfl

theorem Encoding.ctxLost (ctx : CtxId) : Encoding.Statement (.ctxLost ctx) := Encoding.event (fun _ => rfl) rfl

theorem Encoding.traceSample (t : TileId) : Encoding.Statement (.traceSample t) := Encoding.event (fun _ => rfl) rfl

theorem Encoding.measurementExtend (reg : BitVec 4) (ty : BitVec 8) (content : List Byte) : Encoding.Statement (.measurementExtend reg ty content) := Encoding.event (fun _ => rfl) rfl

theorem Encoding.attestationReport (nonce : BitVec 512) : Encoding.Statement (.attestationReport nonce) := Encoding.event (fun _ => rfl) rfl

theorem Encoding.coldReset : Encoding.Statement .coldReset := Encoding.event (fun _ => rfl) rfl

theorem Encoding.thermalThrottle (die : BitVec 1) (hot : Bool) : Encoding.Statement (.thermalThrottle die hot) := Encoding.event (fun _ => rfl) rfl

theorem Encoding.thermal (die : BitVec 1) : Encoding.Statement (.thermal die) := Encoding.event (fun _ => rfl) rfl

theorem Encoding.thermalPowerOff : Encoding.Statement .thermalPowerOff := Encoding.event (fun _ => rfl) rfl

theorem Encoding.kenvalRegisterWrite (r : KReg) : Encoding.Statement (.kenvalRegisterWrite r) := Encoding.event (fun _ => rfl) rfl

theorem Encoding.backInStep (u : XUnit) : Encoding.Statement (.backInStep u) := Encoding.event (fun _ => rfl) rfl

theorem Encoding.d2dLink : Encoding.Statement .d2dLink := Encoding.event (fun _ => rfl) rfl

theorem Encoding.stateParity (t : TileId) : Encoding.Statement (.stateParity t) := Encoding.event (fun _ => rfl) rfl

theorem Encoding.powerCap (die : BitVec 1) (on : Bool) : Encoding.Statement (.powerCap die on) := Encoding.event (fun _ => rfl) rfl

end Sys2Proof.Laws
end

