-- ==== Sys2Proof/Tests/Slice0.lean ====
section
/-! SUPPORT. Tests of the model: terms that well-formedness refuses, words written out from the spec's encodings, states that meet
the hypotheses of the statements, and single steps whose results the spec works out. -/

namespace Sys2Proof.Tests

open Sys2Proof Sys2Proof.Machine

set_option Elab.async false

/-! ### Small states -/

/-- The package at reset with the task of tile 0 changed. -/
def onTask (f : Task → Task) : State := State.reset.modTask f

/-- S registers of a task. -/
def putS (l : List (BitVec 6 × Word)) (k : Task) : Task := l.foldl (fun k e => writeS k e.1 e.2) k

/-- A registers of a task. -/
def putA (l : List (BitVec 5 × Word)) (k : Task) : Task :=
  l.foldl (fun k e => { k with a := k.a.set e.1.toNat e.2 e.1.isLt }) k

/-- Every V register of a task with the lane value x and the tag. -/
def putV (x : Lane) (tag : BitVec 6) (k : Task) : Task := { k with v := Vector.replicate 64 ⟨Vector.replicate 256 x, tag⟩ }

/-- A V register of a task, with the one value in each lane. -/
def setV (r : BitVec 6) (x : Lane) (tag : BitVec 6) (k : Task) : Task :=
  { k with v := k.v.set r.toNat ⟨Vector.replicate 256 x, tag⟩ r.isLt }

def scalars (l : List (BitVec 6 × Word)) : State := onTask (putS l)
def addresses (l : List (BitVec 5 × Word)) : State := onTask (putA l)
def vectors (x : Lane) (tag : BitVec 6) : State := onTask (putV x tag)

/-- The landings that an outcome leaves in flight, as offsets from the issue cycle. -/
def inFlight : Out → List (Nat × LandVal)
  | .next t => t.tk.pend.map fun l => (l.at_ - t.me.ic, l.val)
  | _ => []

/-- What an outcome leaves of the state. -/
def stateOf : Out → State
  | .next t => t
  | _ => State.reset

/-- How the slot ended. -/
def signal (o : Out) : Sig := (stateOf o).sig

/-! ### Well-formedness: each check refuses a term (R105, R110, R154) -/

theorem test_wf_parser :
    [Instr.pExt 31 0 0 false, .pExt 126 0 2 false, .pExtb 8 0 0 0, .pExtb 40 0 8 8, .pSet 5 0, .pAdv 257,
      .pAdvf 0 15 1 0, .pPayld 257].map Instr.wf = List.replicate 8 false := by decide +kernel

theorem test_wf_field_words :
    [Instr.acMov 9 0, .acAdd 11 0 0 false, .acSub 30 0 0 true, .acAnd 7 0 0, .acOr 0 0 0, .acXor 31 0 0,
      .acShl 12 0 16, .acShr 12 0 16, .acShl 9 0 1, .acShr 9 0 1, .acMin 9 0 0, .acMax 9 0 0, .acSlt 9 0 0, .acMovi 9 0,
      .acAddi 9 0 0, .acAndi 9 0 0, .acOri 9 0 0, .acMovh 9 0, .acSeqi 9 0 0, .acHit 9 0].map Instr.wf =
      List.replicate 20 false := by decide +kernel

theorem test_wf_other_words :
    [Instr.acSkipz 0 0, .acSkipnz 0 0, .acLdd 29 0 0 1, .acLdd 12 1 0 0, .acLdd 12 56 0 0, .acSrd 0 0 29 0, .acSadd 0 0 29 0,
      .acArrive 0 1 false true, .acPayWrite 0 0 1 false false, .acPayAddw 0 0 1 false false, .acPayAdds 0 0 1 false false,
      .acPayAddf 0 0 1 false false].map Instr.wf = List.replicate 12 false := by decide +kernel

theorem test_wf_predicates :
    [Instr.cmpeq 0 1 1, .cmpne 0 1 1, .cmplt 0 1 1, .cmpltu 0 1 1, .cmple 0 1 1, .cmpleu 0 1 1, .cmpeqi 0 1 1, .cmplti 0 1 1,
      .cmplei 0 1 1, .pand 0 1 1, .por 0 1 1, .pxor 0 1 1, .pnot 0 1, .fcmpeq 0 1 1, .fcmplt 0 1 1, .fcmple 0 1 1].map
      Instr.wf = List.replicate 16 false := by decide +kernel

theorem test_wf_slots :
    [Instr.srd 1 0x008, .swr 1 0x028, .enq 1 2 62, .spawnv 1 2 63, .amoGAcq .cas 63 1 .pkg, .amoGRel .cas 63 1 .pkg,
      .amoGAr .cas 63 1 .pkg, .loop 0 0, .loopSwp 0 0 0, .hrd 63 0, .vplane 1 2 1 0, .vplane 1 2 9 0, .vscale .rne 1 2 63,
      .mmul 1 63, .mmac 1 63, .mmulMid 1 63, .mmacMid 1 63, .mregroup 1 2 63, .mregroup 5 2 5, .mregroup 6 2 5].map Instr.wf =
      List.replicate 20 false := by decide +kernel

/-- The operands at the ends of those ranges are accepted. -/
theorem test_wf_ends :
    [Instr.pExt 127 0 0 false, .pExtb 127 0 15 0, .pAdv 256, .pPayld 256, .acMov 29 0, .acShl 8 0 15, .acSkipz 0 1,
      .acLdd 127 40 0 7, .acSrd 0 0 127 0, .srd 1 0x027, .enq 1 2 61, .spawnv 1 2 62, .loop 0 0xFFF, .hrd 62 0,
      .vplane 1 2 8 0, .mmul 0 63, .mmul 63 0, .mregroup 7 2 5].map Instr.wf = List.replicate 18 true := by decide +kernel

/-! ### Decoding: words written out from the encodings, by family -/

def tile (w : BitVec 32) : Option Instr := (decodeSlot w).toOption

/-- Scalar integers, moves, compares, predicates: OPC in [30:21], PRED in [20:18], d, a and b below (R153, R192 to R197). -/
theorem test_decode_scalar :
    tile 0x8000F280 = some (.add 15 10 0) ∧ tile 0x81E07146 = some (.div 7 5 6) ∧ tile 0x85009FFB = some (.movi 9 (-5)) ∧
      tile 0x86403105 = some (.cmplt 3 4 5) ∧ tile 0xA361F007 = some (.spstA 31 7) := by decide +kernel

/-- Parser words (R100). -/
theorem test_decode_parser :
    decodeP 0x14000C00 = some (.pExt 32 0 6 false) ∧ decodeP 0x64C0FFFF = some (.pKey 38 0xFFFF) ∧
      decodeP 0x4000000E = some (.pAdv 14) ∧ decodeP 0x90000000 = some (.pPayld 0) ∧
      decodeP 0xA0000000 = some (.pEnd false) := by decide +kernel

/-- Action words (R109). -/
theorem test_decode_action :
    decodeAC 0x80600001 = some (.acLdd 12 0 0 1) ∧ decodeAC 0x6400E002 = some (.acSkipnz 14 2) ∧
      decodeAC 0x40600010 = some (.acMovi 12 16) ∧ decodeAC 0xC4692000 = some (.acAdmit 13 9) ∧
      decodeAC 0xC060834A = some (.acPayAdds 12 4 13 false true) := by decide +kernel

/-- Control and exceptions (R200 to R206). -/
theorem test_decode_control :
    tile 0x900FFFFE = some (.br (-2)) ∧ tile 0x90C00003 = some (.nopn 3) ∧ tile 0x91200003 = some (.trap 3) ∧
      tile 0x91000000 = some .endTask ∧ tile 0x91E00000 = some .nop ∧ tile 0x91400000 = some .eret ∧
      tile 0x91400001 = some .eretSkip ∧ tile 0x91400002 = some .eretRaise := by decide +kernel

/-- Global memory, fences and cells (R282 to R311). -/
theorem test_decode_memory :
    tile 0x9260A040 = some (.ldG .d 10 1 0) ∧ tile 0x92E07140 = some (.stG .d 7 5 0) ∧ tile 0x94000000 = some .qmark ∧
      tile 0x94200003 = some (.fence .pkg) ∧ tile 0x99000053 = some (.relb 3 5) ∧ tile 0x99205100 = some (.arrive 5 4) ∧
      tile 0x99800107 = some (.expect 0 4 7) ∧ tile 0x99606101 = some (.waitc 6 4 .clus) := by decide +kernel

/-- Vector, matrix and copy slots (R212 to R294). -/
theorem test_decode_vector :
    tile 0xB88050C1 = some (.vld 5 3 1) ∧ tile 0xC3308187 = some (.vfmaF .f32 .rz 8 6 7) ∧
      tile 0xBF802105 = some (.vsel 2 4 5) ∧ tile 0xC9614194 = some (.vplane 20 6 4 1) ∧ tile 0xCC00C0C2 = some (.vcvtE4m3 .rne 12 3 2) ∧
      tile 0xD0800500 = some (.mpush 20) ∧ tile 0xF020130D = some (.cset 1 12 13) ∧
      tile 0xF0823840 = some (.cpy (some 3) (some 1) none) ∧ tile 0xAFE00000 = some .anop ∧ tile 0xBFC00000 = some .vnop ∧
      tile 0xF0000000 = some .cnop := by decide +kernel

/-- A destination of P0, a set bit of a field that must be zero and an opcode of no row are refused by name (R154). -/
theorem test_decode_refuses :
    (decodeSlot 0x86400105 matches .error .illegalOperand) = true ∧ (decodeSlot 0x91000001 matches .error .reservedField) = true ∧
      (decodeSlot 0x9FE00000 matches .error _) = true := by decide +kernel

/-! ### Scalar instructions: single steps, and states that meet the hypotheses -/

/-- The sum wraps; S0 takes none (R173, R192). -/
theorem test_add_wraps :
    inFlight (exec (.add 3 1 2) (scalars [(1, BitVec.allOnes 64), (2, 3)])) = [(1, .sreg 3 2)] ∧
      inFlight (exec (.add 0 1 2) (scalars [(1, 5), (2, 3)])) = [] := by decide +kernel

/-- `MUL S5, S1, S2` of 6 and 7 lands 42 at c+3 (R177). -/
theorem test_mul_lands : inFlight (exec (.mul 5 1 2) (scalars [(1, 6), (2, 7)])) = [(3, .sreg 5 42)] := by decide +kernel

/-- −7 by 2 gives −3 and −1 (R193). -/
theorem test_div_rem :
    inFlight (exec (.div 7 5 6) (scalars [(5, -7), (6, 2)])) = [(12, .sreg 7 (-3))] ∧
      inFlight (exec (.rem 7 5 6) (scalars [(5, -7), (6, 2)])) = [(12, .sreg 7 (-1))] := by decide +kernel

/-- `MOVK` shifts the source in and keeps the low twelve bits for the immediate (R195). -/
theorem test_movk : inFlight (exec (.movk 4 0xABC) (scalars [(4, 0x12)])) = [(1, .sreg 4 0x12ABC)] := by decide +kernel

/-- −1 is below 1 signed and above it unsigned (R196). -/
theorem test_compare_signs :
    inFlight (exec (.cmplt 3 1 2) (scalars [(1, -1), (2, 1)])) = [(1, .preg 3 true)] ∧
      inFlight (exec (.cmpltu 3 1 2) (scalars [(1, -1), (2, 1)])) = [(1, .preg 3 false)] := by decide +kernel

/-- 1.0 plus 2^24 is a tie and rounds to even, inexactly (R44, R62). -/
theorem test_fadd_tie :
    inFlight (exec (.fadd .rne 3 1 2) (scalars [(1, 0x3F800000), (2, 0x4B800000)])) =
      [(4, .sreg 3 0x4B800000), (4, .flags 0x10)] := by decide +kernel

/-- The node address of the trace right, left, left: the second node of the fragment, and the subtree that follows it (R210). -/
theorem test_anode :
    let s (mode : Word) := onTask fun k =>
      putA [(2, 0x0040040002001000 + mode)] { k with pt := k.pt.set 6 0x18000005 (by decide) }
    inFlight (exec (.anode 4 2 6) (s 0)) = [(1, .areg 4 0x02002400)] ∧
      inFlight (exec (.anode 4 2 6) (s (2 ^ 58))) = [(1, .areg 4 0x02001800)] := by decide +kernel

theorem witness_ScalarIntegerResults :
    State.reset.ready [0, 63, 1] = true ∧ State.reset.ready [63, 63] = true := by decide +kernel

/-- Every clause has its operands: a zero divisor, −2^63 by −1, and an ordinary division. -/
theorem witness_DivisionResults :
    (let s := scalars [(1, 9)]; s.ready [3, 1, 2] = true ∧ readS s.tk 2 = 0) ∧
      (let s := scalars [(1, BitVec.intMin 64), (2, BitVec.allOnes 64)]
       s.ready [3, 1, 2] = true ∧ readS s.tk 1 = BitVec.intMin 64 ∧ readS s.tk 2 = BitVec.allOnes 64) ∧
      (let s := scalars [(1, -7), (2, 2)]
       s.ready [3, 1, 2] = true ∧ readS s.tk 2 ≠ 0 ∧ ¬ (readS s.tk 1 = BitVec.intMin 64 ∧ readS s.tk 2 = BitVec.allOnes 64)) := by
  decide +kernel

theorem witness_MoveImmediate : State.reset.ready [63] = true ∧ State.reset.ready [0] = true := by decide +kernel

theorem witness_CompareResults :
    State.reset.ready [0, 63] = true ∧ (1 : BitVec 3) ≠ 0 ∧ (7 : BitVec 3) ≠ 0 := by decide +kernel

theorem witness_PredicateLogic :
    State.reset.ready [] = true ∧ (7 : BitVec 3) ≠ 0 ∧ (63 : BitVec 6) ≠ 0 := by decide +kernel

theorem witness_ScalarFloatResults :
    State.reset.ready [0, 63, 1] = true ∧ State.reset.ready [1, 2] = true := by decide +kernel

theorem witness_AddressUnitResults :
    (State.reset.ready [] = true ∧ nodeAddress 0x18000005 0x0040040002001000 = some 0x02002400 ∧
      nodeAddress 0x18000005 (0x0040040002001000 + 2 ^ 54) = none) ∧
      State.reset.ready [63] = true ∧ State.reset.readyFor [.spill] [63] = true := by decide +kernel

/-! ### Vector instructions -/

/-- The V registers that an outcome leaves in flight, as cycles to go, register, tag and the lanes listed; flags as register 0
with no tag. -/
def lands (o : Out) (is : List Nat) : List (Nat × BitVec 6 × BitVec 6 × List Lane) :=
  (inFlight o).filterMap fun e => match e.2 with
    | .vreg r v => some (e.1, r, v.tag, is.map fun i => v.lanes.toList.getD i 0)
    | .flags f => some (e.1, 0, 0, [f.setWidth 40])
    | _ => none

/-- Two V registers, each with one value in all lanes. -/
def two (x : Lane) (tx : BitVec 6) (y : Lane) (ty : BitVec 6) : State := onTask fun k => setV 1 x tx (setV 2 y ty k)

/-- The sums of (100, −100, 50, 127) and (100, −100, 100, 1): clamped with QS, and wrapped; and, on I32, 2^31 − 16 with 32
clamped and wrapped (R49, R59). -/
theorem test_narrowing :
    intLane .i8 true (· + ·) 0x7F329C64 0x01649C64 = (0x7F7F807F, flagQS) ∧
      intLane .i8 false (· + ·) 0x7F329C64 0x01649C64 = (0x809638C8, 0) ∧
      intLane .i32 true (· + ·) 0x7FFFFFF0 32 = (0x7FFFFFFF, flagQS) ∧
      intLane .i32 false (· + ·) 0x7FFFFFF0 32 = (0x80000010, 0) := by decide +kernel

/-- `VADD.F32` with an F32 and an FP16 source takes EMULATE at issue, with TAGF 0x20 and OPND 1 (R65). -/
theorem test_emulate :
    let s := two 0x3F800000 tagF32 0x3C00 tagFP16
    signal (exec (.vaddF .f32 .rne 3 1 2) s) = .trapped .emulate (tagTval s 0x20 1) := by decide +kernel

/-- The sum of 256 lanes of one is 256 in every lane, eight cycles on (R223). -/
theorem test_vredsum :
    lands (exec (.vredsum .i32 false 3 1) (two 1 tagI32 0 tagI32)) [0, 255] = [(8, 3, tagI32, [256, 256])] := by decide +kernel

/-- A drain of a cell at 2^39 − 50 keeps its low half, or delivers 2^31 − 1 and sets QS (R58). -/
theorem test_drain :
    drainI40 false (BitVec.ofInt 40 (2 ^ 39 - 50)) = (BitVec.ofInt 32 (-50), 0) ∧
      drainI40 true (BitVec.ofInt 40 (2 ^ 39 - 50)) = (0x7FFFFFFF, flagQS) := by decide +kernel

/-- −75 as element 256: bit 0 of lanes 0, 8, 16 and 24 becomes 1, 0, 1 and 1 (R233). -/
theorem test_vplane :
    let v : VReg := ⟨(Vector.replicate 256 0).set 64 0xB5, tagI8⟩
    lands (exec (.vplane 20 6 4 1) (onTask fun k => { k with v := k.v.set 6 v (by decide) })) [0, 8, 16, 24] =
      [(3, 20, tagPL 4, [1, 0, 1, 1])] := by decide +kernel

/-- The nodes on the path right, left, right: 0, 2 and 5 of the tree, 0 and 1 of the subtree at node 2 (R234). -/
theorem test_vptmask :
    let o (l : Word) := exec (.vptmask 3 6 4) (onTask fun k =>
      putS [(4, l)] { k with pt := k.pt.set 6 0x18000005 (by decide) })
    let ones := BitVec.allOnes 40
    lands (o 0) (List.range 8) = [(3, 3, tagI32, [ones, 0, ones, 0, 0, ones, 0, 0])] ∧
      lands (o 1) (List.range 4) = [(3, 3, tagI32, [ones, ones, 0, 0])] := by decide +kernel

/-- 500.0 becomes 448 in E4M3 and sets OF and NX (R46, R228). -/
theorem test_to_e4m3 : fConvert fmtF32 fmtE4M3 .rne 0x43FA0000 = (0x7E, 0x14) := by decide +kernel

/-- Part 2 of a conversion to four elements a lane fills lanes 128 to 191; the others keep a destination of the same tag, and
become zero under another (R228). -/
theorem test_parts :
    let v (tag : BitVec 6) : VReg := ⟨Vector.replicate 256 0x11111111, tag⟩
    let out (tag : BitVec 6) := (convParts (v tagF32) (v tag) tagE4M3 2 fun _ => (0x7E, 0)).1
    [127, 128, 191, 192].map (fun i => (out tagE4M3).lanes.toList.getD i 0) = [0x11111111, 0x7E7E7E7E, 0x7E7E7E7E, 0x11111111] ∧
      [127, 128, 191, 192].map (fun i => (out tagF32).lanes.toList.getD i 0) = [0, 0x7E7E7E7E, 0x7E7E7E7E, 0] := by decide +kernel

theorem witness_VectorIntegerResults :
    (let s := two 100 tagI8 7 (ityTag .n8)
     s.readyFor [.vector] [] = true ∧ (readV s.tk 1).tag = ityTag .i8 ∧ acceptWidth .i8 (readV s.tk 2).tag = true ∧
      acceptWidth (widthTy .w8) (readV s.tk 1).tag = true) ∧
    (let s := two 100 (ityTag .n4) 7 (ityTag .n4)
     s.readyFor [.vector] [] = true ∧ (readV s.tk 1).tag = ityTag .n4 ∧ (readV s.tk 2).tag = ityTag .n4) ∧
    7 < 32 / ityBits .n4 := by decide +kernel

theorem witness_VectorFloatResults :
    let s := vectors 0x3F800000 tagBF16
    s.readyFor [.vector] [] = true ∧ (readV s.tk 1).tag = ftyTag .bf16 ∧ (readV s.tk 63).tag = ftyTag .bf16 ∧
      (readV s.tk 0).tag = ftyTag .bf16 := by decide +kernel

theorem witness_ReductionResults :
    (let s := vectors 3 tagI32; s.readyFor [.vector] [] = true ∧ (readV s.tk 1).tag = ityTag .i32 ∧ (readV s.tk 1).tag = tagI32) ∧
    (let s := vectors 3 tagF32; s.readyFor [.vector] [] = true ∧ (readV s.tk 1).tag = tagF32) := by decide +kernel

theorem witness_SpecialFunctionResults :
    let s := vectors 0x40000000 tagF32
    s.readyFor [.vector] [] = true ∧ (readV s.tk 1).tag = tagF32 := by decide +kernel

theorem witness_EmulatedForms :
    (let s := vectors 0 tagFP16
     s.readyFor [.vector] [] = true ∧ s.tk.mode = .task ∧ isReservedTag (readV s.tk 1).tag = false) ∧
    (let s := vectors 0 0x3F
     s.readyFor [.vector] [] = true ∧ s.tk.mode = .task ∧ isReservedTag (readV s.tk 1).tag = true) := by decide +kernel

/-- A task at EMULATE of the bundle at address 0 of its tile: word w in slot 0, every register holding tag t. -/
def emulating (w : BitVec 32) (t : BitVec 6) : State :=
  ((vectors 0x3C00 t).withFetchWord 32 w.toNat).modTask fun k => { k with mode := .monitor, pc := 0x20000, ycause := 0x12, yepc := 0 }

/-- Each form with sources of its own format, and one with a source of another. -/
theorem witness_EmulatedForms_monitor :
    ([Instr.vaddE .fp16 3 1 2, .vsubE .fp16 3 1 2, .vmulE .fp16 3 1 2, .vfmaE .fp16 3 1 2].all fun i =>
      let s := emulating ((encode true 0 i).getD 0) tagFP16
      !s.poweredOff && atEmulate (s.tile 0) && (trappedSlot (s.tile 0)).any (fun y => y.ins == i) &&
        (readV s.tk 1).tag == etyTag .fp16 && (readV s.tk 2).tag == etyTag .fp16 && (readV s.tk 3).tag == etyTag .fp16) = true ∧
    (let s := emulating ((encode true 0 (.vaddE .fp16 3 1 2)).getD 0) tagF32
     atEmulate (s.tile 0) = true ∧ (trappedSlot (s.tile 0)).any (fun y => y.ins == .vaddE .fp16 3 1 2) = true ∧
      (readV s.tk 1).tag ≠ etyTag .fp16) := by decide +kernel

/-- 1.0 + 1.0 is 2.0 in FP16, and the task goes on after its slot (R47). -/
theorem test_emulated_add :
    (let s := stateOf (runTurn (.emulate 0) (emulating ((encode true 0 (.vaddE .fp16 3 1 2)).getD 0) tagFP16))
     s.tk.mode = .task ∧ s.tk.pc = 0 ∧ s.tk.skip = [(0, 0)] ∧ (readV s.tk 3).tag = tagFP16 ∧
      (readV s.tk 3).lanes[0] = 0x4000) := by decide +kernel

theorem witness_VectorMoveResults :
    (let s := vectors 1 tagI32
     s.readyFor [.vector] [] = true ∧ s.readyFor [.vector] [4] = true ∧ s.ready [] = true ∧
      isReservedTag (readV s.tk 1).tag = false ∧ (readV s.tk 1).tag ≠ tagEmpty ∧ (readV s.tk 2).tag = (readV s.tk 1).tag ∧
      acceptSint (readV s.tk 3).tag = true ∧ acceptIndex (readV s.tk 2).tag = true) ∧
    isReservedTag tagI40 = false := by decide +kernel

theorem witness_PlaneAndMaskResults :
    (let s := vectors 1 tagI8; s.readyFor [.vector] [] = true ∧ (readV s.tk 1).tag = tagI8) ∧
    (let s := vectors 1 tagI32; s.readyFor [.vector] [] = true ∧ (readV s.tk 1).tag = tagI32) ∧
    (let s := onTask fun k => putS [(4, 27)] { k with pt := k.pt.set 6 (BitVec.ofNat 32 (27 * 2 ^ 27)) (by decide) }
     s.readyFor [.vector] [4] = true ∧ (readS s.tk 4).toNat ≤ 27 ∧ (readPT s.tk 6).toNat / 2 ^ 27 ≤ 27) := by decide +kernel

theorem witness_ConversionResults :
    (let s := vectors 0x3F800000 tagF32
     s.readyFor [.vector] [] = true ∧ (readV s.tk 1).tag = tagF32 ∧ (3 : BitVec 3).toNat < convRatio tagF32 (ityTag .i8) ∧
      (1 : BitVec 3).toNat < 2 ∧ (3 : BitVec 3).toNat < 4) ∧
    (let s := vectors 0x38 tagE4M3
     s.readyFor [.vector] [] = true ∧ acceptToF32 (readV s.tk 1).tag = true ∧
      (3 : BitVec 3).toNat < convRatio (readV s.tk 1).tag tagF32) ∧
    (let s := onTask fun k => setV 1 5 tagI40 (setV 6 0x3F800000 tagF32 (setV 7 0x3F800000 tagF32 k))
     s.readyFor [.vector] [] = true ∧ (readV s.tk 1).tag = tagI40 ∧ (readV s.tk 6).tag = tagF32 ∧
      (readV s.tk (6 + 1)).tag = tagF32) := by decide +kernel

theorem witness_RotationRenames : (31 : BitVec 6).toNat < 32 ∧ 32 ≤ (32 : BitVec 6).toNat ∧ physV 31 40 = physV 31 40 := by
  decide +kernel

/-- Each source reserved in turn, and each of another format where those before it are the suffix's own. -/
theorem witness_EmulatedForms_sources :
    (let s := onTask fun k => setV 1 0 tagFP16 (setV 2 0 0x3F (setV 3 0 0x3F k))
     isReservedTag (readV s.tk 1).tag = false ∧ isReservedTag (readV s.tk 2).tag = true) ∧
    (let s := onTask fun k => setV 1 0 tagFP16 (setV 2 0 tagFP16 (setV 3 0 0x3F k))
     isReservedTag (readV s.tk 1).tag = false ∧ isReservedTag (readV s.tk 2).tag = false ∧
      isReservedTag (readV s.tk 3).tag = true) ∧
    (let at_ (r : BitVec 6) := (emulating ((encode true 0 (.vfmaE .fp16 3 1 2)).getD 0) tagFP16).modTask (setV r 0 tagE4M3)
     ∀ r ∈ [(2 : BitVec 6), 3], atEmulate ((at_ r).tile 0) = true ∧ (at_ r).poweredOff = false ∧
      (trappedSlot ((at_ r).tile 0)).any (fun y => y.ins == .vfmaE .fp16 3 1 2) = true ∧
      (readV (at_ r).tk 1).tag = etyTag .fp16 ∧ (readV (at_ r).tk r).tag ≠ etyTag .fp16) := by decide +kernel

/-- Under rotation 1 the result of an emulated form lands in the register that its name then has (R190). -/
theorem test_emulated_rotates :
    let s := (emulating ((encode true 0 (.vaddE .fp16 32 1 2)).getD 0) tagFP16).modTask fun k => { k with rot := 1 }
    let t := stateOf (runTurn (.emulate 0) s)
    (readV t.tk 32).lanes[0] = 0x4000 ∧ physV 1 32 ≠ 32 := by decide +kernel


/-! ### Vector memory, matrix unit, transposer, tree descent, handles -/

/-- Region 0 of a task: banks 0 to 63 of die 0, readable, writable, enabled (R25); bank 0 belongs to context 0. -/
def withRegion (k : Task) : Task := { k with regions := k.regions.set 0 0x8007F800 (by decide) }

/-- Whether a value was found and has a property. -/
def holds {α : Type} (o : Option α) (f : α → Bool) : Bool := o.any f

/-- Whether the lanes of an access pass their checks and its banks admit it, with no poison in the way. -/
def passes (s : State) (x : VAccess) : Bool :=
  holds (accessLanes s.tk.regions x ((List.range x.offs.length).zip x.offs)).toOption fun sgas =>
    (admitBanks (taskAccessor s.tk) (rangeBanks (sgas.map fun b => (b, x.foot))) s).isSome &&
      !sgas.any (fun b => poisonedRange s.swardPoison b x.foot) &&
      (!x.store || (coreWatch s true (sgas.map fun b => (b, x.foot))).isNone)

/-- `VLD` of the last lane that region 0 holds; `VLDS` with a stride of 64 KiB; `VLDX` with indices −1 (taken as 2^32 − 1) out
of bounds and 3 in bounds. -/
theorem witness_VectorLoadResults :
    (let la : Word := 2 ^ 24 - 1024
     let s := onTask fun k => withRegion (putA [(1, la)] k)
     s.readyFor [.vector] [] = true ∧ isReservedTag tagI32 = false ∧ (readA s.tk 1).toNat < 2 ^ 28 ∧
      passes s ⟨la, (List.range (lanesOf tagI32)).map fun i => la.toNat % 2 ^ 24 + footOf tagI32 * i, footOf tagI32, false⟩ =
        true) ∧
    (let cw : Word := 0x7 + 2 ^ 16 * 2 ^ 8
     let s := onTask fun k => withRegion (putA [(2, cw)] k)
     isReservedTag (cw.extractLsb' 0 6) = false ∧ strideOk cw = true ∧
      passes s ⟨0, (List.range (lanesOf tagI40)).map fun i => 0 % 2 ^ 24 + (cw.toNat / 2 ^ 8 % 2 ^ 24) * i, footOf tagI40, false⟩ =
        true) ∧
    (let s := onTask fun k => withRegion (setV 4 3 tagI32 (setV 5 0 tagI32 k))
     acceptIndex (readV s.tk 4).tag = true ∧ isReservedTag (readV s.tk 5).tag = false ∧ acceptIndexed (readV s.tk 5).tag = true ∧
      passes s ⟨0, (readV s.tk 4).lanes.toList.map fun l => 0 % 2 ^ 24 + 4 * (l.toNat % 2 ^ 32), 4, false⟩ = true) := by
  decide +kernel

theorem witness_VectorStoreResults :
    let cw : Word := 4 * 2 ^ 8
    let s := onTask fun k => withRegion (putA [(2, cw)] (setV 4 3 tagI32 (setV 5 9 tagI32 k)))
    let v := readV s.tk 5
    s.readyFor [.vector] [] = true ∧ s.memoryWf = true ∧ s.tk.shadow = 0 ∧ isReservedTag v.tag = false ∧
      passes s ⟨0, (List.range (lanesOf v.tag)).map fun i => 0 % 2 ^ 24 + footOf v.tag * i, footOf v.tag, true⟩ = true ∧
      strideOk cw = true ∧
      passes s ⟨0, (List.range (lanesOf v.tag)).map fun i => 0 % 2 ^ 24 + (cw.toNat / 2 ^ 8 % 2 ^ 24) * i, footOf v.tag, true⟩ =
        true ∧
      acceptIndex (readV s.tk 4).tag = true ∧ acceptIndexed v.tag = true ∧
      passes s ⟨0, (readV s.tk 4).lanes.toList.map fun l => 0 % 2 ^ 24 + 4 * (l.toNat % 2 ^ 32), 4, true⟩ = true := by
  decide +kernel

/-- A task with region 0, and a handle of tag t whose first slot of 64 KiB is filled. -/
def withSlot (t : BitVec 6) (k : Task) : Task :=
  withRegion { k with h := k.h.set 2 ⟨0, 0x3FFF, t, 1, 1, 0, 1, true, [t]⟩ (by decide) }

/-- Handle 2 as the next read of it sees it. -/
def ahead2 (s : State) : Handle := aheadHandle s.cmds s.tk 2 (readH s.tk 2)

/-- Whether the head slot of handle 2 can be read: n bytes in its region, from banks that admit the task. -/
def headReads (s : State) (tag : Bool) (n : Nat) : Bool :=
  let x := ahead2 s
  (readH s.tk 2).valid && decide ((pendingAdvance s.cmds s.tk 2).toNat < filledSlots (readH s.tk 2)) && tag && decide (n ≤ slotBytes x) &&
    !streaming s && s.tk.mat.load.isNone &&
    holds (laCheck s.tk.regions (slotLa x x.head) n true false).toOption fun sga =>
      (admitBanks (taskAccessor s.tk) (extentBanks sga n) s).isSome && !poisonedRange s.swardPoison sga n

/-- An open entry of the row buffer. -/
def openRow : RowEntry := ⟨0, Vector.replicate 256 1, 2, true, none⟩

/-- A configuration; a dense load of one column and of all; a sparse load of N = 8; feeds of 1 and of 64 rows. -/
theorem witness_MatrixResults_loads :
    (let s := scalars [(1, 0x0FF00088)]; s.readyFor [.vector, .matrix] [1] = true ∧ cfgOk (readS s.tk 1) = true) ∧
    (let s := onTask fun k => withSlot tagI8 (putS [(1, 0xFFFF)] k)
     s.readyFor [.vector, .matrix] [1] = true ∧ (readS s.tk 1).toNat < 2 ^ 17 ∧ s.tk.mat.mode = 0 ∧
      headReads s (headTag (ahead2 s) == tagI8) (256 * (255 - 255 + 1)) = true) ∧
    (let s := onTask fun k => withSlot tagI8 (putS [(1, 0xFF00)] { k with mat := { k.mat with cfg := 0x0FF00288 } })
     let n := sparseN (cfgSp s.tk.mat.cfg)
     s.readyFor [.vector, .matrix] [1] = true ∧ (readS s.tk 1).toNat < 2 ^ 17 ∧ cfgSp s.tk.mat.cfg ≠ 0 ∧ n = 8 ∧
      headReads s (headTag (ahead2 s) == tagI8) (448 * n * (256 / n)) = true) ∧
    (let s := onTask (withSlot (tagPL 8))
     s.readyFor [.vector, .matrix] [] = true ∧ plPlanes (headTag (ahead2 s)) = 8 ∧
      s.tk.mat.rows.length + 64 ≤ 64 ∧ headReads s (isPL (headTag (ahead2 s))) (32 * 8 * 64) = true) := by decide +kernel

theorem witness_MatrixResults_rows :
    (let s := vectors 0 (tagPL 8)
     s.readyFor [.vector, .matrix] [] = true ∧ isPL (readV s.tk 1).tag = true ∧ s.tk.mat.rows.length < 64) ∧
    (let s := onTask fun k => putV 0 tagI40 { k with mat := { k.mat with rows := List.replicate 64 openRow } }
     s.readyFor [.vector, .matrix] [] = true ∧ s.tk.mat.load = none ∧ streaming s = false ∧ pendingRows s.tk + 64 ≤ 64 ∧
      cfgSp s.tk.mat.cfg = s.tk.mat.mode ∧
      64 * entriesPerRow s.tk.mat.mode ≤ (s.tk.mat.rows.filter fun r => r.claim.isNone).length ∧
      ∀ r, r < 64 → (physReadV s.tk (physV s.tk.rot (BitVec.ofNat 6 (0 + r)))).tag = tagI40) := by decide +kernel

/-- −75 read at four planes with B[0][0] = 3 gives −384 + 0 + 96 + 48, and 24 more with the midpoint correction (R250, R52). -/
theorem test_row_products :
    let m := { Matrix.reset with w := (Vector.replicate 256 (Vector.replicate 256 0)).set 0 ((Vector.replicate 256 0).set 0 3) }
    [7, 6, 5, 4].map (fun b => planeWeight b * columnSum m (fun k => k == 0 && bit (0xB5 : Byte) b) 0) = [-384, 0, 96, 48] ∧
      2 ^ (7 - 4) * columnSum m (fun _ => true) 0 = 24 := by decide +kernel

/-- A cell at 2^39 − 100 takes +300: the sum wraps and the excursion is recorded; −250 more wraps back (R57). -/
theorem test_cell_wraps :
    commitCell (2 ^ 39 - 100) [300] = (-2 ^ 39 + 200, true) ∧ commitCell (-2 ^ 39 + 200) [-250] = (2 ^ 39 - 50, true) := by
  decide +kernel

/-- A lane in the window, one outside it, and a commit with no excursion. -/
theorem witness_RowCommit :
    let r := rowCommit true 254 254 [Vector.replicate 256 5] ⟨Vector.replicate 256 1, tagI40⟩
    r.2 = false ∧ (254 ≤ (254 : BitVec 8).toNat) ∧ ¬ (255 ≤ (254 : BitVec 8).toNat) := by decide +kernel

theorem witness_TransposerResults :
    (let s := vectors 1 tagI32
     s.readyFor [.transpose, .vector] [] = true ∧ s.tk.xp.pushn < 64 ∧ acceptElem32 (readV s.tk 1).tag = true ∧
      isReservedTag (readV s.tk 1).tag = false ∧ s.tk.xp.tag = tagEmpty) ∧
    (let s := onTask fun k => { k with xp := { k.xp with pushn := 63, popn := 63, tag := tagF32 } }
     s.readyFor [.transpose, .vector] [] = true ∧ s.tk.xp.popn < 64 ∧ s.tk.xp.pushn < 64 ∧ s.tk.xp.tag ≠ tagEmpty) ∧
    State.reset.readyFor [.transpose] [63] = true := by decide +kernel

/-- With four rows of 1000·i + j, the first pop takes column 0 of each, and lane 64 on column 1 (R254). -/
theorem test_xpop :
    let row (v : BitVec 32) := (Vector.replicate 256 v).set 1 (v + 1)
    let t := (((Transposer.reset.t.set 0 (row 0)).set 1 (row 1000)).set 2 (row 2000)).set 3 (row 3000)
    [0, 1, 2, 3, 4, 63, 64, 65].map (popLane { Transposer.reset with t := t, pushn := 4, rows := 4, tag := tagI32 } 0) =
      [0, 1000, 2000, 3000, 0, 0, 1, 1001] := by
  decide +kernel

/-- Eight levels from a trace of depth 19, in the last row; from fresh traces in one row; a regroup with −1 and 255. -/
theorem witness_TreeResults :
    (let s := onTask fun k => putS [(3, 0x200)] (putV 0 tagI40 { k with pt := Vector.replicate 64 (BitVec.ofNat 32 (19 * 2 ^ 27)) })
     let w := readS s.tk 3
     s.readyFor [.vector, .matrix] [3] = true ∧ w.toNat < 2 ^ 11 ∧ w.toNat / 64 % 16 = 8 ∧ 63 + (w.toNat % 64 + 1) ≤ 64 ∧
      (readV s.tk 63).tag = tagI40 ∧ (readPT s.tk 63).toNat / 2 ^ 27 + 8 ≤ 27 ∧ signal (exec (.mdesc 3 63 3) s) = .done) ∧
    (let s := onTask fun k => putS [(3, 0x440)] (putV 0 tagI40 { k with pt := Vector.replicate 64 (BitVec.allOnes 32) })
     (readS s.tk 3).getLsbD 10 = true ∧ (readS s.tk 3).toNat / 64 % 16 = 1 ∧ signal (exec (.mdesc 3 63 3) s) = .done) ∧
    (let v : VReg := ⟨(Vector.replicate 256 (-1)).set 7 255, tagI32⟩
     let s := onTask fun k => { k with v := k.v.set 1 v (by decide) }
     s.readyFor [.vector, .matrix] [] = true ∧ (readV s.tk 1).tag = tagI32 ∧ signal (exec (.mregroup 2 1 4) s) = .done ∧
      ∀ i : Fin 256, -1 ≤ (laneLow (readV s.tk 1).lanes[i]).toInt ∧ (laneLow (readV s.tk 1).lanes[i]).toInt ≤ 255) := by
  decide +kernel

/-- A handle of sixteen slots with HEAD 6, FILL 7 and RES 9 (R264). -/
def ringTask (k : Task) : Task :=
  putS [(1, 1), (2, 2 ^ 32 * 3 + 2)] { withRegion k with h := k.h.set 2 ⟨0, 0, tagI8, 4, 7, 6, 9, true, [tagI8]⟩ (by decide) }

theorem witness_HandleResults :
    (let s := onTask ringTask
     let x := readH s.tk 2
     x.valid = true ∧ s.ready [5, 1] = true ∧ handleProduced s 2 = false ∧ 0 < (readS s.tk 1).toNat ∧
      (readS s.tk 1).toNat ≤ 2 ^ x.logs.toNat ∧ (readS s.tk 1).toNat + (x.res - x.head).toNat ≤ 2 ^ x.logs.toNat ∧
      s.ready [2] = true ∧ (readS s.tk 2).toNat < 2 ^ 38 ∧ 0 < ((readS s.tk 2).extractLsb' 0 32).toNat ∧
      ((readS s.tk 2).extractLsb' 0 32).toNat ≤ (x.res - x.fill).toNat ∧
      isReservedTag ((readS s.tk 2).extractLsb' 32 6) = false ∧
      (readS s.tk 1).toNat + (pendingAdvance s.cmds s.tk 2).toNat ≤ (x.fill - x.head).toNat) ∧
    (State.reset.ready [5, 1] = true ∧ (readH State.reset.tk 0).valid = false ∧ State.reset.ready [62, 62 + 1] = true) := by
  decide +kernel

/-- Both descriptors: one of zeros, which is no valid one, and one that passes every check. -/
theorem witness_HandleResults_setup :
    let good : BitVec 256 := 2 ^ 192 + 2 ^ 32 * 0x0F
    let s (w : BitVec 256) : State := { onTask withRegion with sward := memWriteLE [] 0 32 w.toNat }
    let admitted (s : State) : Bool :=
      holds (laCheck s.tk.regions 0 32 true false).toOption fun sga =>
        sga == 0 && (admitBanks (taskAccessor s.tk) (rangeBanks [(sga, 32)]) s).isSome && !poisonedRange s.swardPoison sga 32
    (s 0).ready [] = true ∧ (s 0).cmds.any (cmdNames (s 0).tk.uid 2) = false ∧ matrixReads (s 0).tk.mat 2 = false ∧
      (readA (s 0).tk 1).toNat < 2 ^ 28 ∧ (readA (s 0).tk 1).toNat % 32 = 0 ∧ admitted (s 0) = true ∧
      (BitVec.ofNat 256 (leNat ((s 0).slotRead 0 32))).getLsbD 192 = false ∧
      admitted (s good) = true ∧ BitVec.ofNat 256 (leNat ((s good).slotRead 0 32)) = good ∧ good.getLsbD 192 = true ∧
      handleFails (s good).tk.regions good = none := by decide +kernel

/-- A store in a branch shadow joins the held effects (R181). -/
theorem witness_VectorStoreResults_shadow :
    let s := onTask fun k => withRegion (setV 5 9 tagI32 { k with shadow := 2 })
    let v := readV s.tk 5
    0 < s.tk.shadow ∧ s.readyFor [.vector] [] = true ∧ s.memoryWf = true ∧ isReservedTag v.tag = false ∧
      passes s ⟨0, (List.range (lanesOf v.tag)).map fun i => 0 % 2 ^ 24 + footOf v.tag * i, footOf v.tag, true⟩ = true ∧
      (stateOf (exec (.vst 5 0) s)).tk.held ≠ [] := by decide +kernel

/-- A group whose indices do not rise: the first column of the first group of zeros (R56). -/
theorem witness_MatrixResults_meta :
    metaFault #[] (256 * 8 * 32) 8 32 = some (0, 0) ∧ sparseN 1 = 8 := by decide +kernel

/-- A commit that leaves the range, and one that comes back into it (R57). -/
theorem witness_RowCommit_overflow :
    (rowCommit true 0 255 [Vector.replicate 256 300] ⟨Vector.replicate 256 (2 ^ 39 - 100), tagI40⟩).2 = true ∧
    (rowCommit true 0 255 [Vector.replicate 256 300, Vector.replicate 256 (-300)] ⟨Vector.replicate 256 (2 ^ 39 - 100), tagI40⟩).2 =
      true := by decide +kernel

/-- An advance behind another, and one behind a load of B that reads the handle. -/
theorem witness_HandleResults_waits :
    (let s := onTask fun k => { ringTask k with
       icyc := 1, headAdv := [⟨2, 1, 0, 0⟩], h := k.h.set 2 ⟨0, 0, tagI8, 4, 8, 6, 9, true, [tagI8, tagI8]⟩ (by decide) }
     (readS s.tk 1).toNat + (pendingAdvance s.cmds s.tk 2).toNat ≤ ((readH s.tk 2).fill - (readH s.tk 2).head).toNat ∧
      (readH s.tk 2).valid = true ∧ s.ready [1] = true ∧ pendingAdvance s.cmds s.tk 2 ≠ 0) ∧
    (let s := onTask fun k => { ringTask k with mat := { k.mat with load := some ⟨0, k.mat.w, k.mat.idx, 0, 2, false⟩ } }
     (readH s.tk 2).valid = true ∧ s.ready [1] = true ∧ handleReadsOut s 2 = true) := by decide +kernel

/-! ### Control, exceptions, scalar accesses, synchronisation, copy channels -/

/-- A state with predicate 1 false and a slot word that names it. -/
def predicateOff : State := { State.reset with slotWord := 2 ^ 18 }

/-- A taken hinted branch sends NPC to its target and opens the shadow; not taken it owes four empty cycles (R180, R201). -/
theorem test_br :
    (let t := stateOf (exec (.br (-2)) (onTask fun k => { k with pc := 0x40, npc := 0x44 }))
     t.tk.npc = 0x38 ∧ t.tk.taken = true ∧ t.tk.shadow = 0 ∧ (completeBundle t).tk.shadow = 3) ∧
    (let t := stateOf (exec (.br (-2)) predicateOff); t.tk.npc = 0 ∧ t.tk.empties = 4) := by decide +kernel

theorem witness_BranchResults :
    State.reset.guard = true ∧ predicateOff.guard = false ∧ State.reset.ready [] = true ∧
    (let t : Word := 0xFFFC
     let s := addresses [(1, t)]
     readA s.tk 1 = t ∧ s.tk.mode = .task ∧ t.toNat % 4 = 0 ∧ halfBase s.me.cur ≤ t.toNat ∧ t.toNat < halfBase s.me.cur + 0x10000) ∧
    (let s := onTask fun k => putA [(1, 0x21FFC)] { k with mode := .monitor }
     (readA s.tk 1).toNat % 4 = 0 ∧ 0x20000 ≤ (readA s.tk 1).toNat ∧ (readA s.tk 1).toNat < 0x22000) ∧
    (let s := addresses [(1, 0x10000), (2, 2)]
     ¬ ((readA s.tk 1).toNat < halfBase s.me.cur + 0x10000) ∧ (readA s.tk 2).toNat % 4 ≠ 0) ∧
    (let s := State.reset.modTile 0 fun x => { x with half1 := { x.half1 with st := .overlay } }
     let h := getHalf s.me (!s.me.cur)
     s.ready [] = true ∧ h.st = .overlay ∧ h.owner = s.tk.ctx ∧ h.wr = false) ∧
    State.reset.cmds.any (cmdToScratchpad State.reset.cur State.reset.tk.uid) = false := by decide +kernel

/-- The fourth loop of a nest that ends where its parents end; a register of the task, and one of the monitor in its mode. -/
theorem witness_LoopAndRegisterResults :
    (let f (n : BitVec 2) : LoopFrame := ⟨n, 0, 0, 0x40, none, 0, false, 0, 0, 0, 0⟩
     let s := onTask fun k => { k with loops := [f 0, f 1, f 2] }
     let last := s.tk.pc.toNat + 4 * (0x10 : BitVec 12).toNat
     inFetchRange s last = true ∧ s.tk.loops.length < 4 ∧ (∀ x ∈ s.tk.loops, x.n ≠ 3) ∧
      (∀ x ∈ s.tk.loops, last % 2 ^ 18 ≤ x.last.toNat) ∧ swpActive s.tk = false) ∧
    (State.reset.ready [63] = true ∧ (0x00F : BitVec 12).toNat < 0x10 ∧ claimBlocked State.reset .vector = false) ∧
    (let s := onTask fun k => { k with mode := .monitor }; s.ready [1] = true ∧ s.tk.mode = .monitor) := by decide +kernel

theorem witness_PrivilegedInTaskMode :
    State.reset.tk.mode = .task ∧ State.reset.ready [1] = true ∧ 0x10 ≤ (0x010 : BitVec 12).toNat := by decide +kernel

theorem witness_YieldEndTrapResults :
    State.reset.guard = true ∧ State.reset.tk.mode = .task ∧ State.reset.tk.gsize = 0 ∧ State.reset.tk.held = [] ∧
      ∀ l ∈ State.reset.tk.pend, State.reset.me.ic < l.at_ := by decide +kernel

theorem witness_ReturnFromMonitor :
    let s := onTask fun k => { k with mode := .monitor, yepc := 0x40 }
    let u := (settle (issueCycle s)).modTask fun k => { k with bundle := k.bundle + 1 }
    s.tk.mode = .monitor ∧ u.tk.yepc.getLsbD 21 = false := by decide +kernel

/-- A routed cause, an unrouted one, and a machine check, which is never routed. -/
theorem witness_TrapEntry :
    (State.reset.tile 5).task.mode = .task ∧ (0x12 : BitVec 8) = 0x12 ∧
    ¬ ((0x40 : BitVec 8) = 0x12 ∨ (¬ (0xC0 ≤ (0x40 : BitVec 8).toNat ∧ (0x40 : BitVec 8).toNat ≤ 0xDF) ∧
      (State.reset.die (tileDie 5)).routeMask.getLsbD 0x40 = true)) ∧
    (let s := State.reset.modDie 0 fun d => { d with routeMask := BitVec.allOnes 256 }
     (s.tile 5).task.mode = .task ∧ (s.die (tileDie 5)).routeMask.getLsbD 0xC0 = true ∧
      (0xC0 ≤ (0xC0 : BitVec 8).toNat ∧ (0xC0 : BitVec 8).toNat ≤ 0xDF)) := by decide +kernel

/-- The record of an EMULATE trap of slot 2, which enters the monitor at its base (R334, R340). -/
theorem test_trap_entry :
    let s := takeTrap 0 0x12 false 3 2 0x44 7 0 (onTask fun k => { k with pc := 0x44 })
    s.tk.ycause = 0x12 + 2 ^ 16 * (tileUnit 0 3).setWidth 64 ∧ s.tk.yepc = 0x44 + 2 ^ 18 * 2 ∧ s.tk.ytval = 7 ∧
      s.tk.mode = .monitor ∧ s.tk.pc = 0x20000 := by decide +kernel

theorem witness_MonitorFault :
    ((onTask fun k => { k with mode := .monitor }).tile 0).task.mode = .monitor := by decide +kernel

/-- Queue 9 with eight slots for context 0 (R124). -/
def withQueue (s : State) : State := s.modQueue 9 fun q => { q with desc := 1 + 2 ^ 12 * 3 + 2 ^ 16 * 0x1000 }

/-- A launch word for template 5 on queue 9, with and without room there. -/
theorem witness_RecordResults :
    let lw : Word := 5 + 2 ^ 16 * 9
    (let s := withQueue (onTask fun k => putS [(1, lw)] (setV 2 7 tagI32 k))
     s.tk.shadow = 0 ∧ s.ready [63, 1, 61, 61 + 1, 61 + 2] = true ∧ readS s.tk 1 = lw ∧ lw.toNat / 2 ^ 23 % 2 ^ 9 = 0 ∧
      qOwner (s.queue (lwQueue lw)).desc = s.tk.ctx ∧ qEn (s.queue (lwQueue lw)).desc = true ∧
      1 ≤ qFree (s.queue (lwQueue lw)) ∧ s.ready [63, 1, 1 + 1] = true ∧ acceptIndex (readV s.tk 2).tag = true ∧
      ¬ (256 ≤ qFree (s.queue (lwQueue lw)))) ∧
    (let s := scalars [(1, lw)]
     qOwner (s.queue (lwQueue lw)).desc = s.tk.ctx ∧ qEn (s.queue (lwQueue lw)).desc = false) := by decide +kernel

/-- `ENQ` of template 5 on queue 9 builds its record from the launch word and three doublewords, and answers 0 (R126). -/
theorem test_enq :
    let t := stateOf (exec (.enq 4 1 5) (withQueue (scalars [(1, 5 + 2 ^ 16 * 9 + 2 ^ 32 * 0xC0001), (5, 12), (7, 2 ^ 32)])))
    (t.queue 9).tailp = 1 ∧ (t.queue 9).landing.map (fun r => r.rec_) = 
      [BitVec.ofNat 256 (5 + 2 ^ 16 * 9 + 2 ^ 32 * 0xC0001 + 2 ^ 64 * 12 + 2 ^ 224)] ∧
      t.tk.pend.map (fun l => l.val) = [.sreg 4 0] := by decide +kernel

/-- The last doubleword below 2^48; an address at 2^48; one that is no multiple of eight. -/
theorem witness_GlobalAccessResults :
    let top : Word := 2 ^ 48 - 8
    let s := scalars [(1, top), (2, 2 ^ 48), (3, 4)]
    s.tk.shadow = 0 ∧ s.ready [63, 1] = true ∧ s.ready [63, 1, 2] = true ∧ s.ready [62, 62 + 1, 1] = true ∧ s.ready [] = true ∧
      (readS s.tk 1).toNat < 2 ^ 48 ∧ (readS s.tk 1).toNat % 8 = 0 ∧ coreWatch s false [(top.toNat, 8)] = none ∧
      s.tk.loadQ.length < 32 ∧ s.me.storeQ.length < 32 ∧ 2 ^ 48 ≤ (readS s.tk 2).toNat ∧
      (readS s.tk 3).toNat < 2 ^ 48 ∧ (readS s.tk 3).toNat % 8 ≠ 0 := by decide +kernel

/-- Nothing before a fence; an access before it; a region on and a region off. -/
theorem witness_FenceAndReleaseResults :
    (let s := onTask withRegion
     s.ready [] = true ∧ (∀ e ∈ s.tk.loadQ, e.op ≠ .mark → s.me.accOrd ≤ e.ord) ∧ s.me.storeQ = [] ∧ s.me.sideLog = [] ∧
      s.me.hostPend = [] ∧ s.tk.shadow = 0 ∧ regEn (s.tk.regions[(0 : BitVec 4).toNat]) = true ∧
      regEn (s.tk.regions[(15 : BitVec 4).toNat]) = false) ∧
    (let s := stateOf (exec (.stG .d 1 2 0) State.reset)
     s.ready [] = true ∧ ¬ (∀ e ∈ s.me.storeQ, e.op ≠ .mark → s.me.accOrd ≤ e.ord)) := by decide +kernel

/-- Context 0 ACTIVE with 64 cells from SGA 0 (R20). -/
def withCells (s : State) : State := s.modCtx 0 fun c => { c with desc := 1 + 2 ^ 221 * 64 }

/-- Cell 12 of R36's sequence: THRESH 2, REARM, TMPL 5, QUEUE 9, with COUNT and PEND as given; context 0. -/
def cell12 (count pend : Nat) : BitVec 256 :=
  BitVec.ofNat 256 (count + 2 ^ 32 * 2 + 2 ^ 64 * pend + 2 ^ 113 + 2 ^ 136 * 9 + 2 ^ 144 * 5)

/-- The package with cell 12 holding c, and queue 9. -/
def withCell12 (c : BitVec 256) (s : State) : State := { withQueue (withCells s) with sward := memWriteLE [] (32 * 12) 32 c.toNat }

/-- An expect, an arrive that leaves a count, and a phase to wait for. -/
theorem witness_SynchronisationResults :
    let s := withCell12 (cell12 2 0) (scalars [(1, 12 + 2 ^ 16), (2, 12), (3, 4096), (4, 12 + 2 ^ 16)])
    s.ready [63, 1] = true ∧ (readS s.tk 1).toNat < 2 ^ 33 ∧ 1 ≤ (readS s.tk 1).toNat / 2 ^ 16 % 2 ^ 17 ∧
      (cellOp 0 12 (.arrive 1) s).fault = none ∧ cellStalls s 0 12 (.arrive 1) = false ∧
      cellStalls s 0 12 (.expect 4096) = false ∧ performedBefore s.me s.me.accOrd .sys = true ∧
      s.ready [63, 2, 3] = true ∧ (readS s.tk 2).toNat < 2 ^ 16 ∧ (readS s.tk 3).toNat < 2 ^ 32 ∧
      (cellOp 0 12 (.expect 4096) s).fault = none ∧ s.ready [63, 4] = true ∧ (readS s.tk 4).toNat < 2 ^ 17 ∧
      (cellOp 0 12 .phase s).fault = none ∧ cellAddr s 0 12 = some 384 ∧
      (cellOp 0 12 .phase s).phase ≠ (readS s.tk 4).getLsbD 16 := by decide +kernel

/-- A task with region 0, the ring handle, and channel 0's shadow set holding p. -/
def withPar (l : List (Fin 8 × Word)) : State := onTask fun k =>
  { ringTask k with ch := k.ch.set 0 ⟨l.foldl (fun p e => p.set e.1 e.2) (Vector.replicate 8 0), Vector.replicate 8 0, none⟩ }

/-- Whether a command of a kind meets the checks as it issues. -/
def issuesNow (kind : Nat) (s : State) : Bool :=
  let p := s.tk.ch[(0 : Fin 2)].shadow
  s.ready [] && s.tk.ch[(0 : Fin 2)].busy == none && !(readK s.tk 3).pend && !claimBlocked s .vector && formFails kind p == none &&
    swardFails s kind p == none && (kind != 1 || parDir p != 2 || (imemTargetOk s.me p && !halfToSave s.me)) &&
    (kind != 2 || (asRows s.tk p).all fun v => !isReservedTag v.tag) &&
    (!parHs p || cmdBytes kind p % slotBytes (readH s.tk (parHidx p)) == 0) &&
    (globalSpan kind p == 0 || decide ((parGaddr p).toNat + globalSpan kind p ≤ 2 ^ 48))

/-- A command of each kind; a `CPY` into a ring handle's slot, one into the other instruction half, and one that ends at 2^48. -/
theorem witness_CopyChannelResults :
    (issuesNow 1 (withPar [(0, 1), (3, 64)]) && issuesNow 1 (withPar [(0, 1 + 2 ^ 14 + 2 ^ 15 * 2), (3, 64)]) &&
      issuesNow 1 (withPar [(0, 1 + 2 ^ 5), (2, 0x10000), (3, 64)]) && issuesNow 1 (withPar [(0, 1), (1, 2 ^ 48 - 64), (3, 64)]) &&
      issuesNow 2 (withPar [(0, 2)]) && issuesNow 3 (withPar [(0, 3), (3, 64 + 2 ^ 24 * 4), (4, 64), (6, 2 ^ 32)]) &&
      issuesNow 4 (withPar [(0, 4), (3, 64 + 2 ^ 24 * 4), (4, 64), (6, 2 ^ 32), (7, 2 ^ 32)]) &&
      issuesNow 5 (withPar [(0, 5), (3, 64)]) && issuesNow 6 (withPar [(0, 6), (3, 64)]) && issuesNow 7 (withPar [(0, 7), (3, 8)]) &&
      issuesNow 8 (withPar [(0, 8), (3, 64)]) && issuesNow 9 (withPar [(0, 9), (3, 1)])) = true ∧
    (parKind (withPar [(0, 9), (3, 1)]).tk.ch[(0 : Fin 2)].shadow).toNat = 9 ∧
    tokenPending State.reset.tk (some 3) = false ∧ State.reset.ready [1, 2] = true := by decide +kernel

/-- A bundle of one word, whose stop bit ends it. -/
theorem witness_LoopAndRegisterResults_end :
    let s := State.reset.withFetchWord 32 0x8000F280
    memReadLE s.me.imem (s.tk.pc.toNat + 4 * 0) 4 / 2 ^ 31 % 2 = 1 ∧ 0 < 8 ∧
      bundleEnd s.me.imem s.tk.pc = s.tk.pc + BitVec.ofNat 18 (4 * 0 + 4) := by decide +kernel

/-- The body of a loop begins behind the loop's bundle, also where a branch of the bundle is taken (R183). -/
theorem test_loop_with_branch :
    let s := (State.reset.withFetchWord 32 0x8000F280).modTask fun k => { k with npc := 0x40, taken := true }
    (stateOf (exec (.loop 0 4) s)).tk.loops.map (fun f => f.first) = [4] := by decide +kernel

/-- The forms of a branch shadow: records, an access, a release (R181). -/
theorem witness_shadow_forms :
    (let lw : Word := 5 + 2 ^ 16 * 9
     let s := withQueue (onTask fun k => putS [(1, lw)] (setV 2 7 tagI32 { k with shadow := 2 }))
     0 < s.tk.shadow ∧ s.ready [63, 1, 61, 61 + 1, 61 + 2] = true ∧ s.readyFor [.vector] [63, 1, 1 + 1] = true ∧ lw.toNat / 2 ^ 23 % 2 ^ 9 = 0 ∧
      qOwner (s.queue (lwQueue lw)).desc = s.tk.ctx ∧ acceptIndex (readV s.tk 2).tag = true) ∧
    (let s := onTask fun k => putS [(1, 8)] { k with shadow := 2 }
     ¬ s.tk.shadow = 0 ∧ s.ready [63, 1] = true ∧ (readS s.tk 1).toNat < 2 ^ 48 ∧ (readS s.tk 1).toNat % 8 = 0 ∧
      coreWatch s false [((8 : Word).toNat, 8)] = none) ∧
    (let s := onTask fun k => withRegion { k with shadow := 2 }
     ¬ s.tk.shadow = 0 ∧ s.ready [] = true ∧ regEn (s.tk.regions[(0 : BitVec 4).toNat]) = true) := by decide +kernel

/-- A shadow access takes its number of the tile's order and is held (R181). -/
theorem test_shadow_store :
    let t := stateOf (exec (.stG .d 1 2 0) (onTask fun k => { k with shadow := 2 }))
    t.me.storeQ = [] ∧ t.me.accOrd = 1 ∧ t.tk.held.length = 1 := by decide +kernel

/-- A scrub of the cell's bank holds a phase wait; none is under way at reset (R262). -/
theorem witness_SynchronisationResults_scrub :
    let s := withCell12 (cell12 2 0) State.reset
    cellScrubs s 0 12 = false ∧ cellScrubs { s with scrubbing := [0] } 0 12 = true := by decide +kernel

/-! ### Parser words and action words -/

/-- A frame of the given bytes from port 0. -/
def someFrame (bs : List Byte) : Frame := ⟨⟨0, 0, 0, 0⟩, bs, false, 0, false, false⟩

/-- A packet of that frame with an empty header vector. -/
def somePacket (bs : List Byte) : Packet := ⟨someFrame bs, Vector.replicate 128 0, [], false, 0, none⟩

/-- A parse of it at word w, with the next cursor n and v states visited. -/
def someParse (bs : List Byte) (w n v : Nat) : Parse := ⟨somePacket bs, 0, w, 0, n, 0, v⟩

/-- Pipeline 0 with a parse under way. -/
def parses (k : Parse) : State := { State.reset.modPipe 0 fun x => { x with parse := some k } with focus := .parser 0 }

/-- Pipeline 0 with a block under way. -/
def evaluates (r : StageRun) : State := { State.reset.modPipe 0 fun x => { x with run := some r } with focus := .stage 0 }

/-- An evaluation with nothing done. -/
def someRun : StageRun :=
  ⟨somePacket [], Vector.replicate 128 0, [], 0, 0, false, Vector.replicate 4 ⟨false, false, 0, []⟩, 0, 0, 0, none, none⟩

/-- A run's working vector after a step. -/
def wkOf (o : Out) : Option Phv := ((stateOf o).pipe 0).run.map fun r => r.wk

theorem witness_ParserWordResults (k : Parse) : (parses k).parsing 0 k := ⟨rfl, rfl⟩

/-- The limits of the cursor, the states visited and the words of a state, on both sides. -/
theorem witness_ParserWordResults_limits :
    (let k := someParse [] 6 256 31; k.next ≤ 256 ∧ k.visited < 32 ∧ k.word < 7) ∧
    (let k := someParse [] 7 257 32; 256 < k.next ∧ 32 ≤ k.visited ∧ 7 ≤ k.word) ∧
    parseReach (someParse [1, 2, 3, 4] 0 0 1) 0 4 = true ∧ parseReach (someParse [1, 2, 3, 4] 0 0 1) 2 4 = false := by
  decide +kernel

/-- Two words in network order, or little-endian; a byte beyond the frame ends parsing with PERR, bit 0 of F7 (R100, R103). -/
theorem test_pext :
    let s := parses (someParse [1, 2, 3, 4] 0 0 1)
    (((stateOf (exec (.pExt 32 0 1 false) s)).pipe 0).parse.map fun k => (getF k.pkt.phv 32, getF k.pkt.phv 33)) =
        some (0x0102, 0x0304) ∧
      (((stateOf (exec (.pExt 32 2 0 true) s)).pipe 0).parse.map fun k => getF k.pkt.phv 32) = some 0x0403 ∧
      ((stateOf (exec (.pExt 32 2 1 false) s)).pipe 0).pkts.map (fun q => getF q.phv 7) = [1] := by decide +kernel

theorem witness_FieldWordResults (r : StageRun) :
    (evaluates r).evaluating 0 r ∧ 127 < (127 : BitVec 7).toNat + (1 : BitVec 4).toNat ∧
      (127 : BitVec 7).toNat + (0 : BitVec 4).toNat ≤ 127 := ⟨⟨rfl, rfl⟩, by decide, by decide⟩

/-- Sums wrap, or stop at 65535; differences stop at zero (R113). -/
theorem test_saturation :
    let s := evaluates { someRun with wk := setF (setF someRun.wk 40 0xFFFF) 41 2 }
    let f (i : Instr) := (wkOf (exec i s)).map fun w => getF w 42
    f (.acAdd 42 40 41 false) = some 1 ∧ f (.acAdd 42 40 41 true) = some 0xFFFF ∧ f (.acSub 42 41 40 true) = some 0 := by
  decide +kernel

theorem witness_CommitWordResults (r : StageRun) : (evaluates r).evaluating 0 r := ⟨rfl, rfl⟩

/-- A fault met in evaluation; nothing to apply; an operation on a table that is not enabled. -/
theorem witness_CommitWordResults_commit :
    { someRun with fault := some .actArg }.fault = some .actArg ∧ someRun.fault = none ∧ someRun.ops = [] ∧
      opCheck State.reset ⟨0, someRun.pkt⟩ (.close 0 0) = some .actKind := by decide +kernel

/-! ### Cells, launch, stops, units, translation -/

/-- A cell operation on cell 12 of context 0 and what it leaves: COUNT, PEND, PHASE, FIRES. -/
def after12 (i : Instr) (s : State) : Nat × Int × Bool × Nat :=
  let c := cellRead (stateOf (exec i s)) 384
  (cellCount c, cellPend c, cellPhase c, (cellFires c).toNat)

/-- The sequence of R36: expect, delivery, arrive, delivery, and the arrive that fires. -/
theorem test_cell_sequence :
    after12 (.cellExpect 0 12 4096) (withCell12 (cell12 2 0) State.reset) = (2, 4096, false, 0) ∧
      after12 (.cellDelivery 0 12 2048) (withCell12 (cell12 2 4096) State.reset) = (2, 2048, false, 0) ∧
      after12 (.cellArrive 0 12 1) (withCell12 (cell12 2 2048) State.reset) = (1, 2048, false, 0) ∧
      after12 (.cellDelivery 0 12 2048) (withCell12 (cell12 1 2048) State.reset) = (1, 0, false, 0) ∧
      after12 (.cellArrive 0 12 1) (withCell12 (cell12 1 0) State.reset) = (2, 0, true, 1) := by decide +kernel

/-- The record of that fire: template 5, queue 9, ARG0 12, ARG1 0, CMDBASE 0x000C_0001 (R36). -/
theorem test_fire_record :
    ((stateOf (exec (.cellArrive 0 12 1) (withCell12 (cell12 1 0) State.reset))).queue 9).landing.map (fun r => r.rec_) =
      [BitVec.ofNat 256 (5 + 2 ^ 16 * 9 + 2 ^ 32 * 0x000C0001 + 2 ^ 64 * 12)] := by decide +kernel

/-- A cell in order; counts at and above COUNT; expects up to and beyond 2^47 − 1; deliveries at and beyond PEND. -/
theorem witness_CellOperationResults :
    let s := withCell12 (cell12 2 100) State.reset
    let c := cellRead s 384
    s.ctxLive 0 = true ∧ cellAddr s 0 12 = some 384 ∧ cellOwner c = 0 ∧ cellBroken c = false ∧ cellSpent c = false ∧
      (2 : BitVec 17).toNat ≤ cellCount c ∧ 0 ≤ cellPend c ∧ cellCount c < (3 : BitVec 17).toNat ∧
      cellPend c + (0xFFFFFFFF : BitVec 32).toNat ≤ 2 ^ 47 - 1 ∧ 0 ≤ cellPend c - (100 : BitVec 32).toNat ∧
      cellPend c - (101 : BitVec 32).toNat < 0 ∧ -2 ^ 47 ≤ cellPend c - (101 : BitVec 32).toNat ∧
      2 ^ 47 ≤ cellPend (cellRead (withCell12 (cell12 2 (2 ^ 47 - 1)) State.reset) 384) + (1 : BitVec 32).toNat := by
  decide +kernel

/-- Without a replay log nothing stalls; with one of 1 byte an arrive and an expect that would fire do. -/
theorem witness_CellOperationResults_log :
    (∀ op, cellStalls (withCell12 (cell12 2 100) State.reset) 0 12 op = false) ∧
    (let s := (withCell12 (cell12 1 0) State.reset).modCtx 0 fun c => { c with recording := true }
     cellStalls s 0 12 (.arrive (1 : BitVec 17).toNat) = true) ∧
    (let s := (withCell12 (cell12 0 0) State.reset).modCtx 0 fun c => { c with recording := true }
     cellStalls s 0 12 (.expect (0 : BitVec 32).toNat) = true) := by
  refine ⟨fun op => ?_, by decide +kernel, by decide +kernel⟩
  have h : ((withCell12 (cell12 2 100) State.reset).ctx 0).recording = false ∧
      ((withCell12 (cell12 2 100) State.reset).ctx 0).replaying = false ∧
      cellScrubs (withCell12 (cell12 2 100) State.reset) 0 12 = false := by decide +kernel
  simp only [cellStalls, h, Bool.or_self, Bool.false_and]

/-- A memory in order; a fire with room in its queue, one without, one with NOTASK, and a cell that can be rewritten. -/
theorem witness_CellFires :
    let s := withCell12 (cell12 0 0) State.reset
    Memory.wf s.sward = true ∧ cellNoTask (cell12 0 0) = false ∧ qEn (s.queue 9).desc = true ∧ 1 ≤ qFree (s.queue 9) ∧
      qEn (State.reset.queue 9).desc = false ∧ cellNoTask (cell12 0 0 + 2 ^ 114) = true ∧ cellRearm (cell12 0 0) = true ∧
      cellRearm (cell12 0 0 - 2 ^ 113) = false ∧ cellAddr s 0 12 = some 384 := by decide +kernel

/-- Queue 9 with one record landed, context 0 ACTIVE. -/
def withRecord (s : State) : State := (withQueue (withCells s)).modQueue 9 fun q => { q with tailp := 1 }

/-- Tile 0 running. -/
def running (s : State) : State := s.modTile 0 fun x => { x with status := .running }

theorem witness_LaunchEventResults :
    (let s := (withQueue State.reset).modQueue 9 (qReserve none [0])
     (s.queue 9).landing = [⟨0, 0, none⟩] ∧ landReady s ⟨0, 0, none⟩ = true) ∧
    (let s := { withCell12 (cell12 2 0) State.reset with heldRecs := [(0, 12, false)] }
     cellAddr s 0 12 = some 384 ∧
      (s.heldRecs.find? fun h => heldQueue s h.1 h.2.1 == some (cellQueue (cellRead s 384))) = some (0, 12, false) ∧
      qEn (s.queue (cellQueue (cellRead s 384))).desc = true ∧ 1 ≤ qFree (s.queue (cellQueue (cellRead s 384)))) ∧
    (let s := (running (withRecord State.reset)).modTile 0 fun x => { x with slice := 100000 }
     taskRuns (s.tile 0) = true ∧ (s.tile 0).sliceLen ≤ (s.tile 0).slice ∧
      (sliceRival s 0 && resumeRoom s (s.tile 0).task) = true) ∧
    (let s := (running State.reset).modTile 0 fun x => { x with slice := 100000 }
     taskRuns (s.tile 0) = true ∧ (s.tile 0).sliceLen ≤ (s.tile 0).slice ∧ (sliceRival s 0 && resumeRoom s (s.tile 0).task) = false) ∧
    (let s := (running State.reset).modTask fun k => { k with overCount := 5, declared := 4 }
     (s.tile 0).status = .running ∧ (s.tile 0).task.overrun = false ∧ (s.tile 0).task.declared < (s.tile 0).task.overCount) ∧
    (let s := (running State.reset).modTile 0 fun x => { x with preempt := true, gangStop := true }
     preemptDue s 0 = true ∧ atBoundary (s.tile 0) = true ∧ (s.tile 0).gangStop = true ∧ (s.tile 0).task.mode = .task) := by
  decide +kernel

/-- A class of another task on a tile that is claimed, and none; the claim of a half; a timed entry whose lead has begun, and
one whose time has come. -/
theorem witness_LaunchEventResults_timed :
    (let s := (State.reset.modTile 0 fun x =>
          { x with status := .running, resident := [(7, .vector)], claiming := some .vector }).modQueue 9
        fun y => { y with resume := [⟨[(0, { Task.reset with uid := 7 })], 0, 0⟩] }
     let g := State.reset.modTile 0 fun x => { x with claiming := some .half }
     (s.tile 0).claiming = some .vector ∧ (uidCtx s 7) = some 0 ∧ (g.tile 0).claiming = some .half ∧
     ((s.tile 0).resident.find? fun r => r.2 == .vector && ((s.tile 0).status == .free || r.1 != (s.tile 0).task.uid)) =
        some (7, .vector) ∧ ResClass.vector ≠ .core ∧
      (∀ r ∈ (s.tile 0).resident, r.2 ≠ .matrix ∨ ((s.tile 0).status ≠ .free ∧ r.1 = (s.tile 0).task.uid))) ∧
    (let v : BitVec 256 := BitVec.ofNat 256 (1000 + 2 ^ 64 * 9 + 2 ^ 71 + 2 ^ 72)
     let s := (withRecord State.reset).modTimed 0 3 fun _ => ⟨v, []⟩
     let t := { s with timeNs := 1000 }
     tlEn v = true ∧ tlStart v ≤ s.timeNs + 1000 * tlLead v ∧
      holds (timedHead s 0 3) (fun h => (chooseTiles s (tlQueue v) (some 3) true h).isSome) = true ∧
      tlStart v ≤ t.timeNs ∧ holds (timedHead t 0 3) (fun h => (timedTiles t 0 3 h).isSome) = true) := by decide +kernel

/-- A stopped task of a gang and one of none, a running one whose watchdog has run out, a context with a save pending, a
command, and a dump. -/
theorem witness_StopEventResults :
    (let s := State.reset.modTile 0 fun x => { x with status := .stopped }
     let g := State.reset.modTile 0 fun x => { x with status := .stopped, task := { x.task with gidx := 1 } }
     (s.tile 0).status = .stopped ∧ (s.tile 0).task.gidx = 0 ∧ (g.tile 0).status = .stopped ∧ (g.tile 0).task.gidx ≠ 0 ∧
      commandsOver s (gangTiles s 0) = true ∧ commandsOver g [0] = true ∧ s.ctxActive 0 = false) ∧
    ((withCells State.reset).ctxActive ((withCells State.reset).tile 0).task.ctx = true) ∧
    (State.reset.tile 0).status ≠ .stopped ∧
    (let s := (running State.reset).modTile 0 fun x => { x with watchdog := 210000000 }
     (s.tile 0).status = .running ∧ (s.tile 0).watchLimit ≤ (s.tile 0).watchdog * 10 / 21 ∧
      ((running State.reset).tile 0).watchdog * 10 / 21 < ((running State.reset).tile 0).watchLimit) ∧
    (let s := State.reset.modTile 0 fun x => { x with
       status := .running, claiming := some .vector, claimStall := 2100000, task := { x.task with restore := [.vector] } }
     (stallTile s 0).isSome = true) ∧
    (let s := State.reset.modCtx 4 fun c => { c with saving := true, saveStall := 2100000 }
     orderStalled s 4 = true) ∧
    (let s := State.reset.modTile 0 fun x => { x with status := .stopped, task := { x.task with ycause := 0x30, stopTime := 5 } }
     (firstTrap s 0).isSome = true) ∧
    ((stateOf (exec (.cpy (some 3) none none) (withPar [(0, 1), (3, 64)]))).cmd? 1).isSome = true ∧
    ((State.reset.ctx 0).dump = none ∧ (withCells State.reset).ctxLive 0 = true ∧ (firstTrap State.reset 0).isNone = true) ∧
    (let s := queueDump 1 4 none State.reset
     holds (s.ctx 4).dump (fun r => (s.die r.die).dumps.head? == some 4) = true) := by decide +kernel

/-- A store of a doubleword whose page a lease maps to HBM4, with write rights. -/
def pendingStore (mapped : Bool) : State :=
  let e : QEntry := ⟨.store 0x1122334455667788, 0x10008, 8, 0, none, none, 0, false, 0, 0, 0, false⟩
  let l : Lease := ⟨0, 1, 16, 0x50000, 0, true, true, true, false, 0, 1⟩
  State.reset.modTile 0 fun x => { x with storeQ := [e], tlb := if mapped then [l] else [] }

/-- The store performs little-endian at its physical address (R286). -/
theorem test_store_bytes :
    (stateOf (exec (.scalarAccessPerform 0 .store) (pendingStore true))).hbm =
      [(0x50008, 0x88), (0x50009, 0x77), (0x5000A, 0x66), (0x5000B, 0x55), (0x5000C, 0x44), (0x5000D, 0x33), (0x5000E, 0x22),
        (0x5000F, 0x11)] := by decide +kernel

theorem witness_UnitEventResults :
    (let w : HeadWait := ⟨2, 1, 0, 0⟩
     let s := onTask fun k => { k with headAdv := [w] }
     ((s.tile 0).task.headAdv.find? fun e => e.handle == 2) = some w ∧ earlierReadsOut s (s.tile 0).task w = false) ∧
    (let f : Feed := ⟨2, true, 0, 0, 1⟩
     let s := onTask fun k => { k with icyc := 4, mat := { k.mat with
       feeds := [f], load := some ⟨0, k.mat.w, k.mat.idx, 0, 2, true⟩ } }
     (s.tile 0).task.mat.feeds = [f] ∧ f.at_ + 4 ≤ (s.tile 0).task.icyc ∧ (s.tile 0).task.mat.load.isSome = true ∧
      ((s.tile 0).resident.find? fun e => e.2 == .matrix) = none) ∧
    (let s := stateOf (exec (.ldG .d 5 0 0) State.reset)
     (s.tile 0).task.loadQ = [⟨.load, 0, 8, 5, none, none, 0, false, 0, 0, 0, false⟩]) ∧
    (let s := pendingStore true
     (s.tile 0).sideLog = [] ∧ holds (s.tile 0).storeQ.head? (fun e =>
       e.op == .store 0x1122334455667788 && e.size != 0 && !e.waits && e.rel.isNone &&
         holds (translate s (.tile 0) e.ctx e.va.toNat) fun l =>
           leaseGrants l (opKind e.op) && classAllows l.cls e.op && l.cls == 0 &&
             !homeWaits s l.cls (leasePa l e.va.toNat) e.size && !hostWaits (s.tile 0) l.cls (leasePa l e.va.toNat) e.size) = true ∧ Memory.wf s.hbm = true) ∧
    (let s := stateOf (exec (.cpy (some 3) none none) (withPar [(0, 1), (3, 64)]))
     holds (s.cmd? 1) (fun c => c.phase == .waiting && ((acceptCmd c s).cmd? 1).isSome) = true) ∧
    State.reset.cmd? 1 = none := by decide +kernel

/-- Commands that run: of a tile's channel and of the gather engine. -/
def runningCmd (l : List (Fin 8 × Word)) (i : Instr) : State :=
  let s := stateOf (exec i (withPar l))
  modCmd 1 (fun c => { c with phase := .running, rowBytes := [0, 0, 0, 0] }) s

theorem witness_TranslationEventResults :
    (let s := pendingStore false
     unitOut s (.tile 0) = false ∧ (tileNeeds s 0 0 0x10000 .write).isSome = true) ∧
    (let s := runningCmd [(0, 1), (3, 64)] (.cpy none none none)
     holds (s.cmd? 1) (fun c => c.phase == .running) = true ∧ unitOut s (.gather 0) = false ∧
      unitOut (setUnitOut (.tile 0) true s) (.tile 0) = true) ∧
    (let s := runningCmd [(0, 3), (3, 64 + 2 ^ 24 * 4), (4, 64), (6, 2 ^ 32)] (.gath none none none)
     (cmdNeeds s (.gather 0) 0 0 .read).isSome = true) ∧ tileDie 0 ≠ tileDie 128 := by decide +kernel

/-- A die's queue with a page fault of context 9 pending, and one that holds 512 entries. -/
theorem witness_FaultQueueResults :
    let e := faultEntry (causeCode .pageFault) 9 0 (tileUnit 2 6) 0 0x70012ABC0 0 100
    let d := (enterFault 0 e State.reset).die 0
    let full := { Die.reset with fqTail := 512 }
    (fqMergeIndex d e).isSome = true ∧ fqMergeIndex Die.reset e = none ∧ (Die.reset.fqTail - Die.reset.fqHead).toNat < 512 ∧
      fqMergeIndex full (faultEntry (causeCode .d2dLink) 0 3 0 0 0 0 0) = none ∧ 512 ≤ (full.fqTail - full.fqHead).toNat := by decide +kernel

/-- Two faults on one page of one context leave one entry with MERGE 1 (R349). -/
theorem test_fault_merge :
    let e (t : TileId) (ns : Nat) := faultEntry (causeCode .pageFault) 9 0 (tileUnit t 6) 0 0x700120000 0 ns
    let d := (enterFault 0 (e 5 140) (enterFault 0 (e 2 100) State.reset)).die 0
    d.fqTail = 1 ∧ field (d.fqEntries[0]) 112 16 = (1 : BitVec 16) := by decide +kernel

/-- The bank of cell 12 under scrub holds every operation on it (R262). -/
theorem witness_CellOperationResults_scrub :
    let s := { withCell12 (cell12 2 100) State.reset with scrubbing := [0] }
    cellScrubs s 0 12 = true ∧ s.scrubbing.contains (sgaBank 384) = true ∧ cellAddr s 0 12 = some 384 ∧
      (State.reset.scrubbing.contains (sgaBank 384)) = false := by decide +kernel

/-- Context 0 ACTIVE with eight templates from 0x2000, map 0 and image 7 of four bytes; template 5 names them, with MAXRUN 1000. -/
def withTemplate (s : State) : State :=
  { (withQueue s).modCtx 0 (fun c => { c with desc := 1 + 2 ^ 8 + 2 ^ 24 * 8 + 2 ^ 128 * 0x2000 + 2 ^ 221 * 64 }) with
    sward := memWriteLE [] (0x2000 + 128 * 5) 128 (7 + 2 ^ 63 + 2 ^ 64 * 1000), images := [(0, 7, [0x80, 2, 3, 4])] }

/-- A record that its launcher starts, with argument 0 of 6; one for template 4, which is not VALID. -/
theorem witness_LaunchEventResults_launch :
    let s := withTemplate State.reset
    tmplFails s 9 (5 + 2 ^ 16 * 9) = none ∧ tmplFails s 9 (4 + 2 ^ 16 * 9) = some 2 := by decide +kernel

/-- The task of that record: S1 holds argument 0, the PC is ENTRY in the half that loads (R31, R134). -/
theorem test_launch :
    let u := (launchHead 9 (.fresh (5 + 2 ^ 16 * 9 + 2 ^ 64 * 6)) [0] (withTemplate State.reset)).1
    (u.tile 0).status = .loading ∧ readS (u.tile 0).task 1 = 6 ∧ (u.tile 0).task.declared = 1000 ∧ (u.queue 9).headp = 1 := by
  decide +kernel

/-- An image of four bytes comes into a half that loads it. -/
theorem witness_LaunchEventResults_image :
    let s := (launchHead 9 (.fresh (5 + 2 ^ 16 * 9)) [0] (withTemplate State.reset)).1
    let x := s.tile 0
    x.half0.st = .loading ∧ x.half0.task = x.task.uid ∧ x.half1.st ≠ .loading ∧ Memory.wf x.imem = true ∧
      imageBytes s x.half0.owner x.half0.image = some [0x80, 2, 3, 4] := by decide +kernel

/-- A task at its END whose wait is over, and one that still has a command; a bank of a task that it releases. -/
theorem witness_LaunchEventResults_end :
    (let s := State.reset.modTile 0 fun x => { x with status := .ending }
     let c := s.modTile 0 fun x => { x with storeQ := [⟨.store 1, 0, 8, 0, none, none, 0, false, 0, 0, 0, false⟩], accOrd := 1 }
     (s.tile 0).status = .ending ∧ endWaitOver s 0 = true ∧ (s.tile 0).preempt = false ∧ gangTiles s 0 = [0] ∧
      (s.tile 0).task.doneV = false ∧ (c.tile 0).status = .ending ∧ endWaitOver c 0 = false) ∧
    (let s := (onTask fun k => { k with releases := [(40, false, 3)] }).setBank 40 (2 ^ 8)
     (s.tile 0).task.releases = [(40, false, 3)] ∧ bankShared (s.bank 40) = false ∧ bankHState (s.bank 40) = 1 ∧
      bankOwner (s.bank 40) = (s.tile 0).task.ctx ∧ bankHTask (s.bank 40) = (s.tile 0).task.gangSlot) := by decide +kernel

/-- A landing record and a held one, whose banks are under no scrub, and one that waits for room in the log. -/
theorem witness_LaunchEventResults_scrub :
    (let s := (withQueue State.reset).modQueue 9 (qReserve none [0])
     s.scrubbing.contains (sgaBank (qBase (s.queue 9).desc + 32 * 0)) = false ∧ landReady s ⟨0, 0, none⟩ = true) ∧
    (let s := { withCell12 (cell12 2 0) State.reset with heldRecs := [(0, 12, true)] }
     cellScrubs s 0 12 = false ∧ logFull s 0 1 = false) := by decide +kernel

/-- A pre-emption that is due for a task of no gang in a context that is not to be saved; a gang stop of a running task. -/
theorem witness_LaunchEventResults_stop :
    let s := (running State.reset).modTile 0 fun x => { x with preempt := true, gangStop := true }
    preemptDue s 0 = true ∧ atBoundary (s.tile 0) = true ∧ gangTiles s 0 = [0] ∧ (s.ctx (s.tile 0).task.ctx).saving = false ∧
      (s.tile 0).gangStop = true ∧ (s.tile 0).task.mode = .task ∧ (s.tile 0).status = .running := by decide +kernel

/-- A claim of a saved class by its own task, no class of another standing in its way; one whose save goes on. -/
theorem witness_LaunchEventResults_classes :
    (let s := (running State.reset).modTile 0 fun x => { x with claiming := some .matrix, task := { x.task with restore := [.matrix] } }
     let x := s.tile 0
     x.finishing = none ∧ ResClass.matrix ≠ .half ∧ (∀ r ∈ x.resident, r.2 ≠ .matrix ∨ (x.status ≠ .free ∧ r.1 = x.task.uid)) ∧
      x.claiming = some .matrix ∧ x.task.restore.contains .matrix = true ∧ savePoisoned s x.task .matrix = false ∧
      coreSavable s x.task.uid = true) ∧
    (let s := State.reset.modTile 0 fun x => { x with finishing := some (.vector, 3) }
     (s.tile 0).finishing = some (.vector, 3) ∧ (State.reset.tile 0).finishing = none) := by decide +kernel

/-- A stopped task of a live context with no half to restore; a context whose save is under way, and one with none. -/
theorem witness_StopEventResults_more :
    (let s := (withCells State.reset).modTile 0 fun x => { x with status := .stopped }
     (s.tile 0).status = .stopped ∧ s.ctxActive (s.tile 0).task.ctx = true ∧ (s.tile 0).task.halves = [] ∧ isLoading (s.tile 0) = false ∧
      bit (s.tile 0).task.yepc 21 = false) ∧
    (let s := State.reset.modCtx 4 fun c => { c with saving := true }
     saveUnderWay s 4 = true ∧ saveUnderWay State.reset 4 = false) ∧
    (let s := (running State.reset).modTile 0 fun x => { x with
       watchdog := 210000000, claiming := some .vector, task := { x.task with restore := [.vector] } }
     (s.tile 0).watchLimit ≤ (s.tile 0).watchdog * 10 / 21 ∧ saveUnderWay (watchdogEntry 0 s) (s.tile 0).task.ctx = true ∧
      restoreLeft (s.tile 0) = some (.vector, 0)) := by decide +kernel

/-- A held copy in mid-course, one whose last byte has landed, and one whose histogram is still to come; a context with a fatal
trap to name in its dump. -/
theorem witness_StopEventResults_held :
    (let s (pos : Nat) (tk : Bool) := modCmd 1 (fun c => { c with phase := .running, watchHeld := true, pos := pos })
       (stateOf (exec (if tk then .cpyAs none none none else .cpy none none none)
         (withPar (if tk then [(0, 2 + 2 ^ 4)] else [(0, 1), (3, 64)]))))
     holds ((s 8 false).cmd? 1) (fun c => c.phase == .running && c.pos != cmdTotal c) = true ∧
      holds ((s 64 false).cmd? 1) (fun c => c.phase == .running && c.pos == cmdTotal c && !histogramDue c) = true) ∧
    (let s := (withCells State.reset).modTile 0 fun x => { x with status := .stopped, task := { x.task with ycause := 0x30, stopTime := 5 } }
     (s.ctx 0).dump = none ∧ s.ctxLive 0 = true ∧ (firstTrap s 0).isSome = true) := by decide +kernel

/-- A histogram still to be written keeps a held `CPY.AS` as it is (R270, R367). -/
theorem witness_StopEventResults_histogram :
    let s := modCmd 1 (fun c => { c with phase := .running, watchHeld := true, pos := cmdTotal c })
      (stateOf (exec (.cpyAs none none none) ((withPar [(0, 2 + 3 * 2 ^ 26 + 2 ^ 32)]).modTask (putV 0 tagI32))))
    holds (s.cmd? 1) (fun c => c.phase == .running && c.pos == cmdTotal c && histogramDue c) = true := by decide +kernel

/-- Tile 0 with a lease that maps the page of 0x10000 to a class at 0x50000, and an access of that page in its load queue. -/
def pendingLoad (cls : BitVec 3) (op : ScalarOp) : State :=
  let e : QEntry := ⟨op, 0x10008, 8, 5, none, none, 0, false, 0, 0, 0, false⟩
  let l : Lease := ⟨0, 1, 16, 0x50000, cls, true, true, true, false, 0, 1⟩
  State.reset.modTile 0 fun x => { x with tlb := [l], task := { x.task with loadQ := [e] } }

/-- A load and an atomic whose page is at HBM4, with every right, and no home or poison in the way. -/
theorem witness_UnitEventResults_loads :
    ([ScalarOp.load, .amo .add 3 0, .amo .cas 3 7].all fun op =>
      let s := pendingLoad 0 op
      holds (s.tile 0).task.loadQ.head? fun e => e.size == 8 && !e.waits && e.rel.isNone && e.d != 0 &&
        !(s.ctx e.ctx).recording && !(s.ctx e.ctx).replaying &&
        holds (translate s (.tile 0) e.ctx e.va.toNat) fun l => l.r && l.w && l.at_ && !l.snap && l.cls == 0 &&
          !homeWaits s l.cls (leasePa l e.va.toNat) e.size && !poisonedRange s.hbmPoison (leasePa l e.va.toNat) e.size) = true ∧
      Memory.wf (pendingLoad 0 .load).hbm = true := by decide +kernel

/-- The atomic adds 3 to the doubleword at HBM4 and answers its old value (R285). -/
theorem test_amo_performs :
    let s := { pendingLoad 0 (.amo .add 3 0) with hbm := [(0x50008, 9)] }
    let u := performHead 0 .load s
    readS (u.tile 0).task 5 = 9 ∧ u.hbm = [(0x50008, 12)] := by decide +kernel

/-- A store to host memory that the egress accepts, and its completion, no earlier one to its bytes being out (R305). -/
theorem witness_UnitEventResults_host :
    (let s := (pendingStore true).modTile 0 fun x => { x with tlb := x.tlb.map fun l => { l with cls := 2 } }
     (s.tile 0).sideLog = [] ∧ holds (s.tile 0).storeQ.head? (fun e => e.size != 0 && !e.waits && e.rel.isNone &&
       holds (translate s (.tile 0) e.ctx e.va.toNat) fun l => l.cls == 2 && leaseGrants l (opKind e.op) &&
         !homeWaits s l.cls (leasePa l e.va.toNat) e.size && !hostWaits (s.tile 0) l.cls (leasePa l e.va.toNat) e.size) = true ∧
      (let u := stateOf (exec (.scalarAccessPerform 0 .store) s)
       u.hostMem = [] ∧ holds (u.tile 0).hostPend.head? (fun w => w.cls == 2 && w.e.op == .store 0x1122334455667788 &&
         !homeWaits u w.cls w.pa w.e.size && u.tiles.all fun x => x.hostPend.all fun y => decide (w.num ≤ y.num)) = true ∧
       Memory.wf u.hostMem = true ∧
       memReadLE (stateOf (exec (.scalarAccessPerform 0 .host) u)).hostMem 0x50008 8 = 0x1122334455667788)) := by decide +kernel

/-- A feed that is not yet at c+4, and one that is. -/
theorem witness_UnitEventResults_feeds :
    let f : Feed := ⟨2, true, 0, 0, 1⟩
    let s (n : Nat) := onTask fun k => { k with icyc := n, mat := { k.mat with feeds := [f] } }
    (((s 3).tile 0).resident.find? fun e => e.2 == .matrix) = none ∧ ((s 3).tile 0).task.mat.feeds = [f] ∧
      ((s 3).tile 0).task.icyc < f.at_ + 4 ∧ f.at_ + 4 ≤ ((s 4).tile 0).task.icyc := by decide +kernel

/-- A command that stops with nothing to await gives its token its status. -/
theorem witness_UnitEventResults_complete :
    let s := (modCmd 1 (fun c => { c with phase := .stopping, status := 4 })
      (stateOf (exec (.rst (some 3) none none) (running (withPar [(0, 6), (3, 64)]))))).modTask (landCycle 1)
    holds (s.cmd? 1) (fun c => c.phase == .stopping && !awaits c && !parArr c.par && c.kind != 8 && c.kp == some 3 &&
      tileOf s c.task == some 0 && (readK (taskOf s c.task) 3).pend && (readK (taskOf s c.task) 3).seq == c.seq) = true ∧
    (s.cmds.all fun c => !c.watchHeld) = true := by decide +kernel

/-- Context 0 with its table of level 4 at 0x1000, entry 0 of it as given. -/
def withTable (e : Nat) (s : State) : State :=
  { s.modCtx 0 (fun c => { c with desc := 1 + 2 ^ 64 }) with hbm := memWriteLE (memWriteLE [] 0x1000 8 e) 0x2000 8 0x17 }

/-- A walk that finds a leaf of 1 GiB, one that finds no entry, for a load and for a store, and one that finds a reserved bit. -/
theorem witness_TranslationEventResults_walks :
    (let s := withTable (1 + 0x20 * 2 ^ 16) (pendingStore false)
     unitOut s (.tile 0) = false ∧ (tileNeeds s 0 0 0x10000 .write).isSome = true ∧
      (match walkChecked s 0 0x10000 with | .leaf v lev => v == 0x17 && lev == 3 | _ => false) = true) ∧
    (let s := pendingStore false
     (tileNeeds s 0 0 0x10000 .write).any (fun e => e.1 == .store) = true ∧ (s.tile 0).sideLog.length < 64 ∧
      (match walkChecked s 0 0x10000 with | .absent _ => true | _ => false) = true) ∧
    (let s := (pendingLoad 0 .load).modTile 0 fun x => { x with tlb := [] }
     (tileNeeds s 0 0 0x10000 .read).any (fun e => e.1 == .load) = true ∧
      (match walkChecked s 0 0x10000 with | .absent _ => true | _ => false) = true) ∧
    (let s := running (withTable (1 + 2 ^ 12) (pendingStore false))
     (tileNeeds s 0 0 0x10000 .write).any (fun e => e.2.uid == (s.tile 0).task.uid) = true ∧ (s.tile 0).status ≠ .free ∧
      (match walkChecked s 0 0x10000 with | .bad _ => true | _ => false) = true) := by decide +kernel

/-! ### Ports, packets, the fabric, Kenval's windows -/

/-- Port 3 with a configuration word. -/
def withPort (cfg : Word) (f : Port → Port) : State := State.reset.modPort 3 fun x => f { x with cfg := cfg }

theorem witness_PortEventResults :
    (field (1 : Word) 0 2 ≠ (3 : BitVec 2) ∧ field (3 : Word) 0 2 = (3 : BitVec 2)) ∧
    (let s := withPort 0 fun x => { x with newMode := some 1 }
     (s.port 3).newMode = some 1 ∧ bufRefs s 3 = []) ∧
    (let s := State.reset.modPipe (pipeOf 3) fun x => { x with waiting := [⟨⟨3, 0, 1, 0⟩, [], false, 0, false, false⟩] }
     bufRefs s 3 ≠ []) ∧
    (let s := withPort 1 id; (s.port 3).mode = 1 ∧ (s.port 3).down = false ∧ (s.port 3).newMode = none) ∧
    (let s := { withPort 2 id with timeNs := 1000000 }
     (s.port 3).mode = 2 ∧ (s.port 3).mode ≠ 0 ∧ (s.port 3).down = false ∧ (s.port 3).newMode = none ∧ offBound 40 = false ∧
      (s.port 3).lastSync + 10000 ≤ s.timeNs ∧ s.unsynced = false ∧ s.lastSync + 1000000 ≤ s.timeNs ∧ (s.port 3).swap = none ∧
      (s.port 3).spareUsed = false) ∧
    (let s := withPort 2 fun x => { x with swap := some (1, 0, false) }
     (s.port 3).swap = some (1, 0, false)) ∧
    (let s (used : Bool) := withPort 2 fun x => { x with spareUsed := used, laneOver := x.laneOver.set 2 3 }
     ∀ used, ((s used).port 3).mode ≠ 0 ∧ ((s used).port 3).swap = none ∧ laneWeak ((s used).port 3) 2 = true ∧
       ((s used).port 3).spareUsed = used) ∧
    (let s := withPort 2 fun x => { x with swap := some (1, 0, true) }
     (s.port 3).swap = some (1, 0, true) ∧ (0 : Word).toNat ≤ s.timeNs) ∧
    ((8192 * 127 : BitVec 20).toNat = 8192 * (127 : BitVec 7).toNat ∧ ([0] : List Byte).length ≤ 8192) := by decide +kernel

/-- A slot whose length word is too small, and one that names a frame of 64 bytes. -/
theorem witness_PortEventResults_host :
    (let s := { State.reset with hostOrder := [5], hostWin := memWriteLE [] (8192 * 5) 8 63 }
     s.hostOrder = [5] ∧ (field (hostLength s 5) 0 13 : BitVec 13).toNat < 64) ∧
    (let s := { State.reset with hostOrder := [5], hostWin := memWriteLE [] (8192 * 5) 8 64 }
     hostLength s 5 = BitVec.ofNat 64 64) := by decide +kernel

/-- A pipeline that holds a packet, waits with one more, and is not parsing. -/
def withPacket (k : Packet) (s : State) : State :=
  s.modPipe 0 fun x => { x with pkts := [k], waiting := [someFrame (List.replicate 64 0)] }

theorem witness_PacketEventResults :
    (let s := withPacket (somePacket []) State.reset
     payloadFull s (field (0 : BitVec 3) 2 1) = false ∧ (s.pipe 0).parse = none ∧ (s.pipe 0).run = none ∧
      nextFrame (s.pipe 0).waiting = some (someFrame (List.replicate 64 0)) ∧
      packetAt (s.pipe 0) (0 : BitVec 4).toNat = some (somePacket []) ∧
      (s.cluster (stageCluster 0 (0 : BitVec 4).toNat)).pay.length < payDepth ∧ (somePacket []).stage = 0 ∧
      (isTransit (somePacket []) || isEngineFrame (somePacket [])) = false ∧
      classify (inPipeOrder 0 s) (somePacket []) (classLookup (inPipeOrder 0 s) 0 (somePacket [])) = none ∧
      packetAt (s.pipe 0) 16 = none) ∧
    (let k := { somePacket [] with phv := setF (somePacket []).phv 7 4, stage := 15 }
     let s := withPacket k State.reset
     packetAt (s.pipe 0) (15 : BitVec 4).toNat = some k ∧ (isTransit k || isEngineFrame k) = true ∧
      (s.cluster (stageCluster 0 (15 : BitVec 4).toNat)).pay.length < payDepth) ∧
    (let k := { somePacket [] with stage := 15 }
     let s := withPacket k State.reset
     packetAt (s.pipe 0) (15 : BitVec 4).toNat = some k ∧ (isTransit k || isEngineFrame k) = false ∧ k.stage ≠ 0 ∧
      logFull (inPipeOrder 0 s) k.ctx stageRecords = false) ∧
    (let s := withPacket (somePacket []) (State.reset.modPort 0 fun x => { x with cfg := 2 ^ 3 })
     let k := somePacket []
     let u := inPipeOrder 0 s
     let v := inPipeOrder 0 (withCells s)
     classify u k (classLookup u 0 k) = some 0 ∧ u.ctxLive 0 = false ∧ classify v k (classLookup v 0 k) = some 0 ∧
      v.ctxLive 0 = true ∧ logFull v 0 stageRecords = false) ∧
    (let k := { somePacket [] with stage := 16 }
     let t := { k with phv := setF k.phv 7 4 }
     packetAt ((withPacket k State.reset).pipe 0) 16 = some k ∧ isTransit k = false ∧ isEngineFrame k = false ∧
      packetAt ((withPacket t State.reset).pipe 0) 16 = some t ∧ isTransit t = true) := by decide +kernel

/-- A payload operation with good data, one whose line is poisoned, one whose frame failed its check. -/
theorem witness_PacketEventResults_payload :
    let o : PayOp := ⟨1, 0x40, [1, 2, 3, 4], 0, none, false, [], false, false, 0, 0, ⟨0, 0, 0, 0⟩, 0, 0⟩
    let s := State.reset.modCluster 0 fun x => { x with pay := [o] }
    (s.cluster 0).pay = [o] ∧ payStalls s o = false ∧ ((extentBanks o.dst o.bytes.length).any fun b => s.scrubbing.contains b) = false ∧
      (o.op ≠ 0 ∧ poisonedRange [1] o.dst o.bytes.length = true) ∧ (State.reset.cluster 0).pay = [] := by decide +kernel

/-- A request or answer of an opcode at the fabric engine of port 3. -/
def fabFrame (opc : BitVec 9) (tokid : BitVec 32) (checked : Option (CtxId × Nat)) : FabReq :=
  ⟨someFrame (mkYt 0 0 0 opc 0 0x100 false tokid [1, 2, 3, 4, 5, 6, 7, 8]), checked, false, false⟩

def atEngine (f : FabReq) (s : State) : State := s.modPort 3 fun x => { x with fab := [f] }

/-- A command of a kind under way, with one request to chip 0 for eight bytes at offset 0x100. -/
def requesting (kind : BitVec 4) : State :=
  let s := stateOf (exec (.rld none none none) (withPar [(0, 5), (3, 8)]))
  modCmd 1 (fun c => { c with kind := kind, phase := .running, reqs := [⟨0, 0x100, 0, 8, 0, false⟩] }) s

/-- Served requests, refused ones, late answers, and answers that the command of their kind takes. -/
theorem witness_FabricEventResults :
    ([1, 2, 3, 4, 5].all fun o : BitVec 9 =>
      let f := fabFrame o 0 (some (0, 0x100))
      let g := fabFrame o 0 none
      fabFirst (atEngine f State.reset) 3 o == some f && f.checked == some (0, 0x100) &&
        fabFirst (atEngine g State.reset) 3 o == some g && g.checked == none && (checkRequest 3 g (atEngine g State.reset)).2 == none) =
      true ∧
    ([0x20, 0x21, 0x22, 0x23, 0x24, 0x28].all fun o : BitVec 9 =>
      let f := fabFrame o 0 none
      fabFirst (atEngine f State.reset) 3 o == some f && answered (atEngine f State.reset) f == none) = true ∧
    ([(0x20, 5), (0x20, 1), (0x21, 6), (0x22, 7), (0x23, 8), (0x24, 9), (0x28, 8), (0x28, 5)].all fun x : BitVec 9 × BitVec 4 =>
      let s := requesting x.2
      holds (s.cmd? 1) fun c =>
        let f := fabFrame x.1 (cmdTokid c) none
        let t := atEngine f s
        fabFirst t 3 x.1 == some f && holds (answered t f) fun a => a.1.phase == .running && !a.2.late && dataGood f a.2 &&
          !logFull t a.1.ctx (answerRecords f)) = true ∧
    (let s := modCmd 1 (fun c => { c with phase := .stopping, reqs := [⟨0, 0x100, 0, 4, 0, false⟩] }) (requesting 7)
     holds (s.cmd? 1) (fun c =>
       let f := fabFrame 0x22 (cmdTokid c) none
       holds (answered (atEngine f s) f) fun a => a.1.phase == .stopping && !dataGood f a.2 &&
         !logFull (atEngine f s) a.1.ctx (answerRecords f)) = true) ∧
    (let s := modCmd 1 (fun c => { c with reqs := [⟨0, 0x100, 0, 4, 0, true⟩] }) (requesting 7)
     holds (s.cmd? 1) (fun c =>
       let f := fabFrame 0x22 (cmdTokid c) none
       holds (answered (atEngine f s) f) fun a => a.1.phase == .running && a.2.late) = true) ∧
    holds ((requesting 7).cmd? 1) (fun c =>
      (admitBanks (cmdAccessor c) (extentBanks (cmdSga c (parLaddr c.par)) 8) (requesting 7)).isSome) = true := by decide +kernel

/-- A request that waits for a page. -/
theorem witness_TranslationEventResults_fabric :
    let f := fabFrame 2 0 (some (0, 0x100))
    let s := atEngine f State.reset
    unitOut s (.fabric 3) = false ∧ (reqNeeds s 3 0 0x100 .write).isSome = true := by decide +kernel

/-- The token of R325: INDEX 0x0102, RD and WR, EXP 0x4A31, TAG 0x9C2_71E5. -/
theorem test_grant_token :
    let t : Word := 0x9C271E54A3130102
    (field t 0 16 : BitVec 16) = 0x0102 ∧ tokRights t = 3 ∧ tokExp t = 0x4A31 ∧ tokTag t = 0x9C271E5 ∧
      (tokExp t - 0x4A20).toNat = 17 := by decide +kernel

theorem witness_WindowWriteResults :
    classDescOk State.reset 0 0 = true ∧ classDescOk State.reset 0 (2 ^ 71) = false ∧
    tableDescOk 0 = true ∧ tableDescOk 8 = false ∧ tblKind (State.reset.table 0 0) ≠ 3 ∧
    0 ≤ tblEntn (State.reset.table 0 0) ∧ tblEntn (State.reset.table 0 0) < (0xFFFFFF : BitVec 24).toNat + 1 ∧
    stageEntryOk State.reset 0 1 0 0 = true ∧ stageEntryOk State.reset 0 1 0 (2 ^ 7) = false ∧
    (([0xA0000000] : List (BitVec 32)).length ≤ 512 ∧ ([0xA0000000] : List (BitVec 32)).all (parserWordOk (statesOf 1)) = true) ∧
    ((4095 : BitVec 12).toNat + 1 ≤ 4096 ∧ (decodeAC 0x40600010).isSome = true) ∧
    ((15 : BitVec 4) ≠ 0 ∧ (List.replicate 1024 (0 : BitVec 16)).length = 1024 ∧ entryOk 0 = true) ∧
    (field (0x01FFFFFF : BitVec 32) 25 7 = (0 : BitVec 7)) ∧ ctxDescOk 4 = true ∧ ctxDescOk 5 = false ∧
    queueDescOk (BitVec.ofNat 128 (2 ^ 12 * 4)) = true ∧ queueDescOk 0 = false ∧
    (bankOwner (State.reset.bank 0) = bankOwner 0 ∧ bankOwner (State.reset.bank 0) ≠ bankOwner 5) ∧
    (let s := { State.reset with scrubbing := [2047] }; s.scrubbing.contains 2047 = true ∧ Memory.wf s.sward = true) := by
  decide +kernel

theorem witness_ManagementResults :
    windowHole (.sward 0 []) = none ∧ windowHole (.hbm 0x3000000000 [0]) = some (.hbmHole 0x3000000000) ∧
    (2 ^ 29 - 1 : BitVec 29).toNat + ([0] : List Byte).length ≤ 2 ^ 29 ∧
    (let s := (State.reset.modDie 0 fun d => { d with traceCtl := 1 + 10 * 2 ^ 8 }).modTile 0 fun x => { x with ic := 1024 }
     bit (s.die (tileDie 0)).traceCtl 0 = true ∧ (s.tile 0).sampleFrom + 2 ^ 10 ≤ (s.tile 0).ic ∧
     10 ≤ (field (s.die (tileDie 0)).traceCtl 8 5 : BitVec 5).toNat ∧ (field (s.die (tileDie 0)).traceCtl 8 5 : BitVec 5).toNat ≤ 24) ∧
    (8 ≤ (8 : BitVec 4).toNat ∧ 0x80 ≤ (0x80 : BitVec 8).toNat) := by decide +kernel

/-- A swap that has been accepted, and a request that names another lane or another time. -/
theorem witness_PortEventResults_swaps :
    let s (a : Bool) := withPort 2 fun x => { x with swap := some (1, 5, a) }
    ((s true).port 3).swap = some (1, 5, true) ∧ ((s false).port 3).swap = some (1, 5, false) ∧
      ((2 : BitVec 3) ≠ 1 ∨ (5 : Word) ≠ 5) ∧ ((1 : BitVec 3) ≠ 1 ∨ (6 : Word) ≠ 5) := by decide +kernel

/-- The peer's refusal of a swap undoes it and is reported; a second acceptance of it changes nothing (R331). -/
theorem test_laneswap_refused :
    let s (a : Bool) := withPort 2 fun x => { x with swap := some (1, 5, a) }
    let t := stateOf (exec (.laneswap 3 1 false 5) (s false))
    (t.port 3).swap = none ∧ (t.die 0).fqTail = 1 ∧
      ((stateOf (exec (.laneswap 3 1 true 5) (s true))).die 0).fqTail = 0 := by decide +kernel

/-- A slot cycle in which a pipeline has a host frame waiting, one that a Kenval write has used, and a cycle of no slot. -/
theorem witness_PacketEventResults_slot :
    let f := { someFrame (List.replicate 64 0) with ref := ⟨32, 0, 0, 0⟩ }
    let s (used : Option Nat) (n : Nat) : State :=
      { State.reset.modPipe 0 (fun x => { x with waiting := [someFrame [], f], served := used }) with cycle := n }
    toSlot (s none 128) = 0 ∧ (∀ g ∈ ((s none 128).pipe 0).waiting, g.service = false) ∧ ((s none 128).pipe 0).served ≠ some (s none 128).cycle ∧
      (((s none 128).pipe 0).waiting.find? fun g => g.ref.port == 32) = some f ∧
      ((s (some 128) 128).pipe 0).served = some (s (some 128) 128).cycle ∧ toSlot (s none 5) ≠ 0 ∧
      payloadFull (s none 128) (field (0 : BitVec 3) 2 1) = false := by decide +kernel

/-- A table of the stage's cluster whose bank is under scrub; a block that waits for none. -/
theorem witness_PacketEventResults_scrub :
    let s := withPacket { somePacket [] with stage := 1 } (withCells State.reset)
    let t := { s.modDie 0 (fun d => { d with tables := d.tables.set 0 4 }) with scrubbing := [0] }
    tablesScrub (inPipeOrder 0 s) 0 1 = false ∧ blockWaits (inPipeOrder 0 s) 0 1 0 = false ∧ tablesScrub (inPipeOrder 0 t) 0 1 = true := by decide +kernel

/-- A stage entry that is off, one whose selector its block lacks nothing of, and one whose lookups give a selector beyond SELN. -/
theorem witness_PacketEventResults_block :
    (let k := somePacket []
     let s := (withCells State.reset).modPipe 0 fun x => { x with pkts := [k] }
     s.ctxLive k.ctx = true ∧ seEn (stageEntry (s.pipe 0) 0 0) = false ∧ (s.pipe 0).pkts = [] ++ k :: [] ∧ k ∉ ([] : List Packet)) ∧
    (let k := somePacket []
     let s := (withCells State.reset).modPipe 0 fun x => { x with pkts := [k], entries := [(0, 1)] }
     let e := stageEntry (s.pipe 0) 0 0
     let l : Lookup := { noLookup s 0 with enabled := true, hit := true, sel := 3 }
     seEn e = true ∧
      (match stageLookups s 0 0 0 k.phv none e [0, 1, 2, 3] with
        | .ok ls => decide ((stageSelector ls).toNat ≤ (seSeln e).toNat) | .error _ => false) = true ∧
      (match stageLookups s 0 0 0 k.phv (some l) e [0, 1, 2, 3] with
        | .ok ls => decide ((seSeln e).toNat < (stageSelector ls).toNat) | .error _ => false) = true) := by decide +kernel

/-- A forwarded packet with one port, which carries it or does not; a dropped one. -/
theorem witness_PacketEventResults_ports :
    let k := { somePacket [] with phv := setF (somePacket []).phv 8 0x8003 }
    bit (getF k.phv 8) 15 = true ∧ dispositionPorts State.reset k = [3] ∧ k.frame.yt = false ∧ carries State.reset false 3 = false ∧
      carries (withPort 1 id) false 3 = true ∧ bit (getF (somePacket []).phv 8) 15 = false := by decide +kernel

/-- Saturating and wrapping payload additions, and one that meets a poisoned line (R90). -/
theorem test_payload_adds :
    let o (op : BitVec 2) : PayOp := ⟨op, 0x40, [1, 0, 0, 0], 0, none, false, [], false, false, 0, 0, ⟨0, 0, 0, 0⟩, 0, 0⟩
    let s := { State.reset with sward := memWriteLE [] 0x40 4 0x7FFFFFFF }
    memReadLE (payLand (o 1) s).sward 0x40 4 = 0x80000000 ∧ memReadLE (payLand (o 2) s).sward 0x40 4 = 0x7FFFFFFF ∧
      memReadLE (payLand (o 1) { s with swardPoison := [1] }).sward 0x40 4 = 0x7FFFFFFF := by decide +kernel

/-- Checked requests: of a context that is not live; an arrive that is taken, one whose cell refuses it, one that a scrub holds. -/
theorem witness_FabricEventResults_arrives :
    let f := fabFrame 5 0 (some (0, 0x100))
    let g : FabReq := { f with frame := { f.frame with bytes := (mkYt 0 0 0 5 0 12 false 0 [1, 0, 0, 0, 0, 0, 0, 0]) } }
    let s := atEngine g (withCell12 (cell12 2 0) State.reset)
    let i : BitVec 16 := field (ytOffset (reqHeader g)) 0 16
    let op := CellOp.remoteArrive (leNat ((reqPayload g).take 8))
    s.ctxLive 0 = true ∧ State.reset.ctxLive 0 = false ∧ ytOpc (reqHeader g) = 5 ∧ cellStalls s 0 i op = false ∧
      (cellOp 0 i op s).fault = none ∧ (cellOp 0 i op (withCells State.reset)).fault ≠ none ∧
      cellStalls { s with scrubbing := [0] } 0 i op = true := by decide +kernel

/-- Tile 0's context with a lease of the fabric engine at port 3, which maps the page of 0x10000 to HBM4. -/
def fabricLease (f : FabReq) : State :=
  (atEngine f (withCells State.reset)).modPort 3 fun x =>
    { x with tlb := [⟨0, 1, 16, 0x50000, 0, true, true, true, false, 0, 1⟩] }

/-- A checked request of that page whose first doubleword is 8. -/
def eightBytes (opc : BitVec 9) : FabReq :=
  ⟨someFrame (mkYt 0 0 0 opc 0 0x100 false 0 (8 :: List.replicate 23 0)), some (0, 0x10100), false, false⟩

/-- A read, a write and an atomic of eight bytes on that page; one whose page has no lease, one beyond 4,096 bytes. -/
theorem witness_FabricEventResults_serves :
    ([1, 2, 3].all fun o : BitVec 9 =>
      let f := eightBytes o
      let s := fabricLease f
      s.ctxLive 0 && ytOpc (reqHeader f) == o && decide (reqLength f ≤ 4096) &&
        fabPages s 3 0 f (pageStarts 0x10100 (reqLength f)) == .ready && Memory.wf s.hbm &&
        (List.range (Nat.max (reqPayload f).length (reqLength f))).all fun i =>
          holds (translate s (.fabric 3) 0 (0x10100 + i)) fun l => l.cls == 0 && decide (leasePa l (0x10100 + i) < 2 ^ 60) &&
            !poisonedRange s.hbmPoison (leasePa l (0x10100 + i)) 1) = true ∧
    (let f := eightBytes 1
     fabPages ((fabricLease f).modPort 3 fun x => { x with tlb := x.tlb.map fun l => { l with r := false } }) 3 0 f
       (pageStarts 0x10100 (reqLength f)) = .bad ∧
     fabPages { fabricLease f with hbmPoison := [] } 3 0 f [] = .ready) := by decide +kernel

/-- Drains at their beginning and under way, on the fabric and on the host link. -/
theorem witness_FabricEventResults_drains :
    (State.reset.draining = false ∧ { State.reset with draining := true }.draining = true) ∧
    (let s := stateOf (exec .fabricDrain (atEngine (fabFrame 2 0 none) State.reset))
     s.draining = true ∧ s.drained = false) := by decide +kernel

/-- Answers that their command takes, the log and the cell leaving them room; one that the cell's scrub holds. -/
theorem witness_FabricEventResults_clear :
    let s := requesting 7
    holds (s.cmd? 1) (fun c =>
      let f := fabFrame 0x22 (cmdTokid c) none
      let t := atEngine f s
      holds (answered t f) fun a => !logFull t a.1.ctx (answerRecords f) && !parDlv a.1.par && a.1.phase == .running &&
        !a.2.late && dataGood f a.2) = true := by decide +kernel

/-- A table entry whose bank is under scrub, and one whose bank is not; a context descriptor of each STATE; a sward write held. -/
theorem witness_WindowWriteResults_scrub :
    let t := State.reset.table 0 0
    State.reset.scrubbing.contains (sgaBank (tblBase t + 64 * 0)) = false ∧
      ({ State.reset with scrubbing := [0] } : State).scrubbing.contains (sgaBank (tblBase t + 64 * 0)) = true ∧
      ([0, 1, 2, 3, 4].all fun v : BitVec 512 => ctxDescOk v) = true ∧
      scrubHolds (.sward 0 [1]) State.reset = false ∧ scrubHolds (.sward 0 [1]) { State.reset with scrubbing := [0] } = true := by
  decide +kernel

/-- A core's load of a fault-queue entry of each die, its store of a header, and an address with nothing behind it (R409). -/
theorem witness_ManagementResults_addresses :
    (∀ die : BitVec 1, windowHole (.load 0 1 (BitVec.ofNat 52 (8589934592 + 4294967296 * die.toNat + 0x4000)) .d) = none ∧
      windowHole (.store (BitVec.ofNat 52 (8589934592 + 4294967296 * die.toNat + 0x4010)) (leBytes 8 1)) = none) ∧
    (windowHole (.load 0 1 (BitVec.ofNat 52 (8589934592 + 0x4008)) .d)).isSome = true ∧ (1 : BitVec 5) ≠ 0 := by decide +kernel

/-- A load from address 0x2_0000_4000 answers the header: one entry pending, IE as it was written (R348, R409). -/
theorem test_kenval_header :
    let s := enterFault 0 (faultEntry (causeCode .d2dLink) 0 3 0 0 0 0 0) (writeHeader 0 (2 ^ 32) State.reset)
    let t := stateOf (exec (.kenvalRegisterWrite (.load 2 5 0x200004000 .d)) s)
    (t.kenval[2]).x[5] = readHeader (s.die 0) ∧ bit (readHeader (s.die 0)) 32 = true := by decide +kernel


/-! ### Encoding, the step, invariants -/

/-- A slot and a parser word: well-formed, encoded, in either space. -/
theorem witness_DecodingReadsEncoding :
    (Instr.wf (.add 15 10 0) = true ∧ encode true 0 (.add 15 10 0) = some 0x8000F280 ∧ (encodeFields 0 (.add 15 10 0)).isSome = true) ∧
    (Instr.wf (.pEnd false) = true ∧ encode true 0 (.pEnd false) = some 0xA0000000 ∧ encodeFields 0 (.pEnd false) = none) := by
  decide +kernel

theorem witness_EncodingReadsDecoding :
    decodeSlot 0x8000F280 = .ok (.add 15 10 0) ∧ decodeP 0xA0000000 = some (.pEnd false) ∧
      decodeAC 0x40600010 = some (.acMovi 12 16) := ⟨rfl, rfl, rfl⟩

/-- What the next step runs for a placed word. -/
def placed (w : Nat) : State := State.reset.withFetchWord 32 w

theorem witness_StepRunsInstruction_words :
    (placed 0xA0000000).focus = .parser 0 ∧ pForm (parserWord 0 (placed 0xA0000000)) = some (.pEnd false) ∧
    (placed 0x40600010).focus = .stage 0 ∧ acForm (stageWord 0 (placed 0x40600010)) = some (.acMovi 12 16) ∧
    (let s := { State.reset with sched := [.event .d2dLink] }
     s.focus = .idle ∧ encode true 0 .d2dLink = none ∧ s.poweredOff = false) := by decide +kernel

/-- The first bundle of tile 0 issues: it holds one slot, which completes, closes its bundle, freezes, or traps. -/
theorem witness_StepRunsInstruction_slot :
    let w : BitVec 32 := 0x8000F280
    let s := { placed w.toNat with sched := [.tile 0] }
    let s0 := ({ s with sched := [] }).onTurn 0
    let x := soleSlot w 0 (.add 15 10 0)
    s.focus = .idle ∧ s.poweredOff = false ∧ s0.issues ∧ (fetchRange s0.me).1 ≤ s0.tk.pc.toNat ∧
      s0.tk.pc.toNat + 4 ≤ (fetchRange s0.me).2 ∧ fetchWord s0.me s0.tk.pc 0 = w ∧ slotStop w = true ∧ tileMap s0.me = none ∧
      (decodeSlot w).toOption = some (.add 15 10 0) ∧ modeRefuses s0.tk.mode (splitWord w).opc = false ∧
      targetFails s0.me s0.tk.pc (.add 15 10 0) = none ∧ slotEngine 0 (opClass (splitWord w).opc) = some 0 ∧
      (swpFails s0.tk s0.tk.pc [x]).isNone = true ∧ signal (exec (.add 15 10 0) (s0.atBundle x 1)) = .done ∧
      signal (exec .endTask (s0.atBundle (soleSlot 0x91000000 0 .endTask) 1)) = .closed ∧
      signal (exec (.halloc 2 0 1) (s0.atBundle x 1)) = .trapped .handleInvalid (wordTval (s0.atBundle x 1) 0) ∧
      (stateOf (exec (.halloc 2 0 1) (s0.atBundle x 1))).slot = 0 ∧ Out.isNext (exec x.ins (atSlot x s0)) = true := by
  unfold State.issues
  decide +kernel

/-- The same bundle freezes while a load of S15 has still to land. -/
theorem witness_StepRunsInstruction_frozen :
    let s := (onTask fun k => { k with bundle := 1, loadQ := [⟨.load, 0, 8, 15, none, none, 0, false, 0, 0, 0, false⟩] }).withFetchWord 32 0x8000F280
    let s0 := s.onTurn 0
    let x := soleSlot 0x8000F280 0 (.add 15 10 0)
    s0.issues ∧ signal (exec (.add 15 10 0) (s0.atBundle x 1)) = .frozen .scoreboard := by
  unfold State.issues
  decide +kernel

/-- A bundle of one slot issues and the PC moves past it; its result is there one issue cycle on (R192). -/
theorem test_step_add :
    let s := { (scalars [(10, 5)]).withFetchWord 32 0x8000F280 with sched := [.tile 0] }
    let t := stateOf (step s)
    t.tk.pc = 4 ∧ t.me.ic = s.me.ic + 1 ∧ readS s.tk 15 = 0 ∧ readS t.tk 15 = 5 := by decide +kernel

theorem witness_MemoryStaysCanonical : State.reset.memoryWf = true ∧ Out.isNext (step State.reset) = true := by decide +kernel

theorem witness_PredicatesAndInterlocks :
    (encodeFields 0 (.add 1 2 3)).isSome = true ∧ heedsNoPredicate (.add 1 2 3) = false ∧ predicateOff.guard = false ∧
      (let s := (stateOf (exec (.ldG .d 63 0 0) State.reset)).modTask fun k => { k with bundle := k.bundle + 1 }
       s.guard = true ∧ [63, 1, 2].any (scoreboarded s.tk) = true ∧ [1, 63].any (scoreboarded s.tk) = true) := by decide +kernel

theorem witness_LandingOrder :
    (63 : BitVec 6) ≠ 0 ∧ ([⟨1, 3, .sreg 1 0⟩, ⟨1, 8, .sreg 1 1⟩] : List Landing).Pairwise (fun x y => x.ord ≤ y.ord) := by
  decide +kernel

/-- Of two writes of one cycle to one register the later slot's stands (R177). -/
theorem test_landing_order :
    let k := { Task.reset with pend := insertLanding ⟨5, 9, .sreg 3 2⟩ (insertLanding ⟨5, 10, .sreg 3 7⟩ []) }
    readS (landCycle 5 k) 3 = 7 ∧ readS (landCycle 4 k) 3 = 0 := by decide +kernel

theorem witness_RegisterFormFrame :
    (State.reset.registerForm (.add 3 1 2)).isSome = true ∧ Out.isNext (exec (.add 3 1 2) State.reset) = true ∧
      signal (exec (.add 3 1 2) State.reset) = .done ∧ specialForm (.vrcp 3 1) = some 3 ∧
      signal (exec .nop State.reset) = .done := by decide +kernel

/-- The special function form completes on F32 lanes of 2.0. -/
theorem witness_RegisterFormFrame_special :
    Out.isNext (exec (.vrcp 3 1) (vectors 0x40000000 tagF32)) = true ∧ (vrcp (f32 0x40000000)).1 = 0x3F000000 := by decide +kernel

/-- A load that is still out, and one that the task's own shadow holds: a scoreboard freeze, and an empty cycle. -/
theorem witness_PredicatesAndInterlocks_why :
    (let s := (stateOf (exec (.ldG .d 63 0 0) State.reset)).modTask fun k => { k with bundle := k.bundle + 1 }
     ([Instr.add 63 1 2, .fma .rne 1 63 2, .cmpeqi 1 63 0, .swr 63 0, .spst 63 0, .mcfg 63, .vrot 1 2 63, .cset 0 1 63, .hrd 62 0].all
       fun i => (scalarOperands i).any (scoreboarded s.tk)) = true ∧ s.guard = true ∧ scoreWhy s.tk [63] = .scoreboard) ∧
    (let s := (stateOf (exec (.ldG .d 63 0 0) (onTask fun k => { k with shadow := 2 }))).modTask fun k => { k with bundle := k.bundle + 1 }
     [63].any (scoreboarded s.tk) = true ∧ [63].any (loadOut s.tk) = false ∧ scoreWhy s.tk [63] = .shadow) := by decide +kernel

/-- Predicates under a `LOOP.SWP`, and a spill memory in order. -/
theorem witness_LandingOrder_more :
    smWf 0 0 Task.reset.spill = true ∧ (7 : BitVec 3) ≠ 0 ∧ (7 : BitVec 3).toNat ≥ 4 ∧
      swpActive { Task.reset with loops := [⟨0, 0, 0, 0x40, some 1, 0, false, 0, 0, 0, 0⟩] } = true := by decide +kernel

/-- Flags that land with an `SWR` of YFFLAGS are ORed into what it writes (R44, R208). -/
theorem test_flags_or :
    (landCycle 5 { Task.reset with pend := [⟨5, 0, .flags 0x10⟩, ⟨5, 1, .yreg 0 0x201⟩] }).fflags = 0x11 := by decide +kernel

end Sys2Proof.Tests
end

section
/-! The events of the ports and of the host window: O47. Each lemma says what one event does in one of its cases. -/

namespace Sys2Proof.Machine

variable (s : State) (p : BitVec 5)

/-- A slot that completes and the end of a step are the same outcome. -/
theorem slotDone_eq_ends : slotDone s = s.ends := rfl

@[simp] theorem State.sig_port (g : Sig) : ({ s with sig := g } : State).port p = s.port p := rfl

/-! ### Fields and bytes -/

/-- A field that has been put reads as it was put. -/
theorem field_putField {n : Nat} (x : BitVec n) (lo len : Nat) (v : BitVec len) (h : lo + len ≤ n) :
    field (putField x lo len v) lo len = v := by
  ext i hi
  have hn : lo + i < n := by omega
  have hlo : ¬ lo + i < lo := by omega
  simp only [field, putField, BitVec.getElem_extractLsb', hn, BitVec.getLsbD_eq_getElem, BitVec.getElem_or,
    BitVec.getElem_and, BitVec.getElem_not, BitVec.getElem_shiftLeft, hlo, decide_false, Bool.not_false,
    Nat.add_sub_cancel_left, BitVec.getElem_setWidth, hi, BitVec.getElem_allOnes, Bool.and_self, Bool.not_true,
    Bool.and_false, Bool.true_and, Bool.false_or]

/-- A list of bytes read whole is itself. -/
theorem bytesAt_zero_length (bs : List Byte) : bytesAt bs 0 bs.length = bs := by
  refine List.ext_getElem (by simp [bytesAt]) fun i _ hi => ?_
  simp [bytesAt, byteAt, hi]

/-- A fold over a list that lacks the one element that acts. -/
theorem foldl_of_absent {α β : Type} (f : α → β → α) (k : β) (l : List β) (a : α) (hk : k ∉ l)
    (hf : ∀ i, i ≠ k → ∀ a, f a i = a) : l.foldl f a = a := by
  induction l with
  | nil => rfl
  | cons i l ih =>
    have hi : i ≠ k := fun e => hk (e ▸ List.mem_cons_self)
    rw [List.foldl_cons, hf i hi, ih fun h => hk (List.mem_cons_of_mem i h)]

/-- A fold over a list without repetition in which one element alone acts. -/
theorem foldl_of_only {α β : Type} [DecidableEq β] (f : α → β → α) (k : β) (l : List β) (a : α) (hl : l.Nodup)
    (hk : k ∈ l) (hf : ∀ i, i ≠ k → ∀ a, f a i = a) : l.foldl f a = f a k := by
  induction l generalizing a with
  | nil => exact absurd hk List.not_mem_nil
  | cons i l ih =>
    obtain ⟨hi, hl⟩ := List.nodup_cons.mp hl
    rw [List.foldl_cons]
    by_cases e : i = k
    · rw [e, foldl_of_absent f k l _ (e ▸ hi) hf]
    · rw [hf i e, ih a hl ((List.mem_cons.mp hk).resolve_left (Ne.symm e))]

/-! ### Configuration and modes (R67, R68) -/

/-- A write of a MODE that exists takes effect but for the mode, which waits. -/
theorem portConfigWrite_of_mode (v : Word) (h : field v 0 2 ≠ (3 : BitVec 2)) :
    exec (.portConfigWrite p v) s = (s.modPort p fun x => { x with
      cfg := putField (v &&& portCfgMask) 0 2 x.mode
      newMode := if field v 0 2 = x.mode then none else some (field v 0 2), down := false }).ends := by
  rw [exec_portConfigWrite, execPortConfigWrite, if_neg h, slotDone_eq_ends]

theorem portConfigWrite_port (v : Word) (h : field v 0 2 ≠ (3 : BitVec 2)) :
    ∃ u, exec (.portConfigWrite p v) s = .next u ∧ (u.port p).down = false ∧ (u.port p).mode = (s.port p).mode ∧
      (u.port p).newMode = (if field v 0 2 = (s.port p).mode then none else some (field v 0 2)) ∧
      (u.port p).egress = (s.port p).egress := by
  refine ⟨_, portConfigWrite_of_mode s p v h, ?_⟩
  rw [State.sig_port, State.modPort_port_same]
  exact ⟨rfl, field_putField _ 0 2 _ (by decide), rfl, rfl⟩

theorem portConfigWrite_ignored (v : Word) (h : field v 0 2 = (3 : BitVec 2)) :
    exec (.portConfigWrite p v) s = s.ends := by
  simp [execPortConfigWrite, h, slotDone_eq_ends]

theorem portModeChange_of_empty (m : BitVec 2) (hm : (s.port p).newMode = some m) (hb : bufRefs s (p.setWidth 6) = []) :
    exec (.portModeChange p) s = ((s.port p).egress.foldl (dropAt p) (s.modPort p (setMode m))).ends := by
  simp [execPortModeChange, hm, hb, slotDone_eq_ends]

theorem portModeChange_waits (hb : bufRefs s (p.setWidth 6) ≠ []) : exec (.portModeChange p) s = s.ends := by
  cases hm : (s.port p).newMode <;> simp [execPortModeChange, hm, hb, slotDone_eq_ends]

/-! ### Reception (R69 to R72) -/

/-- A port that runs reads what arrives in the framing of its own mode. -/
theorem receive_of_running (eth : Bool) (bytes : List Byte) (hm : (s.port p).mode ≠ 0) (hd : (s.port p).down = false)
    (hn : (s.port p).newMode = none) :
    receive p eth bytes s = tidyPorts (if (s.port p).mode = 1 then receiveEth p bytes s
      else if eth then count (p.setWidth 6) .rxbad s else receiveYt p bytes s) := by
  simp only [receive, hm, hd, hn, Bool.false_eq_true, or_self, if_false, Option.isSome_none]

theorem ethernetFrameReceive_ethernet (bytes : List Byte) (hm : (s.port p).mode = 1) (hd : (s.port p).down = false)
    (hn : (s.port p).newMode = none) :
    exec (.ethernetFrameReceive p bytes) s = (tidyPorts (receiveEth p bytes s)).ends := by
  have h := receive_of_running s p true bytes (by simp [hm]) hd hn
  simp [execEthernetFrameReceive, h, hm, slotDone_eq_ends]

theorem ethernetFrameReceive_fabric (bytes : List Byte) (hm : (s.port p).mode = 2) (hd : (s.port p).down = false)
    (hn : (s.port p).newMode = none) :
    exec (.ethernetFrameReceive p bytes) s = (tidyPorts (count (p.setWidth 6) .rxbad s)).ends := by
  have h := receive_of_running s p true bytes (by simp [hm]) hd hn
  simp [execEthernetFrameReceive, h, hm, slotDone_eq_ends]

theorem fabricFrameReceive_fabric (bytes : List Byte) (hm : (s.port p).mode = 2) (hd : (s.port p).down = false)
    (hn : (s.port p).newMode = none) :
    exec (.fabricFrameReceive p bytes) s = (tidyPorts (receiveYt p bytes s)).ends := by
  have h := receive_of_running s p false bytes (by simp [hm]) hd hn
  simp [execFabricFrameReceive, h, hm, slotDone_eq_ends]

/-! ### Credits (R320) -/

/-- The frames that have waited for 1 ms leave the egress and count in DROP. -/
theorem creditWaitDiscard_discards :
    exec (.creditWaitDiscard p) s = (tidyPorts (((s.port p).egress.filter (overdue s)).foldl
      (fun (s : State) f => count f.ref.port .drop s)
      (s.modPort p fun x => { x with egress := x.egress.filter fun f => !overdue s f }))).ends := rfl

/-! ### The fabric clock (R330) -/

theorem timesync_in_bound (offset : Int) (hm : (s.port p).mode = 2) (hd : (s.port p).down = false)
    (ho : offBound offset = false) :
    exec (.timesync p offset) s =
      ({ s with lastSync := s.timeNs, offsetSince := none, unsynced := false, slew := offset } : State).ends := by
  simp [execTimesync, hm, hd, ho, slotDone_eq_ends]

theorem timesyncSend_due (hm : (s.port p).mode = 2) (hd : (s.port p).down = false)
    (ht : (s.port p).lastSync + 10000 ≤ s.timeNs) :
    exec (.timesyncSend p) s = (sendLink p 0x30 (s.modPort p fun y => { y with lastSync := s.timeNs })).ends := by
  simp [execTimesyncSend, hm, hd, ht, slotDone_eq_ends]

theorem timeUnsync_silent (hu : s.unsynced = false) (ht : s.lastSync + 1000000 ≤ s.timeNs) :
    exec .timeUnsync s =
      (enterFault 0 (faultEntry (causeCode .timeUnsync) 0 3 0 0 0 0 s.timeNs) { s with unsynced := true, slew := 0 }).ends := by
  simp [execTimeUnsync, hu, ht, slotDone_eq_ends]

/-! ### Lanes and links (R331, R332) -/

/-- A `LANESWAP` at a port whose own request is unanswered. -/
theorem laneswap_of_requested {l : BitVec 3} {t : Word} (h : (s.port p).swap = some (l, t, false)) (lane : BitVec 3)
    (accept : Bool) (ts : Word) :
    exec (.laneswap p lane accept ts) s = (if accept then
        if l = lane ∧ ts = t then s.modPort p fun y => { y with swap := some (l, t, true) }
        else portFault p .laneDegraded (sendLink p 0x31 s)
      else if l = lane then portFault p .laneDegraded (s.modPort p fun y => { y with swap := none })
      else s).ends := by
  simp [execLaneswap, h, slotDone_eq_ends]

/-- A `LANESWAP` at a port whose swap is agreed. -/
theorem laneswap_of_agreed {l : BitVec 3} {t : Word} (h : (s.port p).swap = some (l, t, true)) (lane : BitVec 3)
    (accept : Bool) (ts : Word) :
    exec (.laneswap p lane accept ts) s = (if accept ∧ (l ≠ lane ∨ ts ≠ t)
      then portFault p .laneDegraded (sendLink p 0x31 s) else s).ends := by
  simp [execLaneswap, h, slotDone_eq_ends]

/-- A `LANESWAP` at a port with no swap under way. -/
theorem laneswap_of_none (h : (s.port p).swap = none) (lane : BitVec 3) (accept : Bool) (ts : Word) :
    exec (.laneswap p lane accept ts) s = (if !accept then portFault p .laneDegraded s
      else if (s.port p).spareUsed then portFault p .laneDegraded (sendLink p 0x31 s)
      else sendLink p 0x31 (s.modPort p fun y => { y with swap := some (lane, ts, true) })).ends := by
  simp [execLaneswap, h, slotDone_eq_ends]

/-- What a weak lane begins at a port with no swap under way. -/
theorem laneWeak_of_weak (lane : BitVec 3) (hm : (s.port p).mode ≠ 0) (hn : (s.port p).swap = none)
    (hw : laneWeak (s.port p) lane = true) :
    exec (.laneWeak p lane) s = (if (s.port p).spareUsed then portFault p .laneDegraded (sendLink p 0x31 s)
      else sendLink p 0x31 (s.modPort p fun y => { y with
        swap := some (lane, BitVec.ofNat 64 (s.timeNs + 20000 + Config.swapDelay s.freeCount), false) })).ends := by
  simp only [exec_laneWeak, execLaneWeak, hm, hn, hw, Option.isSome_none, Bool.not_true, Bool.false_eq_true, or_self,
    if_false, slotDone_eq_ends]

theorem laneSwapped_due {l : BitVec 3} {t : Word} (h : (s.port p).swap = some (l, t, true)) (ht : t.toNat ≤ s.timeNs) :
    exec (.laneSwapped p) s = (portFault p .laneSwapped (s.modPort p (spareIn l))).ends := by
  simp [execLaneSwapped, h, ht, slotDone_eq_ends]

theorem linkDown_of_up (hm : (s.port p).mode ≠ 0) (hd : (s.port p).down = false) :
    exec (.linkDown p) s = (portFault p .linkDown ((s.port p).egress.foldl (resteer p)
      (s.modPort p fun y => { y with down := true, egress := [], swap := none }))).ends := by
  simp only [exec_linkDown, execLinkDown, hm, hd, Bool.false_eq_true, or_self, if_false, slotDone_eq_ends]

/-! ### The host ingress window (R75, R76) -/

/-- A write that begins a slot of the host window and stays in it is a write to that slot alone. -/
theorem hostIngressWrite_one_slot (slot : BitVec 7) (addr : BitVec 20) (bytes : List Byte)
    (ha : addr.toNat = 8192 * slot.toNat) (hl : bytes.length ≤ 8192) (hb : bytes ≠ []) :
    exec (.hostIngressWrite addr bytes) s = (hostSlotWrite slot addr.toNat bytes s).ends := by
  have hpos := List.length_pos_iff.mpr hb
  rw [exec_hostIngressWrite, execHostIngressWrite, slotDone_eq_ends,
    foldl_of_only _ slot.toNat _ s List.nodup_range (List.mem_range.mpr slot.isLt)]
  · have hlo : Nat.max addr.toNat (8192 * slot.toNat) = addr.toNat := by rw [← ha]; exact Nat.max_self _
    have hhi : Nat.min (addr.toNat + bytes.length) (8192 * (slot.toNat + 1)) = addr.toNat + bytes.length :=
      Nat.min_eq_left (by omega)
    simp only [hlo, hhi]
    rw [if_pos (by omega), Nat.sub_self, Nat.add_sub_cancel_left, bytesAt_zero_length, BitVec.ofNat_toNat,
      BitVec.setWidth_eq]
  · intro i hi s
    refine if_neg ?_
    show ¬ max _ _ < min _ _
    omega

/-- A slot whose length word gives less than 64 bytes is taken and counted in HOSTBAD. -/
theorem hostFrameTake_short (slot : BitVec 7) (rest : List (BitVec 7)) (h : s.hostOrder = slot :: rest)
    (hn : (field (hostLength s slot) 0 13).toNat < 64) :
    exec .hostFrameTake s =
      (count 32 .hostbad { s with hostOrder := rest, hostWin := memZero s.hostWin (8192 * slot.toNat) 8 }).ends := by
  simp [execHostFrameTake, h, hn, slotDone_eq_ends]

/-- A length word of n bytes and KIND 0. -/
theorem lengthWord_fields (n : Nat) (h : n ≤ 8128) :
    (field (BitVec.ofNat 64 n) 0 13).toNat = n ∧ bit (BitVec.ofNat 64 n) 13 = false ∧
      field (BitVec.ofNat 64 n) 14 50 = 0 := by
  refine ⟨?_, ?_, BitVec.eq_of_toNat_eq ?_⟩
  · simp [field, BitVec.extractLsb'_toNat]
    omega
  · simp only [bit, BitVec.getLsbD_ofNat]
    rw [Nat.testBit_lt_two_pow (by omega)]
    rfl
  · simp [field, BitVec.extractLsb'_toNat, Nat.shiftRight_eq_div_pow]
    omega

theorem hostFrameTake_ethernet (slot : BitVec 7) (rest : List (BitVec 7)) (h : s.hostOrder = slot :: rest) (n : Nat)
    (hw : hostLength s slot = BitVec.ofNat 64 n) (h64 : 64 ≤ n) (hn : n ≤ 8128) :
    exec .hostFrameTake s = (presentHost false (memRead s.hostWin (8192 * slot.toNat + 64) n)
      { s with hostOrder := rest, hostWin := memZero s.hostWin (8192 * slot.toNat) 8 }).ends := by
  obtain ⟨hlen, hkind, hrest⟩ := lengthWord_fields n hn
  have h64' : ¬ n < 64 := by omega
  have hn' : ¬ 8128 < n := by omega
  simp [execHostFrameTake, h, hw, hlen, hkind, hrest, h64', hn', slotDone_eq_ends]

/-! ### Service slots (R11) -/

@[simp] theorem tickClock_cycle (n : Nat) : (tickClock n s).cycle = s.cycle + n := by
  unfold tickClock noteSaves
  split <;> rfl

@[simp] theorem tickClock_pipes (n : Nat) : (tickClock n s).pipes = s.pipes := by
  unfold tickClock noteSaves
  split <;> rfl

/-- The next service slot is in a cycle that is a multiple of 128. -/
theorem cycle_add_toSlot : (s.cycle + toSlot s) % 128 = 0 := by
  unfold toSlot
  omega

theorem serviceSlot_admits :
    ∃ u, exec .serviceSlot s = .next u ∧ u.cycle % 128 = 0 ∧ u.pipes = s.pipes.map (serveFrame u.cycle) := by
  refine ⟨_, rfl, ?_, ?_⟩
  · show (tickClock (toSlot s) s).cycle % 128 = 0
    rw [tickClock_cycle, cycle_add_toSlot]
  · show (tickClock (toSlot s) s).pipes.map _ = _
    rw [tickClock_pipes]

end Sys2Proof.Machine

open Sys2Proof Sys2Proof.Machine

/-- Settles O47: each event by the lemma of its case. -/
theorem portEventResults : Obligations.PortEventResults := by
  intro s p v ts bytes offset lane addr x swaps
  refine ⟨portConfigWrite_port s p v, portConfigWrite_ignored s p v, portModeChange_of_empty s p,
    portModeChange_waits s p, ethernetFrameReceive_ethernet s p bytes, ethernetFrameReceive_fabric s p bytes,
    fabricFrameReceive_fabric s p bytes, timesync_in_bound s p offset, timesyncSend_due s p, timeUnsync_silent s,
    ?requested, ?agreed, ?noSwap, ?noSpare, ?spare, fun l t => laneSwapped_due s p, linkDown_of_up s p,
    fun slot => hostIngressWrite_one_slot s slot addr bytes,
    fun slot rest h => ⟨hostFrameTake_short s slot rest h, hostFrameTake_ethernet s slot rest h⟩, serviceSlot_admits s,
    creditWaitDiscard_discards s p⟩
  case requested =>
    intro l t h
    have answer := laneswap_of_requested s p h
    refine ⟨by simp [answer, swaps], fun hne => ?_, by simp [answer, swaps], fun hne => by simp [answer, hne.symm]⟩
    have other : ¬ (l = lane ∧ ts = t) := fun ⟨hl, ht⟩ => hne.elim (· hl.symm) (· ht)
    simp [answer, other]
  case agreed =>
    intro l t h
    have answer := laneswap_of_agreed s p h
    refine ⟨by simp [answer], fun hne => ?_, by simp [answer]⟩
    have other : l ≠ lane ∨ ts ≠ t := hne.imp_left Ne.symm
    rw [answer, if_pos ⟨rfl, other⟩]
  case noSwap =>
    intro h
    have answer := laneswap_of_none s p h
    refine ⟨by simp [answer], fun hs => ?_, fun hs => ?_⟩
    · rw [answer, if_neg (by decide), if_neg (Bool.eq_false_iff.mp hs)]
    · rw [answer, if_neg (by decide), if_pos hs]
  case noSpare =>
    intro hm hn hw hs
    rw [laneWeak_of_weak s p lane hm hn hw, if_pos hs]
  case spare =>
    intro hm hn hw hs
    exact ⟨Config.swapDelay s.freeCount, by rw [laneWeak_of_weak s p lane hm hn hw, if_neg (Bool.eq_false_iff.mp hs)]⟩
end

section
/-! A packet's way through its pipeline: O48. First what memories read little-endian after a write, then each happening in
each of its cases, then what a payload operation lands. -/

namespace Sys2Proof.Machine

/-! ### Little-endian values -/

theorem leBytes_succ (n v : Nat) : leBytes (n + 1) v = BitVec.ofNat 8 v :: leBytes n (v / 256) := by
  simp only [leBytes, List.range_succ_eq_map, List.map_cons, List.map_map, Nat.pow_zero, Nat.div_one, List.cons.injEq,
    true_and]
  refine List.map_congr_left fun i _ => ?_
  simp only [Function.comp_apply, Nat.pow_succ', Nat.div_div_eq_div_mul]

@[simp] theorem length_leBytes (n v : Nat) : (leBytes n v).length = n := by simp [leBytes]

theorem leNat_leBytes (n v : Nat) : leNat (leBytes n v) = v % 256 ^ n := by
  induction n generalizing v with
  | zero => simp [leBytes, leNat, Nat.mod_one]
  | succ n ih => rw [leBytes_succ, leNat, ih, Nat.pow_succ', Nat.mod_mul, BitVec.toNat_ofNat]

theorem leNat_lt (bs : List Byte) : leNat bs < 256 ^ bs.length := by
  induction bs with
  | nil => simp [leNat]
  | cons b bs ih =>
    have := b.isLt
    simp only [leNat, List.length_cons, Nat.pow_succ']
    omega

theorem memReadLE_lt (m : Mem) (a n : Nat) : memReadLE m a n < 256 ^ n := by
  simpa [memReadLE, memRead] using leNat_lt (memRead m a n)

/-- Bytes read where they were written are those written. -/
theorem memRead_memWrite_same (m : Mem) (a : Nat) (bs : List Byte) (h : Memory.wf m = true) :
    memRead (memWrite m a bs) a bs.length = bs := by
  refine List.ext_getElem (by simp [memRead]) fun i _ hi => ?_
  simp [memRead, memGet_memWrite_same bs m a i h hi]

theorem memReadLE_memWriteLE_same (m : Mem) (a n v : Nat) (h : Memory.wf m = true) :
    memReadLE (memWriteLE m a n v) a n = v % 256 ^ n := by
  have hr := memRead_memWrite_same m a (leBytes n v) h
  rw [length_leBytes] at hr
  rw [memReadLE, memWriteLE, hr, leNat_leBytes]

theorem memReadLE_congr {m m' : Mem} {a n : Nat} (h : ∀ i, i < n → memGet m (a + i) = memGet m' (a + i)) :
    memReadLE m a n = memReadLE m' a n :=
  congrArg leNat (List.map_congr_left fun i hi => h i (List.mem_range.mp hi))

/-! ### Admission to the parser (R11, R77) -/

section
variable (s : State) (p : BitVec 3)

@[simp] theorem State.sig_pipe (g : Sig) : ({ s with sig := g } : State).pipe p = s.pipe p := rfl
@[simp] theorem State.focus_pipe (x : Focus) : ({ s with focus := x } : State).pipe p = s.pipe p := rfl
@[simp] theorem State.focus_freeCount_pipe (x : Focus) (n : Nat) :
    ({ s with focus := x, freeCount := n } : State).pipe p = s.pipe p := rfl

/-- The pipeline from which the parser takes its next frame: in the cycle of a service slot, as the slot leaves it. -/
def servedPipe : Pipe := if toSlot s = 0 then serveFrame s.cycle (s.pipe p) else s.pipe p

/-- The next frame enters a parser that is free, unless it would use a service slot that is used. -/
theorem packetParse_enters (f : Frame) (hfull : payloadFull s (field p 2 1) = false)
    (hparse : (servedPipe s p).parse = none) (hrun : (servedPipe s p).run = none)
    (hslot : toSlot s = 0 → ((servedPipe s p).waiting.any fun g => g.service) = true)
    (hnext : nextFrame (servedPipe s p).waiting = some f) :
    ∃ u, exec (.packetParse p) s = .next u ∧ u.focus = .parser p ∧ u.pipe p =
      { servedPipe s p with waiting := (servedPipe s p).waiting.erase f, parse := some (startParse s f) } := by
  have hused : (decide (toSlot s = 0) && !(servedPipe s p).waiting.any fun g => g.service) = false := by
    by_cases h : toSlot s = 0 <;> simp [h, hslot]
  have hexec : exec (.packetParse p) s = ({ s.modPipe p fun _ => { servedPipe s p with
      waiting := (servedPipe s p).waiting.erase f, parse := some (startParse s f) } with
    focus := .parser p } : State).ends := by
    have hx : (if toSlot s = 0 then serveFrame s.cycle (s.pipe p) else s.pipe p) = servedPipe s p := rfl
    simp only [exec_packetParse, execPacketParse, hx, hfull, hparse, hrun, hused, hnext, Option.isSome_none, Bool.or_self,
      Bool.false_eq_true, if_false, slotDone_eq_ends]
  exact ⟨_, hexec, rfl, by rw [State.sig_pipe, State.focus_pipe, State.modPipe_pipe_same]⟩

theorem packetParse_used (h0 : toSlot s = 0) (hserved : (s.pipe p).served = some s.cycle)
    (hno : ∀ f ∈ (s.pipe p).waiting, f.service = false) : exec (.packetParse p) s = s.ends := by
  have hany : ((s.pipe p).waiting.any fun f => f.service) = false := by simpa using hno
  simp [execPacketParse, h0, serveFrame, hserved, hany, slotDone_eq_ends]

end

/-- The frame of a service slot comes before all others. -/
theorem nextFrame_of_service (f : Frame) (l : List Frame) (h : f.service = true) : nextFrame (f :: l) = some f := by
  simp [nextFrame, h]

theorem markService_host (l : List Frame) (f : Frame) (hno : ∀ g ∈ l, g.service = false)
    (hf : (l.find? fun g => g.ref.port == 32) = some f) : markService l = { f with service := true } :: l.erase f := by
  have hany : (l.any fun g => g.service) = false := by simpa using hno
  simp only [markService, hany, Bool.false_eq_true, if_false, hf]

/-! ### A packet's turn at its stage (R79, R107) -/

/-- A packet with the context of its classification in F2 (R79). -/
def Packet.classified (k : Packet) (ctx : CtxId) : Packet :=
  { k with phv := setF k.phv 2 (0x8000 ||| ctx.setWidth 16) }

section
variable (s : State) (p : BitVec 3) (k : Packet)

theorem stageExecute_turn (stage : BitVec 4) (hk : packetAt (s.pipe p) stage.toNat = some k)
    (hd : (s.cluster (stageCluster p stage.toNat)).pay.length < payDepth) :
    exec (.stageExecute p stage) s = (stagePacket p k (inPipeOrder p s)).ends := by
  rw [exec_stageExecute, execStageExecute, hk, slotDone_eq_ends]
  exact congrArg State.ends (if_neg (by omega))

theorem stagePacket_passes (h : (isTransit k || isEngineFrame k) = true) : stagePacket p k s = nextStage p k s :=
  if_pos h

variable {k} (h : (isTransit k || isEngineFrame k) = false)
include h

theorem stagePacket_scrub (ht : tablesScrub s p k.stage = true) : stagePacket p k s = s := by
  simp [stagePacket, h, ht]

variable (ht : tablesScrub s p k.stage = false)
include ht

theorem stagePacket_later (h0 : k.stage ≠ 0) (hw : blockWaits s p k.stage k.ctx = false) :
    stagePacket p k s = beginBlock p k k.phv none s := by
  simp [stagePacket, h, ht, h0, hw]

variable (h0 : k.stage = 0)
include h0

theorem stagePacket_unclassified (hc : classify s k (classLookup s p k) = none) :
    stagePacket p k s = dropPacket p k .noclass s := by
  rw [stagePacket, if_neg (Bool.eq_false_iff.mp h), if_neg (Bool.eq_false_iff.mp ht), if_neg (not_not_intro h0)]
  simp only [hc]

theorem stagePacket_dead (ctx : CtxId) (hc : classify s k (classLookup s p k) = some ctx) (hl : s.ctxLive ctx = false) :
    stagePacket p k s = dropPacket p k .noclass s := by
  rw [stagePacket, if_neg (Bool.eq_false_iff.mp h), if_neg (Bool.eq_false_iff.mp ht), if_neg (not_not_intro h0)]
  simp only [hc, hl, Bool.not_false, if_true]

theorem stagePacket_classified (ctx : CtxId) (hc : classify s k (classLookup s p k) = some ctx)
    (hl : s.ctxLive ctx = true) (hw : blockWaits s p 0 ctx = false) :
    stagePacket p k s = beginBlock p (k.classified ctx) k.phv (classLookup s p k)
      (logAnswer true ctx (packetLog p (k.classified ctx).phv) (replacePacket p k (k.classified ctx) s)).1 := by
  rw [stagePacket, if_neg (Bool.eq_false_iff.mp h), if_neg (Bool.eq_false_iff.mp ht), if_neg (not_not_intro h0)]
  simp only [hc, hl, hw, Bool.not_true, Bool.false_eq_true, if_false]
  rfl

end

/-! ### A block's beginning (R107) -/

section
variable (s : State) (p : BitVec 3) (k : Packet) (f : Phv) (l : Option Lookup)

/-- The oldest packet that equals k is replaced in its place. -/
theorem replacePacket_pkts (q : Packet) (before after : List Packet) (hp : (s.pipe p).pkts = before ++ k :: after)
    (hk : k ∉ before) : ((replacePacket p k q s).pipe p).pkts = before ++ q :: after := by
  have hb : ∀ x ∈ before, (x != k) = true := fun x hx => bne_iff_ne.mpr fun e => hk (e ▸ hx)
  rw [replacePacket, State.modPipe_pipe_same, hp]
  simp [List.takeWhile_append_of_pos hb, List.dropWhile_append_of_pos hb]

variable (hl : s.ctxLive k.ctx = true)
include hl

theorem beginBlock_off (he : seEn (stageEntry (s.pipe p) k.stage k.ctx) = false) :
    beginBlock p k f l s = nextStage p k s := by
  simp [beginBlock, hl, he]

variable (he : seEn (stageEntry (s.pipe p) k.stage k.ctx) = true) (ls : List Lookup)
  (hls : stageLookups s p k.stage k.ctx f l (stageEntry (s.pipe p) k.stage k.ctx) [0, 1, 2, 3] = .ok ls)
include he hls

theorem beginBlock_beyond (hs : (seSeln (stageEntry (s.pipe p) k.stage k.ctx)).toNat < (stageSelector ls).toNat) :
    beginBlock p k f l s = actionFault p k .actArg 0 s := by
  simp [beginBlock, hl, he, hls, hs]

theorem beginBlock_begins (hs : (stageSelector ls).toNat ≤ (seSeln (stageEntry (s.pipe p) k.stage k.ctx)).toNat) :
    (beginBlock p k f l s).focus = .stage p ∧
      ∃ r, ((beginBlock p k f l s).pipe p).run = some r ∧ r.pkt = k ∧ r.wk = k.phv ∧ r.ops = [] ∧ r.i = 0 ∧ r.n = 0 ∧
        r.fault = none ∧ r.base =
          seCode (stageEntry (s.pipe p) k.stage k.ctx) + BitVec.ofNat 12 (16 * (stageSelector ls).toNat) := by
  have hs' : ¬ (stageSelector ls).toNat > (seSeln (stageEntry (s.pipe p) k.stage k.ctx)).toNat := by omega
  simp only [beginBlock, hl, he, hls, hs', Bool.not_true, Bool.false_eq_true, if_false]
  rw [State.focus_freeCount_pipe, State.modPipe_pipe_same]
  exact ⟨trivial, _, rfl, rfl, rfl, rfl, rfl, rfl, rfl, rfl⟩

end

/-! ### Disposition (R92, R93) -/

section
variable (s : State) (p : BitVec 3) (k : Packet)

theorem packetDisposition_transit (hk : packetAt (s.pipe p) 16 = some k) (ht : isTransit k = true) :
    exec (.packetDisposition p) s = (tidyPorts (disposeTransit p k (removePacket p k s))).ends := by
  simp [execPacketDisposition, hk, ht, slotDone_eq_ends]

theorem packetDisposition_disposes (hk : packetAt (s.pipe p) 16 = some k) (ht : isTransit k = false)
    (he : isEngineFrame k = false) :
    exec (.packetDisposition p) s = (tidyPorts (dispose p k (removePacket p k s))).ends := by
  simp [execPacketDisposition, hk, ht, he, slotDone_eq_ends]

theorem packetDisposition_none (hk : packetAt (s.pipe p) 16 = none) : exec (.packetDisposition p) s = s.ends := by
  simp [execPacketDisposition, hk, slotDone_eq_ends]

theorem dispose_absorbs (h : bit (getF k.phv 8) 15 = false) :
    dispose p k s = if bit (getF k.phv 9) 0 then s else count k.frame.ref.port .drop s := by
  rw [dispose, if_pos (by rw [h]; rfl)]

variable (q : BitVec 5) (h : bit (getF k.phv 8) 15 = true) (hq : dispositionPorts s k = [q]) (hy : k.frame.yt = false)
include h hq hy

theorem dispose_uncarried (hc : carries s false q = false) : dispose p k s = count k.frame.ref.port .drop s := by
  rw [dispose, if_neg (by rw [h]; decide)]
  simp [hq, hy, hc, countDrops]

theorem dispose_forwards (hc : carries s false q = true) :
    dispose p k s = toEgress q ⟨k.frame.ref, k.extracts.foldl (putExtract k.phv) k.frame.bytes, false,
      datelineTc (k.route.getD false) (field (getF k.phv 10) 0 3), false, false, k.route.map fun _ => p, 0⟩ s := by
  rw [dispose, if_neg (by rw [h]; decide)]
  simp [hq, hy, hc, countDrops, deparse]

end

/-! ### The payload engines (R87 to R91) -/

section
variable (s : State) (eng : BitVec 4) (o : PayOp)

/-- What follows the landing of an engine's first operation: its failure, or its cells. -/
def paySettle (t : State) : State :=
  tidyPorts (settleArrives (
    if o.op ≠ 0 ∧ poisonedRange s.swardPoison o.dst o.bytes.length = true then payFail eng o true t
    else if o.yt = true ∧ (o.poison = true ∨ crc32c o.bytes ≠ o.e2e) then payFail eng o false t
    else payCells o t))

/-- An engine's first operation is performed by the happening of its kind. -/
theorem payPerform_performs (rest : List PayOp) (hp : (s.cluster eng).pay = o :: rest) (hs : payStalls s o = false)
    (hb : ((extentBanks o.dst o.bytes.length).any fun b => s.scrubbing.contains b) = false) :
    payPerform eng o.op s = (paySettle s eng o (payLand o (s.modCluster eng fun x => { x with pay := rest }))).ends := by
  have hgo : ¬ (o.op ≠ o.op ∨ payStalls s o = true ∨
      ((extentBanks o.dst o.bytes.length).any fun b => s.scrubbing.contains b) = true) := by
    simp only [hs, hb, ne_eq, not_true_eq_false, Bool.false_eq_true, or_self, not_false_eq_true]
  simp only [payPerform, hp, if_neg hgo, slotDone_eq_ends, paySettle]
  by_cases hit : o.op ≠ 0 ∧ poisonedRange s.swardPoison o.dst o.bytes.length = true
  · rw [if_pos (Or.inl hit), if_pos hit, decide_eq_true hit]
  · simp only [false_or, if_false, decide_false, hit]

theorem payloadWrite_empty (hp : (s.cluster eng).pay = []) :
    exec (.payloadWrite eng) s = (tidyPorts (settleArrives s)).ends := by
  simp [execPayloadWrite, payPerform, hp, slotDone_eq_ends]

/-! What an operation lands. -/

theorem satInt_word (x : Int) : satInt x (-2 ^ 31) (2 ^ 31 - 1) = max (-2147483648) (min 2147483647 x) := by
  unfold satInt
  split
  · omega
  · split <;> omega

/-- A word of an add writes its own four bytes or, on a poisoned line, nothing. -/
theorem payAddWord_cases (i : Nat) : payAddWord o s i = s ∨
    ∃ v, payAddWord o s i = { s with sward := memWriteLE s.sward (o.dst + 4 * i) 4 v } := by
  by_cases h : s.swardPoison.contains ((o.dst + 4 * i) / 64) = true
  · exact .inl (if_pos h)
  · exact .inr ⟨_, if_neg h⟩

@[simp] theorem payAddWord_swardPoison (i : Nat) : (payAddWord o s i).swardPoison = s.swardPoison := by
  rcases payAddWord_cases s o i with h | ⟨v, h⟩ <;> rw [h]

theorem payAddWord_wf (i : Nat) (hw : Memory.wf s.sward = true) : Memory.wf (payAddWord o s i).sward = true := by
  rcases payAddWord_cases s o i with h | ⟨v, h⟩ <;> rw [h]
  · exact hw
  · exact memWriteLE_wf _ _ _ _ hw

/-- A word of an add leaves the other bytes. -/
theorem memGet_payAddWord_other (i a : Nat) (hw : Memory.wf s.sward = true)
    (ha : a < o.dst + 4 * i ∨ o.dst + 4 * i + 4 ≤ a) : memGet (payAddWord o s i).sward a = memGet s.sward a := by
  rcases payAddWord_cases s o i with h | ⟨v, h⟩ <;> rw [h]
  exact memGet_memWrite_other _ _ _ _ hw (by simpa using ha)

/-- The word that an add leaves at word i: nothing is added on a poisoned line (R91). -/
theorem memReadLE_payAddWord_same (i : Nat) (h : Memory.wf s.sward = true) :
    memReadLE (payAddWord o s i).sward (o.dst + 4 * i) 4 =
      if s.swardPoison.contains ((o.dst + 4 * i) / 64) then memReadLE s.sward (o.dst + 4 * i) 4
      else (payAdd o.op (BitVec.ofNat 32 (memReadLE s.sward (o.dst + 4 * i) 4))
        (BitVec.ofNat 32 (leNat (bytesAt o.bytes (4 * i) 4)))).toNat := by
  by_cases hp : s.swardPoison.contains ((o.dst + 4 * i) / 64) = true
  · rw [if_pos hp, payAddWord, if_pos hp]
  · rw [if_neg hp, payAddWord, if_neg hp]
    exact (memReadLE_memWriteLE_same _ _ _ _ h).trans (Nat.mod_eq_of_lt (BitVec.isLt _))

/-- The first n words of an add. -/
def payAddWords (n : Nat) : State := (List.range n).foldl (payAddWord o) s

theorem payAddWords_succ (n : Nat) : payAddWords s o (n + 1) = payAddWord o (payAddWords s o n) n := by
  simp [payAddWords, List.range_succ]

@[simp] theorem payAddWords_swardPoison (n : Nat) : (payAddWords s o n).swardPoison = s.swardPoison := by
  induction n with
  | zero => rfl
  | succ n ih => rw [payAddWords_succ, payAddWord_swardPoison, ih]

variable (hw : Memory.wf s.sward = true)
include hw

theorem payAddWords_wf (n : Nat) : Memory.wf (payAddWords s o n).sward = true := by
  induction n with
  | zero => exact hw
  | succ n ih => rw [payAddWords_succ]; exact payAddWord_wf _ o n ih

theorem memGet_payAddWords_other (n a : Nat) (ha : a < o.dst ∨ o.dst + 4 * n ≤ a) :
    memGet (payAddWords s o n).sward a = memGet s.sward a := by
  induction n with
  | zero => rfl
  | succ n ih =>
    rw [payAddWords_succ, memGet_payAddWord_other _ o n a (payAddWords_wf s o hw n) (by omega), ih (by omega)]

/-- The words of an add do not meet: each is left as if it were added alone. -/
theorem memReadLE_payAddWords (n i : Nat) (hi : i < n) :
    memReadLE (payAddWords s o n).sward (o.dst + 4 * i) 4 = memReadLE (payAddWord o s i).sward (o.dst + 4 * i) 4 := by
  induction n with
  | zero => omega
  | succ n ih =>
    have hwn := payAddWords_wf s o hw n
    rw [payAddWords_succ]
    rcases Nat.lt_succ_iff_lt_or_eq.mp hi with hlt | rfl
    · rw [← ih hlt]
      exact memReadLE_congr fun j hj => memGet_payAddWord_other _ o n _ hwn (by omega)
    · have hold : memReadLE (payAddWords s o i).sward (o.dst + 4 * i) 4 = memReadLE s.sward (o.dst + 4 * i) 4 :=
        memReadLE_congr fun j _ => memGet_payAddWords_other s o hw i _ (by omega)
      rw [memReadLE_payAddWord_same _ o i hwn, memReadLE_payAddWord_same s o i hw, hold, payAddWords_swardPoison]

theorem memGet_payLand_other (a : Nat) (ha : a < o.dst ∨ o.dst + o.bytes.length ≤ a) :
    memGet (payLand o s).sward a = memGet s.sward a := by
  unfold payLand
  split
  · exact memGet_memWrite_other _ _ _ _ hw ha
  · exact memGet_payAddWords_other s o hw _ a (by omega)

theorem memGet_payLand_write (h0 : o.op = 0) (i : Nat) (hi : i < o.bytes.length) :
    memGet (payLand o s).sward (o.dst + i) = o.bytes.getD i 0 := by
  rw [payLand, if_pos h0, ← List.getElem_eq_getD (h := hi) 0]
  exact memGet_memWrite_same o.bytes s.sward o.dst i hw hi

theorem memReadLE_payLand_add (h0 : o.op ≠ 0) (i : Nat) (hi : 4 * i + 4 ≤ o.bytes.length) :
    let old : BitVec 32 := BitVec.ofNat 32 (memReadLE s.sward (o.dst + 4 * i) 4)
    let v : BitVec 32 := BitVec.ofNat 32 (leNat (bytesAt o.bytes (4 * i) 4))
    memReadLE (payLand o s).sward (o.dst + 4 * i) 4 =
      (if s.swardPoison.contains ((o.dst + 4 * i) / 64) then old
      else if o.op = 1 then old + v
      else if o.op = 2 then BitVec.ofInt 32 (max (-2147483648) (min 2147483647 (old.toInt + v.toInt)))
      else addRne32 old v).toNat := by
  intro old v
  have hold : old.toNat = memReadLE s.sward (o.dst + 4 * i) 4 :=
    (BitVec.toNat_ofNat _ _).trans (Nat.mod_eq_of_lt (memReadLE_lt s.sward _ 4))
  have hwords := memReadLE_payAddWords s o hw (o.bytes.length / 4) i (by omega)
  rw [payLand, if_neg h0, ← payAddWords, hwords, memReadLE_payAddWord_same s o i hw, payAdd, satInt_word]
  split
  · exact hold.symm
  · rfl

end

end Sys2Proof.Machine

open Sys2Proof Sys2Proof.Machine

/-- Settles O48: each happening by the lemma of its case. -/
theorem packetEventResults : Obligations.PacketEventResults := by
  intro s p stage eng k x ready
  refine ⟨?between, ?slot, ?stage, ?block, packetDisposition_transit s p k, packetDisposition_disposes s p k,
    packetDisposition_none s p, dispose_absorbs s p k, fun q h hq hy =>
      ⟨dispose_uncarried s p k q h hq hy, dispose_forwards s p k q h hq hy⟩, ?pay, ?land, payloadWrite_empty s eng⟩
  case between =>
    intro f ⟨hfull, hparse, hrun⟩ hslot hnext
    have hx : servedPipe s p = x := if_neg hslot
    obtain ⟨u, hu, hfocus, hpipe⟩ := packetParse_enters s p f hfull (hx ▸ hparse) (hx ▸ hrun)
      (fun h => absurd h hslot) (hx ▸ hnext)
    exact ⟨u, hu, hfocus, by rw [hpipe], by rw [hpipe, hx]⟩
  case slot =>
    intro hslot hno
    refine ⟨fun hserved => packetParse_used s p hslot hserved hno, fun f ⟨hfull, hparse, hrun⟩ hserved hf => ?_⟩
    have hx : servedPipe s p = { x with
        waiting := { f with service := true } :: x.waiting.erase f, served := some s.cycle } := by
      rw [servedPipe, if_pos hslot, serveFrame, if_neg hserved, markService_host _ f hno hf]
    obtain ⟨u, hu, hfocus, hpipe⟩ := packetParse_enters s p { f with service := true } hfull (by rw [hx]; exact hparse)
      (by rw [hx]; exact hrun) (fun _ => by simp [hx]) (by rw [hx]; exact nextFrame_of_service _ _ rfl)
    refine ⟨u, hu, hfocus, by rw [hpipe], ?_, by rw [hpipe, hx]⟩
    rw [hpipe, hx]
    exact List.erase_cons_head { f with service := true } (x.waiting.erase f)
  case stage =>
    intro hk hd u l
    have turn := stageExecute_turn s p k stage hk hd
    refine ⟨fun h => by rw [turn, stagePacket_passes u p k h], fun h ht => by rw [turn, stagePacket_scrub u p h ht],
      fun h ht => ⟨fun h0 hw => by rw [turn, stagePacket_later u p h ht h0 hw],
        fun h0 hc => by rw [turn, stagePacket_unclassified u p h ht h0 hc],
        fun ctx h0 hc hl => by rw [turn, stagePacket_dead u p h ht h0 ctx hc hl], fun ctx h0 hc hl hw => ?_⟩⟩
    exact ⟨k.classified ctx, _, by rw [turn, stagePacket_classified u p h ht h0 ctx hc hl hw], rfl⟩
  case block =>
    intro f l hl e
    refine ⟨fun he before after hp hk => ?_, fun ls he hls => ⟨beginBlock_beyond s p k f l hl he ls hls,
      beginBlock_begins s p k f l hl he ls hls⟩⟩
    rw [beginBlock_off s p k f l hl he]
    exact replacePacket_pkts s p k _ before after hp hk
  case pay =>
    intro o rest hp hs hb popped out
    have performs : payPerform eng o.op s = out := payPerform_performs s eng o rest hp hs hb
    exact ⟨fun h => by rw [← performs, h]; rfl, fun h => by rw [← performs, h]; rfl,
      fun h => by rw [← performs, h]; rfl, fun h => by rw [← performs, h]; rfl⟩
  case land =>
    intro o hw u
    exact ⟨memGet_payLand_other s o hw, memGet_payLand_write s o hw, memReadLE_payLand_add s o hw⟩
end

section
/-! The parser words and what follows them: O37. A word acts on the parse that has the focus; then what an extraction leaves in
the header vector, and how a parse goes on, fails and ends. -/

namespace Sys2Proof.Machine

/-! ### Fields of the header vector (R78) -/

theorem getF_setF (f : Phv) (i j : BitVec 7) (v : BitVec 16) : getF (setF f i v) j = if j = i then v else getF f j := by
  simp only [getF, setF, Vector.getElem_set, BitVec.toNat_inj, eq_comm]

theorem getF_setFAt (f : Phv) (i : Nat) (j : BitVec 7) (v : BitVec 16) :
    getF (setFAt f i v) j = if j.toNat = i then v else getF f j := by
  by_cases hi : i < 128
  · simp only [getF, setFAt, dif_pos hi, Vector.getElem_set, eq_comm]
  · have hj : j.toNat ≠ i := fun e => hi (e ▸ j.isLt)
    rw [setFAt, dif_neg hi, if_neg hj]

/-! ### An extraction (R101) -/

/-- A packet after its fields from d on have taken the n 16-bit words of its frame from byte src on. -/
def extractWords (src : Nat) (le : Bool) (d n : Nat) (q : Packet) : Packet :=
  (List.range n).foldl (fun (q : Packet) i => extractWord (src + 2 * i) le q (d + i)) q

section
variable (src : Nat) (le : Bool) (d n : Nat) (q : Packet)

theorem extractWords_succ :
    extractWords src le d (n + 1) q = extractWord (src + 2 * n) le (extractWords src le d n q) (d + n) := by
  simp [extractWords, List.range_succ]

/-- An extraction changes the header vector and the record of extractions alone. -/
theorem extractWords_frame : extractWords src le d n q =
    { q with phv := (extractWords src le d n q).phv, extracts := (extractWords src le d n q).extracts } := by
  induction n with
  | zero => rfl
  | succ n ih => rw [extractWords_succ, ih]; rfl

theorem getF_extractWords (j : BitVec 7) : getF (extractWords src le d n q).phv j =
    if d ≤ j.toNat ∧ j.toNat < d + n then frameWord q.frame.bytes (src + 2 * (j.toNat - d)) le else getF q.phv j := by
  induction n with
  | zero => rw [if_neg (by omega)]; rfl
  | succ n ih =>
    have hbytes : (extractWords src le d n q).frame = q.frame := by rw [extractWords_frame]
    have hphv : (extractWords src le d (n + 1) q).phv =
        setFAt (extractWords src le d n q).phv (d + n) (frameWord q.frame.bytes (src + 2 * n) le) := by
      rw [extractWords_succ, ← hbytes]; rfl
    rw [hphv, getF_setFAt, ih]
    by_cases hj : j.toNat = d + n
    · rw [if_pos hj, if_pos (by omega), hj, Nat.add_sub_cancel_left]
    · rw [if_neg hj]
      exact ite_congr (propext (by omega)) (fun _ => rfl) fun _ => rfl

end

/-! ### Parser words (R100, R101) -/

section
variable {s : State} {p : BitVec 3} {k : Parse}

/-- The step that ends with one of two states. -/
theorem ends_ite_not (c : Bool) (u v : State) : (if (!c) = true then u else v).ends = if c then v.ends else u.ends := by
  cases c <;> rfl

/-- A parser word acts on the parse that has the focus. -/
theorem parseWord_parsing (hk : s.parsing p k) (f : BitVec 3 → Parse → State → State) : parseWord f s = (f p k s).ends := by
  obtain ⟨hfocus, hparse⟩ := hk
  simp only [parseWord, hfocus, hparse, slotDone_eq_ends]

variable (hk : s.parsing p k)
include hk

theorem pExt_results (d : BitVec 7) (off : BitVec 8) (nm1 : BitVec 4) (le : Bool) : exec (.pExt d off nm1 le) s =
    if parseReach k (k.cursor + off.toNat) (2 * (nm1.toNat + 1)) then
      (nextWord p { k with pkt := extractWords (k.cursor + off.toNat) le d.toNat (nm1.toNat + 1) k.pkt } s).ends
    else (failParse p k s).ends := by
  rw [exec_pExt, execPExt, parseWord_parsing hk]
  exact ends_ite_not ..

theorem pExtb_results (d : BitVec 7) (off : BitVec 8) (lsb wm1 : BitVec 4) : exec (.pExtb d off lsb wm1) s =
    if parseReach k (k.cursor + off.toNat) 2 then
      (nextWord p { k with pkt := recordExtract d (k.cursor + off.toNat) lsb.toNat (wm1.toNat + 1) false { k.pkt with
        phv := setF k.pkt.phv d (BitVec.ofNat 16 ((frameWord k.pkt.frame.bytes (k.cursor + off.toNat) false).toNat /
          2 ^ lsb.toNat % 2 ^ (wm1.toNat + 1))) } } s).ends
    else (failParse p k s).ends := by
  rw [exec_pExtb, execPExtb, parseWord_parsing hk]
  exact ends_ite_not ..

theorem pAdvf_results (a : BitVec 7) (lsb wm1 : BitVec 4) (sc : BitVec 2) : exec (.pAdvf a lsb wm1 sc) s =
    (nextWord p { k with
      next := k.next + (getF k.pkt.phv a).toNat / 2 ^ lsb.toNat % 2 ^ (wm1.toNat + 1) * 2 ^ sc.toNat } s).ends := by
  rw [exec_pAdvf, execPAdvf, parseWord_parsing hk]

theorem pCase_results (st : BitVec 6) (value : BitVec 16) : exec (.pCase st value) s =
    if k.key = value then (enterState p st k s).ends else (nextWord p k s).ends := by
  rw [exec_pCase, execPCase, parseWord_parsing hk]
  exact apply_ite State.ends _ _ _

theorem pEnd_ends : exec (.pEnd false) s = (if 256 < k.next then failParse p k s else endParse p k s).ends := by
  simp only [exec_pEnd, execPEnd, parseWord_parsing hk, Bool.false_eq_true, false_or, gt_iff_lt]

theorem pEnd_fails : exec (.pEnd true) s = (failParse p k s).ends := by
  simp only [exec_pEnd, execPEnd, parseWord_parsing hk, true_or, if_true]

end

/-! ### Transitions and the end of a parse (R77, R102, R103) -/

section
variable (s : State) (p : BitVec 3) (k : Parse) (st : BitVec 6)

theorem enterState_enters (hn : k.next ≤ 256) (hv : k.visited < 32) : ((enterState p st k s).pipe p).parse =
    some { k with state := st, word := 0, cursor := k.next, visited := k.visited + 1 } := by
  rw [enterState, if_neg (by omega), State.modPipe_pipe_same]

theorem nextWord_continues (h : k.word < 7) : ((nextWord p k s).pipe p).parse = some { k with word := k.word + 1 } := by
  rw [nextWord, if_neg (by omega), State.modPipe_pipe_same]

theorem nextWord_fails (h : 7 ≤ k.word) : nextWord p k s = failParse p k s := if_pos (by omega)

theorem endParse_pipe :
    (endParse p k s).pipe p = { s.pipe p with parse := none, pkts := (s.pipe p).pkts ++ [k.pkt] } := by
  rw [endParse, State.focus_pipe, State.modPipe_pipe_same]

theorem failParse_pipe : (failParse p k s).pipe p = { s.pipe p with
    parse := none, pkts := (s.pipe p).pkts ++ [{ k.pkt with phv := setPerr k.pkt.phv }] } := by
  rw [failParse, endParse_pipe]

theorem getF_setPerr (f : Phv) (j : BitVec 7) : getF (setPerr f) j = if j = 7 then getF f 7 ||| 1 else getF f j :=
  getF_setF f 7 j _

end

end Sys2Proof.Machine

open Sys2Proof Sys2Proof.Machine

/-- Settles O37: each word by the lemma of its form, and what follows it by those of R102 and R103. -/
theorem parserWordResults : Obligations.ParserWordResults := by
  refine ⟨fun s p k hk => ?words, fun s p k st _ => ⟨enterState_enters s p k st, fun h => if_pos h, nextWord_continues s p k,
    nextWord_fails s p k, by rw [endParse_pipe], by rw [endParse_pipe], ?failed⟩⟩
  case words =>
    intro goes phv
    have runs := parseWord_parsing hk
    refine ⟨runs nextWord, fun d off nm1 le => ?ext, pExtb_results hk, fun d a imm mask value n lsb wm1 sc st =>
      ⟨runs _, runs _, pAdvf_results hk a lsb wm1 sc, runs _, runs _, pCase_results hk st value, runs _⟩,
      pEnd_ends hk, pEnd_fails hk⟩
    case ext =>
      intro src
      rw [pExt_results hk]
      split
      · refine ⟨_, rfl, extractWords_frame .., fun j => ?_⟩
        rw [getF_extractWords]
        exact ite_congr (propext (by omega)) (fun _ => rfl) fun _ => rfl
      · rfl
  case failed =>
    rw [failParse_pipe]
    exact ⟨_, rfl, rfl, rfl, getF_setPerr _⟩
end

section
/-! The words that act at commit, and the commit: O39. An action word acts on the evaluation that has the focus; then the two
forms in which the model and the rules write F8, the words that need a case split, and the commit in each of its cases. -/

namespace Sys2Proof.Machine

/-! ### Action words (R111) -/

/-- An action word acts on the evaluation that has the focus. -/
theorem actionWord_evaluating {s : State} {p : BitVec 3} {r : StageRun} (hr : s.evaluating p r) (f : StageRun → StageRun) :
    actionWord f s = .next (s.afterWord p (f r)) := by
  obtain ⟨hfocus, hrun⟩ := hr
  simp only [actionWord, hfocus, hrun, slotDone, State.afterWord]

/-! ### Forwarding (R114) -/

/-- A word made of new high bits and the low n bits of another. -/
theorem append_setWidth_eq_or {m : Nat} (n : Nat) (h : BitVec m) (x : BitVec (m + n)) :
    h ++ x.setWidth n = (h ++ 0#n) ||| (x &&& (BitVec.allOnes n).setWidth (m + n)) := by
  ext i hi
  by_cases hn : i < n <;> simp [BitVec.getElem_append, hn, BitVec.getLsbD_eq_getElem hi]

theorem fwd_word (x : BitVec 16) : 0x8000 ||| (x &&& 0x3FF) = (0x20 : BitVec 6) ++ x.setWidth 10 :=
  (append_setWidth_eq_or 10 0x20#6 x).symm

theorem mcast_word (x : BitVec 16) : 0xC000 ||| (x &&& 0x3FF) = (0x30 : BitVec 6) ++ x.setWidth 10 :=
  (append_setWidth_eq_or 10 0x30#6 x).symm

theorem drop_word (x : BitVec 16) : x &&& 0x7FFF = (0 : BitVec 1) ++ x.setWidth 15 :=
  (BitVec.zero_or.symm.trans (append_setWidth_eq_or 15 0#1 x).symm)

theorem StageRun.unroute_unroute (r : StageRun) : r.unroute.unroute = r.unroute := by
  simp [StageRun.unroute]

/-- A write of F8 drops an earlier route itself. -/
theorem StageRun.writes_eight (r : StageRun) (v : BitVec 16) : r.unroute.writes 8 v = r.put 8 v := by
  simp only [StageRun.writes, StageRun.put, if_true, StageRun.unroute_unroute]
  rfl

/-- A payload operation would start beyond a plain frame (R117). -/
abbrev StageRun.payBeyond (r : StageRun) : Prop := !phvYt r.wk ∧ (getF r.wk 6).toNat > (getF r.wk 1).toNat

/-- A payload operation, with a cell operation or without, would be one too many (R118). -/
abbrev StageRun.payLimit (r : StageRun) (cell : Bool) : Prop := r.pays ≥ 1 ∨ r.cellOps + (if cell then 1 else 0) > 2

section
variable {s : State} {p : BitVec 3} {r : StageRun} (hr : s.evaluating p r)
include hr

theorem acFwd_results (a : BitVec 7) : exec (.acFwd a) s =
    .next (s.afterWord p (r.unroute.writes 8 ((0x20 : BitVec 6) ++ (getF r.wk a).setWidth 10))) := by
  rw [exec_acFwd, execAcFwd, actionWord_evaluating hr, fwd_word, StageRun.writes_eight]

theorem acMcast_results (a : BitVec 7) : exec (.acMcast a) s =
    .next (s.afterWord p (r.unroute.writes 8 ((0x30 : BitVec 6) ++ (getF r.wk a).setWidth 10))) := by
  rw [exec_acMcast, execAcMcast, actionWord_evaluating hr, mcast_word, StageRun.writes_eight]

theorem acDrop_results : exec .acDrop s =
    .next (s.afterWord p { r with wk := setF r.wk 8 ((0 : BitVec 1) ++ (getF r.wk 8).setWidth 15) }) := by
  rw [exec_acDrop, execAcDrop, actionWord_evaluating hr, drop_word]

theorem acRoute_results (a : BitVec 7) :
    let chip : BitVec 10 := (getF r.wk a).setWidth 10
    let f16 : Phv := setF r.wk 16 (putField (getF r.wk 16) 0 10 chip)
    exec (.acRoute a) s = .next (s.afterWord p (
      if !phvYt r.wk then r.fail .actForm
      else if chip = s.chipId then { r with wk := setF f16 8 ((0 : BitVec 1) ++ (getF f16 8).setWidth 15) }
      else { r.unroute with
        wk := setF f16 8 ((0x20 : BitVec 6) ++ (getF f16 8).setWidth 10), ops := r.unroute.ops ++ [.route chip] })) := by
  intro chip f16
  have hchip : field (getF r.wk a) 0 10 = chip := (BitVec.setWidth_eq_extractLsb' (by decide)).symm
  simp only [exec_acRoute, execAcRoute, actionWord_evaluating hr, hchip, fwd_word, drop_word]
  rfl

/-! ### Trigger cells (R116) -/

theorem acArrive_one (d a : BitVec 7) (link : Bool) :
    exec (.acArrive d a link true) s = .next (s.afterWord p (r.push 1 0 (.arrive (getF r.wk d) 1 link))) := by
  simp only [exec_acArrive, execAcArrive, actionWord_evaluating hr, if_true, Nat.one_ne_zero, if_false]

theorem acArrive_count (d a : BitVec 7) (link : Bool) : exec (.acArrive d a link false) s =
    .next (s.afterWord p (if (getF r.wk a).toNat = 0 then r.fail .actArg
      else r.push 1 0 (.arrive (getF r.wk d) (getF r.wk a).toNat link))) := by
  simp only [exec_acArrive, execAcArrive, actionWord_evaluating hr, Bool.false_eq_true, if_false]

/-! ### Payload (R117, R118) -/

variable (op : BitVec 2) (x : BitVec 7) (t : BitVec 6) (v : BitVec 7) (dlv arr : Bool)

theorem payWord_beyond (h : r.payBeyond) : payWord op x t v dlv arr s = .next (s.afterWord p (r.fail .actArg)) := by
  simp only [payWord, actionWord_evaluating hr]
  rw [if_pos h]

variable (h : ¬ r.payBeyond)
include h

theorem payWord_limit (hl : r.payLimit (dlv || arr)) :
    payWord op x t v dlv arr s = .next (s.afterWord p (r.fail .actLimit)) := by
  have hpush : r.cellOps + b2n (dlv || arr) > 2 ∨ r.pays + 1 > 1 := hl.symm.imp_right Nat.lt_succ_of_le
  simp only [payWord, actionWord_evaluating hr, StageRun.push, if_pos hpush]
  rw [if_neg h]
  rfl

theorem payWord_appends (hf : r.fault = none) (hl : ¬ r.payLimit (dlv || arr)) :
    payWord op x t v dlv arr s = .next (s.afterWord p { r with
      wk := setF r.wk 9 1, pays := 1, cellOps := r.cellOps + (if dlv || arr then 1 else 0)
      ops := r.ops ++ [.pay op t (getF r.wk x)
        (if phvYt r.wk then phvLen r.wk else (getF r.wk 1).toNat - (getF r.wk 6).toNat) (getF r.wk v) dlv arr] }) := by
  obtain ⟨hone, hcells⟩ := not_or.mp hl
  have hpays : r.pays = 0 := by omega
  have hpush : ¬ (r.cellOps + b2n (dlv || arr) > 2 ∨ r.pays + 1 > 1) := not_or.mpr ⟨hcells, by omega⟩
  simp only [payWord, actionWord_evaluating hr, StageRun.push, if_neg hpush, hf, Option.isSome_none, Bool.false_eq_true,
    if_false]
  rw [if_neg h, hpays]
  rfl

end

/-! ### The commit (R99, R111, R112) -/

section
variable (s : State) (p : BitVec 3) (r : StageRun)

/-- The state in which a block commits: its evaluation is over. -/
def commitStart : State := { s.modPipe p fun x => { x with run := none } with focus := .idle }

theorem commitRun_faulted (f : Cause) (hf : r.fault = some f) :
    commitRun p r s = actionFault p r.pkt f 0 (commitStart s p) := by
  simp only [commitRun, hf, commitStart]

theorem commitRun_no_ops (hf : r.fault = none) (ho : r.ops = []) : commitRun p r s = replacePacket p r.pkt
    { r.pkt with phv := r.wk, stage := r.pkt.stage + 1, route := r.route } (commitStart s p) := by
  simp [commitRun, hf, ho, commitStart, linkedArrives, applyOps, pure, Except.pure]

/-- An operation that is no linked arrive leaves none to its payload operation. -/
theorem linkedArrives_singleton (o : StageOp) (ho : ∀ c k, o ≠ .arrive c k true) : linkedArrives [o] = [] := by
  cases o
  case arrive c k link =>
    cases link
    · rfl
    · exact absurd rfl (ho c k)
  all_goals rfl

theorem commitRun_refused (o : StageOp) (ho : r.ops = [o]) (hf : r.fault = none) (hlink : ∀ c k, o ≠ .arrive c k true)
    (f : Cause) (hc : opCheck (commitStart s p) ⟨p, r.pkt⟩ o = some f) :
    commitRun p r s = actionFault p r.pkt f 0 (commitStart s p) := by
  unfold commitStart at hc ⊢
  simp only [commitRun, hf, ho, linkedArrives_singleton o hlink, ne_eq, not_true_eq_false, and_false, if_false,
    List.findSome?_cons, hc]

end

end Sys2Proof.Machine

open Sys2Proof Sys2Proof.Machine

/-- Settles O39: each word by the lemma of its form, the commit by its three cases. -/
theorem commitWordResults : Obligations.CommitWordResults := by
  refine ⟨fun s p r hr => ?_, fun s p r => ⟨commitRun_faulted s p r, commitRun_no_ops s p r, commitRun_refused s p r⟩⟩
  intro goes base d a x v t w link dlv arr pair chip f16
  have runs := actionWord_evaluating hr
  refine ⟨acFwd_results hr a, acMcast_results hr a, acDrop_results hr, ?route, runs _, runs _, runs _,
    acArrive_one hr d a link, ?arrive, runs _, ?pay, runs _, runs _⟩
  case route =>
    rw [acRoute_results hr]
    split
    · rfl
    · split <;> rfl
  case arrive =>
    rw [acArrive_count hr]
    split <;> rfl
  case pay =>
    intro pay hf
    have pays (op : BitVec 2) : payWord op x t v dlv arr s = pay op := by
      by_cases hb : r.payBeyond
      · exact (payWord_beyond hr op x t v dlv arr hb).trans (if_pos hb).symm
      by_cases hl : r.payLimit (dlv || arr)
      · exact (payWord_limit hr op x t v dlv arr hb hl).trans ((if_neg hb).trans (if_pos hl)).symm
      · exact (payWord_appends hr op x t v dlv arr hb hf hl).trans ((if_neg hb).trans (if_neg hl)).symm
    exact ⟨pays 0, pays 1, pays 2, pays 3⟩
end

section
/-! Decoding reads what encoding writes: O53. The law of each constructor is in Laws/PerInstr; here they are one law of every
instruction, and the statement follows by whether the instruction is a tile slot. -/

namespace Sys2Proof.Laws

open Sys2Proof Machine

/-- Every instruction is read back from its encodings: the law of its constructor. -/
theorem Encoding.every : ∀ i : Instr, Encoding.Statement i
  | .pExt .. => Encoding.pExt _ _ _ _ | .pExtb .. => Encoding.pExtb _ _ _ _ | .pSet .. => Encoding.pSet _ _
  | .pAdv .. => Encoding.pAdv _ | .pAdvf .. => Encoding.pAdvf _ _ _ _ | .pKey .. => Encoding.pKey _ _
  | .pCase .. => Encoding.pCase _ _ | .pGoto .. => Encoding.pGoto _ | .pPayld .. => Encoding.pPayld _
  | .pEnd .. => Encoding.pEnd _ | .acMov .. => Encoding.acMov _ _ | .acAdd .. => Encoding.acAdd _ _ _ _
  | .acSub .. => Encoding.acSub _ _ _ _ | .acAnd .. => Encoding.acAnd _ _ _ | .acOr .. => Encoding.acOr _ _ _
  | .acXor .. => Encoding.acXor _ _ _ | .acShl .. => Encoding.acShl _ _ _ | .acShr .. => Encoding.acShr _ _ _
  | .acMin .. => Encoding.acMin _ _ _ | .acMax .. => Encoding.acMax _ _ _ | .acSlt .. => Encoding.acSlt _ _ _
  | .acMovi .. => Encoding.acMovi _ _ | .acAddi .. => Encoding.acAddi _ _ _ | .acAndi .. => Encoding.acAndi _ _ _
  | .acOri .. => Encoding.acOri _ _ _ | .acMovh .. => Encoding.acMovh _ _ | .acSeqi .. => Encoding.acSeqi _ _ _
  | .acSkipz .. => Encoding.acSkipz _ _ | .acSkipnz .. => Encoding.acSkipnz _ _ | .acLdd .. => Encoding.acLdd _ _ _ _
  | .acHit .. => Encoding.acHit _ _ | .acFwd .. => Encoding.acFwd _ | .acMcast .. => Encoding.acMcast _
  | .acRoute .. => Encoding.acRoute _ | .acSrd .. => Encoding.acSrd _ _ _ _ | .acSwr .. => Encoding.acSwr _ _ _ _
  | .acSadd .. => Encoding.acSadd _ _ _ _ | .acArrive .. => Encoding.acArrive _ _ _ _
  | .acExpect .. => Encoding.acExpect _ _ | .acPayWrite .. => Encoding.acPayWrite _ _ _ _ _
  | .acPayAddw .. => Encoding.acPayAddw _ _ _ _ _ | .acPayAdds .. => Encoding.acPayAdds _ _ _ _ _
  | .acPayAddf .. => Encoding.acPayAddf _ _ _ _ _ | .acAdmit .. => Encoding.acAdmit _ _
  | .acClose .. => Encoding.acClose _ _ | .add .. => Encoding.add _ _ _ | .sub .. => Encoding.sub _ _ _
  | .and .. => Encoding.and _ _ _ | .or .. => Encoding.or _ _ _ | .xor .. => Encoding.xor _ _ _
  | .sll .. => Encoding.sll _ _ _ | .srl .. => Encoding.srl _ _ _ | .sra .. => Encoding.sra _ _ _
  | .min .. => Encoding.min _ _ _ | .max .. => Encoding.max _ _ _ | .minu .. => Encoding.minu _ _ _
  | .maxu .. => Encoding.maxu _ _ _ | .mul .. => Encoding.mul _ _ _ | .mulh .. => Encoding.mulh _ _ _
  | .mulhu .. => Encoding.mulhu _ _ _ | .div .. => Encoding.div _ _ _ | .divu .. => Encoding.divu _ _ _
  | .rem .. => Encoding.rem _ _ _ | .remu .. => Encoding.remu _ _ _ | .addi .. => Encoding.addi _ _ _
  | .andi .. => Encoding.andi _ _ _ | .ori .. => Encoding.ori _ _ _ | .xori .. => Encoding.xori _ _ _
  | .slli .. => Encoding.slli _ _ _ | .srli .. => Encoding.srli _ _ _ | .srai .. => Encoding.srai _ _ _
  | .movi .. => Encoding.movi _ _ | .movk .. => Encoding.movk _ _ | .cmpeq .. => Encoding.cmpeq _ _ _
  | .cmpne .. => Encoding.cmpne _ _ _ | .cmplt .. => Encoding.cmplt _ _ _ | .cmpltu .. => Encoding.cmpltu _ _ _
  | .cmple .. => Encoding.cmple _ _ _ | .cmpleu .. => Encoding.cmpleu _ _ _ | .cmpeqi .. => Encoding.cmpeqi _ _ _
  | .cmplti .. => Encoding.cmplti _ _ _ | .cmplei .. => Encoding.cmplei _ _ _ | .pand .. => Encoding.pand _ _ _
  | .por .. => Encoding.por _ _ _ | .pxor .. => Encoding.pxor _ _ _ | .pnot .. => Encoding.pnot _ _
  | .fadd .. => Encoding.fadd _ _ _ _ | .fsub .. => Encoding.fsub _ _ _ _ | .fmul .. => Encoding.fmul _ _ _ _
  | .fdiv .. => Encoding.fdiv _ _ _ _ | .fma .. => Encoding.fma _ _ _ _ | .fsqrt .. => Encoding.fsqrt _ _ _
  | .fmin .. => Encoding.fmin _ _ _ | .fmax .. => Encoding.fmax _ _ _ | .fcmpeq .. => Encoding.fcmpeq _ _ _
  | .fcmplt .. => Encoding.fcmplt _ _ _ | .fcmple .. => Encoding.fcmple _ _ _ | .fcvtI64 .. => Encoding.fcvtI64 _ _ _
  | .cvtF32 .. => Encoding.cvtF32 _ _ _ | .br .. => Encoding.br _ | .brN .. => Encoding.brN _
  | .call .. => Encoding.call _ | .jr .. => Encoding.jr _ | .bswap .. => Encoding.bswap _ | .nopn .. => Encoding.nopn _
  | .yield .. => Encoding.yield _ | .trap .. => Encoding.trap _ | .srd .. => Encoding.srd _ _
  | .swr .. => Encoding.swr _ _ | .enq .. => Encoding.enq _ _ _ | .spawnv .. => Encoding.spawnv _ _ _
  | .ldG .. => Encoding.ldG _ _ _ _ | .stG .. => Encoding.stG _ _ _ _ | .ldGAcq .. => Encoding.ldGAcq _ _ _
  | .stGRel .. => Encoding.stGRel _ _ _ | .fence .. => Encoding.fence _ | .amoG .. => Encoding.amoG _ _ _ _
  | .amoGAcq .. => Encoding.amoGAcq _ _ _ _ | .amoGRel .. => Encoding.amoGRel _ _ _ _
  | .amoGAr .. => Encoding.amoGAr _ _ _ _ | .relb .. => Encoding.relb _ _ | .relbFree .. => Encoding.relbFree _
  | .arrive .. => Encoding.arrive _ _ | .arriveRel .. => Encoding.arriveRel _ _ _ | .waitc .. => Encoding.waitc _ _ _
  | .expect .. => Encoding.expect _ _ _ | .aadd .. => Encoding.aadd _ _ _ | .asub .. => Encoding.asub _ _ _
  | .aaddi .. => Encoding.aaddi _ _ _ | .amovi .. => Encoding.amovi _ _ | .amovs .. => Encoding.amovs _ _
  | .smova .. => Encoding.smova _ _ | .ashli .. => Encoding.ashli _ _ _ | .areg .. => Encoding.areg _ _ _
  | .anode .. => Encoding.anode _ _ _ | .lcset .. => Encoding.lcset _ _ | .lcrd .. => Encoding.lcrd _ _
  | .loop .. => Encoding.loop _ _ | .loopSwp .. => Encoding.loopSwp _ _ _ | .spld .. => Encoding.spld _ _
  | .spst .. => Encoding.spst _ _ | .spldA .. => Encoding.spldA _ _ | .spstA .. => Encoding.spstA _ _
  | .hset .. => Encoding.hset _ _ | .halloc .. => Encoding.halloc _ _ _ | .hpub .. => Encoding.hpub _ _
  | .hadv .. => Encoding.hadv _ _ | .hrd .. => Encoding.hrd _ _ | .vaddInt .. => Encoding.vaddInt _ _ _ _ _
  | .vsubInt .. => Encoding.vsubInt _ _ _ _ _ | .vmulInt .. => Encoding.vmulInt _ _ _ _ _
  | .vmin .. => Encoding.vmin _ _ _ _ | .vmax .. => Encoding.vmax _ _ _ _ | .vshl .. => Encoding.vshl _ _ _ _
  | .vshr .. => Encoding.vshr _ _ _ _ | .vld .. => Encoding.vld _ _ _ | .vst .. => Encoding.vst _ _
  | .vlds .. => Encoding.vlds _ _ _ | .vsts .. => Encoding.vsts _ _ _ | .vldx .. => Encoding.vldx _ _ _
  | .vstx .. => Encoding.vstx _ _ _ | .vcmpeq .. => Encoding.vcmpeq _ _ _ _ | .vcmplt .. => Encoding.vcmplt _ _ _ _
  | .vcmple .. => Encoding.vcmple _ _ _ _ | .vredsum .. => Encoding.vredsum _ _ _ _ | .vand .. => Encoding.vand _ _ _
  | .vor .. => Encoding.vor _ _ _ | .vxor .. => Encoding.vxor _ _ _ | .vnot .. => Encoding.vnot _ _
  | .vsel .. => Encoding.vsel _ _ _ | .vmov .. => Encoding.vmov _ _ | .vaddF .. => Encoding.vaddF _ _ _ _ _
  | .vsubF .. => Encoding.vsubF _ _ _ _ _ | .vmulF .. => Encoding.vmulF _ _ _ _ _
  | .vfmaF .. => Encoding.vfmaF _ _ _ _ _ | .vaddE .. => Encoding.vaddE _ _ _ _ | .vsubE .. => Encoding.vsubE _ _ _ _
  | .vmulE .. => Encoding.vmulE _ _ _ _ | .vfmaE .. => Encoding.vfmaE _ _ _ _ | .vminF .. => Encoding.vminF _ _ _ _
  | .vmaxF .. => Encoding.vmaxF _ _ _ _ | .vcmpeqF .. => Encoding.vcmpeqF _ _ _ _
  | .vcmpltF .. => Encoding.vcmpltF _ _ _ _ | .vcmpleF .. => Encoding.vcmpleF _ _ _ _
  | .vredsumF32 .. => Encoding.vredsumF32 _ _ _ | .vredmaxF32 .. => Encoding.vredmaxF32 _ _
  | .vargmaxF32 .. => Encoding.vargmaxF32 _ _ | .vredmaxI32 .. => Encoding.vredmaxI32 _ _
  | .vargmaxI32 .. => Encoding.vargmaxI32 _ _ | .vexp2 .. => Encoding.vexp2 _ _ | .vlog2 .. => Encoding.vlog2 _ _
  | .vrcp .. => Encoding.vrcp _ _ | .vrsq .. => Encoding.vrsq _ _ | .vtanh .. => Encoding.vtanh _ _
  | .vsin .. => Encoding.vsin _ _ | .vbcastF32 .. => Encoding.vbcastF32 _ _ | .vbcastI32 .. => Encoding.vbcastI32 _ _
  | .viota .. => Encoding.viota _ _ | .vperm .. => Encoding.vperm _ _ _ | .vrot .. => Encoding.vrot _ _ _
  | .vretag .. => Encoding.vretag _ _ | .vplane .. => Encoding.vplane _ _ _ _ | .vptmask .. => Encoding.vptmask _ _ _
  | .vcvtI32Sat .. => Encoding.vcvtI32Sat _ _ | .vcvtI32Wrap .. => Encoding.vcvtI32Wrap _ _
  | .vscale .. => Encoding.vscale _ _ _ _ | .vcvtF32 .. => Encoding.vcvtF32 _ _ _ _
  | .vcvtBf16x2 .. => Encoding.vcvtBf16x2 _ _ _ _ | .vcvtFp16 .. => Encoding.vcvtFp16 _ _ _ _
  | .vcvtE4m3 .. => Encoding.vcvtE4m3 _ _ _ _ | .vcvtE5m2 .. => Encoding.vcvtE5m2 _ _ _ _
  | .vcvtInt .. => Encoding.vcvtInt _ _ _ _ | .vcvtIntRz .. => Encoding.vcvtIntRz _ _ _ _ | .mcfg .. => Encoding.mcfg _
  | .mloadb .. => Encoding.mloadb _ _ | .mloadbs .. => Encoding.mloadbs _ _ | .mfeed .. => Encoding.mfeed _ _ _
  | .mpush .. => Encoding.mpush _ | .mmul .. => Encoding.mmul _ _ | .mmac .. => Encoding.mmac _ _
  | .mmulMid .. => Encoding.mmulMid _ _ | .mmacMid .. => Encoding.mmacMid _ _ | .mdesc .. => Encoding.mdesc _ _ _
  | .mregroup .. => Encoding.mregroup _ _ _ | .mclrW .. => Encoding.mclrW _ _ | .mclrRb .. => Encoding.mclrRb _
  | .xpush .. => Encoding.xpush _ | .xpop .. => Encoding.xpop _ | .xcfg .. => Encoding.xcfg _
  | .xcnt .. => Encoding.xcnt _ | .cset .. => Encoding.cset _ _ _ | .cgo .. => Encoding.cgo _ _ _
  | .cwait .. => Encoding.cwait _ _ _ | .cstat .. => Encoding.cstat _ _ | .cpy .. => Encoding.cpy _ _ _
  | .cpyAs .. => Encoding.cpyAs _ _ _ | .gath .. => Encoding.gath _ _ _ | .pool .. => Encoding.pool _ _ _
  | .rld .. => Encoding.rld _ _ _ | .rst .. => Encoding.rst _ _ _ | .ramo .. => Encoding.ramo _ _ _
  | .mcst .. => Encoding.mcst _ _ _ | .rarrive .. => Encoding.rarrive _ _ _ | .pNop => Encoding.pNop
  | .acNop => Encoding.acNop | .acDone => Encoding.acDone | .acDrop => Encoding.acDrop | .ifence => Encoding.ifence
  | .endTask => Encoding.endTask | .eret => Encoding.eret | .eretSkip => Encoding.eretSkip
  | .eretRaise => Encoding.eretRaise | .nop => Encoding.nop | .qmark => Encoding.qmark | .anop => Encoding.anop
  | .vnop => Encoding.vnop | .mclrCfg => Encoding.mclrCfg | .xclr => Encoding.xclr | .cnop => Encoding.cnop
  | .cclr => Encoding.cclr | .endRetirement .. => Encoding.endRetirement _
  | .relbBankChange .. => Encoding.relbBankChange _ _ | .headAdvance .. => Encoding.headAdvance _ _
  | .matrixLoadComplete .. => Encoding.matrixLoadComplete _ | .mfeedLanding .. => Encoding.mfeedLanding _
  | .commandStart .. => Encoding.commandStart _ | .copyBeat .. => Encoding.copyBeat _
  | .commandCompletion .. => Encoding.commandCompletion _ | .leaseRenewal .. => Encoding.leaseRenewal _
  | .leaseExpiry .. => Encoding.leaseExpiry _ | .pageWalk .. => Encoding.pageWalk _ _ _ _
  | .scalarAccessPerform .. => Encoding.scalarAccessPerform _ _ | .sideLogReplay .. => Encoding.sideLogReplay _
  | .impreciseTrap .. => Encoding.impreciseTrap _ | .clockSkew .. => Encoding.clockSkew _
  | .cellExpect .. => Encoding.cellExpect _ _ _ | .cellDelivery .. => Encoding.cellDelivery _ _ _
  | .cellArrive .. => Encoding.cellArrive _ _ _ | .cellRemoteArrive .. => Encoding.cellRemoteArrive _ _ _
  | .cellPhaseRead .. => Encoding.cellPhaseRead _ _ | .cellRewrite .. => Encoding.cellRewrite _ _ _
  | .heldRecordMove .. => Encoding.heldRecordMove _ _ | .recordLanding .. => Encoding.recordLanding _
  | .launcherSelection .. => Encoding.launcherSelection _ | .imageLoadComplete .. => Encoding.imageLoadComplete _
  | .sliceExpiry .. => Encoding.sliceExpiry _ | .yieldOverrun .. => Encoding.yieldOverrun _
  | .preemptionStop .. => Encoding.preemptionStop _ | .gangStop .. => Encoding.gangStop _
  | .classSaveComplete .. => Encoding.classSaveComplete _ _ | .timedLaunchLead .. => Encoding.timedLaunchLead _ _
  | .timedLaunchStart .. => Encoding.timedLaunchStart _ _ | .timedLaunchDisarm .. => Encoding.timedLaunchDisarm _ _
  | .contextDescriptorWrite .. => Encoding.contextDescriptorWrite _ _
  | .queueDescriptorWrite .. => Encoding.queueDescriptorWrite _ _ | .bankOwnerWrite .. => Encoding.bankOwnerWrite _ _
  | .bankScrubComplete .. => Encoding.bankScrubComplete _ | .contextSave .. => Encoding.contextSave _
  | .portConfigWrite .. => Encoding.portConfigWrite _ _ | .portModeChange .. => Encoding.portModeChange _
  | .ethernetFrameReceive .. => Encoding.ethernetFrameReceive _ _
  | .fabricFrameReceive .. => Encoding.fabricFrameReceive _ _ | .timesync .. => Encoding.timesync _ _
  | .timesyncSend .. => Encoding.timesyncSend _ | .timeUnsync => Encoding.timeUnsync
  | .laneswap .. => Encoding.laneswap _ _ _ _ | .laneWeak .. => Encoding.laneWeak _ _
  | .laneSwapped .. => Encoding.laneSwapped _ | .linkDown .. => Encoding.linkDown _
  | .hostIngressWrite .. => Encoding.hostIngressWrite _ _ | .hostFrameTake => Encoding.hostFrameTake
  | .serviceSlot => Encoding.serviceSlot | .packetParse .. => Encoding.packetParse _
  | .stageExecute .. => Encoding.stageExecute _ _ | .packetDisposition .. => Encoding.packetDisposition _
  | .payloadWrite .. => Encoding.payloadWrite _ | .payloadAddw .. => Encoding.payloadAddw _
  | .payloadAdds .. => Encoding.payloadAdds _ | .payloadAddf .. => Encoding.payloadAddf _
  | .creditWaitDiscard .. => Encoding.creditWaitDiscard _ | .readRequest .. => Encoding.readRequest _
  | .writeRequest .. => Encoding.writeRequest _ | .atomicRequest .. => Encoding.atomicRequest _
  | .multicastWrite .. => Encoding.multicastWrite _ | .remoteArrive .. => Encoding.remoteArrive _
  | .readData .. => Encoding.readData _ | .writeAcknowledgement .. => Encoding.writeAcknowledgement _
  | .atomicResult .. => Encoding.atomicResult _
  | .multicastMemberAcknowledgement .. => Encoding.multicastMemberAcknowledgement _
  | .arriveAcknowledgement .. => Encoding.arriveAcknowledgement _ | .refusal .. => Encoding.refusal _
  | .remoteTimeout .. => Encoding.remoteTimeout _ | .fabricDrain => Encoding.fabricDrain
  | .hostLinkDrain => Encoding.hostLinkDrain
  | .classificationDescriptorWrite .. => Encoding.classificationDescriptorWrite _ _
  | .tableDescriptorWrite .. => Encoding.tableDescriptorWrite _ _ _
  | .tableEntryWrite .. => Encoding.tableEntryWrite _ _ _ _ | .stageEntryWrite .. => Encoding.stageEntryWrite _ _ _ _
  | .parserProgramLoad .. => Encoding.parserProgramLoad _ _ | .actionCodeLoad .. => Encoding.actionCodeLoad _ _ _ _
  | .decodeMapWrite .. => Encoding.decodeMapWrite _ _ | .routingEntryWrite .. => Encoding.routingEntryWrite _ _ _
  | .faultQueueHeaderWrite .. => Encoding.faultQueueHeaderWrite _ _ | .heldFaultEntry .. => Encoding.heldFaultEntry _
  | .pagingReplyMapped .. => Encoding.pagingReplyMapped _ _ _ | .pagingReplyFail .. => Encoding.pagingReplyFail _ _ _
  | .kenvalResume .. => Encoding.kenvalResume _ _ | .kenvalDiscard .. => Encoding.kenvalDiscard _
  | .kenvalTerminate .. => Encoding.kenvalTerminate _ | .kenvalPreemptRequest .. => Encoding.kenvalPreemptRequest _
  | .debugStop .. => Encoding.debugStop _ | .watchCopyRelease .. => Encoding.watchCopyRelease _
  | .coreDump .. => Encoding.coreDump _ | .watchdog .. => Encoding.watchdog _ | .ctxLost .. => Encoding.ctxLost _
  | .traceSample .. => Encoding.traceSample _ | .measurementExtend .. => Encoding.measurementExtend _ _ _
  | .attestationReport .. => Encoding.attestationReport _ | .coldReset => Encoding.coldReset
  | .thermalThrottle .. => Encoding.thermalThrottle _ _ | .thermal .. => Encoding.thermal _
  | .thermalPowerOff => Encoding.thermalPowerOff | .kenvalRegisterWrite .. => Encoding.kenvalRegisterWrite _
  | .backInStep .. => Encoding.backInStep _ | .d2dLink => Encoding.d2dLink | .stateParity .. => Encoding.stateParity _
  | .powerCap .. => Encoding.powerCap _ _

end Sys2Proof.Laws

open Sys2Proof Sys2Proof.Laws

/-- Settles O53: an encoding with fields is a tile slot's word, one without them a parser's or an action word. -/
theorem decodingReadsEncoding : Obligations.DecodingReadsEncoding := by
  intro i stop p w hw he
  obtain ⟨hslot, hword⟩ := Encoding.every i hw
  cases hf : encodeFields p i with
  | some f =>
    obtain rfl : joinWord stop f = w := by simpa [encode, hf] using he
    obtain ⟨hread, hstop⟩ := hslot stop p f hf
    exact ⟨hread, hstop, (join_bits stop f).1⟩
  | none => exact hword p w hf (by simpa [encode, hf] using he)
end

section
/-! The words written out from the spec: O52. A slot's word is made of its instruction's fields and so read as it, by the law of its
constructor; a parser's or an action word is read by its form. -/

namespace Sys2Proof.Laws

open Sys2Proof Machine

/-- A word made of the fields of a tile slot is read as that slot (R153). -/
theorem decodeSlot_of_encodeFields {i : Instr} {w : BitVec 32} (stop : Bool) (p : BitVec 3)
    (hw : (encodeFields p i).map (joinWord stop) = some w) (hi : i.wf = true) : (decodeSlot w).toOption = some i := by
  obtain ⟨f, hf, hj⟩ := Option.map_eq_some_iff.1 hw
  rw [Encoding.slot (Encoding.every i) hi hf hj]
  rfl

end Sys2Proof.Laws

open Sys2Proof Sys2Proof.Laws

/-- Settles O52: every word of the tile ends its bundle, and all but the branch (P3) and the fused multiply-add (P4) stand
under P0. -/
theorem writtenWordsDecode : Obligations.WrittenWordsDecode := by
  have reads {i : Instr} {w : BitVec 32} (p : BitVec 3) := decodeSlot_of_encodeFields (i := i) (w := w) true p
  refine ⟨reads 0 rfl rfl, reads 0 rfl rfl, reads 0 rfl rfl, reads 3 rfl rfl, reads 0 rfl rfl, reads 0 rfl rfl,
    reads 0 rfl rfl, reads 0 rfl rfl, reads 0 rfl rfl, reads 0 rfl rfl, reads 0 rfl rfl, reads 0 rfl rfl, reads 0 rfl rfl,
    reads 0 rfl rfl, reads 0 rfl rfl, reads 0 rfl rfl, reads 4 rfl rfl, reads 0 rfl rfl, reads 0 rfl rfl, reads 0 rfl rfl,
    reads 0 rfl rfl, reads 0 rfl rfl, ?pipeline⟩
  case pipeline => exact ⟨rfl, rfl, rfl, rfl, rfl, rfl, rfl, rfl, rfl, rfl, rfl⟩
end

section
/-! The field, control and action-data words: O38. Arithmetic on fields in the rule's terms; then what a load of action data
leaves, field by field; then the words. -/

namespace Sys2Proof.Machine

/-! ### Arithmetic on fields (R113) -/

section
variable (x y : BitVec 16)

/-- An integer cut to what a field holds (R48). -/
theorem satInt_field (z : Int) : BitVec.ofInt 16 (satInt z 0 65535) = BitVec.ofNat 16 (Nat.min z.toNat 65535) := by
  have hz : satInt z 0 65535 = ((min z.toNat 65535 : Nat) : Int) := by
    unfold satInt
    split
    · omega
    · split <;> omega
  rw [hz, BitVec.ofInt_natCast]

theorem field_add_sat : BitVec.ofInt 16 (satInt (x.toNat + y.toNat) 0 65535) =
    BitVec.ofNat 16 (Nat.min (x.toNat + y.toNat) 65535) := satInt_field _

theorem field_sub : x - y = BitVec.ofInt 16 ((x.toNat : Int) - y.toNat) := by
  have ofInt_toNat (v : BitVec 16) : BitVec.ofInt 16 v.toNat = v := by
    rw [BitVec.ofInt_natCast, BitVec.ofNat_toNat, BitVec.setWidth_eq]
  rw [BitVec.sub_eq_iff_eq_add]
  calc x = BitVec.ofInt 16 ((x.toNat : Int) - y.toNat + y.toNat) := by rw [Int.sub_add_cancel, ofInt_toNat]
    _ = BitVec.ofInt 16 ((x.toNat : Int) - y.toNat) + y := by rw [BitVec.ofInt_add, ofInt_toNat]

theorem field_sub_sat : BitVec.ofInt 16 (satInt ((x.toNat : Int) - y.toNat) 0 65535) = BitVec.ofNat 16 (x.toNat - y.toNat) := by
  have hle : x.toNat - y.toNat ≤ 65535 := by omega
  rw [satInt_field, Int.toNat_sub]
  exact congrArg _ (Nat.min_eq_left hle)

theorem field_min : (if x.toNat < y.toNat then x else y) = BitVec.ofNat 16 (Nat.min x.toNat y.toNat) := by
  show _ = BitVec.ofNat 16 (min _ _)
  split
  · rw [Nat.min_eq_left (by omega), BitVec.ofNat_toNat, BitVec.setWidth_eq]
  · rw [Nat.min_eq_right (by omega), BitVec.ofNat_toNat, BitVec.setWidth_eq]

theorem field_max : (if x.toNat < y.toNat then y else x) = BitVec.ofNat 16 (Nat.max x.toNat y.toNat) := by
  show _ = BitVec.ofNat 16 (max _ _)
  split
  · rw [Nat.max_eq_right (by omega), BitVec.ofNat_toNat, BitVec.setWidth_eq]
  · rw [Nat.max_eq_left (by omega), BitVec.ofNat_toNat, BitVec.setWidth_eq]

/-- The high four bits replaced. -/
theorem field_high (h : BitVec 4) : (x &&& 0x0FFF#16) ||| (h.setWidth 16 <<< 12) = h ++ x.setWidth 12 := by
  have hshift : h.setWidth 16 <<< 12 = h ++ 0#12 := by revert h; decide
  rw [append_setWidth_eq_or 12 h x, hshift, BitVec.or_comm]
  rfl

theorem field_eq_imm (imm : BitVec 12) : x = imm.setWidth 16 ↔ x.toNat = imm.toNat := by
  rw [← BitVec.toNat_inj, BitVec.toNat_setWidth_of_le (by decide)]

theorem field_eq_zero : x = 0 ↔ x.toNat = 0 := (BitVec.toNat_inj (y := 0)).symm

end

/-! ### Action data (R109, R113) -/

@[simp] theorem StageRun.put_wk (r : StageRun) (d : BitVec 7) (v : BitVec 16) : (r.put d v).wk = setF r.wk d v := rfl

section
variable (data : List Byte) (d off n : Nat) (r : StageRun)

theorem loadData_succ : loadData data d off (n + 1) r =
    (loadData data d off n r).put (BitVec.ofNat 7 (d + n)) (frameWord data (off + 2 * n) true) := by
  simp [loadData, List.range_succ]

/-- Which field the last of n + 1 loaded is. -/
theorem toNat_lastField (h : d + n ≤ 127) : (BitVec.ofNat 7 (d + n)).toNat = d + n := by
  rw [BitVec.toNat_ofNat, Nat.mod_eq_of_lt (by omega)]

/-- A load of action data changes the working vector and, where it writes F8, drops an earlier route (R114; log 73). -/
theorem loadData_frame (h : d + n ≤ 128) : loadData data d off n r =
    { (if d ≤ 8 ∧ 8 < d + n then r.unroute else r) with wk := (loadData data d off n r).wk } := by
  induction n with
  | zero => rw [if_neg (by omega)]; rfl
  | succ n ih =>
    have hlast : BitVec.ofNat 7 (d + n) = 8 ↔ d + n = 8 := by
      rw [← BitVec.toNat_inj, toNat_lastField d n (by omega)]; rfl
    rw [loadData_succ, ih (by omega)]
    by_cases h8 : d + n = 8
    · rw [if_neg (by omega), if_pos (by omega), StageRun.put, if_pos (hlast.2 h8)]
      rfl
    · have hcond : (d ≤ 8 ∧ 8 < d + (n + 1)) = (d ≤ 8 ∧ 8 < d + n) := propext (by omega)
      rw [StageRun.put, if_neg (mt hlast.1 h8)]
      simp only [hcond]

theorem getF_loadData (h : d + n ≤ 128) (i : BitVec 7) : getF (loadData data d off n r).wk i =
    if d ≤ i.toNat ∧ i.toNat < d + n then frameWord data (off + 2 * (i.toNat - d)) true else getF r.wk i := by
  induction n with
  | zero => rw [if_neg (by omega)]; rfl
  | succ n ih =>
    have hlast : i = BitVec.ofNat 7 (d + n) ↔ i.toNat = d + n := by
      rw [← BitVec.toNat_inj, toNat_lastField d n (by omega)]
    rw [loadData_succ, StageRun.put_wk, getF_setF, ih (by omega)]
    by_cases hi : i.toNat = d + n
    · rw [if_pos (hlast.2 hi), if_pos (by omega), hi, Nat.add_sub_cancel_left]
    · rw [if_neg (mt hlast.1 hi)]
      exact ite_congr (propext (by omega)) (fun _ => rfl) fun _ => rfl

end

/-! ### The words (R113) -/

section
variable {s : State} {p : BitVec 3} {r : StageRun} (hr : s.evaluating p r)
include hr

theorem acDone_results : exec .acDone s =
    .next { commitRun p { r with n := r.n + 1, i := r.i + 1, ended := true } s with sig := .done } := by
  rw [exec_acDone, execAcDone, actionWord_evaluating hr, State.afterWord, afterWord, if_pos (.inl rfl)]

variable (d : BitVec 7) (off : BitVec 6) (j : BitVec 2) (nm1 : BitVec 4)

theorem acLdd_beyond (h : 127 < d.toNat + nm1.toNat) :
    exec (.acLdd d off j nm1) s = .next (s.afterWord p (r.fail .actArg)) := by
  rw [exec_acLdd, execAcLdd, actionWord_evaluating hr, if_pos h]

theorem acLdd_loads (h : d.toNat + nm1.toNat ≤ 127) : ∃ f : Phv,
    exec (.acLdd d off j nm1) s = .next (s.afterWord p
      { (if d.toNat ≤ 8 ∧ 8 ≤ d.toNat + nm1.toNat then r.unroute else r) with wk := f }) ∧
    ∀ i : BitVec 7, getF f i = if d.toNat ≤ i.toNat ∧ i.toNat ≤ d.toNat + nm1.toNat
      then frameWord (r.lookups[j.toNat]'j.isLt).data (off.toNat + 2 * (i.toNat - d.toNat)) true else getF r.wk i := by
  have hframe := loadData_frame (r.lookups[j.toNat]'j.isLt).data d.toNat off.toNat (nm1.toNat + 1) r (by omega)
  have hfields := getF_loadData (r.lookups[j.toNat]'j.isLt).data d.toNat off.toNat (nm1.toNat + 1) r (by omega)
  simp only [← Nat.add_assoc, Nat.lt_add_one_iff] at hframe hfields
  refine ⟨_, ?_, hfields⟩
  rw [exec_acLdd, execAcLdd, actionWord_evaluating hr, if_neg (by omega), ← hframe]

end

end Sys2Proof.Machine

open Sys2Proof Sys2Proof.Machine

/-- Settles O38: each word is the write of its field, with its value in the rule's terms; `AC.DONE` and `AC.LDD` have lemmas of
their own. -/
theorem fieldWordResults : Obligations.FieldWordResults := by
  intro s p r hr goes x d a b imm h w4 w j off puts
  have runs := actionWord_evaluating hr
  have writes {v u : BitVec 16} (e : v = u) : puts v = puts u := congrArg puts e
  refine ⟨runs _, runs _, ?add, ?addSat, ?sub, ?subSat, runs _, runs _, runs _, runs _, runs _, ?min, ?max, runs _, runs _,
    runs _, runs _, runs _, ?movh, ?seqi, ?skipz, ?skipnz, acDone_results hr, ?hit, acLdd_beyond hr d off j w4,
    acLdd_loads hr d off j w4⟩
  case add => exact (runs _).trans (writes (BitVec.add_def _ _))
  case addSat => exact (runs _).trans (writes (field_add_sat _ _))
  case sub => exact (runs _).trans (writes (field_sub _ _))
  case subSat => exact (runs _).trans (writes (field_sub_sat _ _))
  case min => exact (runs _).trans (writes (field_min _ _))
  case max => exact (runs _).trans (writes (field_max _ _))
  case movh => exact (runs _).trans (writes (field_high _ _))
  case seqi => exact (runs _).trans (writes (ite_congr (propext (field_eq_imm _ _)) (fun _ => rfl) fun _ => rfl))
  case skipz => exact (runs _).trans (congrArg goes (ite_congr (propext (field_eq_zero _)) (fun _ => rfl) fun _ => rfl))
  case skipnz => exact (runs _).trans (congrArg goes (by simp only [ne_eq, field_eq_zero, ite_not]; rfl))
  case hit => exact (runs _).trans (writes (by cases (r.lookups[j.toNat]'j.isLt).hit <;> rfl))
end

section
/-! A step runs the decoded instruction: O55. From the inside out: the fetch of a bundle of one slot, the execution of its slots, its
issue, the turn of the tile that issues it, and the step. -/

namespace Sys2Proof.Machine

/-! ### The fetch of a bundle of one slot (R153, R156, R168) -/

section
variable (x : Tile) (pc : BitVec 18)

/-- A word that stops the bundle which it begins is the whole bundle (R153). -/
theorem bundleWords_sole (hlo : (fetchRange x).1 ≤ pc.toNat) (hhi : pc.toNat + 4 ≤ (fetchRange x).2)
    (hstop : slotStop (fetchWord x pc 0) = true) : bundleWords x pc = .ok [fetchWord x pc 0] := by
  have hroom : 0 < Nat.min 8 (((fetchRange x).2 - pc.toNat) / 4) := by
    have : 1 ≤ ((fetchRange x).2 - pc.toNat) / 4 := by omega
    exact Nat.lt_min.2 ⟨by decide, this⟩
  obtain ⟨room, hroom⟩ := Nat.exists_eq_add_of_lt hroom
  have hfirst : (List.range (Nat.min 8 (((fetchRange x).2 - pc.toNat) / 4))).find? (fun i => bit (fetchWord x pc i) 31) =
      some 0 := by
    rw [hroom, Nat.zero_add, List.range_succ_eq_map]
    exact List.find?_cons_of_pos hstop
  simp only [bundleWords, hfirst]
  rw [if_neg (by omega)]
  rfl

/-- A word that decodes has an opcode of map 0 (R160). -/
theorem opRow_isSome_of_decodeSlot {w : BitVec 32} {i : Instr} (h : decodeSlot w = .ok i) :
    (opRow (splitWord w).opc).isSome = true := by
  cases hr : opRow (splitWord w).opc with
  | some r => rfl
  | none => simp [decodeSlot, decodeFields, hr] at h

/-- A slot under map 0 that passes checks 3 to 7 is what its word decodes to (R168). -/
theorem checkSlot_of_decodeSlot {w : BitVec 32} {i : Instr} (n : Nat) (hmap : tileMap x = none)
    (hd : decodeSlot w = .ok i) (hmode : modeRefuses x.task.mode (splitWord w).opc = false)
    (htarget : targetFails x pc i = none) : checkSlot x pc n w = .ok ((splitWord w).opc, i) := by
  have hfields : decodeFields (splitWord w) = .ok i := hd
  simp only [checkSlot, hmap, mapIop, opRow_isSome_of_decodeSlot hd, hmode, hfields, htarget, if_true, Bool.false_eq_true,
    if_false]

theorem fetchBundle_sole {i : Instr} {e : Nat} (hlo : (fetchRange x).1 ≤ x.task.pc.toNat)
    (hhi : x.task.pc.toNat + 4 ≤ (fetchRange x).2) (hstop : slotStop (fetchWord x x.task.pc 0) = true)
    (hmap : tileMap x = none) (hd : decodeSlot (fetchWord x x.task.pc 0) = .ok i)
    (hmode : modeRefuses x.task.mode (splitWord (fetchWord x x.task.pc 0)).opc = false)
    (htarget : targetFails x x.task.pc i = none)
    (he : slotEngine 0 (opClass (splitWord (fetchWord x x.task.pc 0)).opc) = some e)
    (hswp : swpFails x.task x.task.pc [soleSlot (fetchWord x x.task.pc 0) e i] = none) :
    fetchBundle x = .ok [soleSlot (fetchWord x x.task.pc 0) e i] := by
  have hwords := bundleWords_sole x x.task.pc hlo hhi hstop
  generalize fetchWord x x.task.pc 0 = w at *
  have hchecks : checkSlots x x.task.pc 0 [w] = .ok [(0, w, (splitWord w).opc, i)] := by
    simp only [checkSlots, checkSlot_of_decodeSlot x x.task.pc 0 hmap hd hmode htarget]
  have hplaces : placeSlots x.task.pc 0 [(0, w, (splitWord w).opc, i)] = .ok [soleSlot w e i] := by
    simp only [placeSlots, he]
    rfl
  simp only [fetchBundle, hwords, hchecks, hplaces, hswp]

end

/-! ### The execution of slots (R176, R334) -/

theorem runSlots_cons {s s' : State} {x : SlotIns} (xs : List SlotIns) (h : exec x.ins (atSlot x s) = .next s') :
    runSlots (x :: xs) s = if s'.sig = .done then runSlots xs s' else .next s' := by
  rw [runSlots, h]

theorem runSlots_sole {s s' : State} {x : SlotIns} (h : exec x.ins (atSlot x s) = .next s') : runSlots [x] s = .next s' := by
  rw [runSlots_cons [] h]
  split
  next hdone => rw [runSlots, ← hdone]
  next => rfl

theorem slotOrder_sole (x : SlotIns) : slotOrder [x] = [x] := by
  cases hx : isCloser x.ins <;> simp [slotOrder, hx]

/-! ### The issue of a bundle -/

theorem State.modTask_congr {s : State} {f g : Task → Task} (h : f s.tk = g s.tk) : s.modTask f = s.modTask g := by
  have htile : ({ s.me with task := f s.tk } : Tile) = { s.me with task := g s.tk } := by rw [h]
  exact congrArg (s.setTile s.cur) htile

/-- What the step makes of a sole slot's outcome: a bundle that completes is counted and ends its issue cycle; one that a slot
closes has done so itself; one that freezes has the cycle of its wait; one that traps has not issued (R176, R334, R356). -/
def soleOutcome (x : SlotIns) (s s' : State) : State :=
  let ran := recordTact s.tk.gang (noteTouched [x] s.tk s')
  match s'.sig with
  | .done => afterIssue s.cur s.tk { completeBundle (lateLimit ran) with sig := .done }
  | .closed => afterIssue s.cur s.tk ran
  | .trapped _ _ => uncount s s'
  | .frozen y => { waitCycle y s with sig := .frozen y }

/-- A sole slot outside a branch shadow begins where `State.atBundle` says; a trap is the bundle's first slot's. -/
theorem issueSlots_sole {s s' : State} {x : SlotIns} (hshadow : s.tk.shadow = 0)
    (hrun : exec x.ins (s.atBundle x 1) = .next s') (hslot : ∀ c v, s'.sig = .trapped c v → s'.slot = 0) :
    issueSlots [x] 1 s = .next (soleOutcome x s s') := by
  have hstart : (s.modTask fun k => { k with
      npc := s.tk.pc + BitVec.ofNat 18 (4 * 1), taken := false
      shadowUsed := if k.shadow > 0 then k.shadowUsed + changingSlots [x] s else k.shadowUsed }) =
      s.modTask fun k => { k with npc := k.pc + BitVec.ofNat 18 (4 * 1), taken := false } :=
    State.modTask_congr (by simp only [hshadow, gt_iff_lt, Nat.lt_irrefl, if_false])
  have hslots := runSlots_sole (x := x) hrun
  simp only [issueSlots, slotOrder_sole, hstart, hslots, soleOutcome]
  cases hsig : s'.sig with
  | trapped c v => simp only [hslot c v hsig, hshadow, and_self, if_true]
  | done => rfl
  | closed => rfl
  | frozen y => rfl

/-! ### The turn of a tile (R139, R176) -/

section
variable {s s' : State} {x : SlotIns}

/-- Where a bundle issues, its slots do once it is fetched: all of them act, and none has to wait (R307, R344, R375). -/
theorem issueBundle_sole (hi : s.issues) (hf : fetchBundle s.me = .ok [x]) (hrun : exec x.ins (s.atBundle x 1) = .next s')
    (hslot : ∀ c v, s'.sig = .trapped c v → s'.slot = 0) : issueBundle s = .next (soleOutcome x s s') := by
  obtain ⟨_, _, _, _, _, _, _, _, _, hshadow, _, _, hbreak, _, _, _, hend, hskip, hpending, hheld⟩ := hi
  have hslots := issueSlots_sole hshadow hrun hslot
  have hacts : actingSlots s.tk [x] = [x] := by
    unfold actingSlots
    split
    · rfl
    · simp [hend, hskip]
  simp only [State.tk] at hshadow hacts hheld
  simp only [issueBundle, hbreak, hf, hacts, hshadow, hpending, hheld, gt_iff_lt, Nat.lt_irrefl, false_and, Bool.and_false,
    Bool.false_eq_true, if_false]
  exact hslots

/-- Where no sample is due, a boundary is the issue of the bundle (R361). -/
theorem boundary_of_no_sample (h : s.me.sampleDue = false) : boundary s = issueBundle s := by
  unfold boundary
  cases issueBundle s <;> simp [sampled, h]

/-- A tile that issues comes to its next bundle: nothing holds its task back or stops it. -/
theorem runningTurn_of_issues (hi : s.issues) : runningTurn s = issueBundle s := by
  obtain ⟨_, _, _, _, hfreeze, hcore, hrows, hqueues, hempties, hshadow, hstop, hrefill, _, hsample, _, hhalf, _⟩ := hi
  rw [Option.isNone_iff_eq_none] at hstop
  simp only [State.tk] at hempties hshadow hrefill hhalf
  simp only [runningTurn, hfreeze, hcore, hhalf, hrows, hqueues, hempties, hshadow, hstop, hrefill,
    boundary_of_no_sample hsample, gt_iff_lt, Nat.lt_irrefl, Bool.false_eq_true, if_false, if_true]

end

@[simp] theorem releaseBank_cur (a : Accessor) (b : BitVec 11) (free : Bool) (stage : BitVec 4) (s : State) :
    (releaseBank a b free stage s).cur = s.cur := by
  unfold releaseBank
  simp only [State.setBank]
  split <;> rfl

@[simp] theorem State.onTurn_cur (s : State) (t : TileId) : (s.onTurn t).cur = t := by
  refine List.foldlRecOn (motive := fun u : State => u.cur = t) _ _ rfl fun u hu r _ => ?_
  rw [releaseBank_cur, hu]

theorem tileTurn_of_issues {s : State} {t : TileId} (hi : (s.onTurn t).issues) : tileTurn t s = issueBundle (s.onTurn t) := by
  have hruns := runningTurn_of_issues hi
  obtain ⟨hstatus, hlive, hstate, hthrottle, _, _, _, _, _, _, _, _, _, _, hsaving, _⟩ := hi
  have hhalt : haltCheck t (s.onTurn t) = s.onTurn t := by
    have hme : (s.onTurn t).tile t = (s.onTurn t).me := by rw [State.me, State.onTurn_cur]
    refine if_neg ?_
    rw [hme]
    rintro ⟨h | h, _⟩
    · exact hstate h
    · exact absurd (h.symm.trans hsaving) (by decide)
  have hturn : liveTurn (s.onTurn t) = runningTurn (s.onTurn t) := by
    rw [liveTurn, if_neg (by rw [hthrottle]; decide), if_pos hstatus]
  simp only [State.tk] at hlive
  unfold tileTurn
  rw [← State.onTurn]
  simp only [hhalt, hstatus, hlive, hturn, hruns, reduceCtorEq, or_self, Bool.not_true, Bool.false_eq_true, if_false]

/-! ### The step (log 1) -/

theorem step_of_turn {s : State} {u : Turn} {ts : List Turn} (hfocus : s.focus = .idle) (hsched : s.sched = u :: ts) :
    step s = runTurn u { s with sched := ts } := by
  unfold step
  rw [hfocus, hsched]

theorem step_of_tile {s : State} {t : TileId} {ts : List Turn} (hfocus : s.focus = .idle) (hsched : s.sched = .tile t :: ts)
    (hpower : s.poweredOff = false) :
    step s = freedPhase t { s with sched := ts } (tileTurn t { s with sched := ts }) :=
  (step_of_turn hfocus hsched).trans (if_neg (Bool.eq_false_iff.1 hpower))

theorem step_of_event {s : State} {i : Instr} {ts : List Turn} (hfocus : s.focus = .idle) (hsched : s.sched = .event i :: ts)
    (hi : encode true 0 i = none) (hpower : s.poweredOff = false) :
    step s = exec i (inPhase (turnPhase { s with sched := ts } i) { s with sched := ts }) := by
  have hhappens : happens { s with sched := ts } i = true := by
    rw [happens, isEvent, hi, hpower]
    rfl
  exact (step_of_turn hfocus hsched).trans (if_pos hhappens)

end Sys2Proof.Machine

open Sys2Proof Sys2Proof.Machine

/-- Settles O55: words and events by the step's own branches, the sole slot of a bundle by its fetch, its issue and the turn. -/
theorem stepRunsInstruction : Obligations.StepRunsInstruction := by
  refine ⟨fun s p i => ⟨fun hfocus hw => ?parser, fun hfocus hw => ?stage⟩,
    fun s i ts => step_of_event, ?slot, fun s s' x xs => runSlots_cons xs⟩
  case parser =>
    rw [step, hfocus]
    simp only [hw, runWord]
  case stage =>
    rw [step, hfocus]
    simp only [hw, runWord]
  case slot =>
    intro s t ts i e hfocus hsched hpower s1 s0 leaves w x hissues hlo hhi hstop hmap hd hmode htarget he hswp s' hrun
    have hfetch : fetchBundle s0.me = .ok [x] := fetchBundle_sole s0.me hlo hhi hstop hmap hd hmode htarget he hswp
    have outcome (hslot : ∀ c v, s'.sig = .trapped c v → s'.slot = 0) : leaves (soleOutcome x s0 s') := by
      show step s = _
      rw [step_of_tile hfocus hsched hpower, tileTurn_of_issues hissues, issueBundle_sole hissues hfetch hrun hslot]
    have hcur : s0.cur = t := State.onTurn_cur s1 t
    refine ⟨fun hsig => ?_, fun hsig => ?_, fun y hsig => ?_, fun c v hsig hslot => ?_⟩
    · simpa only [soleOutcome, hsig, hcur] using outcome (by simp [hsig])
    · simpa only [soleOutcome, hsig, hcur] using outcome (by simp [hsig])
    · simpa only [soleOutcome, hsig, hcur] using outcome (by simp [hsig])
    · simpa only [soleOutcome, hsig, hcur] using outcome fun _ _ _ => hslot
end

section
/-! Records from a running task: O32. A launch word in order sends its records, and each of their three outcomes has a lemma. -/

namespace Sys2Proof.Machine

/-- The number that a field of a word holds. -/
theorem toNat_field {n : Nat} (x : BitVec n) (lo len : Nat) : (field x lo len).toNat = x.toNat / 2 ^ lo % 2 ^ len := by
  rw [field, BitVec.extractLsb'_toNat, Nat.shiftRight_eq_div_pow]

/-- The arguments of a register as the rule writes them: its low word first (R126). -/
theorem argPair_eq (v : Word) : argPair v = [v.setWidth 32, v.extractLsb' 32 32] := by
  rw [BitVec.setWidth_eq_extractLsb' (by decide)]
  rfl

/-- An index register fails no tag check (R65, R213). -/
theorem tagFault_index {t : BitVec 6} (opnd : Nat) (h : acceptIndex t = true) :
    tagFault [⟨opnd, t, false, acceptIndex t⟩] = none := by
  obtain rfl | rfl : t = tagI32 ∨ t = tagN32 := by simpa [acceptIndex] using h
  · rfl
  · rfl

section
variable (s : State) (q : BitVec 7) (recs : List (BitVec 256)) (spawn : Bool) (d : BitVec 6)

/-- The status of records that have reached their queue (R126, R127). -/
def placedStatus : Word := if spawn then BitVec.ofNat 64 recs.length else 0

/-- The status where the queue is off or has no room (R126, R127). -/
def refusedStatus : Word := if spawn then BitVec.allOnes 64 else 1

theorem enqueueRecords_room (h : qEn (s.queue q).desc = true ∧ recs.length ≤ qFree (s.queue q)) :
    enqueueRecords q recs spawn s =
      (s.modQueue q (qReserve (some (s.cur, s.tk.uid, s.me.accOrd)) recs), placedStatus recs spawn) :=
  if_pos (by simpa using h)

theorem enqueueRecords_noRoom (h : ¬ (qEn (s.queue q).desc = true ∧ recs.length ≤ qFree (s.queue q))) :
    enqueueRecords q recs spawn s = (s, refusedStatus spawn) :=
  if_neg (by simpa using h)

/-- In a branch shadow the records wait for its resolution (R181). -/
theorem sendRecords_shadow (h : 0 < s.tk.shadow) : sendRecords q recs spawn d s =
    s.modTask fun k => { k with held := k.held ++ [.enq q recs spawn d (s.me.ic + 4) s.ordNow] } := if_pos h

/-- Out of a shadow the queue answers at once, and the status lands four cycles on. -/
theorem sendRecords_answered (h : s.tk.shadow = 0) : sendRecords q recs spawn d s =
    emitS 4 d (enqueueRecords q recs spawn s).2 (enqueueRecords q recs spawn s).1 := if_neg (by omega)

/-- The checks of R126 that a launch word passes. -/
theorem checkLaunch_passes {lw : Word} (body : State → SlotRes) (hzero : lw.toNat / 2 ^ 23 % 2 ^ 9 = 0)
    (howner : qOwner (s.queue (lwQueue lw)).desc = s.tk.ctx) : checkLaunch lw body s = body s := by
  have hfield : field lw 23 9 = 0 := BitVec.toNat_inj.mp ((toNat_field lw 23 9).trans hzero)
  rw [checkLaunch, if_neg (not_not_intro hfield), if_neg (not_not_intro howner)]

/-- What the body of `ENQ` and of `SPAWNV` does once its operands are read: the records of a launch word are checked and sent. -/
def launchBody (lw : Word) : State → SlotRes :=
  checkLaunch lw fun s => .ok (sendRecords (lwQueue lw) recs spawn d s)

/-- The three outcomes of a launch word in order: held, placed, refused. -/
theorem launchBody_outcomes {lw : Word} (hzero : lw.toNat / 2 ^ 23 % 2 ^ 9 = 0)
    (howner : qOwner (s.queue (lwQueue lw)).desc = s.tk.ctx) :
    let q := lwQueue lw
    let room : Prop := qEn (s.queue q).desc = true ∧ recs.length ≤ qFree (s.queue q)
    let o := slotOutcome s (launchBody recs spawn d lw s)
    (0 < s.tk.shadow → o = .next { s.modTask (fun k => { k with
      held := k.held ++ [.enq q recs spawn d (s.me.ic + 4) s.ordNow] }) with sig := .done }) ∧
    (s.tk.shadow = 0 → room → o = .next ((s.modQueue q (qReserve (some (s.cur, s.tk.uid, s.me.accOrd)) recs)).after
      (landS 4 d (placedStatus recs spawn)))) ∧
    (s.tk.shadow = 0 → ¬ room → o = .next (s.after (landS 4 d (refusedStatus spawn)))) := by
  intro q room o
  have hsent : o = slotDone (sendRecords q recs spawn d s) := by
    simp only [o, launchBody, checkLaunch_passes s _ hzero howner, slotOutcome_ok, q]
  rw [hsent]
  refine ⟨fun hshadow => ?_, fun hshadow hroom => ?_, fun hshadow hroom => ?_⟩
  · rw [sendRecords_shadow s q recs spawn d hshadow, slotDone]
  · rw [sendRecords_answered s q recs spawn d hshadow, enqueueRecords_room s q recs spawn hroom, slotDone_emitS]
  · rw [sendRecords_answered s q recs spawn d hshadow, enqueueRecords_noRoom s q recs spawn hroom, slotDone_emitS]

end

section
variable {s : State} {d a b : BitVec 6}

/-- A ready `ENQ` sends the one record of its launch word, with six words of arguments. -/
theorem exec_enq_ready (h : s.ready [d, a, b, b + 1, b + 2] = true) :
    let lw := readS s.tk a
    exec (.enq d a b) s = slotOutcome s (launchBody [mkRecord (lwTmpl lw) (lwQueue lw) s.tk.ctx (lwBase lw)
      ([readS s.tk b, readS s.tk (b + 1), readS s.tk (b + 2)].flatMap fun v => [v.setWidth 32, v.extractLsb' 32 32])]
      false d lw s) := by
  rw [exec_enq, execEnq, runSlot_ready _ h]
  simp only [argPair_eq]
  rfl

/-- A ready `SPAWNV` of an index register sends the records of its lanes. -/
theorem exec_spawnv_ready (h : s.readyFor [.vector] [d, b, b + 1] = true)
    (htag : acceptIndex (readV s.tk a).tag = true) :
    exec (.spawnv d a b) s = slotOutcome s (launchBody
      (spawnRecords s.tk.ctx (readS s.tk b) (readS s.tk (b + 1)) (readV s.tk a)) true d (readS s.tk b) s) := by
  rw [exec_spawnv, execSpawnv, runClaiming_ready _ h, checkTags_ok _ (tagFault_index 0 htag)]
  rfl

end

end Sys2Proof.Machine

open Sys2Proof Sys2Proof.Machine

/-- Settles O32: both forms have the outcomes of a launch word in order, each with its own records. -/
theorem recordResults : Obligations.RecordResults := by
  intro s d a b placed
  refine ⟨fun hready => ?enq, fun hready htag => ?spawnv⟩
  case enq =>
    intro lw hzero howner
    rw [exec_enq_ready hready]
    exact launchBody_outcomes s _ false d hzero howner
  case spawnv =>
    intro lw arg recs hzero howner
    have hrecs : spawnRecords s.tk.ctx lw arg (readV s.tk a) = recs := by
      simp only [spawnRecords, argPair_eq]
      rfl
    rw [exec_spawnv_ready hready htag, hrecs]
    exact launchBody_outcomes s recs true d hzero howner
end

section
/-! Fences and bank release: O34. What the fence's test says of the tile's accesses, and the outcomes of a release. -/

namespace Sys2Proof.Machine

/-- What a fence waits for: the accesses of both queues that are no markers, the side log, and for the wide scopes the completions
of the host link (R305, R308). -/
theorem performedBefore_iff (x : Tile) (n : Nat) (sc : Scope) : performedBefore x n sc = true ↔
    (∀ e ∈ x.task.loadQ, e.op ≠ .mark → n ≤ e.ord) ∧ (∀ e ∈ x.storeQ, e.op ≠ .mark → n ≤ e.ord) ∧ x.sideLog = [] ∧
      (sc = .sys ∨ sc = .fab → ∀ w ∈ x.hostPend, n ≤ w.e.ord) := by
  have hscope : hostScope sc = true ↔ sc = .sys ∨ sc = .fab := by cases sc <;> decide
  have hqueue (l : List QEntry) : (l.all fun e => !isAccess e || decide (e.ord ≥ n)) = true ↔
      ∀ e ∈ l, e.op ≠ .mark → n ≤ e.ord := by
    simp only [isAccess, List.all_eq_true, Bool.or_eq_true, Bool.not_eq_true', bne_eq_false_iff_eq, decide_eq_true_eq, ge_iff_le,
      Decidable.or_iff_not_imp_left, ne_eq]
  have hhost : (!hostScope sc || x.hostPend.all fun w => decide (w.e.ord ≥ n)) = true ↔
      (sc = .sys ∨ sc = .fab → ∀ w ∈ x.hostPend, n ≤ w.e.ord) := by
    simp only [← hscope, List.all_eq_true, Bool.or_eq_true, Bool.not_eq_true', decide_eq_true_eq, ge_iff_le,
      Decidable.or_iff_not_imp_left, Bool.not_eq_false]
  simp only [performedBefore, Bool.and_eq_true, hqueue, hhost, List.isEmpty_iff, and_assoc]

section
variable {s : State} (h : s.ready [] = true)
include h

theorem exec_fence_performed {sc : Scope} (hp : performedBefore s.me s.me.accOrd sc = true) :
    exec (.fence sc) s = .next { s with sig := .done } := by
  rw [exec_fence, execFence, runSlot_ready _ h, if_pos hp, slotOutcome_ok, slotDone]

theorem exec_fence_waits {sc : Scope} (hp : ¬ performedBefore s.me s.me.accOrd sc = true) :
    exec (.fence sc) s = slotFreeze .fence s := by
  rw [exec_fence, execFence, runSlot_ready _ h, if_neg hp, slotOutcome_freeze]

end

section
variable (s : State) (reg stg : BitVec 4) (free : Bool)

/-- An enabled region's banks are marked, or the release waits for the branch (R145, R181). -/
theorem relbBody_on (hen : regEn (s.tk.regions[reg.toNat]'reg.isLt) = true) :
    let e := s.tk.regions[reg.toNat]'reg.isLt
    relbBody reg stg free s = .ok (s.modTask fun k =>
      if s.tk.shadow = 0 then { k with
        releases := k.releases ++ (List.range (regCount e + 1)).map fun i => (regBank e + BitVec.ofNat 11 i, free, stg) }
      else { k with held := k.held ++ [.relb reg stg free] }) := by
  by_cases hshadow : s.tk.shadow = 0
  · simp [relbBody, hen, hshadow, releaseBanks]
  · simp [relbBody, hen, hshadow, Nat.pos_of_ne_zero hshadow]

theorem relbBody_off (hen : regEn (s.tk.regions[reg.toNat]'reg.isLt) = false) :
    relbBody reg stg free s = .trap .regionOff 0 := if_pos (by simp [hen])

end

end Sys2Proof.Machine

open Sys2Proof Sys2Proof.Machine

/-- Settles O34: the fence by its test, both forms of release by the body that they share. -/
theorem fenceAndReleaseResults : Obligations.FenceAndReleaseResults := by
  intro s sc reg stg hready before
  have hbefore : performedBefore s.me s.me.accOrd sc = true ↔ before := performedBefore_iff s.me s.me.accOrd sc
  have hrelb : exec (.relb reg stg) s = slotOutcome s (relbBody reg stg false s) := runSlot_ready _ hready
  have hfree : exec (.relbFree reg) s = slotOutcome s (relbBody reg 0 true s) := runSlot_ready _ hready
  refine ⟨fun hb => exec_fence_performed hready (hbefore.mpr hb),
    fun hb => exec_fence_waits hready (mt hbefore.mp hb), fun hen => ?enabled, fun hen => ?off⟩
  case enabled =>
    rw [hrelb, hfree, relbBody_on s reg stg false hen, relbBody_on s reg 0 true hen]
    exact ⟨rfl, rfl⟩
  case off =>
    rw [hrelb, hfree, relbBody_off s reg stg false hen, relbBody_off s reg 0 true hen]
    exact ⟨rfl, rfl⟩
end

section
/-! Landing: O59. What one exposed write does to each file of registers, then what the writes of an issue cycle leave. -/

namespace Sys2Proof.Machine

/-! ### What an exposed write tells of a register (R177) -/

/-- What a write leaves in S[r]; none for a write of anything else. -/
def sregWrite (r : BitVec 6) : LandVal → Option Word
  | .sreg q v => if q = r then some v else none
  | _ => none

def aregWrite (r : BitVec 5) : LandVal → Option Word
  | .areg q v => if q = r then some v else none
  | _ => none

def pregWrite (r : BitVec 3) : LandVal → Option Bool
  | .preg q v => if q = r then some v else none
  | _ => none

def lcregWrite (r : BitVec 2) : LandVal → Option (BitVec 32)
  | .lcreg q v => if q = r then some v else none
  | _ => none

def spillWrite (i : BitVec 10) : LandVal → Option Word
  | .spill q v => if q = i then some v else none
  | _ => none

/-- What a write leaves in physical register r; a row commits to what the register held before the cycle (R250). -/
def vregWrite (pre : Task) (r : BitVec 6) : LandVal → Option VReg
  | .vreg q v => if q = r then some v else none
  | .row q mac wlo whi adds => if q = r then some (rowCommit mac wlo whi adds (physReadV pre r)).1 else none
  | _ => none

/-- What an `SWR` leaves in YFFLAGS (R208). -/
def fflagsWrite : LandVal → Option Word
  | .yreg y v => if y = 0x000 then some (v &&& 0x11F) else none
  | _ => none

/-- What an `SWR` leaves in YMOVF (R208). -/
def movfWrite : LandVal → Option Word
  | .yreg y v => if y = 0x001 then some v else none
  | _ => none

/-- Whether a write raises flag j (R44). -/
def raisesFlag (j : Nat) : LandVal → Bool
  | .flags f => f.getLsbD j
  | _ => false

/-- Whether a write is the commit of row j with an overflow (R57). -/
def overflowsRow (pre : Task) (j : Nat) : LandVal → Bool
  | .row r mac wlo whi adds => r.toNat == j && (rowCommit mac wlo whi adds (physReadV pre r)).2
  | _ => false

/-! ### One write -/

/-- An `SWR` changes Y-registers alone (R208, R345). -/
theorem writeY_frame (k : Task) (n : BitVec 12) (v : Word) : writeY k n v = { k with
    fflags := (writeY k n v).fflags, movf := (writeY k n v).movf, cmdseq := (writeY k n v).cmdseq
    ycause := (writeY k n v).ycause, yepc := (writeY k n v).yepc, ytval := (writeY k n v).ytval
    yms := (writeY k n v).yms } := by
  unfold writeY
  repeat' split
  all_goals rfl

theorem writeY_fflags (k : Task) (n : BitVec 12) (v : Word) :
    (writeY k n v).fflags = if n = 0x000 then v &&& 0x11F else k.fflags := by
  unfold writeY
  repeat' split
  all_goals rfl

theorem writeY_movf (k : Task) (n : BitVec 12) (v : Word) :
    (writeY k n v).movf = if n = 0x001 then v else k.movf := by
  by_cases h : n = 0x001
  · subst h; rfl
  · simp only [writeY, h, if_false]
    repeat' split
    all_goals rfl

section
variable (pre k : Task) (l : Landing)

/-- Which files of registers one landing writes, and what it leaves of the task besides. -/
theorem applyLanding_fields :
    let t := applyLanding pre k l
    (t.s = match l.val with | .sreg r v => (writeS k r v).s | _ => k.s) ∧
    (t.a = match l.val with | .areg r v => k.a.set r.toNat v r.isLt | _ => k.a) ∧
    (t.p = match l.val with
      | .preg r v => if r = 0 ∨ (r.toNat ≥ 4 ∧ swpActive k = true) then k.p else k.p.set r.toNat v r.isLt
      | _ => k.p) ∧
    (t.lc = match l.val with | .lcreg r v => k.lc.set r.toNat v r.isLt | _ => k.lc) ∧
    (t.v = match l.val with
      | .vreg r v => k.v.set r.toNat v r.isLt
      | .row r mac wlo whi adds => k.v.set r.toNat (rowCommit mac wlo whi adds (physReadV pre r)).1 r.isLt
      | _ => k.v) ∧
    (t.spill = match l.val with | .spill i v => smSet 0 k.spill i.toNat v | _ => k.spill) ∧
    (t.fflags = match l.val with | .yreg n v => (writeY k n v).fflags | _ => k.fflags) ∧
    (t.movf = match l.val with
      | .yreg n v => (writeY k n v).movf
      | .row r mac wlo whi adds =>
        if (rowCommit mac wlo whi adds (physReadV pre r)).2 then k.movf ||| (1 <<< r.toNat) else k.movf
      | _ => k.movf) ∧
    t.pend = k.pend ∧ t.loops = k.loops ∧ t.held = k.held ∧ t.pc = k.pc := by
  unfold applyLanding
  cases l.val
  case yreg n v =>
    dsimp only
    rw [writeY_frame]
    and_intros <;> rfl
  case sreg r v => dsimp only [writeS]; split <;> and_intros <;> rfl
  case preg r v => dsimp only; split <;> and_intros <;> rfl
  case xpush r v => dsimp only; split <;> and_intros <;> rfl
  all_goals and_intros <;> rfl

@[simp] theorem applyLanding_pend : (applyLanding pre k l).pend = k.pend := by
  obtain ⟨-, -, -, -, -, -, -, -, hpend, -⟩ := applyLanding_fields pre k l
  exact hpend

@[simp] theorem swpActive_applyLanding : swpActive (applyLanding pre k l) = swpActive k := by
  obtain ⟨-, -, -, -, -, -, -, -, -, hloops, -⟩ := applyLanding_fields pre k l
  simp only [swpActive, hloops]

@[simp] theorem applyLanding_held : (applyLanding pre k l).held = k.held := by
  obtain ⟨-, -, -, -, -, -, -, -, -, -, hheld, -⟩ := applyLanding_fields pre k l
  exact hheld

@[simp] theorem applyLanding_pc : (applyLanding pre k l).pc = k.pc := by
  obtain ⟨-, -, -, -, -, -, -, -, -, -, -, hpc⟩ := applyLanding_fields pre k l
  exact hpc

/-- A file of registers in which one is set, read. -/
theorem getElem_set_getD {α : Type} {n w : Nat} (xs : Vector α n) (q r : BitVec w) (v : α) (hq : q.toNat < n)
    (hr : r.toNat < n) : (xs.set q.toNat v hq)[r.toNat] = (if q = r then some v else none).getD xs[r.toNat] := by
  simp only [Vector.getElem_set, BitVec.toNat_inj]
  split <;> rfl

theorem readS_applyLanding {r : BitVec 6} (hr : r ≠ 0) :
    readS (applyLanding pre k l) r = (sregWrite r l.val).getD (readS k r) := by
  obtain ⟨hs, -⟩ := applyLanding_fields pre k l
  generalize l.val = v at hs ⊢
  simp only [readS, hr, if_false]
  cases v
  case sreg q v =>
    by_cases hq : q = 0
    · have hqr : q ≠ r := fun e => hr (e ▸ hq)
      simp only [hs, writeS, if_pos hq, sregWrite, if_neg hqr, Option.getD_none]
    · simp only [hs, writeS, hq, if_false, sregWrite]
      exact getElem_set_getD ..
  all_goals simp only [hs]; rfl

theorem readA_applyLanding (r : BitVec 5) :
    readA (applyLanding pre k l) r = (aregWrite r l.val).getD (readA k r) := by
  obtain ⟨-, ha, -⟩ := applyLanding_fields pre k l
  generalize l.val = v at ha ⊢
  cases v
  case areg q v =>
    simp only [readA, ha]
    exact getElem_set_getD ..
  all_goals simp only [readA, ha]; rfl

/-- P4 to P7 take no write while a `LOOP.SWP` is active (R179). -/
theorem readP_applyLanding_held {r : BitVec 3} (hr : r ≠ 0) (hswp : r.toNat ≥ 4 ∧ swpActive k = true) :
    readP (applyLanding pre k l) r = readP k r := by
  obtain ⟨-, -, hp, -⟩ := applyLanding_fields pre k l
  generalize l.val = v at hp
  simp only [readP, hr, if_false]
  cases v
  case preg q v =>
    by_cases h : q = 0 ∨ (q.toNat ≥ 4 ∧ swpActive k = true)
    · simp only [hp, h, if_true]
    · have hqr : q.toNat ≠ r.toNat := fun e => h (.inr (e ▸ hswp))
      simp only [hp, h, if_false]
      exact Vector.getElem_set_ne _ _ hqr
  all_goals simp only [hp]

theorem readP_applyLanding {r : BitVec 3} (hr : r ≠ 0) (hswp : ¬ (r.toNat ≥ 4 ∧ swpActive k = true)) :
    readP (applyLanding pre k l) r = (pregWrite r l.val).getD (readP k r) := by
  obtain ⟨-, -, hp, -⟩ := applyLanding_fields pre k l
  generalize l.val = v at hp ⊢
  simp only [readP, hr, if_false]
  cases v
  case preg q v =>
    by_cases h : q = 0 ∨ (q.toNat ≥ 4 ∧ swpActive k = true)
    · have hqr : q ≠ r := by
        rintro rfl
        exact h.elim hr hswp
      simp only [hp, h, if_true, pregWrite, if_neg hqr, Option.getD_none]
    · simp only [hp, h, if_false]
      exact getElem_set_getD ..
  all_goals simp only [hp]; rfl

theorem readLC_applyLanding (r : BitVec 2) :
    readLC (applyLanding pre k l) r = (lcregWrite r l.val).getD (readLC k r) := by
  obtain ⟨-, -, -, hlc, -⟩ := applyLanding_fields pre k l
  generalize l.val = v at hlc ⊢
  cases v
  case lcreg q v =>
    simp only [readLC, hlc]
    exact getElem_set_getD ..
  all_goals simp only [readLC, hlc]; rfl

theorem physReadV_applyLanding (r : BitVec 6) :
    physReadV (applyLanding pre k l) r = (vregWrite pre r l.val).getD (physReadV k r) := by
  obtain ⟨-, -, -, -, hv, -⟩ := applyLanding_fields pre k l
  generalize l.val = v at hv ⊢
  cases v
  case vreg q v =>
    simp only [physReadV, hv]
    exact getElem_set_getD ..
  case row q mac wlo whi adds =>
    have hread : physReadV (applyLanding pre k l) r =
        (if q = r then some (rowCommit mac wlo whi adds (physReadV pre q)).1 else none).getD (physReadV k r) := by
      rw [physReadV, hv]
      exact getElem_set_getD ..
    rw [hread, vregWrite]
    by_cases h : q = r
    · rw [h]
    · rw [if_neg h, if_neg h]
  all_goals simp only [physReadV, hv]; rfl

theorem smWf_applyLanding (hw : smWf 0 0 k.spill = true) : smWf 0 0 (applyLanding pre k l).spill = true := by
  obtain ⟨-, -, -, -, -, hspill, -⟩ := applyLanding_fields pre k l
  rw [hspill]
  cases l.val
  case spill i v => exact smSet_wf 0 k.spill 0 i.toNat v (Nat.zero_le _) hw
  all_goals exact hw

theorem readSpill_applyLanding (i : BitVec 10) (hw : smWf 0 0 k.spill = true) :
    readSpill (applyLanding pre k l) i = (spillWrite i l.val).getD (readSpill k i) := by
  obtain ⟨-, -, -, -, -, hspill, -⟩ := applyLanding_fields pre k l
  simp only [readSpill, hspill]
  cases l.val
  case spill q v =>
    by_cases hq : q = i
    · simp only [hq, spillWrite, if_true, Option.getD_some, smGet_smSet_same 0 k.spill 0 _ v hw]
    · have hi : i.toNat ≠ q.toNat := fun e => hq (BitVec.eq_of_toNat_eq e.symm)
      simp only [hq, spillWrite, if_false, Option.getD_none, smGet_smSet_other 0 k.spill 0 _ _ v hi hw]
  all_goals rfl

theorem fflags_applyLanding : (applyLanding pre k l).fflags = (fflagsWrite l.val).getD k.fflags := by
  obtain ⟨-, -, -, -, -, -, hfflags, -⟩ := applyLanding_fields pre k l
  rw [hfflags]
  cases l.val
  case yreg n v =>
    simp only [writeY_fflags, fflagsWrite]
    split <;> rfl
  all_goals rfl

/-- The YMOVF bits that a write sets as a row commit (R250). -/
def overflowBits (pre : Task) : LandVal → Word
  | .row r mac wlo whi adds => if (rowCommit mac wlo whi adds (physReadV pre r)).2 then ((1 <<< r.toNat : Nat) : Word) else 0
  | _ => 0

theorem movf_applyLanding :
    (applyLanding pre k l).movf = (movfWrite l.val).getD k.movf ||| overflowBits pre l.val := by
  obtain ⟨-, -, -, -, -, -, -, hmovf, -⟩ := applyLanding_fields pre k l
  rw [hmovf]
  cases l.val
  case yreg n v =>
    simp only [writeY_movf, movfWrite, overflowBits]
    split <;> exact BitVec.or_zero.symm
  case row r mac wlo whi adds =>
    simp only [movfWrite, overflowBits, Option.getD_none]
    split <;> simp
  all_goals exact BitVec.or_zero.symm

end

/-! ### The writes of one issue cycle, one after another (R177) -/

/-- Lists of writes grow at their end, where the last one lands. -/
theorem landings_induction {motive : List Landing → Prop} (nil : motive [])
    (concat : ∀ ls l, motive ls → motive (ls ++ [l])) (ls : List Landing) : motive ls := by
  rw [← ls.reverse_reverse]
  induction ls.reverse with
  | nil => exact nil
  | cons l ls ih =>
    rw [List.reverse_cons]
    exact concat _ l ih

/-- The last of a list of writes of which f tells something. -/
def lastOf {α : Type} (f : LandVal → Option α) (ls : List Landing) : Option α := ls.reverse.findSome? fun l => f l.val

theorem lastOf_concat {α : Type} (f : LandVal → Option α) (ls : List Landing) (l : Landing) :
    lastOf f (ls ++ [l]) = (f l.val).or (lastOf f ls) := by
  simp only [lastOf, List.reverse_append, List.reverse_cons, List.reverse_nil, List.nil_append, List.cons_append,
    List.findSome?_cons]
  cases f l.val <;> rfl

theorem lastOf_none {α : Type} (ls : List Landing) : lastOf (fun _ => (none : Option α)) ls = none := by simp [lastOf]

/-- What each write leaves of a register, the last one leaves after them all. -/
theorem foldl_applyLanding {α : Type} {read : Task → α} {f : LandVal → Option α} {keeps : Task → Prop} {pre : Task}
    (hkeeps : ∀ k l, keeps k → keeps (applyLanding pre k l))
    (hread : ∀ k l, keeps k → read (applyLanding pre k l) = (f l.val).getD (read k)) (ls : List Landing) (k : Task)
    (hk : keeps k) :
    keeps (ls.foldl (applyLanding pre) k) ∧
      read (ls.foldl (applyLanding pre) k) = (lastOf f ls).getD (read k) := by
  induction ls using landings_induction with
  | nil => exact ⟨hk, rfl⟩
  | concat ls l ih =>
    obtain ⟨hkept, hlast⟩ := ih
    rw [List.foldl_append, List.foldl_cons, List.foldl_nil, lastOf_concat]
    refine ⟨hkeeps _ l hkept, ?_⟩
    rw [hread _ l hkept, hlast]
    cases f l.val <;> rfl

/-- What a landing leaves of a register under no condition, the last of a list leaves. -/
theorem foldl_applyLanding_always {α : Type} {read : Task → α} {f : LandVal → Option α} {pre : Task}
    (hread : ∀ k l, read (applyLanding pre k l) = (f l.val).getD (read k)) (ls : List Landing) (k : Task) :
    read (ls.foldl (applyLanding pre) k) = (lastOf f ls).getD (read k) :=
  (foldl_applyLanding (keeps := fun _ => True) (fun _ _ _ => trivial) (fun k l _ => hread k l) ls k trivial).2

theorem pend_foldl_applyLanding (pre k : Task) (ls : List Landing) :
    (ls.foldl (applyLanding pre) k).pend = k.pend :=
  List.foldlRecOn (motive := fun t : Task => t.pend = k.pend) ls _ rfl fun t ht l _ => by rw [applyLanding_pend, ht]

section
variable (pre : Task) (ls : List Landing) (l : Landing) (j : Nat)

/-- The flags that a write raises (R44). -/
def raisedFlags : LandVal → Word
  | .flags f => f
  | _ => 0

theorem flagsOf_concat : flagsOf (ls ++ [l]) = flagsOf ls ||| raisedFlags l.val := by
  rw [flagsOf, List.foldl_append, List.foldl_cons, List.foldl_nil, ← flagsOf]
  cases l.val
  case flags f => rfl
  all_goals exact BitVec.or_zero.symm

theorem movfOf_concat : movfOf pre (ls ++ [l]) = movfOf pre ls ||| overflowBits pre l.val := by
  rw [movfOf, List.foldl_append, List.foldl_cons, List.foldl_nil, ← movfOf]
  cases l.val
  case row r mac wlo whi adds =>
    simp only [overflowBits]
    split
    · rfl
    · exact BitVec.or_zero.symm
  all_goals exact BitVec.or_zero.symm

theorem getLsbD_overflowBits (v : LandVal) : (overflowBits pre v).getLsbD j = overflowsRow pre j v := by
  cases v
  case row r mac wlo whi adds =>
    have hr := r.isLt
    have hbit : ((1 <<< r.toNat : Nat) : Word).getLsbD j = (r.toNat == j) := by
      rw [Bool.eq_iff_iff]
      simp only [BitVec.natCast_eq_ofNat, BitVec.getLsbD_ofNat, Nat.one_shiftLeft, Nat.testBit_two_pow, Bool.and_eq_true,
        decide_eq_true_eq, beq_iff_eq]
      omega
    simp only [overflowBits, overflowsRow]
    split
    · next h => rw [hbit, h, Bool.and_true]
    · next h => rw [Bool.eq_false_iff.2 h, Bool.and_false]; exact BitVec.getLsbD_zero
  all_goals exact BitVec.getLsbD_zero

theorem getLsbD_flagsOf : (flagsOf ls).getLsbD j = ls.any fun l => raisesFlag j l.val := by
  induction ls using landings_induction with
  | nil => exact BitVec.getLsbD_zero
  | concat ls l ih =>
    have hl : (raisedFlags l.val).getLsbD j = raisesFlag j l.val := by
      cases l.val
      case flags f => rfl
      all_goals exact BitVec.getLsbD_zero
    simp only [flagsOf_concat, BitVec.getLsbD_or, ih, hl, List.any_append, List.any_cons, List.any_nil, Bool.or_false]

theorem getLsbD_movfOf : (movfOf pre ls).getLsbD j = ls.any fun l => overflowsRow pre j l.val := by
  induction ls using landings_induction with
  | nil => exact BitVec.getLsbD_zero
  | concat ls l ih =>
    simp only [movfOf_concat, BitVec.getLsbD_or, ih, getLsbD_overflowBits, List.any_append, List.any_cons, List.any_nil,
      Bool.or_false]

/-- The overflows of a cycle's rows stand over what its last `SWR` of YMOVF wrote, before them or after (R44, R57). -/
theorem movf_foldl_applyLanding (k : Task) :
    (ls.foldl (applyLanding pre) k).movf ||| movfOf pre ls = (lastOf movfWrite ls).getD k.movf ||| movfOf pre ls := by
  induction ls using landings_induction with
  | nil => rfl
  | concat ls l ih =>
    rw [List.foldl_append, List.foldl_cons, List.foldl_nil, lastOf_concat, movfOf_concat, movf_applyLanding]
    cases movfWrite l.val with
    | some v =>
      simp only [Option.getD_some, Option.some_or]
      ext i
      simp only [BitVec.getElem_or]
      cases (overflowBits pre l.val)[i] <;> simp
    | none =>
      simp only [Option.getD_none, Option.none_or, ← BitVec.or_assoc, ← ih]
      ext i
      simp only [BitVec.getElem_or]
      cases (overflowBits pre l.val)[i] <;> simp

end

/-! ### Landing -/

section
variable (k : Task) (c : Nat)

/-- The writes that are due in issue cycle c, in the order of their landing. -/
def Task.due : List Landing := k.pend.filter fun l => l.at_ == c

/-- The task without them. -/
def Task.undue : Task := { k with pend := k.pend.filter fun l => l.at_ != c }

/-- The task once they have landed, one after another, but for what is ORed onto them. -/
def Task.landed : Task := (k.due c).foldl (applyLanding k) (k.undue c)

theorem Task.lastDue_eq {α : Type} (f : LandVal → Option α) : k.lastDue c f = lastOf f (k.due c) := rfl

theorem Task.anyDue_eq (f : LandVal → Bool) : k.anyDue c f = (k.due c).any fun l => f l.val :=
  List.any_filter.symm

theorem landCycle_eq : landCycle c k = { k.landed c with
    fflags := (k.landed c).fflags ||| flagsOf (k.due c)
    movf := (k.landed c).movf ||| movfOf k (k.due c)
    pend := if (k.due c).any landsXclear then (k.landed c).pend.filter fun l => !isXpush l else (k.landed c).pend
    lwb := if (k.due c).any landsXclear then (k.landed c).lwb.filter fun l => !isXpush l else (k.landed c).lwb } := rfl

theorem readS_landCycle {r : BitVec 6} (hr : r ≠ 0) :
    readS (landCycle c k) r = (k.lastDue c (sregWrite r)).getD (readS k r) :=
  foldl_applyLanding_always (read := fun t => readS t r) (fun t l => readS_applyLanding k t l hr) (k.due c) (k.undue c)

theorem readA_landCycle (r : BitVec 5) : readA (landCycle c k) r = (k.lastDue c (aregWrite r)).getD (readA k r) :=
  foldl_applyLanding_always (read := fun t => readA t r) (fun t l => readA_applyLanding k t l r) (k.due c) (k.undue c)

theorem readP_landCycle {r : BitVec 3} (hr : r ≠ 0) : readP (landCycle c k) r =
    if r.toNat ≥ 4 ∧ swpActive k = true then readP k r else (k.lastDue c (pregWrite r)).getD (readP k r) := by
  split
  next hswp =>
    exact (foldl_applyLanding (read := fun t => readP t r) (f := fun _ => none)
      
      (keeps := fun t => r.toNat ≥ 4 ∧ swpActive t = true) (fun t l h => by rwa [swpActive_applyLanding])
      (fun t l h => readP_applyLanding_held k t l hr h) (k.due c) (k.undue c) hswp).2.trans (by rw [lastOf_none]; rfl)
  next hswp =>
    exact (foldl_applyLanding (read := fun t => readP t r) (keeps := fun t => ¬ (r.toNat ≥ 4 ∧ swpActive t = true))
      (fun t l h => by rwa [swpActive_applyLanding]) (fun t l h => readP_applyLanding k t l hr h) (k.due c) (k.undue c) hswp).2

theorem readLC_landCycle (r : BitVec 2) :
    readLC (landCycle c k) r = (k.lastDue c (lcregWrite r)).getD (readLC k r) :=
  foldl_applyLanding_always (read := fun t => readLC t r) (fun t l => readLC_applyLanding k t l r) (k.due c) (k.undue c)

theorem physReadV_landCycle (r : BitVec 6) :
    physReadV (landCycle c k) r = (k.lastDue c (vregWrite k r)).getD (physReadV k r) :=
  foldl_applyLanding_always (read := fun t => physReadV t r) (fun t l => physReadV_applyLanding k t l r) (k.due c) (k.undue c)

theorem readSpill_landCycle (i : BitVec 10) (hw : smWf 0 0 k.spill = true) :
    readSpill (landCycle c k) i = (k.lastDue c (spillWrite i)).getD (readSpill k i) :=
  (foldl_applyLanding (read := fun t => readSpill t i) (keeps := fun t => smWf 0 0 t.spill = true)
    (fun t l => smWf_applyLanding k t l) (fun t l h => readSpill_applyLanding k t l i h) (k.due c) (k.undue c) hw).2

theorem fflags_landCycle (j : Nat) : (landCycle c k).fflags.getLsbD j =
    (((k.lastDue c fflagsWrite).getD k.fflags).getLsbD j || k.anyDue c (raisesFlag j)) := by
  have hlast : (k.landed c).fflags = (k.lastDue c fflagsWrite).getD k.fflags :=
    foldl_applyLanding_always (fun t l => fflags_applyLanding k t l) (k.due c) (k.undue c)
  rw [landCycle_eq, BitVec.getLsbD_or, hlast, getLsbD_flagsOf, k.anyDue_eq]

theorem movf_landCycle (j : Nat) : (landCycle c k).movf.getLsbD j =
    (((k.lastDue c movfWrite).getD k.movf).getLsbD j || k.anyDue c (overflowsRow k j)) := by
  have hlast : (landCycle c k).movf = (k.lastDue c movfWrite).getD k.movf ||| movfOf k (k.due c) :=
    movf_foldl_applyLanding k (k.due c) (k.undue c)
  rw [hlast, BitVec.getLsbD_or, getLsbD_movfOf, k.anyDue_eq]

/-- What stays in flight was so before and is due in another cycle. -/
theorem mem_pend_landCycle {l : Landing} (h : l ∈ (landCycle c k).pend) : l.at_ ≠ c ∧ l ∈ k.pend := by
  have hpend : (k.landed c).pend = k.pend.filter fun l => l.at_ != c := pend_foldl_applyLanding k (k.undue c) (k.due c)
  have hl : l ∈ k.pend.filter fun l => l.at_ != c := by
    rw [landCycle_eq, hpend] at h
    dsimp only at h
    split at h
    · exact (List.mem_filter.1 h).1
    · exact h
  simpa [and_comm] using hl

end

/-! ### The place of a new write (R177) -/

theorem insertLanding_split (l : Landing) (ls : List Landing) : ∃ before after, ls = before ++ after ∧
    insertLanding l ls = before ++ l :: after ∧ (∀ x ∈ before, x.ord ≤ l.ord) ∧ ∀ x ∈ after.head?, l.ord < x.ord := by
  induction ls with
  | nil => exact ⟨[], [], rfl, rfl, by simp, by simp⟩
  | cons x xs ih =>
    unfold insertLanding
    split
    next h => exact ⟨[], x :: xs, rfl, rfl, by simp, by simpa using h⟩
    next h =>
      obtain ⟨before, after, hls, hins, hbefore, hafter⟩ := ih
      exact ⟨x :: before, after, by rw [hls]; rfl, by rw [hins]; rfl, by simpa using ⟨by omega, hbefore⟩, hafter⟩

theorem insertLanding_sorted (l : Landing) (ls : List Landing) (h : ls.Pairwise fun x y => x.ord ≤ y.ord) :
    (insertLanding l ls).Pairwise fun x y => x.ord ≤ y.ord := by
  obtain ⟨before, after, rfl, hins, hbefore, hhead⟩ := insertLanding_split l ls
  obtain ⟨hb, ha, hba⟩ := List.pairwise_append.1 h
  have hafter : ∀ y ∈ after, l.ord ≤ y.ord := by
    cases after with
    | nil => simp
    | cons x xs =>
      have hx : l.ord < x.ord := hhead x rfl
      have hxs := (List.pairwise_cons.1 ha).1
      rintro y (_ | ⟨_, hy⟩)
      · omega
      · have := hxs y hy
        omega
  rw [hins]
  refine List.pairwise_append.2 ⟨hb, List.pairwise_cons.2 ⟨hafter, ha⟩, fun x hx y hy => ?_⟩
  rcases List.mem_cons.1 hy with rfl | hy
  · exact hbefore x hx
  · exact hba x hx y hy

end Sys2Proof.Machine

open Sys2Proof Sys2Proof.Machine

/-- Settles O59: each file of registers by its own rule, the place of a write by insertion. -/
theorem landingOrder : Obligations.LandingOrder := by
  refine ⟨fun k c r hr => readS_landCycle k c hr, fun k c r => readA_landCycle k c r, fun k c r hr => readP_landCycle k c hr,
    fun k c r => readLC_landCycle k c r, fun k c r => physReadV_landCycle k c r,
    fun k c i hw => readSpill_landCycle k c i hw, fun k c j => ⟨fflags_landCycle k c j, movf_landCycle k c j⟩,
    fun k c => ⟨rfl, rfl, fun l => mem_pend_landCycle k c⟩, fun l ls h => ⟨insertLanding_sorted l ls h, ?place⟩⟩
  case place =>
    obtain ⟨before, after, hls, hins, hbefore, _⟩ := insertLanding_split l ls
    exact ⟨before, after, hls, hins, hbefore⟩
end

section
/-! Giving up the tile: O28. What an issue cycle, an empty one and the effects held in a shadow leave of the acting task; then
the empty cycles in which an `END` lets its writes land. -/

namespace Sys2Proof.Machine

/-! ### What a cycle leaves in its place -/

section
variable (c : Nat) (k : Task) (period : Option Nat) (x : Tile)

@[simp] theorem landCycle_pc : (landCycle c k).pc = k.pc :=
  List.foldlRecOn (motive := fun t : Task => t.pc = k.pc) (k.due c) _ rfl fun t ht l _ => by rw [applyLanding_pc, ht]

@[simp] theorem landCycle_held : (landCycle c k).held = k.held :=
  List.foldlRecOn (motive := fun t : Task => t.held = k.held) (k.due c) _ rfl fun t ht l _ => by
    rw [applyLanding_held, ht]

@[simp] theorem endPeriod_task : (endPeriod period x).task = x.task := by
  unfold endPeriod
  repeat' split
  all_goals rfl

@[simp] theorem endPeriod_ic : (endPeriod period x).ic = x.ic := by
  unfold endPeriod
  repeat' split
  all_goals rfl

/-- Counting for the loops changes the loops alone (R358). -/
theorem countLoops_frame (n : Nat) : countLoops n k = { k with loops := (countLoops n k).loops } := by
  unfold countLoops
  split <;> rfl

end

section
variable (s : State)

theorem State.modTile_me (f : Tile → Tile) : (s.modTile s.cur f).me = f s.me := State.modTile_tile_same s s.cur f

theorem State.modTask_me (f : Task → Task) : (s.modTask f).me = { s.me with task := f s.tk } := State.modTile_me s _

/-- An issue cycle counts one, and the writes of the cycle that it begins land (R176, R177). -/
theorem issueCycle_lands : (issueCycle s).me.ic = s.me.ic + 1 ∧ ∃ k : Task,
    (issueCycle s).tk = landCycle (s.me.ic + 1) k ∧ k.pc = s.tk.pc ∧ k.held = s.tk.held ∧ k.pend = s.tk.pend := by
  simp only [State.tk, issueCycle, State.modTile_me, endPeriod_task, endPeriod_ic]
  exact ⟨trivial, _, rfl, rfl, rfl, rfl⟩

end

/-! ### The task stays in its place -/

/-- Tile t acts, and its task stands at address a. -/
def State.standsAt (t : TileId) (a : BitVec 18) (s : State) : Prop := s.cur = t ∧ s.tk.pc = a

section
variable {t : TileId} {a : BitVec 18} {s : State}

theorem standsAt_modTile (h : s.standsAt t a) (f : Tile → Tile) (hf : ∀ x, (f x).task.pc = x.task.pc) :
    (s.modTile s.cur f).standsAt t a :=
  ⟨h.1, (congrArg (fun x : Tile => x.task.pc) (State.modTile_me s f)).trans ((hf s.me).trans h.2)⟩

theorem standsAt_modTask (h : s.standsAt t a) (f : Task → Task) (hf : ∀ k, (f k).pc = k.pc) :
    (s.modTask f).standsAt t a := standsAt_modTile h _ fun x => hf x.task

theorem standsAt_issueCycle (h : s.standsAt t a) : (issueCycle s).standsAt t a := by
  obtain ⟨-, k, hk, hpc, -⟩ := issueCycle_lands s
  exact ⟨h.1, by rw [hk, landCycle_pc, hpc, h.2]⟩

@[simp] theorem setHalf_task (u : Bool) (y : Half) (x : Tile) : (setHalf u y x).task = x.task := by
  cases u <;> rfl

/-- A held effect that reaches the outside leaves the task in its place (R181). -/
theorem standsAt_commitOne (h : s.standsAt t a) (e : Held) : (commitOne e s).standsAt t a := by
  cases e with
  | sward sga bs => exact h
  | access l st e =>
    exact standsAt_modTile h _ fun x => by dsimp only; split <;> rfl
  | enq q recs spawn d at_ ord =>
    have hq : (enqueueRecords q recs spawn s).1.standsAt t a := by
      unfold enqueueRecords
      dsimp only
      split
      · exact h
      · exact h
    unfold commitOne
    dsimp only
    split
    · exact hq
    · exact standsAt_modTask hq _ fun k => rfl
  | relb r st free => exact standsAt_modTask h _ fun k => rfl
  | cmd id =>
    unfold commitOne releaseCmd
    dsimp only
    split
    · exact standsAt_modTile h _ fun x => by rw [setHalf_task]
    · exact h

theorem standsAt_resolveShadow (h : s.standsAt t a) : (resolveShadow s).standsAt t a := by
  unfold resolveShadow
  split
  · exact List.foldlRecOn (motive := State.standsAt t a) s.tk.held _ (standsAt_modTask h _ fun k => rfl)
      fun u hu e _ => standsAt_commitOne hu e
  · split
    · exact standsAt_modTask h _ fun k => rfl
    · exact h

theorem standsAt_emptyCycle (h : s.standsAt t a) : (emptyCycle s).standsAt t a :=
  standsAt_resolveShadow (standsAt_issueCycle (standsAt_modTask h _ fun k => by rw [countLoops_frame]))

theorem standsAt_settle (h : s.standsAt t a) : (settle s).standsAt t a :=
  List.foldlRecOn (motive := State.standsAt t a) _ _ h fun _ hu _ _ => standsAt_emptyCycle hu

end

/-! ### Writes in flight land in empty cycles (R206) -/

/-- The shadow holds nothing back, and every write in flight is still to land, by issue cycle z. -/
def State.landsBy (z : Nat) (s : State) : Prop := s.tk.held = [] ∧ ∀ l ∈ s.tk.pend, s.me.ic < l.at_ ∧ l.at_ ≤ z

section
variable {z : Nat} {s : State}

theorem landsBy_issueCycle (h : s.landsBy z) : (issueCycle s).landsBy z := by
  obtain ⟨hheld, hpend⟩ := h
  obtain ⟨hic, k, hk, -, hkheld, hkpend⟩ := issueCycle_lands s
  refine ⟨by rw [hk, landCycle_held, hkheld, hheld], fun l hl => ?_⟩
  rw [hk] at hl
  obtain ⟨hat, hmem⟩ := mem_pend_landCycle k _ hl
  have hl := hpend l (hkpend ▸ hmem)
  rw [hic]
  omega

/-- With nothing held, the end of a shadow changes nothing that a landing reads (R180). -/
theorem resolveShadow_of_nothing_held (h : s.tk.held = []) : (resolveShadow s).me.ic = s.me.ic ∧
    (resolveShadow s).tk.held = [] ∧ (resolveShadow s).tk.pend = s.tk.pend := by
  unfold resolveShadow
  rw [if_neg fun hs => hs.2 h]
  split
  · rw [State.modTask_tk, State.modTask_me]
    exact ⟨rfl, h, rfl⟩
  · exact ⟨rfl, h, rfl⟩

theorem landsBy_resolveShadow (h : s.landsBy z) : (resolveShadow s).landsBy z := by
  obtain ⟨hheld, hpend⟩ := h
  obtain ⟨hic, hheld', hpend'⟩ := resolveShadow_of_nothing_held hheld
  exact ⟨hheld', by rw [hpend', hic]; exact hpend⟩

theorem landsBy_countSlots (n : Nat) (h : s.landsBy z) : (countSlots n s).landsBy z := by
  obtain ⟨hheld, hpend⟩ := h
  unfold State.landsBy countSlots
  rw [State.modTask_tk, State.modTask_me, countLoops_frame]
  exact ⟨hheld, hpend⟩

theorem landsBy_emptyCycle (h : s.landsBy z) : (emptyCycle s).landsBy z :=
  landsBy_resolveShadow (landsBy_issueCycle (landsBy_countSlots 0 h))

theorem emptyCycle_ic (h : s.landsBy z) : (emptyCycle s).me.ic = s.me.ic + 1 := by
  obtain ⟨hic, -⟩ := resolveShadow_of_nothing_held (landsBy_issueCycle (landsBy_countSlots 0 h)).1
  obtain ⟨hcount, -⟩ := issueCycle_lands (countSlots 0 s)
  rw [emptyCycle, hic, hcount, countSlots, State.modTask_me]

/-- n empty issue cycles. -/
def emptyCycles (n : Nat) (s : State) : State := (List.range n).foldl (fun s _ => emptyCycle s) s

theorem landsBy_emptyCycles (n : Nat) (h : s.landsBy z) :
    (emptyCycles n s).landsBy z ∧ (emptyCycles n s).me.ic = s.me.ic + n := by
  induction n with
  | zero => exact ⟨h, rfl⟩
  | succ n ih =>
    obtain ⟨hn, hic⟩ := ih
    have hsucc : emptyCycles (n + 1) s = emptyCycle (emptyCycles n s) := by simp [emptyCycles, List.range_succ]
    rw [hsucc]
    exact ⟨landsBy_emptyCycle hn, by rw [emptyCycle_ic hn, hic]; omega⟩

/-- The issue cycle in which the last write in flight lands. -/
def lastLanding (n : Nat) (ls : List Landing) : Nat := ls.foldl (fun n l => Nat.max n l.at_) n

theorem le_lastLanding (n : Nat) (ls : List Landing) : n ≤ lastLanding n ls ∧ ∀ l ∈ ls, l.at_ ≤ lastLanding n ls := by
  induction ls generalizing n with
  | nil => exact ⟨Nat.le_refl n, by simp⟩
  | cons l ls ih =>
    obtain ⟨hmax, hls⟩ := ih (Nat.max n l.at_)
    have hn : n ≤ Nat.max n l.at_ := Nat.le_max_left ..
    have hl : l.at_ ≤ Nat.max n l.at_ := Nat.le_max_right ..
    refine ⟨Nat.le_trans hn hmax, fun x hx => ?_⟩
    rcases List.mem_cons.1 hx with rfl | hx
    · exact Nat.le_trans hl hmax
    · exact hls x hx

/-- Writes that are still to land have landed when the task has settled (R206). -/
theorem settle_pend (hheld : s.tk.held = []) (hpend : ∀ l ∈ s.tk.pend, s.me.ic < l.at_) : (settle s).tk.pend = [] := by
  obtain ⟨hle, hlast⟩ := le_lastLanding s.me.ic s.tk.pend
  have hlands : s.landsBy (lastLanding s.me.ic s.tk.pend) := ⟨hheld, fun l hl => ⟨hpend l hl, hlast l hl⟩⟩
  obtain ⟨⟨-, hby⟩, hic⟩ := landsBy_emptyCycles (lastLanding s.me.ic s.tk.pend - s.me.ic) hlands
  refine List.eq_nil_iff_forall_not_mem.2 fun l hl => ?_
  have := hby l hl
  omega

end

/-! ### `END` (R206) -/

section
variable (s : State)

/-- The empty cycles of an `END`: those in which its writes and the effects that its shadow held take their places. -/
def endSettled : State := settle (resolveShadow (issueCycle s))

theorem endSettled_standsAt : (endSettled s).standsAt s.cur s.tk.pc :=
  standsAt_settle (standsAt_resolveShadow (standsAt_issueCycle ⟨rfl, rfl⟩))

theorem endSettled_pend (hpend : ∀ l ∈ s.tk.pend, s.me.ic < l.at_) (hheld : s.tk.held = []) :
    (endSettled s).tk.pend = [] := by
  obtain ⟨-, hlast⟩ := le_lastLanding s.me.ic s.tk.pend
  have hlands : s.landsBy (lastLanding s.me.ic s.tk.pend) := ⟨hheld, fun l hl => ⟨hpend l hl, hlast l hl⟩⟩
  obtain ⟨hheld', hpend'⟩ := landsBy_resolveShadow (landsBy_issueCycle hlands)
  exact settle_pend hheld' fun l hl => (hpend' l hl).1

/-- A tile whose task has settled at its `END`: the bundle has been counted, and is the one that issues again (log 31). -/
def endingTile (x : Tile) : Tile :=
  { x with status := .ending, task := { firstIssueOver x.task with
    bundle := x.task.bundle + 1, npc := x.task.pc, endAgain := some x.task.pc } }

theorem endingTile_results {t : TileId} {a : BitVec 18} {u : State} (h : u.standsAt t a) :
    let v : State := { u.modTile t endingTile with sig := .closed }
    v.me.status = .ending ∧ v.tk.endAgain = some a ∧ v.tk.pc = a ∧ v.tk.npc = a ∧ v.tk.pend = u.tk.pend := by
  obtain ⟨rfl, rfl⟩ := h
  intro v
  have hme : v.me = endingTile u.me := State.modTile_me u endingTile
  simp only [State.tk, hme, endingTile, firstIssueOver]
  refine ⟨trivial, trivial, ?_, trivial, ?_⟩
  all_goals split <;> rfl

variable {s}

theorem exec_endTask_guard (h : s.guard = true) :
    exec .endTask s = bundleDone ((endSettled s).modTile s.cur endingTile) := by
  simp only [exec_endTask, execEnd, h, Bool.not_true, Bool.false_eq_true, if_false]
  rfl

theorem exec_trap_task (n : BitVec 4) (h : s.guard = true) (hmode : s.tk.mode = .task) :
    exec (.trap n) s = bundleDone (takeTrap s.cur (causeCode (.softTrap n)) false 0 0 (completeBundle s).tk.pc 0 0
      (completeBundle s)) := by
  simp only [exec_trap, execTrap, h, hmode, Bool.not_true, Bool.false_eq_true, if_false]

end

end Sys2Proof.Machine

open Sys2Proof Sys2Proof.Machine

/-- Settles O28: `YIELD` and `TRAP` as their instructions have them, `END` by the empty cycles that settle its task. -/
theorem yieldEndTrapResults : Obligations.YieldEndTrapResults := by
  refine ⟨fun s imm => rfl, fun s hguard => ?ends, fun s n hguard hmode => exec_trap_task n hguard hmode⟩
  case ends =>
    obtain ⟨hstatus, hagain, hpc, hnpc, hpend⟩ := endingTile_results (endSettled_standsAt s)
    exact ⟨_, exec_endTask_guard hguard, rfl, hstatus, hagain, hpc, hnpc,
      fun hland hheld => hpend.trans (endSettled_pend s hland hheld)⟩
end

section
/-! The scalar slots and the address unit: O1 to O7. A ready slot of each shape completes with the exposed write of its result;
then the arithmetic that the rules write differently from the model, and the encodings that the rules give. -/

namespace Sys2Proof.Machine

/-! ### Ready slots (R175, R179) -/

section
variable {s : State}

/-! A body that makes one exposed write, of a value that it reads from the state. -/

section
variable {cs : List ResClass} {regs : List (BitVec 6)}

theorem runSlot_emitS (h : s.ready regs = true) (lat : Nat) (d : BitVec 6) (v : State → Word) :
    runSlot regs (fun s => .ok (emitS lat d (v s) s)) s = .next (s.after (landS lat d (v s))) :=
  (runSlot_ready _ h).trans (slotDone_emitS ..)

theorem runSlot_emitP (h : s.ready regs = true) (lat : Nat) (d : BitVec 3) (v : State → Bool) :
    runSlot regs (fun s => .ok (emitP lat d (v s) s)) s = .next (s.after (landP lat d (v s))) :=
  (runSlot_ready _ h).trans (slotDone_emitP ..)

theorem runSlot_emitA (h : s.ready regs = true) (lat : Nat) (d : BitVec 5) (v : State → Word) :
    runSlot regs (fun s => .ok (emitA lat d (v s) s)) s = .next (s.after (landA lat d (v s))) :=
  (runSlot_ready _ h).trans (slotDone_emitA ..)

theorem runSlot_emit (h : s.ready regs = true) (lat : Nat) (v : State → LandVal) :
    runSlot regs (fun s => .ok (emit lat (v s) s)) s = .next (s.after [(lat, v s)]) :=
  (runSlot_ready _ h).trans (slotDone_emit ..)

/-- A claiming slot that is ready is a ready slot. -/
theorem runClaiming_eq_runSlot (h : s.readyFor cs regs = true) (body : State → SlotRes) :
    runClaiming cs regs body s = runSlot regs body s :=
  (runClaiming_ready body h).trans (runSlot_ready body (readyFor_ready h)).symm

/-- A slot that is ready with registers is so without. -/
theorem readyFor_nil (h : s.readyFor cs regs = true) : s.readyFor cs [] = true := by
  rw [State.readyFor, State.ready, ready_guard (readyFor_ready h), readyFor_classes h]
  rfl

end

theorem scalarRR_ready {d a b : BitVec 6} (h : s.ready [d, a, b] = true) (lat : Nat) (f : Word → Word → Word) :
    scalarRR lat d a b f s = .next (s.after (landS lat d (f (readS s.tk a) (readS s.tk b)))) :=
  runSlot_emitS h lat d fun s => f (readS s.tk a) (readS s.tk b)

theorem scalarRI_ready {d a : BitVec 6} (h : s.ready [d, a] = true) (f : Word → Word) :
    scalarRI d a f s = .next (s.after (landS 1 d (f (readS s.tk a)))) :=
  runSlot_emitS h 1 d fun s => f (readS s.tk a)

theorem compareRR_ready {a b : BitVec 6} (h : s.ready [a, b] = true) (d : BitVec 3) (f : Word → Word → Bool) :
    compareRR d a b f s = .next (s.after (landP 1 d (f (readS s.tk a) (readS s.tk b)))) :=
  runSlot_emitP h 1 d fun s => f (readS s.tk a) (readS s.tk b)

theorem compareRI_ready {a : BitVec 6} (h : s.ready [a] = true) (d : BitVec 3) (i : BitVec 6) (f : Word → Word → Bool) :
    compareRI d a i f s = .next (s.after (landP 1 d (f (readS s.tk a) (sx i)))) :=
  runSlot_emitP h 1 d fun s => f (readS s.tk a) (sx i)

theorem predLogic_ready (h : s.ready [] = true) (d a b : BitVec 3) (f : Bool → Bool → Bool) :
    predLogic d a b f s = .next (s.after (landP 1 d (f (readP s.tk a) (readP s.tk b)))) :=
  runSlot_emitP h 1 d fun s => f (readP s.tk a) (readP s.tk b)

theorem slotDone_emitFp (d : BitVec 6) (r : Nat × Flags) : slotDone (emitFp d (fBits 32 r) s) =
    .next (s.after (landS 4 d ((BitVec.ofNat 32 r.1).setWidth 64) ++ landF 4 r.2)) := slotDone_emitSF ..

theorem scalarFp2_ready {d a b : BitVec 6} (h : s.ready [d, a, b] = true) (f : FVal → FVal → Nat × Flags) :
    let r := f (readF s.tk a) (readF s.tk b)
    scalarFp2 d a b f s = .next (s.after (landS 4 d ((BitVec.ofNat 32 r.1).setWidth 64) ++ landF 4 r.2)) :=
  (runSlot_ready _ h).trans (slotDone_emitFp ..)

/-- The low word of a scalar register. -/
theorem lowWord_toNat (x : Word) : (field x 0 32).toNat = x.toNat % 2 ^ 32 := by
  rw [toNat_field, Nat.pow_zero, Nat.div_one]

theorem scalarFpSel_ready {d a b : BitVec 6} (h : s.ready [d, a, b] = true) (wantMax : Bool) :
    let r := fMinMax fmtF32 wantMax ((readS s.tk a).toNat % 2 ^ 32) ((readS s.tk b).toNat % 2 ^ 32)
    scalarFpSel d a b wantMax s = .next (s.after (landS 4 d ((BitVec.ofNat 32 r.1).setWidth 64) ++ landF 4 r.2)) := by
  rw [scalarFpSel, runSlot_ready _ h, lowWord_toNat, lowWord_toNat]
  exact slotDone_emitFp ..

theorem scalarFpCmp_ready {a b : BitVec 6} (h : s.ready [a, b] = true) (d : BitVec 3) (r : FRel) :
    let v := fRelate r (readF s.tk a) (readF s.tk b)
    scalarFpCmp d a b r s = .next (s.after (landP 4 d v.1 ++ landF 4 v.2)) :=
  (runSlot_ready _ h).trans (slotDone_emitPF ..)

end

/-! ### Integer results (R192) -/

section
variable (x y : Word)

theorem ite_slt (u v : Word) : (if x.slt y then u else v) = if x.toInt < y.toInt then u else v := by
  simp only [BitVec.slt, decide_eq_true_eq]

/-! ### Division (R193) -/

theorem div_by_zero : divS x 0 = BitVec.allOnes 64 ∧ divU x 0 = BitVec.allOnes 64 ∧ remS x 0 = x ∧ remU x 0 = x :=
  ⟨rfl, rfl, rfl, rfl⟩

/-- The one quotient that does not fit wraps. -/
theorem div_intMin_allOnes : divS (BitVec.intMin 64) (BitVec.allOnes 64) = BitVec.intMin 64 ∧
    remS (BitVec.intMin 64) (BitVec.allOnes 64) = 0 := by decide

variable {x y}

theorem toNat_divU_remU (hy : y ≠ 0) : x.toNat = (divU x y).toNat * y.toNat + (remU x y).toNat ∧
    (remU x y).toNat < y.toNat := by
  have hpos : 0 < y.toNat := Nat.pos_of_ne_zero fun h => hy (BitVec.eq_of_toNat_eq h)
  have hdiv : (divU x y).toNat = x.toNat / y.toNat := by
    rw [divU, if_neg hy, BitVec.toNat_ofNat, Nat.mod_eq_of_lt (Nat.lt_of_le_of_lt (Nat.div_le_self ..) x.isLt)]
  have hrem : (remU x y).toNat = x.toNat % y.toNat := by
    rw [remU, if_neg hy, BitVec.toNat_ofNat, Nat.mod_eq_of_lt (Nat.lt_of_le_of_lt (Nat.mod_le ..) x.isLt)]
  rw [hdiv, hrem]
  exact ⟨(Nat.div_add_mod' ..).symm, Nat.mod_lt _ hpos⟩

/-- Any other quotient fits: it is truncated. -/
theorem toInt_divS (hy : y ≠ 0) (hover : ¬ (x = BitVec.intMin 64 ∧ y = BitVec.allOnes 64)) :
    (divS x y).toInt = x.toInt.tdiv y.toInt := by
  have hfits : x ≠ BitVec.intMin 64 ∨ y ≠ -1#64 := Decidable.not_and_iff_not_or_not.1 hover
  have hsdiv := BitVec.toInt_sdiv_of_ne_or_ne x y hfits
  rw [divS, if_neg hy, ← hsdiv, BitVec.ofInt_toInt]

/-- The remainder fits always. -/
theorem toInt_remS (hy : y ≠ 0) : (remS x y).toInt = x.toInt.tmod y.toInt := by
  have hsrem := BitVec.toInt_srem x y
  rw [remS, if_neg hy, ← hsrem, BitVec.ofInt_toInt]

/-- Truncating division: the remainder is short of the divisor and has the sign of the dividend. -/
theorem divS_remS (hy : y ≠ 0) (hover : ¬ (x = BitVec.intMin 64 ∧ y = BitVec.allOnes 64)) :
    x.toInt = (divS x y).toInt * y.toInt + (remS x y).toInt ∧ (remS x y).toInt.natAbs < y.toInt.natAbs ∧
      ((remS x y).toInt = 0 ∨ ((remS x y).toInt < 0 ↔ x.toInt < 0)) := by
  have hy0 : y.toInt ≠ 0 := fun h => hy (BitVec.toInt_inj.1 (h.trans BitVec.toInt_zero.symm))
  rw [toInt_divS hy hover, toInt_remS hy]
  refine ⟨(Int.tdiv_mul_add_tmod ..).symm, ?_, ?_⟩
  · rw [Int.natAbs_tmod]
    exact Nat.mod_lt _ (Int.natAbs_pos.2 hy0)
  · have hsign := Int.sign_tmod x.toInt y.toInt
    by_cases hdvd : y.toInt ∣ x.toInt
    · exact .inl (Int.tmod_eq_zero_of_dvd hdvd)
    · rw [if_neg hdvd] at hsign
      exact .inr (by rw [← Int.sign_eq_neg_one_iff_neg, hsign, Int.sign_eq_neg_one_iff_neg])

end

/-! ### Constants and comparisons (R195, R196) -/

/-- A word shifted left and added to, as arithmetic on what it holds. -/
theorem shiftLeft_add_eq (v : Word) (n : Nat) {m : Nat} (i : BitVec m) (hm : m ≤ 64) :
    (v <<< n) + zx i = BitVec.ofNat 64 (v.toNat * 2 ^ n + i.toNat) := by
  refine BitVec.eq_of_toNat_eq ?_
  rw [BitVec.toNat_add, BitVec.toNat_shiftLeft, BitVec.toNat_ofNat, zx, BitVec.toNat_setWidth_of_le hm, Nat.shiftLeft_eq,
    Nat.mod_add_mod]

theorem toInt_sx {n : Nat} (i : BitVec n) (h : n ≤ 64) : (sx i).toInt = i.toInt := BitVec.toInt_signExtend_of_le h

theorem bne_eq_decide (x y : Word) : (x != y) = decide (x ≠ y) := (decide_not ..).symm

/-- A comparison with an immediate is one of integers. -/
theorem beq_sx (x : Word) (i : BitVec 6) : (x == sx i) = decide (x.toInt = i.toInt) := by
  rw [← toInt_sx i (by decide)]
  exact decide_eq_decide.2 BitVec.toInt_inj.symm

theorem slt_sx (x : Word) (i : BitVec 6) : x.slt (sx i) = decide (x.toInt < i.toInt) := by
  rw [BitVec.slt, toInt_sx i (by decide)]

theorem sle_sx (x : Word) (i : BitVec 6) : x.sle (sx i) = decide (x.toInt ≤ i.toInt) := by
  rw [BitVec.sle, toInt_sx i (by decide)]

/-! ### Addresses (R209) -/

/-- A local address: the region above its 24 bits of offset. -/
theorem areg_eq (j : BitVec 4) (x : Word) :
    (zx j <<< 24) + zx (field x 0 24) = BitVec.ofNat 64 (j.toNat * 2 ^ 24 + x.toNat % 2 ^ 24) := by
  have hj : (zx j).toNat = j.toNat := BitVec.toNat_setWidth_of_le (by decide)
  rw [shiftLeft_add_eq _ 24 _ (by decide), hj, toNat_field, Nat.pow_zero, Nat.div_one]

theorem lowWord_eq_setWidth (x : Word) : field x 0 32 = x.setWidth 32 := (BitVec.setWidth_eq_extractLsb' (by decide)).symm

/-! ### Words that are refused (R154, R168) -/

theorem decodeSlot_joinWord (stop : Bool) (f : Fields) : decodeSlot (joinWord stop f) = decodeFields f := by
  rw [decodeSlot, (Laws.join_bits stop f).1]

theorem decodeFields_reserved {f : Fields} {r : OpRow} (hr : opRow f.opc = some r) (hz : r.zero f = false) :
    decodeFields f = .error .reservedField := by
  simp [decodeFields, hr, hz]

/-- A row that builds no well-formed instruction refuses its operands. -/
theorem decodeFields_illegal {f : Fields} {r : OpRow} (hr : opRow f.opc = some r) (hz : r.zero f = true)
    (hb : ∀ i, r.build (f.opc.toNat - r.base) f = some i → i.wf = false) : decodeFields f = .error .illegalOperand := by
  cases h : r.build (f.opc.toNat - r.base) f with
  | none => simp [decodeFields, hr, hz, h]
  | some i => simp [decodeFields, hr, hz, h, hb i h]

/-- P0 is no destination of predicate logic (R154, R197). -/
theorem predLogic_dest_zero {o : BitVec 10} {p : BitVec 3} {a b : BitVec 6} {base count : Nat} {fmt : Fmt}
    (mk : BitVec 3 → BitVec 3 → BitVec 3 → Instr) (hmk : ∀ x y, (mk 0 x y).wf = false)
    (hr : opRow o = some ⟨base, count, fmt, onlyPDAB, fun _ f => do
      let d ← pReg f.d; let a ← pReg f.a; let b ← pReg f.b; pure (mk d a b)⟩) (stop : Bool) :
    decodeSlot (joinWord stop ⟨o, p, 0, a, b⟩) = .error .illegalOperand := by
  rw [decodeSlot_joinWord]
  refine decodeFields_illegal hr rfl fun i hi => ?_
  obtain ⟨x, -, y, -, rfl⟩ : ∃ x, pReg a = some x ∧ ∃ y, pReg b = some y ∧ mk 0 x y = i := by
    have hd : pReg 0#6 = some 0 := rfl
    simpa [hd, Option.bind_eq_some_iff] using hi
  exact hmk x y

/-- The row of `PNOT` (R160). -/
def pnotRow : OpRow := ⟨0x3f, 1, .rrr, onlyPDA, fun _ f => do let d ← pReg f.d; let a ← pReg f.a; pure (.pnot d a)⟩

theorem opRow_pnot : opRow 0x3f = some pnotRow := rfl

end Sys2Proof.Machine

open Sys2Proof Sys2Proof.Machine Sys2Proof.Laws

/-- Settles O1: each form by its shape of slot. -/
theorem scalarIntegerResults : Obligations.ScalarIntegerResults := by
  refine ⟨?registers, ?immediates⟩
  case registers =>
    intro s d a b h x y
    have lands := scalarRR_ready h
    refine ⟨lands 1 _, lands 1 _, lands 1 _, lands 1 _, lands 1 _, lands 1 fun x y => x <<< shiftCount y,
      lands 1 fun x y => x >>> shiftCount y, lands 1 fun x y => x.sshiftRight (shiftCount y), ?min, ?max,
      lands 1 fun x y => if x < y then x else y, lands 1 fun x y => if x < y then y else x, lands 3 _, lands 3 mulHigh,
      lands 3 mulHighU⟩
    case min => rw [← ite_slt]; exact lands 1 fun x y => if x.slt y then x else y
    case max => rw [← ite_slt]; exact lands 1 fun x y => if x.slt y then y else x
  case immediates =>
    intro s d a i h x y
    have lands := scalarRI_ready h
    exact ⟨lands fun x => x + sx i, lands fun x => x &&& sx i, lands fun x => x ||| sx i, lands fun x => x ^^^ sx i,
      lands fun x => x <<< i.toNat, lands fun x => x >>> i.toNat, lands fun x => x.sshiftRight i.toNat⟩

/-- Settles O2: the results of the four divisions, whose values have lemmas of their own. -/
theorem divisionResults : Obligations.DivisionResults := by
  refine ⟨?_, rfl, by decide, by decide⟩
  intro s d a b h x y
  have lands := scalarRR_ready h 12
  refine ⟨divS x y, remS x y, divU x y, remU x y, lands _, lands _, lands _, lands _, fun hy => ?zero, fun hx hy => ?wraps,
    divS_remS, toNat_divU_remU⟩
  case zero => rw [hy]; exact div_by_zero x
  case wraps => rw [hx, hy]; exact div_intMin_allOnes

/-- Settles O3: the results by their slots, the words by the laws of encoding. -/
theorem moveImmediate : Obligations.MoveImmediate := by
  refine ⟨fun s d i h => ⟨?movi, ?movk⟩, fun stop p d i => ⟨?_, ?_⟩, rfl⟩
  case movi => exact runSlot_emitS h 1 d fun _ => sx i
  case movk =>
    rw [← shiftLeft_add_eq _ 12 i (by decide)]
    exact runSlot_emitS h 1 d fun s => (readS s.tk d <<< 12) + zx i
  · exact Encoding.slot (Encoding.movi d i) rfl rfl rfl
  · exact Encoding.slot (Encoding.movk d i) rfl rfl rfl

/-- Settles O4: each relation as the rule has it, each encoding by the law of its instruction. -/
theorem compareResults : Obligations.CompareResults := by
  refine ⟨?registers, ?immediates, ?encodings, rfl⟩
  case registers =>
    intro s d a b h x y
    have lands := compareRR_ready h d
    refine ⟨lands _, ?cmpne, lands _, lands _, lands _, lands _⟩
    case cmpne => rw [← bne_eq_decide]; exact lands _
  case immediates =>
    intro s d a i h x
    have lands := compareRI_ready h d i
    refine ⟨?cmpeqi, ?cmplti, ?cmplei⟩
    case cmpeqi => rw [← beq_sx]; exact lands _
    case cmplti => rw [← slt_sx]; exact lands _
    case cmplei => rw [← sle_sx]; exact lands _
  case encodings =>
    intro stop p d a b hd
    have hwf : decide (d ≠ 0) = true := decide_eq_true hd
    exact ⟨Encoding.slot (Encoding.cmpeq d a b) hwf rfl rfl, Encoding.slot (Encoding.cmpne d a b) hwf rfl rfl,
      Encoding.slot (Encoding.cmplt d a b) hwf rfl rfl, Encoding.slot (Encoding.cmpltu d a b) hwf rfl rfl,
      Encoding.slot (Encoding.cmple d a b) hwf rfl rfl, Encoding.slot (Encoding.cmpleu d a b) hwf rfl rfl,
      Encoding.slot (Encoding.cmpeqi d a b) hwf rfl rfl, Encoding.slot (Encoding.cmplti d a b) hwf rfl rfl,
      Encoding.slot (Encoding.cmplei d a b) hwf rfl rfl⟩

/-- Settles O5: the results by the shape of the slot, the words by the laws of encoding and what a row refuses. -/
theorem predicateLogic : Obligations.PredicateLogic := by
  refine ⟨fun s d a b h => ?results, fun stop p d a b hd => ?encodings, fun stop p d a b => ?refused⟩
  case results =>
    have lands := predLogic_ready h d a b
    exact ⟨lands _, lands _, lands _, runSlot_emitP h 1 d fun s => !readP s.tk a⟩
  case encodings =>
    have hwf : decide (d ≠ 0) = true := decide_eq_true hd
    exact ⟨Encoding.slot (Encoding.pand d a b) hwf rfl rfl, Encoding.slot (Encoding.por d a b) hwf rfl rfl,
      Encoding.slot (Encoding.pxor d a b) hwf rfl rfl, Encoding.slot (Encoding.pnot d a) hwf rfl rfl⟩
  case refused =>
    refine ⟨fun hb => ?field, predLogic_dest_zero .pand (fun _ _ => rfl) rfl stop,
      predLogic_dest_zero .por (fun _ _ => rfl) rfl stop, predLogic_dest_zero .pxor (fun _ _ => rfl) rfl stop, ?pnot⟩
    case field =>
      rw [decodeSlot_joinWord]
      refine decodeFields_reserved opRow_pnot ?_
      simpa [pnotRow, onlyPDA, zeroBut] using hb
    case pnot =>
      rw [decodeSlot_joinWord]
      refine decodeFields_illegal opRow_pnot rfl fun i hi => ?_
      obtain ⟨x, -, rfl⟩ : ∃ x, pReg a = some x ∧ Instr.pnot 0 x = i := by
        have hd : pReg 0#6 = some 0 := rfl
        simpa [pnotRow, hd, Option.bind_eq_some_iff] using hi
      rfl

/-- Settles O6: each form by its shape of slot. -/
theorem scalarFloatResults : Obligations.ScalarFloatResults := by
  refine ⟨?arithmetic, ?compares, ?oneSource⟩
  case arithmetic =>
    intro s r d a b h x y done
    have lands := scalarFp2_ready h
    have selects := scalarFpSel_ready h
    refine ⟨lands fun x y => fAdd fmtF32 r x y, lands fun x y => fAdd fmtF32 r x (negF y),
      lands fun x y => fMul fmtF32 r x y, lands fun x y => fDiv fmtF32 r x y, ?fma, selects false, selects true⟩
    case fma =>
      rw [exec_fma, execFma, runSlot_ready _ h]
      exact slotDone_emitFp ..
  case compares =>
    intro s d a b h done
    have lands := scalarFpCmp_ready h d
    exact ⟨lands .eq, lands .lt, lands .le⟩
  case oneSource =>
    intro s r d a h f32Done i64
    refine ⟨?sqrt, ?toFloat, ?toInt⟩
    case sqrt =>
      rw [exec_fsqrt, execFsqrt, runSlot_ready _ h]
      exact slotDone_emitFp ..
    case toFloat =>
      rw [exec_cvtF32, execCvtF32, runSlot_ready _ h]
      exact slotDone_emitFp ..
    case toInt =>
      rw [exec_fcvtI64, execFcvtI64, runSlot_ready _ h]
      exact slotDone_emitSF ..

/-- Settles O7: each form is one exposed write of a ready slot; `ANODE` alone can trap, where its address has no place. -/
theorem addressUnitResults : Obligations.AddressUnitResults := by
  refine ⟨?address, ?moves, ?spill⟩
  case address =>
    intro s d a b i c j h x
    have lands := runSlot_emitA h 1 d
    refine ⟨lands fun s => readA s.tk a + readA s.tk b, lands fun s => readA s.tk a - readA s.tk b,
      lands fun s => readA s.tk a + sx i, lands fun _ => sx c, lands fun s => readA s.tk a <<< i.toNat, ?areg,
      fun v hv => ?node, fun hv => ?beyond, runSlot_ready _ h⟩
    case areg =>
      rw [← areg_eq]
      exact lands fun s => (zx j <<< 24) + zx (field (readA s.tk a) 0 24)
    case node =>
      rw [exec_anode, execAnode, runSlot_ready _ h, hv]
      rfl
    case beyond =>
      rw [exec_anode, execAnode, runSlot_ready _ h, hv]
      rfl
  case moves =>
    intro s d a l h
    refine ⟨runSlot_emitA h 1 d fun s => readS s.tk a, runSlot_emitS h 1 a fun s => readA s.tk d, ?lcset,
      runSlot_emitS h 1 a fun s => zx (readLC s.tk l)⟩
    case lcset =>
      rw [← lowWord_eq_setWidth]
      exact runSlot_emit h 1 fun s => .lcreg l (field (readS s.tk a) 0 32)
  case spill =>
    intro s d a i h v
    have hone := readyFor_ready h
    have hnone := readyFor_nil h
    refine ⟨(runClaiming_eq_runSlot h _).trans (runSlot_emitS hone 1 d fun s => readSpill s.tk i),
      (runClaiming_eq_runSlot h _).trans (runSlot_emit hone 1 fun s => .spill i (readS s.tk d)),
      (runClaiming_eq_runSlot hnone _).trans (runSlot_emitA (readyFor_ready hnone) 1 a fun s => readSpill s.tk i),
      (runClaiming_eq_runSlot hnone _).trans (runSlot_emit (readyFor_ready hnone) 1 fun s => .spill i (readA s.tk a))⟩
end

section
/-! Register rotation, loops and Y-registers: O17 and O26. What the name of a rotated register denotes, as a number; then where
a loop's body begins, and what the checks of R186 let through. -/

namespace Sys2Proof.Machine

/-! ### Rotation (R190) -/

theorem physV_fixed (b : BitVec 5) {r : BitVec 6} (h : r.toNat < 32) : physV b r = r := if_pos h

/-- V32 to V63 turn in a circle. -/
theorem toNat_physV (b : BitVec 5) {r : BitVec 6} (h : 32 ≤ r.toNat) :
    (physV b r).toNat = 32 + (r.toNat + (32 - b.toNat)) % 32 := by
  have hr := r.isLt
  rw [physV, if_neg (by omega), BitVec.toNat_add, BitVec.toNat_setWidth, BitVec.toNat_sub, toNat_field]
  show (32 + _) % 64 = _
  omega

theorem physV_injective (b : BitVec 5) {r q : BitVec 6} (h : physV b r = physV b q) : r = q := by
  have hr := r.isLt
  have hq := q.isLt
  have hn := congrArg BitVec.toNat h
  rcases Nat.lt_or_ge r.toNat 32 with hr32 | hr32 <;> rcases Nat.lt_or_ge q.toNat 32 with hq32 | hq32
  · rwa [physV_fixed b hr32, physV_fixed b hq32] at h
  · rw [physV_fixed b hr32, toNat_physV b hq32] at hn
    omega
  · rw [toNat_physV b hr32, physV_fixed b hq32] at hn
    omega
  · rw [toNat_physV b hr32, toNat_physV b hq32] at hn
    exact BitVec.eq_of_toNat_eq (by omega)

theorem physV_zero (r : BitVec 6) : physV 0 r = r := by
  rcases Nat.lt_or_ge r.toNat 32 with h | h
  · exact physV_fixed 0 h
  · have hr := r.isLt
    refine BitVec.eq_of_toNat_eq ?_
    rw [toNat_physV 0 h]
    show 32 + (r.toNat + (32 - 0)) % 32 = _
    omega

/-- The name of the register after another, in the circle of V32 to V63. -/
theorem toNat_nextName {r : BitVec 6} (h : 32 ≤ r.toNat) :
    (32 + (r - 32 + 1) % 32 : BitVec 6).toNat = 32 + (r.toNat + 1) % 32 := by
  have hr := r.isLt
  simp only [BitVec.ofNat_eq_ofNat, BitVec.toNat_add, BitVec.toNat_umod, BitVec.toNat_sub, BitVec.toNat_ofNat,
    Nat.reducePow, Nat.reduceMod]
  omega

theorem physV_succ (b : BitVec 5) {r : BitVec 6} (h : 32 ≤ r.toNat) :
    physV (b + 1) (32 + (r - 32 + 1) % 32) = physV b r := by
  have hb := b.isLt
  have hnext := toNat_nextName h
  have hbase : (b + 1).toNat = (b.toNat + 1) % 32 := by rw [BitVec.toNat_add]; rfl
  refine BitVec.eq_of_toNat_eq ?_
  rw [toNat_physV _ (by omega), toNat_physV b h, hnext, hbase]
  omega

/-! ### Loops (R147, R183, R186) -/

/-- The bundle after the one at a begins behind its first stop bit. -/
theorem bundleEnd_of_stop (imem : Mem) (a : BitVec 18) {n : Nat} (hn : n < 8)
    (hstop : memReadLE imem (a.toNat + 4 * n) 4 / 2 ^ 31 % 2 = 1)
    (hfirst : ∀ m < n, ¬ memReadLE imem (a.toNat + 4 * m) 4 / 2 ^ 31 % 2 = 1) :
    bundleEnd imem a = a + BitVec.ofNat 18 (4 * n + 4) := by
  have hbit (m : Nat) : bit (BitVec.ofNat 32 (memReadLE imem (a.toNat + 4 * m) 4)) 31 =
      decide (memReadLE imem (a.toNat + 4 * m) 4 / 2 ^ 31 % 2 = 1) := by
    rw [bit, BitVec.getLsbD_ofNat, Nat.testBit_eq_decide_div_mod_eq]
    rfl
  have hfind : (List.range 8).find? (fun i => bit (BitVec.ofNat 32 (memReadLE imem (a.toNat + 4 * i) 4)) 31) = some n := by
    simp only [hbit]
    rw [List.find?_range_eq_some]
    exact ⟨decide_eq_true hstop, List.mem_range.2 hn, fun m hm => by simpa using hfirst m hm⟩
  rw [bundleEnd, hfind]

section
variable {s : State} {n : BitVec 2} {imm : BitVec 12}

/-- The last bundle of a loop's body. -/
def loopLast (s : State) (imm : BitVec 12) : Nat := s.tk.pc.toNat + 4 * imm.toNat

theorem loopFails_none (hdepth : s.tk.loops.length < 4) (hfree : ∀ f ∈ s.tk.loops, f.n ≠ n)
    (hnest : ∀ f ∈ s.tk.loops, loopLast s imm % 2 ^ 18 ≤ f.last.toNat) (hswp : swpActive s.tk = false) :
    loopFails s.tk n (BitVec.ofNat 18 (loopLast s imm)) = none := by
  have hsame : (s.tk.loops.any fun f => f.n == n) = false := by simpa using hfree
  have hover : (s.tk.loops.any fun f =>
      inBody f s.tk.pc && decide (f.last.toNat < (BitVec.ofNat 18 (loopLast s imm)).toNat)) = false := by
    simp only [List.any_eq_false, Bool.and_eq_true, decide_eq_true_eq, BitVec.toNat_ofNat]
    intro f hf ⟨_, hlt⟩
    have := hnest f hf
    omega
  rw [loopFails, if_neg (by omega), hsame, hover, hswp]
  rfl

theorem startLoop_starts (swp : Option (Fin 4)) (hrange : inFetchRange s (loopLast s imm) = true)
    (hchecks : loopFails s.tk n (BitVec.ofNat 18 (loopLast s imm)) = none) :
    startLoop n swp imm s = .next { s.modTask (fun k => { k with
      newLoop := true
      loops := ⟨n, k.pc, bundleEnd s.me.imem k.pc, BitVec.ofNat 18 (loopLast s imm), swp, 0, false, 0, 0, 0, 0⟩ :: k.loops })
      with sig := .done } := by
  unfold loopLast at hrange hchecks
  simp only [startLoop, hrange, hchecks, Bool.not_true, Bool.false_eq_true, if_false]
  rfl

end

/-! ### Y-registers (R208, R345) -/

section
variable {s : State} {d : BitVec 6} {y : BitVec 12}

/-- The mode allows the register. -/
theorem yAllowed (h : y.toNat < 0x10 ∨ s.tk.mode = .monitor) : (yMonitorOnly y && s.tk.mode == .task) = false := by
  rcases h with h | h
  · have : yMonitorOnly y = false := decide_eq_false (by omega)
    rw [this, Bool.false_and]
  · rw [h]
    exact Bool.and_false _

variable (hready : s.ready [d] = true) (hallowed : y.toNat < 0x10 ∨ s.tk.mode = .monitor)
include hready hallowed

theorem exec_srd_ready (hclaim : y = 0x001 → claimBlocked s .vector = false) :
    exec (.srd d y) s = .next (s.after (landS 1 d (readY s y))) := by
  rw [exec_srd, execSrd, runSlot_ready _ hready]
  simp only [yAllowed hallowed, Bool.false_eq_true, if_false]
  split
  next hy =>
    simp only [needClass, hclaim hy, Bool.not_false, if_true]
    exact slotDone_emitS ..
  next => exact slotDone_emitS ..

theorem exec_swr_ready : exec (.swr d y) s = .next (s.after [(1, .yreg y (readS s.tk d))]) := by
  rw [exec_swr, execSwr, runSlot_ready _ hready]
  simp only [yAllowed hallowed, Bool.false_eq_true, if_false]
  exact slotDone_emit ..

end

end Sys2Proof.Machine

open Sys2Proof Sys2Proof.Machine

/-- Settles O17: fixed and turning names apart, each as a number. -/
theorem rotationRenames : Obligations.RotationRenames := fun b r q =>
  ⟨physV_fixed b, fun h => by rw [toNat_physV b h]; omega, physV_injective b, physV_zero r, physV_succ b⟩

/-- Settles O26: a loop that passes the checks, the end of its bundle by the first stop bit, and both accesses to a register
that the mode allows. -/
theorem loopAndRegisterResults : Obligations.LoopAndRegisterResults := by
  refine ⟨?loops, fun s n hn hstop hfirst => bundleEnd_of_stop s.me.imem s.tk.pc hn hstop hfirst,
    fun s d y hready hallowed hclaim => ⟨exec_srd_ready hready hallowed hclaim, exec_swr_ready hready hallowed⟩⟩
  case loops =>
    intro s n sm1 imm last hrange hdepth hfree hnest hswp started
    have hchecks := loopFails_none hdepth hfree hnest hswp
    exact ⟨startLoop_starts none hrange hchecks, startLoop_starts (some sm1.toFin) hrange hchecks⟩
end

section
/-! The vector units and their loads: O11, O13, O14 and O18. Sources that pass the tag checks, the outcome of a vector slot whose
sources pass, then the loads: what the bank check leaves as it was, and the addresses as the rules write them. -/

namespace Sys2Proof.Machine

/-- The low bits of a word or a lane, as a number. -/
theorem toNat_field_low {n : Nat} (x : BitVec n) (len : Nat) : (field x 0 len).toNat = x.toNat % 2 ^ len := by
  rw [toNat_field, Nat.pow_zero, Nat.div_one]

/-! ### Tag checks that pass (R65, R213) -/

/-- A source that meets none of the failures of R65: its tag is defined, has no conversion-only format where the instruction
interprets it, and is accepted. -/
structure Src.Passes (x : Src) : Prop where
  defined : isReservedTag x.tag = false
  computable : (x.interp && isConvOnly x.tag) = false
  accepted : x.ok = true

theorem tagFault_of_passes {srcs : List Src} (h : ∀ x ∈ srcs, x.Passes) : tagFault srcs = none := by
  have hdefined : srcs.find? (fun x => isReservedTag x.tag) = none :=
    List.find?_eq_none.2 fun x hx => Bool.eq_false_iff.1 (h x hx).defined
  have hcomputable : srcs.find? (fun x => x.interp && isConvOnly x.tag) = none :=
    List.find?_eq_none.2 fun x hx => Bool.eq_false_iff.1 (h x hx).computable
  have haccepted : srcs.find? (fun x => !x.ok) = none :=
    List.find?_eq_none.2 fun x hx => by rw [(h x hx).accepted]; exact Bool.false_ne_true
  rw [tagFault, hdefined, hcomputable, haccepted]
  rfl

/-- A source that is only moved passes with any accepted tag that is defined. -/
theorem Src.passes_moved {n : Nat} {t : BitVec 6} {ok : Bool} (hdef : isReservedTag t = false) (hok : ok = true) :
    Src.Passes ⟨n, t, false, ok⟩ := ⟨hdef, rfl, hok⟩

theorem defined_of_acceptIndex : ∀ {t : BitVec 6}, acceptIndex t = true → isReservedTag t = false := by decide

theorem defined_of_acceptSint : ∀ {t : BitVec 6}, acceptSint t = true → isReservedTag t = false := by decide

/-! ### Vector slots whose sources pass -/

section
variable {s : State} {cs : List ResClass} {regs : List (BitVec 6)}

/-- A ready slot whose sources pass their checks has the outcome of the rest of its body. -/
theorem runClaiming_passes (h : s.readyFor cs regs = true) (srcs : State → List Src) (body : State → State → SlotRes)
    (hsrcs : ∀ x ∈ srcs s, x.Passes) :
    runClaiming cs regs (fun s => checkTags (srcs s) (body s) s) s = slotOutcome s (body s s) :=
  (runClaiming_ready _ h).trans (congrArg _ (checkTags_ok _ (tagFault_of_passes hsrcs)))

/-- Such a slot that makes one vector result completes with its exposed write, wherever its body reads the state: outside the
checks or under them. -/
theorem runClaiming_passes_emitV (h : s.readyFor cs regs = true) (srcs : State → List Src) (lat : Nat) (d : BitVec 6)
    (v : State → State → VReg) (hsrcs : ∀ x ∈ srcs s, x.Passes) :
    runClaiming cs regs (fun s => checkTags (srcs s) (fun t => .ok (emitV lat d (v s t) t)) s) s =
      .next (s.after (s.landV lat d (v s s))) :=
  (runClaiming_passes h srcs _ hsrcs).trans (slotDone_emitV ..)

/-- Such a slot that makes one vector result and flags completes with both. -/
theorem runClaiming_passes_emitVF (h : s.readyFor cs regs = true) (srcs : State → List Src) (lat : Nat) (d : BitVec 6)
    (r : State → VReg × Flags) (hsrcs : ∀ x ∈ srcs s, x.Passes) :
    runClaiming cs regs (fun s => checkTags (srcs s) (fun t => .ok (emitF lat (r s).2 (emitV lat d (r s).1 t))) s) s =
      .next (s.after (s.landV lat d (r s).1 ++ landF lat (r s).2)) :=
  (runClaiming_passes h srcs _ hsrcs).trans (slotDone_emitVF ..)

/-- A ready slot that checks no tag and makes one vector result completes with it. -/
theorem runClaiming_emitV (h : s.readyFor cs regs = true) (lat : Nat) (d : BitVec 6) (v : State → VReg) :
    runClaiming cs regs (fun s => .ok (emitV lat d (v s) s)) s = .next (s.after (s.landV lat d (v s))) :=
  (runClaiming_ready _ h).trans (slotDone_emitV ..)

end

section
variable {s : State} {d a b : BitVec 6}

theorem vecSpecial_ready (h : s.readyFor [.vector] [] = true) (htag : (readV s.tk a).tag = tagF32)
    (f : FVal → Nat × Flags) :
    let r (i : Fin 256) := f (f32 (laneLow (readV s.tk a).lanes[i]))
    vecSpecial d a f s = .next (s.after (s.landV 12 d ⟨Vector.ofFn fun i => lane32 (BitVec.ofNat 32 (r i).1), tagF32⟩ ++
      landF 12 (laneFlags fun i => (r i).2))) := by
  have hsrc : Src.Passes ⟨0, (readV s.tk a).tag, true, (readV s.tk a).tag == tagF32⟩ := by
    rw [htag]
    exact ⟨rfl, rfl, rfl⟩
  have lands : vecSpecial d a f s = _ := runClaiming_passes_emitVF h _ 12 d
    (fun s => ofLanesF tagF32 fun i => fBits 32 (f (f32 (laneLow (readV s.tk a).lanes[i])))) (List.forall_mem_singleton.2 hsrc)
  simpa only [ofLanesF, ofLanes, fBits] using lands

/-! ### Logic and moves (R216, R217, R227, R232) -/

section
variable (h : s.readyFor [.vector] [] = true) (hdef : isReservedTag (readV s.tk a).tag = false)
include h hdef

theorem vecLogic_ready (hdata : (readV s.tk a).tag ≠ tagEmpty) (hsame : (readV s.tk b).tag = (readV s.tk a).tag)
    (f : Lane → Lane → Lane) :
    vecLogic d a b f s = .next (s.after (s.landV 2 d
      ⟨Vector.ofFn fun i => logicLane (readV s.tk a).tag (f (readV s.tk a).lanes[i] (readV s.tk b).lanes[i]),
        (readV s.tk a).tag⟩)) := by
  refine runClaiming_passes_emitV h _ 2 d _ (List.forall_mem_cons.2 ⟨?first, List.forall_mem_singleton.2 ?second⟩)
  case first => exact Src.passes_moved hdef (bne_iff_ne.2 hdata)
  case second => exact Src.passes_moved (hsame ▸ hdef) (beq_iff_eq.2 hsame)

theorem exec_vnot_ready (hdata : (readV s.tk a).tag ≠ tagEmpty) :
    exec (.vnot d a) s = .next (s.after (s.landV 2 d
      ⟨Vector.ofFn fun i => logicLane (readV s.tk a).tag (~~~ (readV s.tk a).lanes[i]), (readV s.tk a).tag⟩)) :=
  runClaiming_passes_emitV h _ 2 d _ (List.forall_mem_singleton.2 (Src.passes_moved hdef (bne_iff_ne.2 hdata)))

theorem exec_vsel_ready (hdata : (readV s.tk a).tag ≠ tagEmpty) (hsame : (readV s.tk b).tag = (readV s.tk a).tag)
    (hmask : acceptSint (readV s.tk d).tag = true) :
    exec (.vsel d a b) s = .next (s.after (s.landV 2 d
      ⟨Vector.ofFn fun i =>
        selLane (readV s.tk a).tag (readV s.tk d).lanes[i] (readV s.tk a).lanes[i] (readV s.tk b).lanes[i],
        (readV s.tk a).tag⟩)) := by
  refine runClaiming_passes_emitV h _ 2 d _
    (List.forall_mem_cons.2 ⟨?first, List.forall_mem_cons.2 ⟨?second, List.forall_mem_singleton.2 ?mask⟩⟩)
  case first => exact Src.passes_moved hdef (bne_iff_ne.2 hdata)
  case second => exact Src.passes_moved (hsame ▸ hdef) (beq_iff_eq.2 hsame)
  case mask => exact Src.passes_moved (defined_of_acceptSint hmask) hmask

theorem exec_vmov_ready : exec (.vmov d a) s = .next (s.after (s.landV 2 d (readV s.tk a))) :=
  runClaiming_passes_emitV h _ 2 d _ (List.forall_mem_singleton.2 (Src.passes_moved hdef rfl))

theorem exec_vperm_ready (hindex : acceptIndex (readV s.tk b).tag = true) :
    exec (.vperm d a b) s = .next (s.after (s.landV 3 d ⟨Vector.ofFn fun i =>
      (readV s.tk a).lanes[(readV s.tk b).lanes[i].toNat % 256]'(Nat.mod_lt _ (by decide)), (readV s.tk a).tag⟩)) := by
  have hlanes : (fun i : Fin 256 => (readV s.tk a).lanes[(readV s.tk b).lanes[i].toNat % 256]'(Nat.mod_lt _ (by decide))) =
      fun i => (readV s.tk a).lanes[(field (readV s.tk b).lanes[i] 0 8).toNat]'(field (readV s.tk b).lanes[i] 0 8).isLt :=
    funext fun i => getElem_congr_idx (toNat_field_low _ 8).symm
  rw [hlanes]
  refine runClaiming_passes_emitV h _ 3 d _ (List.forall_mem_cons.2 ⟨?lanes, List.forall_mem_singleton.2 ?index⟩)
  case lanes => exact Src.passes_moved hdef rfl
  case index => exact Src.passes_moved (defined_of_acceptIndex hindex) hindex

end

theorem exec_vretag_ready (h : s.readyFor [.vector] [] = true) (hfrom : isReservedTag (readV s.tk d).tag = false)
    (hto : isReservedTag b = false) :
    exec (.vretag d b) s =
      .next (s.after (s.landV 3 d ⟨Vector.ofFn fun i => retagLane b i.val (readV s.tk d).lanes[i], b⟩)) := by
  rw [exec_vretag, execVretag, runClaiming_ready _ h]
  simp only [hfrom, hto, Bool.false_eq_true, if_false]
  exact slotDone_emitV ..

theorem exec_vrot_ready (h : s.readyFor [.vector] [a] = true) (hdef : isReservedTag (readV s.tk b).tag = false) :
    exec (.vrot d b a) s = .next (s.after (s.landV 3 d ⟨Vector.ofFn fun i =>
      (readV s.tk b).lanes[(i.val + (readS s.tk a).toNat) % 256]'(Nat.mod_lt _ (by decide)), (readV s.tk b).tag⟩)) :=
  runClaiming_passes_emitV h _ 3 d _ (List.forall_mem_singleton.2 (Src.passes_moved hdef rfl))

/-! ### Planes and path masks (R233, R234) -/

theorem exec_vplane_ready {p : BitVec 4} {part : BitVec 2} (h : s.readyFor [.vector] [] = true)
    (hsrc : (readV s.tk a).tag = tagI8 ∨ ((readV s.tk a).tag = tagI32 ∧ part = 0)) :
    let src := planeSource (readV s.tk a) part.toNat
    exec (.vplane d a p part) s = .next (s.after
      (s.landV 3 d ⟨Vector.ofFn fun i => lane32 (planeLane src p.toNat i.val), tagPL p.toNat⟩ ++
        landF 3 (src.foldl (fun f e => f ||| e.2) 0))) := by
  have hpass : Src.Passes ⟨0, (readV s.tk a).tag, false, (readV s.tk a).tag == tagI8 || (readV s.tk a).tag == tagI32⟩ := by
    rcases hsrc with htag | ⟨htag, -⟩ <;> rw [htag] <;> exact ⟨rfl, rfl, rfl⟩
  have hpart : ¬ ((readV s.tk a).tag = tagI32 ∧ part ≠ 0) := by
    rcases hsrc with htag | ⟨-, hzero⟩
    · rw [htag]
      exact fun hboth => absurd hboth.1 (by decide)
    · exact fun hboth => hboth.2 hzero
  rw [exec_vplane, execVplane, runClaiming_passes h _ _ (List.forall_mem_singleton.2 hpass), if_neg hpart]
  exact slotDone_emitVF ..

theorem exec_vptmask_ready (h : s.readyFor [.vector] [b] = true) (hlevel : (readS s.tk b).toNat ≤ 27)
    (hdepth : (readPT s.tk a).toNat / 2 ^ 27 ≤ 27) :
    exec (.vptmask d a b) s = .next (s.after (s.landV 3 d ⟨Vector.ofFn fun i =>
      lane32 (if (pathMask (readPT s.tk a) (readS s.tk b).toNat).contains i.val then BitVec.allOnes 32 else 0), tagI32⟩)) := by
  have hfield : (field (readPT s.tk a) 27 5).toNat ≤ 27 := by
    rw [toNat_field]
    exact Nat.le_trans (Nat.mod_le ..) hdepth
  rw [exec_vptmask, execVptmask, runClaiming_ready _ h]
  simp only [gt_iff_lt, Nat.not_lt.2 hlevel, Nat.not_lt.2 hfield, if_false]
  exact slotDone_emitV ..

end

/-! ### Vector loads (R141, R235, R236, R238) -/

/-- Admitting an access changes bank words alone (R141). -/
theorem admitBanks_frame {acc : Accessor} {bs : List Nat} {s s' : State} (h : admitBanks acc bs s = some s') :
    s' = { s with banks := s'.banks } := by
  induction bs generalizing s with
  | nil => cases h; rfl
  | cons b bs ih =>
    rw [admitBanks] at h
    split at h
    next => cases h
    next w hw =>
      exact (ih h :)

/-- What a load reads stays as it was. -/
theorem admitBanks_view {acc : Accessor} {bs : List Nat} {s s' : State} (h : admitBanks acc bs s = some s') :
    s'.tk = s.tk ∧ s'.sward = s.sward ∧ s'.swardPoison = s.swardPoison := by
  rw [admitBanks_frame h]
  exact ⟨rfl, rfl, rfl⟩

@[simp] theorem addFreeze_tk (n : Nat) (s : State) : (addFreeze n s).tk = s.tk := by
  rw [addFreeze, State.tk, State.modTile_me]
  rfl

/-- A tile's own view of the Sward is made of the Sward and of the stores that its task holds (R181, R237). -/
theorem slotRead_congr {s t : State} (htk : t.tk = s.tk) (hsward : t.sward = s.sward) : t.slotRead = s.slotRead := by
  funext a n
  rw [State.slotRead, State.slotRead, htk, hsward]

/-- The lanes of a load from the addresses of its lanes, under a tag (R235). -/
def gatherLanes (s : State) (tag : BitVec 6) (sgas : List Nat) (foot : Nat) : VReg :=
  ⟨Vector.ofFn fun i => match sgas[i.val]? with
    | some b => loadLane tag (s.slotRead b foot)
    | none => 0, tag⟩

section
variable {s s' : State} {sgas : List Nat} {x : VAccess}

/-- An access whose lanes pass goes on with their addresses (R236). -/
theorem withAccess_passes (hla : x.la.toNat < 2 ^ 28)
    (hlanes : accessLanes s.tk.regions x ((List.range x.offs.length).zip x.offs) = .ok sgas)
    (body : List Nat → State → SlotRes) : withAccess x body s = body sgas s := by
  have hhigh : field x.la 28 36 = 0 := BitVec.eq_of_toNat_eq (by rw [toNat_field, Nat.div_eq_of_lt hla]; rfl)
  rw [withAccess, hhigh, if_neg (fun hne => hne rfl), hlanes]

/-- Lanes that the banks admit go on with the frozen cycles counted (R141, R238). -/
theorem withBanks_admits {foot : Nat}
    (hbanks : admitBanks (taskAccessor s.tk) (rangeBanks (sgas.map fun b => (b, foot))) s = some s')
    (body : State → SlotRes) : withBanks sgas foot body s = body (addFreeze (accessFreeze s.cur sgas foot) s') := by
  rw [withBanks, hbanks]

theorem vecLoad_gathers (d tag : BitVec 6) (hla : x.la.toNat < 2 ^ 28)
    (hlanes : accessLanes s.tk.regions x ((List.range x.offs.length).zip x.offs) = .ok sgas)
    (hbanks : admitBanks (taskAccessor s.tk) (rangeBanks (sgas.map fun b => (b, x.foot))) s = some s')
    (hpoison : sgas.any (fun b => poisonedRange s.swardPoison b x.foot) = false) :
    slotOutcome s (vecLoad d tag x s) = .next ((addFreeze (accessFreeze s.cur sgas x.foot) s').after
      (s.landV 5 d (gatherLanes s tag sgas x.foot))) := by
  obtain ⟨htask, hsward, hlines⟩ := admitBanks_view hbanks
  let u := addFreeze (accessFreeze s.cur sgas x.foot) s'
  have htk : u.tk = s.tk := (addFreeze_tk ..).trans htask
  have hview : u.slotRead = s.slotRead := slotRead_congr htk hsward
  have hclean : u.swardPoison = s.swardPoison := hlines
  have hland (v : VReg) : u.landV 5 d v = s.landV 5 d v := by rw [State.landV, State.landV, htk]
  rw [vecLoad, withAccess_passes hla hlanes, withBanks_admits hbanks, hclean, hpoison, if_neg Bool.false_ne_true, hview,
    slotOutcome_ok, slotDone_emitV, hland]
  rfl

end

/-- The offset of a local address, as a number (R27). -/
theorem laOff_eq (la : Word) : laOff la = la.toNat % 2 ^ 24 := toNat_field_low la 24

theorem packedOffs_eq (la : Word) (tag : BitVec 6) (stride : Nat) :
    packedOffs la tag stride = (List.range (lanesOf tag)).map fun i => la.toNat % 2 ^ 24 + stride * i := by
  rw [packedOffs, laOff_eq]

theorem indexedOffs_eq (la : Word) (v : VReg) :
    indexedOffs la v = v.lanes.toList.map fun l => la.toNat % 2 ^ 24 + 4 * (l.toNat % 2 ^ 32) := by
  simp only [indexedOffs, laOff_eq, laneLow, BitVec.toNat_setWidth]

section
variable {s : State} {d : BitVec 6} {a : BitVec 5} (h : s.readyFor [.vector] [] = true)
include h

theorem exec_vld_ready {fmt : BitVec 6} (hdef : isReservedTag fmt = false) :
    exec (.vld d a fmt) s = slotOutcome s (vecLoad d fmt ⟨readA s.tk a,
      (List.range (lanesOf fmt)).map fun i => (readA s.tk a).toNat % 2 ^ 24 + footOf fmt * i, footOf fmt, false⟩ s) := by
  rw [exec_vld, execVld, runClaiming_ready _ h, ← packedOffs_eq]
  simp only [hdef, Bool.false_eq_true, if_false]

theorem exec_vlds_ready {c : BitVec 5} (hdef : isReservedTag ((readA s.tk c).extractLsb' 0 6) = false)
    (hstride : strideOk (readA s.tk c) = true) :
    let tag := (readA s.tk c).extractLsb' 0 6
    exec (.vlds d a c) s = slotOutcome s (vecLoad d tag ⟨readA s.tk a, (List.range (lanesOf tag)).map fun i =>
      (readA s.tk a).toNat % 2 ^ 24 + ((readA s.tk c).toNat / 2 ^ 8 % 2 ^ 24) * i, footOf tag, false⟩ s) := by
  intro tag
  have htag : isReservedTag (field (readA s.tk c) 0 6) = false := hdef
  have hstrideOf : strideOf (readA s.tk c) = (readA s.tk c).toNat / 2 ^ 8 % 2 ^ 24 := toNat_field ..
  rw [exec_vlds, execVlds, runClaiming_ready _ h, ← hstrideOf, ← packedOffs_eq]
  simp only [htag, hstride, Bool.not_true, Bool.false_eq_true, if_false]
  rfl

theorem exec_vldx_ready {ix : BitVec 6} (hindex : acceptIndex (readV s.tk ix).tag = true)
    (hdef : isReservedTag (readV s.tk d).tag = false) (hacc : acceptIndexed (readV s.tk d).tag = true) :
    exec (.vldx d a ix) s = slotOutcome s (vecLoad d (readV s.tk d).tag ⟨readA s.tk a,
      (readV s.tk ix).lanes.toList.map fun l => (readA s.tk a).toNat % 2 ^ 24 + 4 * (l.toNat % 2 ^ 32), 4, false⟩ s) := by
  rw [← indexedOffs_eq]
  refine runClaiming_passes h _ (fun s => vecLoad d (readV s.tk d).tag _)
    (List.forall_mem_cons.2 ⟨?index, List.forall_mem_singleton.2 ?dest⟩)
  case index => exact Src.passes_moved (defined_of_acceptIndex hindex) hindex
  case dest => exact Src.passes_moved hdef hacc

end

end Sys2Proof.Machine

open Sys2Proof Sys2Proof.Machine

/-- Settles O11: the six functions are one shape of slot, whose source passes its tag check. -/
theorem specialFunctionResults : Obligations.SpecialFunctionResults := by
  intro s d a h htag x done
  have lands := vecSpecial_ready (d := d) h htag
  exact ⟨lands vexp2, lands vlog2, lands vrcp, lands vrsq, lands vtanh, lands vsin⟩

/-- Settles O13: each form makes one result of sources that pass their tag checks. -/
theorem vectorMoveResults : Obligations.VectorMoveResults := by
  refine ⟨?lanes, ?scalars, fun s h => runSlot_ready _ h⟩
  case lanes =>
    intro s d a b h x y m keep
    refine ⟨fun hdef hdata => ⟨exec_vnot_ready h hdef hdata, fun hsame => ?logic⟩, exec_vmov_ready h,
      exec_vperm_ready h, exec_vretag_ready h⟩
    have lands := vecLogic_ready (d := d) h hdef hdata hsame
    exact ⟨lands _, lands _, lands _, exec_vsel_ready h hdef hdata hsame⟩
  case scalars =>
    intro s d a b h v y
    have hlow : v = field (readS s.tk a) 0 32 := (lowWord_eq_setWidth _).symm
    rw [hlow]
    exact ⟨runClaiming_emitV h 3 d fun s => ofLanes tagF32 fun _ => field (readS s.tk a) 0 32,
      runClaiming_emitV h 3 d fun s => ofLanes tagI32 fun _ => field (readS s.tk a) 0 32,
      runClaiming_emitV h 3 d fun s => ofLanes tagI32 fun i => field (readS s.tk a) 0 32 + BitVec.ofNat 32 i.val,
      exec_vrot_ready h⟩

/-- Settles O14: `VPLANE` from a source that it accepts, and `VPTMASK` at levels and depths of a tree. -/
theorem planeAndMaskResults : Obligations.PlaneAndMaskResults :=
  ⟨fun _ _ _ _ _ h => exec_vplane_ready h, fun _ _ _ _ h => exec_vptmask_ready h⟩

/-- Settles O18: each form is the load of its own addresses, and admitting the banks leaves what the load reads as it was. -/
theorem vectorLoadResults : Obligations.VectorLoadResults := by
  intro s s' d fmt ix a c sgas h la cw tag v x reads loaded
  have gathers (tag : BitVec 6) (y : VAccess) (hy : reads y) :
      slotOutcome s (vecLoad d tag y s) = loaded tag y.foot := by
    obtain ⟨hla, hlanes, hbanks, hpoison⟩ := hy
    exact vecLoad_gathers d tag hla hlanes hbanks hpoison
  exact ⟨fun hdef hreads => (exec_vld_ready h hdef).trans (gathers _ _ hreads),
    fun hdef hstride hreads => (exec_vlds_ready h hdef hstride).trans (gathers _ _ hreads),
    fun hindex hdef hacc hreads => (exec_vldx_ready h hindex hdef hacc).trans (gathers _ _ hreads)⟩
end

section
/-! The events of a tile's units and of commands: O44. Heads that move on and the landings of the matrix unit, then accesses
that perform, each at its home, then the completion of a command. -/

namespace Sys2Proof.Machine

/-! ### Heads and matrix landings (R242 to R247, R264, R288) -/

@[simp] theorem readH_setH_same (k : Task) (h : BitVec 4) (x : Handle) : readH (setH k h x) h = x := Vector.getElem_set_self ..

/-- The head of a handle after it has passed one slot, which it does with ADV and never past FILL (R264; log 125). -/
def steppedHead (x : Handle) (adv : Bool) : BitVec 32 := x.head + (if adv = true ∧ x.fill ≠ x.head then 1 else 0)

theorem passSlots_one_head (x : Handle) : (passSlots x 1).head = steppedHead x true := by
  have hone : (1 : BitVec 32).toNat ≤ (x.fill - x.head).toNat ↔ x.fill ≠ x.head := by
    have hfill := x.fill.isLt
    have hhead := x.head.isLt
    rw [show (1 : BitVec 32).toNat = 1 from rfl, ne_eq, ← BitVec.toNat_inj, BitVec.toNat_sub]
    omega
  simp only [passSlots, steppedHead, hone, true_and]
  split
  · rfl
  · rename_i heq
    rw [Classical.not_not.1 heq, BitVec.sub_self]
    rfl

/-- The task after its matrix data has come: with ADV the head of their handle moves on by one slot (R242, R245). -/
def stepHead (k : Task) (h : BitVec 4) (adv : Bool) : Task := if adv then setH k h (passSlots (readH k h) 1) else k

section
variable (k : Task) (h : BitVec 4) (adv : Bool)

theorem stepHead_mat : (stepHead k h adv).mat = k.mat := by cases adv <;> rfl

theorem stepHead_head : (readH (stepHead k h adv) h).head = steppedHead (readH k h) adv := by
  cases adv with
  | false => exact (BitVec.add_zero _).symm
  | true => exact (congrArg Handle.head (readH_setH_same ..)).trans (passSlots_one_head _)

end

section
variable {k : Task}

theorem completeLoad_eq {l : MatrixLoad} (h : k.mat.load = some l) : completeLoad k = stepHead
    { k with mat := { k.mat with w := l.w, idx := l.idx, mode := l.mode, load := none } } l.handle l.adv := by
  rw [completeLoad, h]
  rfl

theorem landFeed_eq {f : Feed} {rest : List Feed} (h : k.mat.feeds = f :: rest) : landFeed k = stepHead
    { k with mat := { k.mat with
      rows := k.mat.rows.map fun e => if e.num = f.next then { e with landed := true } else e
      feeds := if f.left ≤ 1 then rest else { f with next := f.next + 1, left := f.left - 1 } :: rest } }
    f.handle (decide (f.left ≤ 1) && f.adv) := by
  rw [landFeed, h]
  by_cases hlast : f.left ≤ 1
  · simp only [hlast, if_true, decide_true, Bool.true_and]
    rfl
  · simp only [hlast, if_false, decide_false, Bool.false_and]
    rfl

end

section
variable (s : State) (t : TileId)

theorem modMatrixTask_own (hown : ((s.tile t).resident.find? fun e => e.2 == .matrix) = none) (f : Task → Task) :
    modMatrixTask t f s = s.modTaskAt t f := by
  rw [modMatrixTask, hown]

theorem modTaskAt_of_unchanged (f : Task → Task) (hf : f (s.tile t).task = (s.tile t).task) :
    (s.modTaskAt t f).tiles = s.tiles := by
  have htile : ({ s.tile t with task := f (s.tile t).task } : Tile) = s.tile t := by rw [hf]
  exact (congrArg (fun x => s.tiles.set t.toNat x t.isLt) htile).trans (Vector.set_getElem_self ..)

end

section
variable {s : State} {t : TileId}

@[simp] theorem State.sig_tile (s : State) (t : TileId) (g : Sig) : ({ s with sig := g } : State).tile t = s.tile t := rfl

/-- The oldest waiting advance of a handle, the reads before it having come, moves its head and nothing else of it (R288). -/
theorem headAdvance_advances {h : BitVec 4} {e : HeadWait}
    (hfind : ((s.tile t).task.headAdv.find? fun e => e.handle == h) = some e)
    (hreads : earlierReadsOut s (s.tile t).task e = false) :
    exec (.headAdvance t h) s = (s.modTaskAt t fun k =>
      setH { k with headAdv := k.headAdv.erase e } h (passSlots (readH k h) e.n)).ends := by
  simp only [exec_headAdvance, execHeadAdvance, hfind, hreads]
  rfl

variable (hown : ((s.tile t).resident.find? fun e => e.2 == .matrix) = none)
include hown

theorem matrixLoadComplete_own : exec (.matrixLoadComplete t) s = (s.modTaskAt t completeLoad).ends :=
  congrArg State.ends (modMatrixTask_own s t hown completeLoad)

variable {f : Feed} {rest : List Feed} (hfeeds : (s.tile t).task.mat.feeds = f :: rest)
include hfeeds

/-- An entry of the oldest feed lands no earlier than c+4 (R247). -/
theorem mfeedLanding_own : exec (.mfeedLanding t) s =
    (s.modTaskAt t fun k => if f.at_ + 4 ≤ (s.tile t).task.icyc then landFeed k else k).ends := by
  refine (congrArg State.ends (modMatrixTask_own s t hown _)).trans (congrArg State.ends (congrArg (s.setTile t) ?_))
  dsimp only
  rw [hfeeds]

end

/-! ### Values of bytes (R3) -/

theorem leNat_byte (bs : List Byte) (i : Nat) : leNat bs / 256 ^ i % 256 = (bs.getD i 0).toNat := by
  induction bs generalizing i with
  | nil => simp [leNat]
  | cons b bs ih =>
    have hb := b.isLt
    cases i with
    | zero =>
      simp only [leNat, Nat.pow_zero, Nat.div_one, List.getD_cons_zero]
      omega
    | succ i =>
      have hdiv : (b.toNat + 256 * leNat bs) / 256 = leNat bs := by omega
      rw [leNat, Nat.pow_succ', ← Nat.div_div_eq_div_mul, hdiv, ih, List.getD_cons_succ]

/-- A byte of a register that takes n bytes of memory, zeros above them. -/
theorem field_memRead (m : Mem) (a n i : Nat) (hn : n ≤ 8) :
    field (BitVec.ofNat 64 (leNat (memRead m a n))) (8 * i) 8 = if i < n then memGet m (a + i) else 0 := by
  have hlt : leNat (memRead m a n) < 2 ^ 64 := calc
    leNat (memRead m a n) < 256 ^ n := memReadLE_lt m a n
    _ ≤ 256 ^ 8 := Nat.pow_le_pow_right (by decide) hn
  have hbyte : (memRead m a n).getD i 0 = if i < n then memGet m (a + i) else 0 := by
    split
    next hin => simp [memRead, hin]
    next hout => simp [memRead, hout]
  refine BitVec.eq_of_toNat_eq ?_
  have hpow : 2 ^ (8 * i) = 256 ^ i := Nat.pow_mul 2 8 i
  have htwo : 2 ^ 8 = 256 := rfl
  simp only [← hbyte, ← leNat_byte, toNat_field, BitVec.toNat_ofNat, Nat.mod_eq_of_lt hlt, hpow, htwo]

theorem readS_writeS (k : Task) {d : BitVec 6} (hd : d ≠ 0) (v : Word) (r : BitVec 6) :
    readS (writeS k d v) r = if r = d then v else readS k r := by
  rw [writeS, if_neg hd, readS, readS]
  dsimp only
  rw [getElem_set_getD k.s d r v d.isLt r.isLt]
  split
  next hzero => rw [if_neg fun heq => hd (heq.symm.trans hzero)]
  next hr => by_cases heq : d = r <;> simp [heq, eq_comm]

/-! ### What an access does at its home (R284 to R286) -/

/-- What an atomic leaves in memory: its operand's result, or the old value where a `CAS` fails (R285). -/
def amoLeaves (o : AmoOp) (old v c : Word) : Word := (amoNew o old v c).getD old

theorem amoLeaves_cases (o : AmoOp) (old v c : Word) : amoLeaves o old v c = match o with
    | .add => old + v | .and => old &&& v | .or => old ||| v | .xor => old ^^^ v
    | .min => if old.toInt < v.toInt then old else v
    | .max => if old.toInt < v.toInt then v else old
    | .swap => v
    | .cas => if old = c then v else old := by
  cases o
  case cas =>
    rw [amoLeaves, amoNew]
    dsimp only
    split <;> rfl
  all_goals rfl

/-- An atomic's value is the one that it read, outside recording and replay (R371, R372). -/
theorem recordValue_unlogged {s : State} {ctx : CtxId} (hrec : (s.ctx ctx).recording = false)
    (hrep : (s.ctx ctx).replaying = false) (o : LogOwner) (v : Word) : recordValue ctx o v s = (s, v) := by
  have hv : field (logOf (o.fields 4 0 ++ [(v.toNat, 64)])) 128 64 = v := by
    refine BitVec.eq_of_toNat_eq ?_
    have hlt := v.isLt
    simp only [toNat_field, logOf, LogOwner.fields, List.cons_append, List.nil_append, packNat, BitVec.toNat_ofNat]
    omega
  simp [recordValue, logAnswer, hrec, hrep, hv]

/-- The doubleword of HBM4 that an atomic reads. -/
def oldWord (s : State) (pa : Nat) : Word := BitVec.ofNat 64 (memReadLE s.hbm pa 8)

/-- The state that an atomic of HBM4 leaves (R285). -/
def amoState (s : State) (pa : Nat) (o : AmoOp) (v c : Word) : State :=
  match amoNew o (oldWord s pa) v c with
  | some w => classWrite 0 pa (sizedBytes 8 w) s
  | none => s

section
variable (s : State) (pa : Nat) (o : AmoOp) (v c : Word)

theorem amoState_tile (t : TileId) : (amoState s pa o v c).tile t = s.tile t := by
  unfold amoState
  split <;> rfl

theorem amoState_ctx (i : CtxId) : (amoState s pa o v c).ctx i = s.ctx i := by
  unfold amoState
  split <;> rfl

theorem amoState_hbm (hw : Memory.wf s.hbm = true) :
    memReadLE (amoState s pa o v c).hbm pa 8 = (amoLeaves o (oldWord s pa) v c).toNat ∧
      ∀ a, a < pa ∨ pa + 8 ≤ a → memGet (amoState s pa o v c).hbm a = memGet s.hbm a := by
  unfold amoState amoLeaves
  cases amoNew o (oldWord s pa) v c with
  | none =>
    have hlt : memReadLE s.hbm pa 8 < 2 ^ 64 := memReadLE_lt s.hbm pa 8
    exact ⟨((BitVec.toNat_ofNat ..).trans (Nat.mod_eq_of_lt hlt)).symm, fun _ _ => rfl⟩
  | some w =>
    refine ⟨(memReadLE_memWriteLE_same s.hbm pa 8 w.toNat hw).trans (Nat.mod_eq_of_lt w.isLt), fun a ha => ?_⟩
    exact memGet_memWrite_other _ _ _ _ hw (by rwa [sizedBytes, length_leBytes])

end

/-- The bytes of a store stand where it wrote them, and nowhere else (R286). -/
theorem memGet_store (m : Mem) (pa n : Nat) (v : Word) (hw : Memory.wf m = true) :
    (∀ a, a < pa ∨ pa + n ≤ a → memGet (memWrite m pa (sizedBytes n v)) a = memGet m a) ∧
      ∀ i, i < n → memGet (memWrite m pa (sizedBytes n v)) (pa + i) = BitVec.ofNat 8 (v.toNat / 256 ^ i) := by
  have hlen : (sizedBytes n v).length = n := length_leBytes ..
  refine ⟨fun a ha => memGet_memWrite_other _ _ _ _ hw (by rwa [hlen]), fun i hi => ?_⟩
  rw [memGet_memWrite_same _ _ _ _ hw (by rwa [hlen])]
  simp [sizedBytes, leBytes]

/-! ### Accesses that perform (R281, R284, R305) -/

/-- The first access e at a place of a tile performs by leaf l, but for what its home and the egress hold back (R275, R284). -/
structure State.Performable (s : State) (t : TileId) (p : ScalarPos) (e : QEntry) (l : Lease) : Prop where
  head : posHead (s.tile t) p = some e
  access : e.op ≠ .mark
  sized : e.size ≠ 0
  awake : e.waits = false
  unordered : e.rel = none
  logged : (isAmo e.op && logFull s e.ctx 1) = false
  leaf : translate s (.tile t) e.ctx e.va.toNat = some l
  granted : leaseGrants l (opKind e.op) = true
  allowed : classAllows l.cls e.op = true
  clean : (readsMemory e.op && classPoisoned s l.cls (leasePa l e.va.toNat) e.size) = false

section
variable {s : State} {t : TileId} {p : ScalarPos} {e : QEntry} {l : Lease}

theorem performHead_performs (h : s.Performable t p e l) :
    performHead t p s = performEntry t (p == .load) l e (popPos p) s := by
  have haccess : isAccess e = true := bne_iff_ne.2 h.access
  have hrelease : releaseOk (s.tile t) p e = true := by rw [releaseOk, h.unordered]
  simp [performHead, h.head, haccess, h.sized, h.awake, hrelease, h.logged, h.leaf, h.granted, h.allowed, h.clean]

variable (pop : Tile → Tile)

/-- A load or an atomic of a memory of the package takes effect at its home, and its value enters its register. -/
theorem performEntry_load_here (hhere : beyondHost l.cls = false)
    (hhome : homeWaits s l.cls (leasePa l e.va.toNat) e.size = false) :
    let r := performAt l.cls (leasePa l e.va.toNat) e s
    performEntry t true l e pop s = (r.1.modTile t pop).modTaskAt t fun k => writeS k e.d r.2 := by
  simp [performEntry, hhome, egressHolds, hhere]

variable (hhome : homeWaits s l.cls (leasePa l e.va.toNat) e.size = false)
  (hhost : hostWaits (s.tile t) l.cls (leasePa l e.va.toNat) e.size = false)
include hhome hhost

theorem performEntry_store_here (hhere : beyondHost l.cls = false) :
    performEntry t false l e pop s = (performAt l.cls (leasePa l e.va.toNat) e s).1.modTile t pop := by
  simp [performEntry, hhome, hhost, hhere]

/-- The egress accepts a store to class 1 or 2 (R305). -/
theorem performEntry_store_host (hcls : l.cls = 1 ∨ l.cls = 2) :
    performEntry t false l e pop s = ({ s with accepts := s.accepts + 1 } : State).modTile t fun x =>
      { pop x with hostPend := (pop x).hostPend ++ [⟨e, l.cls, leasePa l e.va.toNat, s.accepts⟩] } := by
  have hbeyond : beyondHost l.cls = true := by rcases hcls with h | h <;> rw [h] <;> rfl
  simp [performEntry, hhome, hhost, hbeyond]

end

section
variable {s : State} {t : TileId} {e : QEntry} {l : Lease} {es : List QEntry}

/-- The first access of a store queue performs while the side log is empty (R281, R284). -/
theorem scalarAccessPerform_store (hq : (s.tile t).storeQ = e :: es) (hop : e.op ≠ .mark) (hlog : (s.tile t).sideLog = []) :
    exec (.scalarAccessPerform t .store) s = (performHead t .store s).ends := by
  simp only [exec_scalarAccessPerform, execScalarAccessPerform, hq, List.head?_cons, hop, hlog]
  rfl

theorem scalarAccessPerform_load (hq : (s.tile t).task.loadQ = e :: es) (hop : e.op ≠ .mark) :
    exec (.scalarAccessPerform t .load) s = (performHead t .load s).ends := by
  simp only [exec_scalarAccessPerform, execScalarAccessPerform, hq, List.head?_cons, hop, if_false]
  rfl

/-- A load of HBM4 brings its bytes to its register, zeros above them, and changes no other (R284). -/
theorem load_performs (h : s.Performable t .load e l) (hq : (s.tile t).task.loadQ = e :: es) (hop : e.op = .load)
    (hsize : e.size ≤ 8) (hd : e.d ≠ 0) (hcls : l.cls = 0)
    (hhome : homeWaits s l.cls (leasePa l e.va.toNat) e.size = false) :
    let pa := leasePa l e.va.toNat
    let u := performHead t .load s
    (u.tile t).task.loadQ = es ∧ u.hbm = s.hbm ∧ u.sward = s.sward ∧
      (∀ i, i < 8 → field (readS (u.tile t).task e.d) (8 * i) 8 = if i < e.size then memGet s.hbm (pa + i) else 0) ∧
      ∀ r, r ≠ e.d → readS (u.tile t).task r = readS (s.tile t).task r := by
  intro pa u
  have hhere : beyondHost l.cls = false := by rw [hcls]; rfl
  have hat : performAt l.cls pa e s = (s, BitVec.ofNat 64 (leNat (memRead s.hbm pa e.size))) := by
    rw [performAt, hop, hcls]
    rfl
  have hu : u = (s.modTile t (popPos .load)).modTaskAt t fun k =>
      writeS k e.d (BitVec.ofNat 64 (leNat (memRead s.hbm pa e.size))) := by
    refine (performHead_performs h).trans ((performEntry_load_here _ hhere hhome).trans ?_)
    rw [hat]
  have htask : (u.tile t).task = writeS { (s.tile t).task with loadQ := es }
      e.d (BitVec.ofNat 64 (leNat (memRead s.hbm pa e.size))) := by
    rw [hu, State.modTaskAt_task, State.modTile_tile_same, popPos, hq]
    rfl
  refine ⟨by rw [htask, writeS, if_neg hd], by rw [hu]; rfl, by rw [hu]; rfl, fun i _ => ?_, fun r hr => ?_⟩
  · rw [htask, readS_writeS _ hd, if_pos rfl, field_memRead _ _ _ _ hsize]
  · rw [htask, readS_writeS _ hd, if_neg hr]
    rfl

/-- An atomic of HBM4 reads the old value to its register and leaves its result in memory, and nothing else of HBM4 changes
(R285). -/
theorem amo_performs {o : AmoOp} {v c : Word} (h : s.Performable t .load e l) (hq : (s.tile t).task.loadQ = e :: es)
    (hop : e.op = .amo o v c) (hd : e.d ≠ 0) (hrec : (s.ctx e.ctx).recording = false)
    (hrep : (s.ctx e.ctx).replaying = false) (hcls : l.cls = 0)
    (hhome : homeWaits s l.cls (leasePa l e.va.toNat) e.size = false) (hw : Memory.wf s.hbm = true) :
    let pa := leasePa l e.va.toNat
    let u := performHead t .load s
    (u.tile t).task.loadQ = es ∧ readS (u.tile t).task e.d = oldWord s pa ∧
      memReadLE u.hbm pa 8 = (amoLeaves o (oldWord s pa) v c).toNat ∧
      ∀ a, a < pa ∨ pa + 8 ≤ a → memGet u.hbm a = memGet s.hbm a := by
  intro pa u
  have hhere : beyondHost l.cls = false := by rw [hcls]; rfl
  have hat : performAt l.cls pa e s = (amoState s pa o v c, oldWord s pa) := by
    have hvalue := recordValue_unlogged (s := amoState s pa o v c) (ctx := e.ctx) (by rw [amoState_ctx, hrec])
      (by rw [amoState_ctx, hrep])
    rw [performAt, hop, hcls]
    exact (if_neg hd).trans (hvalue ..)
  have hu : u = ((amoState s pa o v c).modTile t (popPos .load)).modTaskAt t fun k => writeS k e.d (oldWord s pa) := by
    refine (performHead_performs h).trans ((performEntry_load_here _ hhere hhome).trans ?_)
    rw [hat]
  have htask : (u.tile t).task = writeS { (s.tile t).task with loadQ := es } e.d (oldWord s pa) := by
    rw [hu, State.modTaskAt_task, State.modTile_tile_same, amoState_tile, popPos, hq]
    rfl
  have hhbm : u.hbm = (amoState s pa o v c).hbm := by rw [hu]; rfl
  rw [htask, hhbm]
  refine ⟨by rw [writeS, if_neg hd], ?_, amoState_hbm s pa o v c hw⟩
  rw [readS_writeS _ hd, if_pos rfl]

section
variable {v : Word} (h : s.Performable t .store e l) (hq : (s.tile t).storeQ = e :: es) (hop : e.op = .store v)
  (hhome : homeWaits s l.cls (leasePa l e.va.toNat) e.size = false)
  (hhost : hostWaits (s.tile t) l.cls (leasePa l e.va.toNat) e.size = false)
include h hq hop hhome hhost

/-- A store of HBM4 leaves its queue and writes its bytes, and nothing else of any memory changes (R286). -/
theorem store_performs (hcls : l.cls = 0) (hw : Memory.wf s.hbm = true) :
    let pa := leasePa l e.va.toNat
    let u := performHead t .store s
    (u.tile t).storeQ = es ∧ u.sward = s.sward ∧ u.hostMem = s.hostMem ∧ u.cxlMem = s.cxlMem ∧
      (∀ a, a < pa ∨ pa + e.size ≤ a → memGet u.hbm a = memGet s.hbm a) ∧
      ∀ i, i < e.size → memGet u.hbm (pa + i) = BitVec.ofNat 8 (v.toNat / 256 ^ i) := by
  intro pa u
  have hhere : beyondHost l.cls = false := by rw [hcls]; rfl
  have hat : performAt l.cls pa e s = (classWrite 0 pa (sizedBytes e.size v) s, 0) := by rw [performAt, hop, hcls]
  have hu : u = (classWrite 0 pa (sizedBytes e.size v) s).modTile t (popPos .store) := by
    refine (performHead_performs h).trans ((performEntry_store_here _ hhome hhost hhere).trans ?_)
    rw [hat]
  refine ⟨?queue, by rw [hu]; rfl, by rw [hu]; rfl, by rw [hu]; rfl, ?bytes⟩
  case queue =>
    rw [hu, State.modTile_tile_same]
    exact (congrArg (List.drop 1) hq :)
  case bytes =>
    rw [hu]
    exact memGet_store s.hbm pa e.size v hw

omit hop in
/-- A store to class 1 or 2 leaves its queue as the egress accepts it, and no memory changes (R305). -/
theorem store_accepted (hcls : l.cls = 1 ∨ l.cls = 2) :
    let u := performHead t .store s
    (u.tile t).storeQ = es ∧ u.sward = s.sward ∧ u.hbm = s.hbm ∧ u.hostMem = s.hostMem ∧ u.cxlMem = s.cxlMem ∧
      (u.tile t).hostPend = (s.tile t).hostPend ++ [⟨e, l.cls, leasePa l e.va.toNat, s.accepts⟩] := by
  intro u
  have hu : u = _ := (performHead_performs h).trans (performEntry_store_host _ hhome hhost hcls)
  rw [hu]
  refine ⟨?queue, rfl, rfl, rfl, rfl, ?pend⟩
  case queue =>
    rw [State.modTile_tile_same]
    exact (congrArg (List.drop 1) hq :)
  case pend => rw [State.modTile_tile_same]; rfl

end

/-- An accepted store to host memory writes its bytes as its completion returns, after every earlier one to the same bytes
(R305, R306). -/
theorem hostComplete_store {w : HostWrite} {rest : List HostWrite} {v : Word} (hq : (s.tile t).hostPend = w :: rest)
    (hcls : w.cls = 2) (hop : w.e.op = .store v) (hhome : homeWaits s w.cls w.pa w.e.size = false)
    (hfirst : ∀ x ∈ s.tiles, ∀ y ∈ x.hostPend, y.num < w.num →
      rangesOverlap y.cls y.pa y.e.size w.cls w.pa w.e.size = false)
    (hw : Memory.wf s.hostMem = true) :
    let u := hostComplete t 0 s
    (u.tile t).hostPend = rest ∧ u.hbm = s.hbm ∧ u.sward = s.sward ∧ u.cxlMem = s.cxlMem ∧
      (∀ a, a < w.pa ∨ w.pa + w.e.size ≤ a → memGet u.hostMem a = memGet s.hostMem a) ∧
      ∀ i, i < w.e.size → memGet u.hostMem (w.pa + i) = BitVec.ofNat 8 (v.toNat / 256 ^ i) := by
  intro u
  have hearlier : (s.tiles.any fun x => x.hostPend.any fun y =>
      decide (y.num < w.num) && rangesOverlap y.cls y.pa y.e.size w.cls w.pa w.e.size) = false :=
    Vector.any_eq_false'.2 fun x hx => by simpa using hfirst x hx
  have hat : performAt w.cls w.pa w.e s = (classWrite 2 w.pa (sizedBytes w.e.size v) s, 0) := by rw [performAt, hop, hcls]
  have hu : u = (classWrite 2 w.pa (sizedBytes w.e.size v) s).modTile t
      fun y => { y with hostPend := y.hostPend.eraseIdx 0 } := by
    simp only [u, hostComplete, hq, List.getElem?_cons_zero, hhome, hearlier, Bool.or_false, Bool.false_eq_true, if_false, hat]
  refine ⟨?queue, by rw [hu]; rfl, by rw [hu]; rfl, by rw [hu]; rfl, ?bytes⟩
  case queue =>
    rw [hu, State.modTile_tile_same]
    exact (congrArg (fun q : List HostWrite => q.eraseIdx 0) hq :)
  case bytes =>
    rw [hu]
    exact memGet_store s.hostMem w.pa w.e.size v hw

end

/-! ### Completion of a command (R267, R293, R303) -/

theorem cmd?_eq_none_iff (s : State) (id : Nat) : s.cmd? id = none ↔ id ∉ s.cmds.map fun c => c.id := by
  simp [State.cmd?]

theorem map_ids_of_kept {f : Cmd → Cmd} (hf : ∀ x, (f x).id = x.id) (cs : List Cmd) :
    (cs.map f).map (fun x => x.id) = cs.map fun x => x.id :=
  (List.map_map ..).trans (List.map_congr_left fun x _ => hf x)

/-- The task that stands on a tile is changed there (R139). -/
theorem modUid_tile {s : State} {u : Nat} {m : TileId} (h : tileOf s u = some m) (f : Task → Task) :
    (modUid u f s).tile m = { s.tile m with task := f (s.tile m).task } := by
  have hstands := List.find?_some h
  simp only [Bool.and_eq_true, bne_iff_ne, ne_eq, beq_iff_eq] at hstands
  obtain ⟨hstatus, huid⟩ := hstands
  have hmap : (modUid u f s).tile m = if (s.tile m).status = .free then s.tile m
      else { s.tile m with task := if (s.tile m).task.uid = u then f (s.tile m).task else (s.tile m).task } :=
    Vector.getElem_map ..
  rw [hmap, if_neg hstatus, if_pos huid]

section
variable (c : Cmd) (st detail : BitVec 8) (s : State)

/-- The status of a command marks other commands and enters a fault queue, and changes nothing else. -/
theorem statusEntry_passStatus_frame : ∃ cs ds, statusEntry c st (passStatus c st s) = { s with cmds := cs, dies := ds } ∧
    cs.map (fun x => x.id) = s.cmds.map fun x => x.id := by
  have hpass : ∃ cs, passStatus c st s = { s with cmds := cs } ∧ cs.map (fun x => x.id) = s.cmds.map fun x => x.id := by
    unfold passStatus
    split
    · split
      · exact ⟨s.cmds, rfl, rfl⟩
      · exact ⟨_, rfl, map_ids_of_kept (fun x => by split <;> rfl) s.cmds⟩
    · exact ⟨s.cmds, rfl, rfl⟩
  obtain ⟨cs, hcs, hids⟩ := hpass
  rw [hcs]
  unfold statusEntry
  split
  · exact ⟨cs, s.dies, rfl, hids⟩
  · exact ⟨cs, _, rfl, hids⟩

theorem giveToken_ids : (giveToken c st detail s).cmds.map (fun x => x.id) = s.cmds.map fun x => x.id := by
  unfold giveToken
  split
  · rfl
  · dsimp only
    split
    · rfl
    · exact map_ids_of_kept (fun x => by split <;> rfl) s.cmds

theorem giveToken_sward : (giveToken c st detail s).sward = s.sward := by
  unfold giveToken
  split
  · rfl
  · dsimp only
    split <;> rfl

variable {c s}

theorem giveToken_token {r : BitVec 5} {m : TileId} (hkp : c.kp = some r) (htile : tileOf s c.task = some m)
    (hpend : (readK (taskOf s c.task) r).pend = true) (hseq : (readK (taskOf s c.task) r).seq = c.seq) :
    readK ((giveToken c st detail s).tile m).task r = ⟨false, st, detail, c.seq⟩ := by
  have hgive : (giveToken c st detail s).tile m =
      (modUid c.task (fun k => setK k r ⟨false, st, detail, c.seq⟩) s).tile m := by
    simp [giveToken, hkp, hpend, hseq, State.tile]
  rw [hgive, modUid_tile htile]
  exact Vector.getElem_set_self ..

end

section
variable {s : State} {id : Nat} {c : Cmd} (hc : s.cmd? id = some c) (hphase : c.phase = .stopping) (hawaits : awaits c = false)
  (hwatch : ∀ x ∈ s.cmds, x.id = id → x.watchHeld = false) (harr : parArr c.par = false) (hkind : c.kind ≠ 8)
include hc hphase hawaits hwatch harr hkind

/-- A command that has no record to write and no arrive to make completes with its status (R267). -/
theorem completeCmd_completes : completeCmd id s = giveToken c c.status c.detail
    (statusEntry c c.status (passStatus c c.status { s with cmds := s.cmds.filter fun x => x.id ≠ id })) := by
  have hid : c.id = id := beq_iff_eq.1 (List.find?_some (p := fun x : Cmd => x.id == id) hc)
  have hheld : c.watchHeld = false := hwatch c (List.mem_of_find?_eq_some hc) hid
  have hrecord : writeRecord c s = some s := if_pos (.inl hkind)
  have hnone : (s.cmds.any fun x => x.id == id && x.watchHeld) = false := by simpa using hwatch
  have harrive : cmdArrive c s = (s, c.status) := by
    simp only [cmdArrive, hkind, false_and, if_false, harr, Bool.not_false, or_true, if_true]
  simp [completeCmd, hc, hphase, hawaits, hheld, harr, hrecord, hnone, harrive]

theorem completeCmd_results :
    let u := completeCmd id s
    u.cmd? id = none ∧ u.sward = s.sward ∧
      ∀ r m, c.kp = some r → tileOf s c.task = some m → (readK (taskOf s c.task) r).pend = true →
        (readK (taskOf s c.task) r).seq = c.seq → readK (u.tile m).task r = ⟨false, c.status, c.detail, c.seq⟩ := by
  intro u
  obtain ⟨cs, ds, hframe, hids⟩ :=
    statusEntry_passStatus_frame c c.status { s with cmds := s.cmds.filter fun x => x.id ≠ id }
  have hu : u = giveToken c c.status c.detail { s with cmds := cs, dies := ds } := by
    rw [← hframe]
    exact completeCmd_completes hc hphase hawaits hwatch harr hkind
  rw [hu]
  refine ⟨?gone, giveToken_sward .., fun r m hkp htile hpend hseq => ?token⟩
  case gone =>
    rw [cmd?_eq_none_iff, giveToken_ids]
    exact hids ▸ by simp
  case token =>
    exact giveToken_token (s := { s with cmds := cs, dies := ds }) c.status c.detail hkp htile hpend hseq

end

theorem commandStart_waiting {s : State} {id : Nat} {c c1 : Cmd} (hc : s.cmd? id = some c) (hphase : c.phase = .waiting)
    (hc1 : (acceptCmd c s).cmd? id = some c1) : exec (.commandStart id) s =
      (if startReady (acceptCmd c s) c1 then startCmd c1 (acceptCmd c s) else acceptCmd c s).ends := by
  simp only [exec_commandStart, execCommandStart, hc, hphase, hc1, ne_eq, not_true_eq_false, if_false]
  rfl

end Sys2Proof.Machine

open Sys2Proof Sys2Proof.Machine

/-- Settles O44: each event by the lemma of its case; an access performs once it is shown to meet what its queue asks. -/
theorem unitEventResults : Obligations.UnitEventResults := by
  intro s t h id k steps
  refine ⟨?advance, ?load, ?feed, ?loadHead, ?loads, ?amos, ?storeHead, ?stores, rfl, ?host, fun i => ⟨rfl, rfl, rfl⟩, rfl,
    rfl, ?start, ?beat, rfl, ?complete, ?absent⟩
  case advance =>
    intro e hfind hreads x
    refine ⟨_, headAdvance_advances hfind hreads, ?_⟩
    rw [State.sig_tile, State.modTaskAt_task, readH_setH_same]
    exact ⟨rfl, rfl, rfl, rfl⟩
  case load =>
    intro l hown hload
    refine ⟨_, matrixLoadComplete_own hown, ?_⟩
    rw [State.sig_tile, State.modTaskAt_task, completeLoad_eq hload, stepHead_head, stepHead_mat]
    exact ⟨rfl, rfl, rfl, rfl, rfl⟩
  case feed =>
    intro f rest hown hfeeds
    refine ⟨fun hdue => ⟨_, mfeedLanding_own hown hfeeds, ?_⟩, fun hearly => ⟨_, mfeedLanding_own hown hfeeds, ?_⟩⟩
    · rw [State.sig_tile, State.modTaskAt_task, if_pos hdue, landFeed_eq hfeeds, stepHead_head, stepHead_mat]
      exact ⟨rfl, rfl, rfl⟩
    · exact modTaskAt_of_unchanged s t _ (if_neg (Nat.not_le.2 hearly))
  case loadHead => exact fun e es hq hop => scalarAccessPerform_load hq hop
  case loads =>
    intro e es l hq hop hsized hsize hawake hrel hd hleaf hr hcls pa hhome hclean
    have hperf : s.Performable t .load e l :=
      { head := congrArg List.head? hq, access := by rw [hop]; decide, sized := hsized, awake := hawake, unordered := hrel
        logged := by rw [hop]; rfl, leaf := hleaf, granted := by rw [hop]; exact hr, allowed := by rw [hop, hcls]; rfl
        clean := by rw [hop, hcls]; exact hclean }
    exact load_performs hperf hq hop hsize hd hcls hhome
  case amos =>
    intro e es l o v c hq hop hsize hawake hrel hd hrec hrep hleaf hr hw hat hsnap hcls pa hhome hclean hwf u old new
    have hperf : s.Performable t .load e l :=
      { head := congrArg List.head? hq, access := by rw [hop]; exact ScalarOp.noConfusion, sized := by rw [hsize]; decide
        awake := hawake, unordered := hrel, logged := by simp [logFull, hrec], leaf := hleaf
        granted := by simp [hop, opKind, leaseGrants, hr, hw, hat, hsnap], allowed := by rw [hop, hcls]; rfl
        clean := by rw [hop, hcls, hsize]; exact hclean }
    have hnew : new = amoLeaves o old v c := (amoLeaves_cases o old v c).symm
    rw [hnew]
    exact amo_performs hperf hq hop hd hrec hrep hcls (hsize ▸ hhome) hwf
  case storeHead => exact fun e es hq hop hlog => scalarAccessPerform_store hq hop hlog
  case stores =>
    intro e es v l hq hlog hop hsized hawake hrel hleaf hgrant pa hhome hhost
    have hmark : e.op ≠ .mark := by rw [hop]; exact ScalarOp.noConfusion
    have hexec := scalarAccessPerform_store hq hmark hlog
    have hperf (hallowed : l.cls ≠ 4) : s.Performable t .store e l :=
      { head := congrArg List.head? hq, access := hmark, sized := hsized, awake := hawake, unordered := hrel
        logged := by rw [hop]; rfl, leaf := hleaf, granted := hgrant
        allowed := by rw [hop]; exact bne_iff_ne.2 hallowed, clean := by rw [hop]; rfl }
    refine ⟨fun hcls hwf => ⟨_, hexec, ?home⟩, fun hcls => ⟨_, hexec, ?accepted⟩⟩
    case home => exact store_performs (hperf (by rw [hcls]; decide)) hq hop hhome hhost hcls hwf
    case accepted =>
      exact store_accepted (hperf (by rcases hcls with h | h <;> rw [h] <;> decide)) hq hhome hhost hcls
  case host => exact fun w rest v hq hcls hop hhome hfirst hwf => hostComplete_store hq hcls hop hhome hfirst hwf
  case start => exact fun c hc hphase c1 hc1 => commandStart_waiting hc hphase hc1
  case beat =>
    intro c hc
    simp only [exec_copyBeat, execCopyBeat, hc]
    rfl
  case complete =>
    exact fun c hc hphase hawaits hwatch harr hkind => completeCmd_results hc hphase hawaits hwatch harr hkind
  case absent =>
    intro hnone
    simp only [exec_commandStart, execCommandStart, exec_copyBeat, execCopyBeat, hnone]
    exact ⟨rfl, rfl⟩
end

section
/-! The transposer, tree descent and regrouping: O22 and O23. What slots that make exposed writes leave as it was, each
instruction on a ready slot, and lists of lanes sorted by their index. -/

namespace Sys2Proof.Machine

/-! ### Slots that make several exposed writes (R175, R177) -/

/-- A slot that makes exposed writes and changes its task at issue besides. -/
theorem slotDone_emits_modTask (s : State) (ws : List (Nat × LandVal)) (f : Task → Task) :
    slotDone ((ws.foldl (fun s w => emit w.1 w.2 s) s).modTask f) = .next ((s.after ws).modTask f) := rfl

@[simp] theorem emit_tk (lat : Nat) (v : LandVal) (s : State) :
    (emit lat v s).tk = { s.tk with pend := insertLanding ⟨s.me.ic + lat, s.ordNow, v⟩ s.tk.pend } := State.modTask_tk ..

@[simp] theorem landV_emit (lat l : Nat) (v : LandVal) (r : BitVec 6) (x : VReg) (s : State) :
    (emit lat v s).landV l r x = s.landV l r x := by
  rw [State.landV, emit_tk, State.landV]

theorem State.landV_emits (l : Nat) (r : BitVec 6) (x : VReg) (s : State) (ws : List (Nat × LandVal)) :
    (ws.foldl (fun s w => emit w.1 w.2 s) s).landV l r x = s.landV l r x :=
  List.foldlRecOn (motive := fun t : State => t.landV l r x = s.landV l r x) ws _ rfl fun _ ht _ _ =>
    (landV_emit ..).trans ht

theorem emitV_eq (lat : Nat) (r : BitVec 6) (v : VReg) (s : State) :
    emitV lat r v s = (s.landV lat r v).foldl (fun s w => emit w.1 w.2 s) s := rfl

theorem slotDone_three_emitV (l : Nat) (p q r : BitVec 6) (x y z : VReg) (s : State) :
    slotDone (emitV l r z (emitV l q y (emitV l p x s))) =
      .next (s.after (s.landV l p x ++ s.landV l q y ++ s.landV l r z)) := by
  simp only [emitV_eq, State.landV_emits, emits_emits]
  rfl

theorem slotDone_emit_emitV (l m : Nat) (v : LandVal) (r : BitVec 6) (x : VReg) (s : State) :
    slotDone (emitV m r x (emit l v s)) = .next (s.after ((l, v) :: s.landV m r x)) := by
  rw [emitV_eq, landV_emit]
  rfl

/-- A slot that only makes exposed writes changes no memory and no register: its writes are still to land. -/
theorem keeps_of_after {o : Out} {s : State} {ws : List (Nat × LandVal)} (ho : o = .next (s.after ws)) : ∃ t, o = .next t ∧
    t.sig = .done ∧ t.hbm = s.hbm ∧ t.sward = s.sward ∧ t.tk.s = s.tk.s ∧ t.tk.v = s.tk.v := by
  refine ⟨_, ho, rfl, List.foldlRecOn
    (motive := fun t : State => t.hbm = s.hbm ∧ t.sward = s.sward ∧ t.tk.s = s.tk.s ∧ t.tk.v = s.tk.v)
    ws _ ⟨rfl, rfl, rfl, rfl⟩ fun t ht w _ => ?_⟩
  rw [emit_tk]
  exact ht

/-! ### The transposer (R254) -/

section
variable {s : State} {a d : BitVec 6} (h : s.readyFor [.transpose, .vector] [] = true)
include h

theorem exec_xpush_ready (hrows : s.tk.xp.pushn < 64) (hacc : acceptElem32 (readV s.tk a).tag = true)
    (hdef : isReservedTag (readV s.tk a).tag = false) (htag : s.tk.xp.tag = tagEmpty ∨ s.tk.xp.tag = (readV s.tk a).tag) :
    exec (.xpush a) s = .next ((s.after [(6, .xpush s.tk.xp.pushn ((readV s.tk a).lanes.map laneLow))]).modTask fun k =>
      { k with xp := { k.xp with pushn := s.tk.xp.pushn + 1, tag := (readV s.tk a).tag } }) := by
  have hok : (acceptElem32 (readV s.tk a).tag && (s.tk.xp.tag == tagEmpty || s.tk.xp.tag == (readV s.tk a).tag)) = true := by
    simpa [hacc] using htag
  rw [exec_xpush, execXpush, runClaiming_passes h _ _ (List.forall_mem_singleton.2 (Src.passes_moved hdef hok)),
    if_neg (Nat.not_le.2 hrows)]
  exact slotDone_emits_modTask s [(6, _)] _

theorem exec_xpop_ready (hcols : s.tk.xp.popn < 64) (htag : s.tk.xp.tag ≠ tagEmpty) :
    exec (.xpop d) s = .next ((s.after (s.landV 6 d ⟨Vector.ofFn fun l =>
      lane32 (popLane s.tk.xp s.tk.xp.popn l.val), s.tk.xp.tag⟩)).modTask
        fun k => { k with xp := { k.xp with popn := s.tk.xp.popn + 1 } }) := by
  rw [exec_xpop, execXpop, runClaiming_ready _ h]
  simp only [ge_iff_le, Nat.not_le.2 hcols, htag, if_false]
  exact slotDone_emits_modTask s (s.landV ..) _

end

/-! ### Tree descent (R255) -/

/-- The trace that a row's descent begins with: a fresh one, or its register's. -/
def traceStart (k : Task) (w : Word) (n : Nat) : BitVec 32 := if w.getLsbD 10 then 0 else readPT k (BitVec.ofNat 6 n)

/-- The rows of a descent, from V[a] on. -/
def treeRows (a : BitVec 6) (w : Word) : List Nat := (List.range (w.toNat % 64 + 1)).map (a.toNat + ·)

theorem find?_map_key {α : Type} (f : Nat → α) (rows : List Nat) (l : Nat) :
    ((rows.map fun n => (n, f n)).find? fun e => e.1 == l) = if rows.contains l then some (l, f l) else none := by
  induction rows with
  | nil => rfl
  | cons n rows ih =>
    by_cases hn : n = l
    · simp [hn]
    · simp [hn, Ne.symm hn, ih]

section
variable {s : State} {d a b : BitVec 6} (h : s.readyFor [.vector, .matrix] [b] = true) (hword : (readS s.tk b).toNat < 2 ^ 11)
  (hlo : 1 ≤ (readS s.tk b).toNat / 64 % 16) (hhi : (readS s.tk b).toNat / 64 % 16 ≤ 8)
  (hrows : a.toNat + (readS s.tk b).toNat % 64 + 1 ≤ 64)
  (htags : ∀ n ∈ treeRows a (readS s.tk b), (readV s.tk (BitVec.ofNat 6 n)).tag = tagI40)
  (hdepth : ∀ n ∈ treeRows a (readS s.tk b),
    (traceStart s.tk (readS s.tk b) n).toNat / 2 ^ 27 + (readS s.tk b).toNat / 64 % 16 ≤ 27)
include h hword hlo hhi hrows htags hdepth

theorem exec_mdesc_ready :
    let w := readS s.tk b
    let lev := w.toNat / 64 % 16
    let out (n : Nat) := descend (readV s.tk (BitVec.ofNat 6 n)) lev (traceStart s.tk w n) 0
    exec (.mdesc d a b) s = .next (s.after
      ((4, .pts ((treeRows a w).map fun n => (BitVec.ofNat 6 n, (out n).1))) :: s.landV 4 d ⟨Vector.ofFn fun l =>
        lane32 (if (treeRows a w).contains l.val then BitVec.ofNat 32 ((out l.val).2 - (2 ^ lev - 1))
          else BitVec.allOnes 32), tagI32⟩)) := by
  intro w lev out
  have hm : (field w 0 6).toNat = w.toNat % 64 := toNat_field_low w 6
  have hlev : (field w 6 4).toNat = lev := toNat_field w 6 4
  have hhigh : field w 11 53 = 0 := BitVec.eq_of_toNat_eq (by rw [toNat_field, Nat.div_eq_of_lt hword]; rfl)
  have hform : ¬ (field w 11 53 ≠ 0 ∨ lev = 0 ∨ lev > 8) := by
    rintro (hne | hzero | hmore)
    · exact hne hhigh
    · exact absurd hzero (Nat.one_le_iff_ne_zero.1 hlo)
    · exact Nat.not_lt.2 hhi hmore
  have hpass : ∀ x ∈ (treeRows a w).map fun n => (⟨0, (readV s.tk (BitVec.ofNat 6 n)).tag, true,
      (readV s.tk (BitVec.ofNat 6 n)).tag == tagI40⟩ : Src), x.Passes := by
    intro x hx
    obtain ⟨n, hn, rfl⟩ := List.mem_map.1 hx
    rw [htags n hn]
    exact ⟨rfl, rfl, rfl⟩
  have hshort : ((treeRows a w).any fun n => decide ((field (traceStart s.tk w n) 27 5).toNat + lev > 27)) = false := by
    refine List.any_eq_false.2 fun n hn => ?_
    rw [decide_eq_true_eq, toNat_field]
    exact Nat.not_lt.2 (Nat.le_trans (Nat.add_le_add_right (Nat.mod_le ..) _) (hdepth n hn))
  have hlanes : ofLanes tagI32 (fun l =>
      match ((treeRows a w).map fun n => (n, out n)).find? fun e => e.1 == l.val with
      | some e => BitVec.ofNat 32 (e.2.2 - (2 ^ lev - 1))
      | none => BitVec.allOnes 32) = ⟨Vector.ofFn fun l => lane32 (if (treeRows a w).contains l.val then
        BitVec.ofNat 32 ((out l.val).2 - (2 ^ lev - 1)) else BitVec.allOnes 32), tagI32⟩ := by
    rw [ofLanes]
    congr 2
    funext l
    rw [find?_map_key]
    cases (treeRows a w).contains l.val <;> rfl
  have hfit : ¬ a.toNat + (w.toNat % 64 + 1) > 64 := Nat.not_lt.2 hrows
  rw [exec_mdesc, execMdesc, runMatrix, runClaiming_ready _ h]
  dsimp only
  rw [hlev, if_neg hform, hm, if_neg hfit, ← hlanes]
  refine (congrArg _ (checkTags_ok (srcs := (treeRows a w).map _) _ (tagFault_of_passes hpass))).trans ?_
  refine (congrArg _ (if_neg (Bool.eq_false_iff.1 hshort))).trans ?_
  refine (slotDone_emit_emitV ..).trans ?_
  rw [List.map_map]
  rfl

end

/-! ### Lanes by their index (R256) -/

theorem laneLow_ofLanes (tag : BitVec 6) (f : Fin 256 → BitVec 32) (i : Fin 256) :
    laneLow (ofLanes tag f).lanes[i] = f i := by
  have hlane : (ofLanes tag f).lanes[i] = lane32 (f i) := Vector.getElem_ofFn ..
  rw [hlane]
  refine BitVec.eq_of_getLsbD_eq fun j hj => ?_
  simp only [laneLow, lane32, BitVec.getLsbD_setWidth, BitVec.getLsbD_signExtend]
  simp [hj, Nat.lt_trans hj (by decide : 32 < 40)]

/-- A list in its own order, without the elements that p leaves out: element i stands behind those before it. -/
theorem getElem?_filter_of_sorted {n : Nat} (p : Fin n → Bool) (l : List (Fin n)) (hl : l.Pairwise (· < ·)) (i : Fin n)
    (hi : i ∈ l) (hp : p i = true) : (l.filter p)[(l.filter fun j => decide (j < i) && p j).length]? = some i := by
  induction l with
  | nil => simp at hi
  | cons a l ih =>
    obtain ⟨hfirst, hrest⟩ := List.pairwise_cons.1 hl
    rcases List.mem_cons.1 hi with rfl | hmem
    · have hnone : l.filter (fun j => decide (j < i) && p j) = [] := by
        refine List.filter_eq_nil_iff.2 fun j hj => ?_
        have hnot : ¬ j < i := fun hlt => Nat.lt_asymm hlt (hfirst j hj)
        rw [decide_eq_false hnot, Bool.false_and]
        exact Bool.false_ne_true
      simp [hp, hnone]
    · have hlt : a < i := hfirst i hmem
      have := ih hrest hmem
      cases hpa : p a <;> simp [hpa, hlt, this]

/-- Element q of list u of n lists stands behind the elements of the lists before it. -/
theorem getElem?_flatMap_range {α : Type} (f : Nat → List α) {n u q : Nat} (hu : u < n) (hq : q < (f u).length) :
    ((List.range n).flatMap f)[((List.range u).flatMap f).length + q]? = (f u)[q]? := by
  obtain ⟨m, rfl⟩ := Nat.exists_eq_add_of_lt hu
  rw [show u + m + 1 = u + (1 + m) by omega, List.range_add, List.range_add, List.flatMap_append, List.map_append,
    List.flatMap_append, List.getElem?_append_right (Nat.le_add_right ..), Nat.add_sub_cancel_left]
  simp [List.getElem?_append_left hq]

section
variable (idx : Fin 256 → Int)

/-- The lanes of index u, in their order. -/
def bucket (u : Nat) : List (Fin 256) := (List.finRange 256).filter fun i => decide (idx i = (u : Int))

/-- The lanes of all indices below n, those of each index in their order. -/
def regrouped (n : Nat) : List (Fin 256) := (List.range n).flatMap (bucket idx)

theorem regrouped_succ (n : Nat) : regrouped idx (n + 1) = regrouped idx n ++ bucket idx n := by
  simp [regrouped, List.range_succ]

theorem length_filter_below_succ (l : List (Fin 256)) (n : Nat) :
    (l.filter fun i => decide (0 ≤ idx i ∧ idx i < ((n + 1 : Nat) : Int))).length =
      (l.filter fun i => decide (0 ≤ idx i ∧ idx i < (n : Int))).length +
        (l.filter fun i => decide (idx i = (n : Int))).length := by
  induction l with
  | nil => rfl
  | cons a l ih =>
    simp only [List.filter_cons, decide_eq_true_eq]
    by_cases hat : idx a = (n : Int)
    · have hsucc : 0 ≤ idx a ∧ idx a < ((n + 1 : Nat) : Int) := by omega
      have hbelow : ¬ (0 ≤ idx a ∧ idx a < (n : Int)) := by omega
      rw [if_pos hat, if_pos hsucc, if_neg hbelow, List.length_cons, List.length_cons, ih, Nat.add_assoc]
    · have hsame : (0 ≤ idx a ∧ idx a < ((n + 1 : Nat) : Int)) ↔ 0 ≤ idx a ∧ idx a < (n : Int) := by omega
      rw [if_neg hat]
      by_cases hbelow : 0 ≤ idx a ∧ idx a < (n : Int)
      · rw [if_pos (hsame.2 hbelow), if_pos hbelow, List.length_cons, List.length_cons, ih, Nat.add_right_comm]
      · rw [if_neg (mt hsame.1 hbelow), if_neg hbelow, ih]

theorem length_regrouped (n : Nat) :
    (regrouped idx n).length = ((List.finRange 256).filter fun i => decide (0 ≤ idx i ∧ idx i < (n : Int))).length := by
  induction n with
  | zero =>
    refine (List.length_eq_zero_iff.2 (List.filter_eq_nil_iff.2 fun i _ => ?_)).symm
    rw [decide_eq_true_eq]
    omega
  | succ n ih => rw [regrouped_succ, List.length_append, ih, length_filter_below_succ, bucket]

theorem toNat_laneCount {n : Nat} (h : n ≤ (List.finRange 256).length) : (BitVec.ofNat 32 n).toNat = n := by
  rw [List.length_finRange] at h
  rw [BitVec.toNat_ofNat]
  omega

/-- The place of a lane of index u: behind the lanes of lower indices and behind the lanes of index u before it. -/
theorem regrouped_position {i : Fin 256} {u : Nat} (hu : u < 256) (hi : idx i = (u : Int)) :
    (regrouped idx 256)[(regrouped idx u).length +
      ((List.finRange 256).filter fun j => decide (j < i ∧ idx j = (u : Int))).length]? = some i := by
  have hplace := getElem?_filter_of_sorted (fun j => decide (idx j = (u : Int))) (List.finRange 256)
    (List.pairwise_lt_finRange 256) i (List.mem_finRange i) (decide_eq_true hi)
  simp only [Bool.decide_and]
  obtain ⟨hshort, -⟩ := List.getElem?_eq_some_iff.1 hplace
  exact (getElem?_flatMap_range (bucket idx) hu hshort).trans hplace

end

/-! ### Regrouping (R256) -/

/-- The index that a lane holds. -/
def laneIndex (v : VReg) (i : Fin 256) : Int := (laneLow v.lanes[i]).toInt

section
variable (v : VReg)

theorem lanes_indices : (v.lanes.toList.map fun l => (laneLow l).toInt) = (List.finRange 256).map (laneIndex v) := by
  refine List.ext_getElem (by simp) fun i hi _ => ?_
  simp [laneIndex]

theorem count_index (u : Nat) : (((List.finRange 256).map (laneIndex v)).filter fun i => decide (i = (u : Int))).length =
    (bucket (laneIndex v) u).length := by
  rw [List.filter_map, List.length_map]
  rfl

theorem range_eq_map_finRange (n : Nat) : List.range n = (List.finRange n).map fun i => i.val :=
  List.ext_getElem (by simp) fun i _ _ => by simp

theorem zip_index (u : Nat) : (((List.finRange 256).map (laneIndex v)).zip (List.range 256)).filterMap
    (fun e => if e.1 = (u : Int) then some e.2 else none) = (bucket (laneIndex v) u).map fun i => i.val := by
  rw [range_eq_map_finRange, List.zip_map', List.filterMap_map, bucket, ← List.filterMap_eq_map,
    ← List.filterMap_eq_filter, List.filterMap_filterMap]
  refine congrArg (List.filterMap · _) (funext fun i => ?_)
  by_cases hi : laneIndex v i = (u : Int) <;> simp [Option.guard, hi]

theorem sorted_lanes : (List.range 256).flatMap (fun u => (bucket (laneIndex v) u).map fun i => i.val) =
    (regrouped (laneIndex v) 256).map fun i => i.val := List.map_flatMap.symm

theorem sum_counts (f : Nat → List (Fin 256)) (n : Nat) :
    (List.range n).foldl (fun m u => m + (f u).length) 0 = ((List.range n).flatMap f).length := by
  induction n with
  | zero => rfl
  | succ n ih => simp [List.range_succ, ih]

end

/-- The lane of the order of a regroup: the lane that stands there, or all ones. -/
def orderLane (v : VReg) (l : Nat) : BitVec 32 :=
  match ((regrouped (laneIndex v) 256).map fun i => i.val)[l]? with
  | some i => BitVec.ofNat 32 i
  | none => BitVec.allOnes 32

theorem orderLane_of_position {v : VReg} {l : Nat} {i : Fin 256} (hi : (regrouped (laneIndex v) 256)[l]? = some i) :
    orderLane v l = BitVec.ofNat 32 i.val := by
  rw [orderLane, List.getElem?_map, hi]
  rfl

section
variable {s : State} {d a b : BitVec 6} (h : s.readyFor [.vector, .matrix] [] = true)
  (htag : (readV s.tk a).tag = tagI32) (hidx : ∀ i, -1 ≤ laneIndex (readV s.tk a) i ∧ laneIndex (readV s.tk a) i ≤ 255)
include h htag hidx

theorem exec_mregroup_ready :
    let idx := laneIndex (readV s.tk a)
    exec (.mregroup d a b) s = .next (s.after (
      s.landV 8 d (ofLanes tagI32 fun l => orderLane (readV s.tk a) l.val) ++
      s.landV 8 b (ofLanes tagI32 fun l => BitVec.ofNat 32 (bucket idx l.val).length) ++
      s.landV 8 (b + 1) (ofLanes tagI32 fun l => BitVec.ofNat 32 (regrouped idx l.val).length))) := by
  intro idx
  have hsrc : Src.Passes ⟨0, (readV s.tk a).tag, true, (readV s.tk a).tag == tagI32⟩ := by
    rw [htag]
    exact ⟨rfl, rfl, rfl⟩
  have hrange : (((List.finRange 256).map idx).any fun i => decide (i < -1 ∨ i > 255)) = false := by
    simp only [List.any_eq_false, List.mem_map, decide_eq_true_eq]
    rintro _ ⟨i, -, rfl⟩
    have hi : -1 ≤ idx i ∧ idx i ≤ 255 := hidx i
    omega
  rw [exec_mregroup, execMregroup, runMatrix, runClaiming_passes h _ _ (List.forall_mem_singleton.2 hsrc), lanes_indices]
  rw [if_neg (Bool.eq_false_iff.1 hrange)]
  simp only [count_index, zip_index, sorted_lanes, sum_counts, List.getElem?_toArray]
  exact slotDone_three_emitV ..

end

end Sys2Proof.Machine

open Sys2Proof Sys2Proof.Machine

/-- Settles O22: a push and a pop where the counts and the tag allow them, the rest without a condition. -/
theorem transposerResults : Obligations.TransposerResults := by
  refine ⟨fun s d a h => ⟨exec_xpush_ready h, exec_xpop_ready h⟩, fun s d n h => ⟨?config, ?clear, ?counts⟩⟩
  case config => exact (runClaiming_ready _ (readyFor_nil h)).trans (slotDone_emit ..)
  case clear => exact (runClaiming_ready _ (readyFor_nil h)).trans (slotDone_emit ..)
  case counts => exact (runClaiming_ready _ h).trans (slotDone_emitS ..)

/-- Settles O23: a descent whose rows have room in their traces, and a regroup whose lanes stand sorted by their index. -/
theorem treeResults : Obligations.TreeResults := by
  refine ⟨?descends, fun s d a b h htag hidx => keeps_of_after (exec_mregroup_ready h htag hidx),
    fun s d a b => ⟨?descent, ?regroup⟩⟩
  case descends =>
    intro s d a b h w rows hword hlo hhi hrows htags hroom
    refine keeps_of_after (exec_mdesc_ready h hword hlo hhi hrows htags fun n hn => ?_)
    rw [traceStart]
    split
    next => exact Nat.le_trans (Nat.le_of_eq (Nat.zero_add _)) (Nat.le_trans hhi (by decide))
    next hstale => exact (hroom.resolve_left hstale) n hn
  case descent =>
    intro h w m lev start rows hword hlo hhi hrows hsrc out
    exact exec_mdesc_ready h hword hlo hhi hrows (fun n hn => (hsrc n hn).1) fun n hn => (hsrc n hn).2
  case regroup =>
    intro h v idx htag hidx
    have hoffset (u : Nat) :
        (BitVec.ofNat 32 (regrouped (laneIndex v) u).length).toNat = (regrouped (laneIndex v) u).length :=
      toNat_laneCount (by rw [length_regrouped]; exact List.length_filter_le ..)
    refine ⟨_, _, _, exec_mregroup_ready h htag hidx, rfl, rfl, rfl, fun u => ?counts, fun u => ?offsets,
      fun u i hi p hp => ?order⟩
    case counts =>
      rw [laneLow_ofLanes]
      exact toNat_laneCount (List.length_filter_le ..)
    case offsets =>
      rw [laneLow_ofLanes]
      exact (hoffset u.val).trans (length_regrouped ..)
    case order =>
      rw [laneLow_ofLanes, hoffset] at hp
      rw [laneLow_ofLanes]
      exact orderLane_of_position (hp ▸ regrouped_position idx u.isLt hi)
end

section
/-! The matrix unit: O20. The words of its instructions in the rules' terms, head slots that can be read, then each instruction
on a ready slot. -/

namespace Sys2Proof.Machine

/-! ### Operands and tags -/

@[simp] theorem State.sig_tk (s : State) (g : Sig) : ({ s with sig := g } : State).tk = s.tk := rfl

theorem field_17_zero {w : Word} (h : w.toNat < 2 ^ 17) : field w 17 47 = 0 :=
  BitVec.eq_of_toNat_eq (by rw [toNat_field, Nat.div_eq_of_lt h]; rfl)

theorem defined_of_isPL {t : BitVec 6} (h : isPL t = true) : isReservedTag t = false := by
  simp [isReservedTag, h]

/-! ### Configuration (R241) -/

theorem exec_mcfg_ready {s : State} {a : BitVec 6} (hready : s.readyFor [.vector, .matrix] [a] = true)
    (hok : cfgOk (readS s.tk a) = true) : exec (.mcfg a) s = .next (s.after [(1, .mcfg (readS s.tk a))]) := by
  rw [exec_mcfg, execMcfg, runMatrix, runClaiming_ready _ hready]
  exact (congrArg _ (if_pos hok)).trans (slotDone_emit ..)

/-! ### Head slots (R242, R265) -/

/-- The first len bytes of handle h's head slot can be read at issue, from global address sga: its handle is valid, the slot
filled behind the waiting advances, its tag accepted, its bytes within a region that the task may read, and its banks, as
they are in s', admit the task (R29, R141, R265). -/
structure State.ReadsHead (s s' : State) (h : BitVec 4) (accept : BitVec 6 → Bool) (len sga : Nat) : Prop where
  valid : (readH s.tk h).valid = true
  filled : (pendingAdvance s.cmds s.tk h).toNat < filledSlots (readH s.tk h)
  defined : isReservedTag (headTag (aheadHandle s.cmds s.tk h (readH s.tk h))) = false
  accepted : accept (headTag (aheadHandle s.cmds s.tk h (readH s.tk h))) = true
  room : len ≤ slotBytes (aheadHandle s.cmds s.tk h (readH s.tk h))
  placed : laCheck s.tk.regions (slotLa (aheadHandle s.cmds s.tk h (readH s.tk h))
    (aheadHandle s.cmds s.tk h (readH s.tk h)).head) len true false = .ok sga
  admitted : admitBanks (taskAccessor s.tk) (extentBanks sga len) s = some s'
  clean : poisonedRange s.swardPoison sga len = false

section
variable {s s' : State} {h : BitVec 4} {accept : BitVec 6 → Bool} {len sga : Nat} (hr : s.ReadsHead s' h accept len sga)
include hr

theorem withHead_ready (body : Handle → State → SlotRes) :
    withHead h accept body s = body (aheadHandle s.cmds s.tk h (readH s.tk h)) s := by
  have hpass := List.forall_mem_singleton.2 (Src.passes_moved (n := 3) hr.defined hr.accepted)
  rw [withHead, needHandle, if_pos hr.valid]
  dsimp only
  rw [if_neg (Nat.not_le.2 hr.filled), checkTags_ok _ (tagFault_of_passes hpass)]

theorem readHead_ready (body : List Byte → State → SlotRes) :
    readHead (aheadHandle s.cmds s.tk h (readH s.tk h)) len body s = body (s'.slotRead sga len) s' := by
  have hclean : poisonedRange s'.swardPoison sga len = false := (admitBanks_view hr.admitted).2.2 ▸ hr.clean
  simp only [readHead, hr.placed, hr.admitted, hclean, Bool.false_eq_true, if_false]

end

/-! ### Loads of B (R242 to R244) -/

/-- The sparse load that the bytes of a slot make (R243, R244). -/
def sparseLoad (at_ : Nat) (m : Matrix) (h : BitVec 4) (adv : Bool) (b : Array Byte) : MatrixLoad :=
  let n := sparseN (cfgSp m.cfg)
  let g := 256 / n
  { at_
    w := Vector.ofFn fun u => Vector.ofFn fun j =>
      if u.val < n * g then truncPlanes (cfgQ m.cfg) (b.getD (256 * u.val + j.val) 0) else 0
    idx := Vector.ofFn fun u => Vector.ofFn fun j =>
      if u.val < n * g then BitVec.ofNat 6 (metaIndex b (256 * n * g) u.val j.val) else 0
    mode := cfgSp m.cfg, handle := h, adv }

section
variable {s s' : State} {h : BitVec 4} {a : BitVec 6} {sga : Nat} (hready : s.readyFor [.vector, .matrix] [a] = true)
  (hword : (readS s.tk a).toNat < 2 ^ 17) (hload : s.tk.mat.load = none) (hstream : streaming s = false)
include hready hword hload hstream

theorem exec_mloadb_ready {c0 c1 : Nat} (hc0 : (readS s.tk a).toNat % 256 = c0) (hc1 : (readS s.tk a).toNat / 2 ^ 8 % 256 = c1)
    (hcols : c0 ≤ c1) (hmode : s.tk.mat.mode = 0 ∨ (c0 = 0 ∧ c1 = 255))
    (hr : s.ReadsHead s' h (acceptTag tagI8) (256 * (c1 - c0 + 1)) sga) :
    exec (.mloadb h a) s = .next { s'.modTask (fun k => { k with mat := { k.mat with load := some {
      at_ := k.icyc
      w := denseLoad s.tk.mat (cfgQ s.tk.mat.cfg) c0 c1 (s'.slotRead sga (256 * (c1 - c0 + 1))), idx := s.tk.mat.idx
      mode := if c0 = 0 ∧ c1 = 255 then 0 else s.tk.mat.mode, handle := h, adv := (readS s.tk a).getLsbD 16 } } })
        with sig := .done } := by
  have hlow : (field (readS s.tk a) 0 8).toNat = c0 := (toNat_field_low _ 8).trans hc0
  have hhigh : (field (readS s.tk a) 8 8).toNat = c1 := (toNat_field _ 8 8).trans hc1
  have hform : ¬ (field (readS s.tk a) 17 47 ≠ 0 ∨ c1 < c0) := by
    rintro (hne | hlt)
    · exact hne (field_17_zero hword)
    · exact Nat.not_lt.2 hcols hlt
  have hwhole : ¬ (s.tk.mat.mode ≠ 0 ∧ ¬ (c0 = 0 ∧ c1 = 255)) := fun hbad => hmode.elim hbad.1 hbad.2
  rw [exec_mloadb, execMloadb, runMatrix, runClaiming_ready _ hready]
  dsimp only
  rw [hlow, hhigh, if_neg (Option.not_isSome_iff_eq_none.2 hload), if_neg hform, withHead_ready hr,
    if_neg (Nat.not_lt.2 hr.room), if_neg hwhole, if_neg (Bool.eq_false_iff.1 hstream), readHead_ready hr]
  rfl

section
variable (hc0 : (readS s.tk a).toNat % 256 = 0) (hc1 : (readS s.tk a).toNat / 2 ^ 8 % 256 = 255)
  (hsparse : cfgSp s.tk.mat.cfg ≠ 0) {n g : Nat} (hn : sparseN (cfgSp s.tk.mat.cfg) = n) (hg : 256 / n = g)
  (hr : s.ReadsHead s' h (acceptTag tagI8) (448 * n * g) sga)
include hc0 hc1 hsparse hn hg hr

/-- A sparse load that reads its slot completes or traps as its metadata meet R56 or not. -/
theorem exec_mloadbs_reads :
    exec (.mloadbs h a) s = slotOutcome s
      (match metaFault (s'.slotRead sga (448 * n * g)).toArray (256 * n * g) n g with
        | some (gr, j) => .trap .sparseMeta (BitVec.ofNat 64 (packNat [(j, 8), (gr, 6)]))
        | none => .ok (s'.modTask fun k => { k with mat := { k.mat with
            load := some (sparseLoad k.icyc s.tk.mat h (bit (readS s.tk a) 16)
              (s'.slotRead sga (448 * n * g)).toArray) } })) := by
  subst hg hn
  have hlow : field (readS s.tk a) 0 8 = 0 := BitVec.eq_of_toNat_eq ((toNat_field_low _ 8).trans hc0)
  have hhigh : field (readS s.tk a) 8 8 = 255 := BitVec.eq_of_toNat_eq ((toNat_field _ 8 8).trans hc1)
  have hform :
      ¬ (field (readS s.tk a) 17 47 ≠ 0 ∨ field (readS s.tk a) 0 8 ≠ 0 ∨ field (readS s.tk a) 8 8 ≠ 255) := by
    rintro (hne | hne | hne)
    · exact hne (field_17_zero hword)
    · exact hne hlow
    · exact hne hhigh
  rw [exec_mloadbs, execMloadbs, runMatrix, runClaiming_ready _ hready]
  dsimp only
  rw [if_neg (Option.not_isSome_iff_eq_none.2 hload), if_neg hform, if_neg hsparse, withHead_ready hr,
    if_neg (Nat.not_lt.2 hr.room), if_neg (Bool.eq_false_iff.1 hstream), readHead_ready hr]
  rfl

theorem exec_mloadbs_ready
    (hmeta : metaFault (s'.slotRead sga (448 * n * g)).toArray (256 * n * g) n g = none) :
    exec (.mloadbs h a) s = .next { s'.modTask (fun k => { k with mat := { k.mat with
      load := some (sparseLoad k.icyc s.tk.mat h (bit (readS s.tk a) 16)
        (s'.slotRead sga (448 * n * g)).toArray) } }) with sig := .done } := by
  rw [exec_mloadbs_reads hready hword hload hstream hc0 hc1 hsparse hn hg hr, hmeta]
  rfl

theorem exec_mloadbs_fails {gr j : Nat}
    (hmeta : metaFault (s'.slotRead sga (448 * n * g)).toArray (256 * n * g) n g = some (gr, j)) :
    exec (.mloadbs h a) s = slotTrap .sparseMeta (BitVec.ofNat 64 (j % 256 + 256 * (gr % 64))) s := by
  rw [exec_mloadbs_reads hready hword hload hstream hc0 hc1 hsparse hn hg hr, hmeta]
  rfl

end

end

theorem sparseLoad_lanes {at_ : Nat} {m : Matrix} {h : BitVec 4} {adv : Bool} {b : Array Byte} {n g : Nat}
    (hn : sparseN (cfgSp m.cfg) = n) (hg : 256 / n = g) (u j : Fin 256) (hu : u.val < n * g) :
    (sparseLoad at_ m h adv b).w[u][j] = truncPlanes (cfgQ m.cfg) (b.getD (256 * u.val + j.val) 0) ∧
      ((sparseLoad at_ m h adv b).idx[u][j]).toNat = metaIndex b (256 * n * g) u.val j.val := by
  subst hg hn
  have hindex : metaIndex b (256 * sparseN (cfgSp m.cfg) * (256 / sparseN (cfgSp m.cfg))) u.val j.val < 2 ^ 6 :=
    Nat.mod_lt _ (by decide)
  simpa [sparseLoad, hu] using hindex

/-! ### Feeds of A (R245 to R247) -/

theorem exec_mfeed_ready {s s' : State} {h : BitVec 4} {mm1 : BitVec 6} {adv : Bool} {sga p : Nat}
    (hready : s.readyFor [.vector, .matrix] [] = true)
    (hp : plPlanes (headTag (aheadHandle s.cmds s.tk h (readH s.tk h))) = p)
    (hr : s.ReadsHead s' h isPL (32 * p * (mm1.toNat + 1)) sga) (hrows : s.tk.mat.rows.length + (mm1.toNat + 1) ≤ 64) :
    exec (.mfeed h mm1 adv) s = .next { s'.modTask (fun k => { k with mat := { k.mat with
      feeds := k.mat.feeds ++ [{ handle := h, adv := adv, at_ := k.icyc, next := k.mat.rowCount, left := mm1.toNat + 1 }]
      rowCount := k.mat.rowCount + (mm1.toNat + 1)
      rows := k.mat.rows ++ (List.range (mm1.toNat + 1)).map fun i =>
        ⟨k.mat.rowCount + i, bpiRow (s'.slotRead sga (32 * p * (mm1.toNat + 1))).toArray (32 * p * i) p, BitVec.ofNat 4 p,
          false, none⟩ } }) with sig := .done } := by
  subst hp
  have hfull : ¬ rowsFull s.tk.mat (mm1.toNat + 1) = true := by
    rw [rowsFull, decide_eq_true_eq]
    exact Nat.not_lt.2 hrows
  rw [exec_mfeed, execMfeed, runMatrix, runClaiming_ready _ hready, withHead_ready hr]
  dsimp only
  rw [if_neg (Nat.not_lt.2 hr.room), if_neg hfull, readHead_ready hr]
  rfl

section
variable {s : State} (hready : s.readyFor [.vector, .matrix] [] = true)
include hready

theorem exec_mpush_ready {a : BitVec 6} (htag : isPL (readV s.tk a).tag = true) (hrows : s.tk.mat.rows.length < 64) :
    exec (.mpush a) s = .next { s.modTask (fun k => { k with mat := { k.mat with
      rowCount := k.mat.rowCount + 1
      rows := k.mat.rows ++ [⟨k.mat.rowCount, planeElems (readV s.tk a), BitVec.ofNat 4 (plPlanes (readV s.tk a).tag), true,
        none⟩] } }) with sig := .done } := by
  have hfull : ¬ rowsFull s.tk.mat 1 = true := by
    rw [rowsFull, decide_eq_true_eq]
    exact Nat.not_lt.2 hrows
  rw [exec_mpush, execMpush, runMatrix,
    runClaiming_passes hready _ _ (List.forall_mem_singleton.2 (Src.passes_moved (defined_of_isPL htag) htag)), if_neg hfull]
  rfl

/-! ### Multiplies and clears (R248 to R252) -/

/-- The physical accumulator row of row r of a multiply into V[d] (R249). -/
def mulRow (k : Task) (d : BitVec 6) (r : Nat) : BitVec 6 := physV k.rot (BitVec.ofNat 6 (d.toNat + r))

/-- The exposed writes of a multiply of m rows: row r commits at c+10+(r+1)p (R250, R251). -/
def mulWrites (k : Task) (d : BitVec 6) (m : Nat) (mac mid : Bool) : List (Nat × LandVal) :=
  (List.range m).map fun r => (10 + (r + 1) * cfgP k.mat.cfg, .row (mulRow k d r) mac (cfgWlo k.mat.cfg) (cfgWhi k.mat.cfg)
    (rowAddends k.mat (((k.mat.rows.filter fun e => e.claim.isNone).drop (r * entriesPerRow k.mat.mode)).take
      (entriesPerRow k.mat.mode)) (cfgP k.mat.cfg) mid))

variable (hload : s.tk.mat.load = none) (hstream : streaming s = false)
include hload hstream

theorem multiply_ready {d mm1 : BitVec 6} {m : Nat} (hm : mm1.toNat + 1 = m) {mac alwaysMid : Bool}
    (hpending : pendingRows s.tk + m ≤ 64) (hmode : cfgSp s.tk.mat.cfg = s.tk.mat.mode)
    (hrows : m * entriesPerRow s.tk.mat.mode ≤ (s.tk.mat.rows.filter fun e => e.claim.isNone).length)
    (htags : mac = true → ∀ r, r < m →
      rowPending s.tk (mulRow s.tk d r) = true ∨ (physReadV s.tk (mulRow s.tk d r)).tag = tagI40) :
    multiply d mm1 mac alwaysMid s = .next ((s.after (mulWrites s.tk d m mac (alwaysMid || cfgMid s.tk.mat.cfg))).modTask
      fun k => { k with mat := { k.mat with
        rows := claimEntries s.me.ic (cfgP s.tk.mat.cfg) (entriesPerRow s.tk.mat.mode) (m * entriesPerRow s.tk.mat.mode) 0
          k.mat.rows
        streamEnd := s.me.ic + m * cfgP s.tk.mat.cfg } }) := by
  subst hm
  have hpass : ∀ x ∈ (if mac then (List.range (mm1.toNat + 1)).filterMap fun r =>
      if rowPending s.tk (mulRow s.tk d r) then none
      else some (⟨2, (physReadV s.tk (mulRow s.tk d r)).tag, true, (physReadV s.tk (mulRow s.tk d r)).tag == tagI40⟩ : Src)
      else []), x.Passes := by
    cases mac with
    | false => exact fun x hx => absurd hx List.not_mem_nil
    | true =>
      intro x hx
      obtain ⟨r, hr, hx⟩ := List.mem_filterMap.1 hx
      rcases htags rfl r (List.mem_range.1 hr) with hwait | htag
      · rw [if_pos hwait] at hx
        cases hx
      · split at hx
        · cases hx
        · cases hx
          rw [htag]
          exact ⟨rfl, rfl, rfl⟩
  rw [multiply, runMatrix, runClaiming_ready _ hready]
  dsimp only
  rw [if_neg (Option.not_isSome_iff_eq_none.2 hload)]
  refine (congrArg _ (checkTags_ok _ (tagFault_of_passes hpass))).trans ?_
  rw [if_neg (Bool.eq_false_iff.1 hstream), if_neg (Nat.not_lt.2 hpending), if_neg (not_not_intro hmode),
    if_neg (Nat.not_lt.2 hrows)]
  refine Eq.trans ?_ (slotDone_emits_modTask ..)
  rw [mulWrites, List.foldl_map]
  rfl

theorem mclr_ready (rb cfg : Bool) : mclr true rb cfg s = .next (s.after [(1, .mclr true rb cfg)]) := by
  rw [mclr, runMatrix, runClaiming_ready _ hready, hload, hstream]
  rfl

end

/-- A clear that leaves the W-array waits for nothing of it (R252). -/
theorem mclr_keeping_w {s : State} (hready : s.readyFor [.vector, .matrix] [] = true) (rb cfg : Bool) :
    mclr false rb cfg s = .next (s.after [(1, .mclr false rb cfg)]) :=
  (runClaiming_ready _ hready).trans (slotDone_emit ..)

end Sys2Proof.Machine

open Sys2Proof Sys2Proof.Machine

/-- Settles O20: each instruction by its lemma; the loads and the feeds once their head slot can be read. -/
theorem matrixResults : Obligations.MatrixResults := by
  refine ⟨?config, ?loads, ?feeds, ?others⟩
  case config => exact fun s a hready hok => exec_mcfg_ready hready hok
  case loads =>
    intro s s' h a sga hready w c0 c1 x m n g reads
    have readsHead {len : Nat} (hreads : reads len) :
        s.ReadsHead s' h (acceptTag tagI8) len sga ∧ m.load = none ∧ streaming s = false := by
      obtain ⟨hvalid, hfilled, htag, hroom, hstream, hload, hla, hbanks, hclean⟩ := hreads
      have hdefined : isReservedTag (headTag x) = false := by rw [htag]; rfl
      exact ⟨⟨hvalid, hfilled, hdefined, beq_iff_eq.2 htag, hroom, hla, hbanks, hclean⟩, hload, hstream⟩
    refine ⟨?dense, ?sparse⟩
    case dense =>
      intro hword hcols hmode hreads
      obtain ⟨hr, hload, hstream⟩ := readsHead hreads
      exact exec_mloadb_ready hready hword hload hstream rfl rfl hcols hmode hr
    case sparse =>
      intro hword hc0 hc1 hsparse hreads bytes
      obtain ⟨hr, hload, hstream⟩ := readsHead hreads
      obtain ⟨htask, hsward, -⟩ := admitBanks_view hr.admitted
      refine ⟨fun hmeta => ?loaded, fun gr j hmeta =>
        exec_mloadbs_fails hready hword hload hstream hc0 hc1 hsparse rfl rfl hr hmeta⟩
      refine ⟨_, exec_mloadbs_ready hready hword hload hstream hc0 hc1 hsparse rfl rfl hr hmeta, rfl, ?_⟩
      rw [State.sig_tk, State.modTask_tk, htask]
      exact ⟨_, rfl, rfl, rfl, rfl, fun u j hu => sparseLoad_lanes rfl rfl u j hu, rfl, rfl, hsward⟩
  case feeds =>
    intro s s' h mm1 adv sga hready x p rows hvalid hfilled htag hroom hrows hla hbanks hclean
    exact exec_mfeed_ready hready rfl ⟨hvalid, hfilled, defined_of_isPL htag, htag, hroom, hla, hbanks, hclean⟩ hrows
  case others =>
    intro s a d mm1 rb cfg hready m v rows p e open_ row
    refine ⟨exec_mpush_ready hready, ?multiply, fun hload hstream => mclr_ready hready hload hstream rb cfg,
      mclr_keeping_w hready true cfg, mclr_keeping_w hready false true⟩
    intro hload hstream hpending hmode hrows mult
    have plain (alwaysMid : Bool) := multiply_ready (d := d) (mac := false) (alwaysMid := alwaysMid) hready hload hstream rfl
      hpending hmode hrows fun hmac => Bool.noConfusion hmac
    have accumulating htags (alwaysMid : Bool) := multiply_ready (d := d) (mac := true) (alwaysMid := alwaysMid) hready hload
      hstream rfl hpending hmode hrows fun _ => htags
    exact ⟨plain false, plain true, fun htags => ⟨accumulating htags false, accumulating htags true⟩⟩
end

section
/-! Scalar accesses as they issue: O33. An access that has room enters its queue or joins the held effects; an address that
passes the checks of R283 has that outcome, and one that fails them traps. -/

namespace Sys2Proof.Machine

/-! ### Entering a queue (R181, R284) -/

theorem State.modTile_modTile (s : State) (t : TileId) (f g : Tile → Tile) :
    (s.modTile t f).modTile t g = s.modTile t fun x => g (f x) := by
  rw [State.modTile, State.modTile_tile_same]
  simp only [State.modTile, State.setTile, Vector.set_set]

theorem State.modTile_modTask (s : State) (f : Tile → Tile) (g : Task → Task) :
    (s.modTile s.cur f).modTask g = s.modTile s.cur fun x => { f x with task := g (f x).task } :=
  s.modTile_modTile s.cur f fun x => { x with task := g x.task }

/-- The entry of an access that the acting task issues now (R284). -/
def State.accessEntry (s : State) (op : ScalarOp) (va : Word) (n : Nat) (d : BitVec 6) (acq rel : Option Scope) : QEntry :=
  ⟨op, va, n, d, acq, rel, s.me.accOrd, false, s.tk.ctx, s.tk.uid, s.tk.bundle, false⟩

/-- s as an access e has entered the load queue, the store queue or both; in a branch shadow it is held instead (R181). -/
def State.entersAccess (s : State) (toLoad toStore : Bool) (e : QEntry) : State :=
  s.modTile s.cur fun x =>
    if s.tk.shadow = 0 then { x with
      accOrd := x.accOrd + 1, storeQ := if toStore then x.storeQ ++ [e] else x.storeQ
      task := if toLoad then { x.task with loadQ := x.task.loadQ ++ [e] } else x.task }
    else { x with
      accOrd := x.accOrd + 1, task := { x.task with held := x.task.held ++ [.access toLoad toStore e] } }

/-- The YTVAL of a bad address: the address below 2^48 and the kind of access (R282). -/
def addressTval (va : Word) (kind : Nat) : Word := BitVec.ofNat 64 (va.toNat % 2 ^ 48 + 2 ^ 48 * kind)

section
variable {s : State}

theorem issueAccess_enters (toLoad toStore : Bool) (op : ScalarOp) (va : Word) (n : Nat) (d : BitVec 6)
    (acq rel : Option Scope) (hroom : s.tk.shadow = 0 → queueFull s toLoad toStore = false) :
    issueAccess toLoad toStore op va n d acq rel s =
      .ok (s.entersAccess toLoad toStore (s.accessEntry op va n d acq rel)) := by
  have hpass : ¬ (s.tk.shadow = 0 ∧ queueFull s toLoad toStore = true) := fun ⟨hz, hfull⟩ => by simp [hroom hz] at hfull
  unfold issueAccess State.entersAccess
  rw [if_neg hpass]
  by_cases hz : s.tk.shadow = 0
  · simp only [hz, Nat.lt_irrefl, if_false, if_true]
    exact congrArg SlotRes.ok (State.modTile_modTile ..)
  · simp only [Nat.pos_of_ne_zero hz, hz, if_false, if_true]
    exact congrArg SlotRes.ok (State.modTile_modTask ..)

theorem queueFull_load (h : s.tk.loadQ.length < 32) : queueFull s true false = false := by simp [queueFull, h]
theorem queueFull_store (h : s.me.storeQ.length < 32) : queueFull s false true = false := by simp [queueFull, h]
theorem queueFull_both (hl : s.tk.loadQ.length < 32) (hs : s.me.storeQ.length < 32) : queueFull s true true = false := by
  simp [queueFull, hl, hs]

/-! ### The checks of R283 and R366 -/

section
variable {va : Word} {n : Nat} {type : BitVec 2} {body : State → SlotRes}

theorem field_va_high : field va 48 16 = 0 ↔ va.toNat < 2 ^ 48 := by
  have hva := va.isLt
  rw [← BitVec.toNat_inj, toNat_field, show (0 : BitVec 16).toNat = 0 from rfl]
  omega

theorem transTval_eq : transTval va type false 0 0 = addressTval va type.toNat := by
  have htype := type.isLt
  unfold transTval addressTval
  congr 1
  simp only [packNat, toNat_field_low, b2n]
  simp
  omega

theorem checkGlobal_passes (hva : va.toNat < 2 ^ 48) (halign : va.toNat % n = 0) :
    checkGlobal va n type body s = body s := by
  rw [checkGlobal, if_neg (not_not_intro (field_va_high.2 hva)), if_neg (not_not_intro halign)]

/-- The outcome of an access of some kind where its address is bad: VADDR_RANGE, then GADDR_ALIGN (R283). -/
def AddressTraps (s : State) (va : Word) (n kind : Nat) (out : Out) : Prop :=
  (2 ^ 48 ≤ va.toNat → out = slotTrap .vaddrRange (addressTval va kind) s) ∧
  (va.toNat < 2 ^ 48 → va.toNat % n ≠ 0 → out = slotTrap .gaddrAlign (addressTval va kind) s)

theorem checkGlobal_traps : AddressTraps s va n type.toNat (slotOutcome s (checkGlobal va n type body s)) := by
  refine ⟨fun hva => ?range, fun hva halign => ?align⟩
  case range =>
    rw [checkGlobal, if_pos fun hz => Nat.not_lt.2 hva (field_va_high.1 hz), transTval_eq]
    rfl
  case align =>
    rw [checkGlobal, if_neg (not_not_intro (field_va_high.2 hva)), if_pos halign, transTval_eq]
    rfl

theorem checkWatch_passes {c : Cause} (h : coreWatch s false [(va.toNat, n)] = none) :
    checkWatch c va n body s = body s := by rw [checkWatch, h]

end

/-! ### The forms of access (R283, R285, R286) -/

/-- A ready slot whose access has the room that it needs. -/
theorem slotOutcome_issueAccess {toLoad toStore : Bool} {op : ScalarOp} {va : Word} {n : Nat} {d : BitVec 6}
    {acq rel : Option Scope} (hroom : s.tk.shadow = 0 → queueFull s toLoad toStore = false) :
    slotOutcome s (issueAccess toLoad toStore op va n d acq rel s) =
      (s.entersAccess toLoad toStore (s.accessEntry op va n d acq rel)).ends := by
  rw [issueAccess_enters _ _ _ _ _ _ _ _ hroom]
  rfl

section
variable {regs : List (BitVec 6)} (hready : s.ready regs = true) (va : State → Word) {n : Nat} {d : BitVec 6}
  {acq rel : Option Scope} {v e : State → Word} {o : AmoOp}
include hready

theorem loadAt_traps : AddressTraps s (va s) n 0 (runSlot regs (fun s => loadAt (va s) n d acq s) s) := by
  rw [runSlot_ready _ hready]
  exact checkGlobal_traps

theorem storeAt_traps : AddressTraps s (va s) n 1 (runSlot regs (fun s => storeAt (va s) n (v s) rel s) s) := by
  rw [runSlot_ready _ hready]
  exact checkGlobal_traps

theorem amoAt_traps : AddressTraps s (va s) 8 2 (runSlot regs (fun s => amoAt o (va s) (v s) (e s) d acq rel s) s) := by
  rw [runSlot_ready _ hready]
  exact checkGlobal_traps

variable (hva : (va s).toNat < 2 ^ 48)
include hva

theorem loadAt_enters (halign : (va s).toNat % n = 0) (hroom : s.tk.shadow = 0 → s.tk.loadQ.length < 32) :
    runSlot regs (fun s => loadAt (va s) n d acq s) s =
      (s.entersAccess true false (s.accessEntry .load (va s) n d acq none)).ends := by
  rw [runSlot_ready _ hready, loadAt, checkGlobal_passes hva halign]
  exact slotOutcome_issueAccess fun hz => queueFull_load (hroom hz)

theorem storeAt_enters (halign : (va s).toNat % n = 0) (hwatch : coreWatch s false [((va s).toNat, n)] = none)
    (hroom : s.tk.shadow = 0 → s.me.storeQ.length < 32) :
    runSlot regs (fun s => storeAt (va s) n (v s) rel s) s =
      (s.entersAccess false true (s.accessEntry (.store (v s)) (va s) n 0 none rel)).ends := by
  rw [runSlot_ready _ hready, storeAt, checkGlobal_passes hva halign, checkWatch_passes hwatch]
  exact slotOutcome_issueAccess fun hz => queueFull_store (hroom hz)

/-- An atomic whose old value is wanted enters the load queue, any other the store queue (R284, R285). -/
theorem amoAt_enters (halign : (va s).toNat % 8 = 0) (hwatch : coreWatch s false [((va s).toNat, 8)] = none) :
    let out := runSlot regs (fun s => amoAt o (va s) (v s) (e s) d acq rel s) s
    let e := s.accessEntry (.amo o (v s) (e s)) (va s) 8 d acq rel
    (d ≠ 0 → (s.tk.shadow = 0 → s.tk.loadQ.length < 32) → out = (s.entersAccess true false e).ends) ∧
    (d = 0 → (s.tk.shadow = 0 → s.me.storeQ.length < 32) → out = (s.entersAccess false true e).ends) := by
  intro out
  have hout : out = slotOutcome s
      (issueAccess (decide (d ≠ 0)) (decide (d = 0)) (.amo o (v s) (e s)) (va s) 8 d acq rel s) :=
    (runSlot_ready _ hready).trans (congrArg _ ((checkGlobal_passes hva halign).trans (checkWatch_passes hwatch)))
  refine ⟨fun hd hroom => ?_, fun hd hroom => ?_⟩
  · rw [hout, decide_eq_true hd, decide_eq_false hd]
    exact slotOutcome_issueAccess fun hz => queueFull_load (hroom hz)
  · rw [hout, decide_eq_true hd, decide_eq_false (not_not_intro hd)]
    exact slotOutcome_issueAccess fun hz => queueFull_store (hroom hz)

end

end

end Sys2Proof.Machine

open Sys2Proof Sys2Proof.Machine

/-- Settles O33: each form issues, or traps on its address, by the lemma of its kind of access. -/
theorem globalAccessResults : Obligations.GlobalAccessResults := by
  refine ⟨?enters, ?traps⟩
  case enters =>
    intro s d a b z o sc bytes entry enters loads stores legal unwatched loadRoom storeRoom amo
    refine ⟨fun h => ⟨?ldG, ?stG, ?ldGAcq, ?stGRel⟩, fun h ⟨hva, halign⟩ hwatch => ?amoG, fun h => ?ordered,
      fun h hload hstore => ?qmark⟩
    case ldG => exact fun ⟨hva, halign⟩ hroom => loadAt_enters h (fun s => scaledVa s z a b) hva halign hroom
    case stG =>
      exact fun ⟨hva, halign⟩ hwatch hroom =>
        storeAt_enters h (fun s => scaledVa s z a b) (v := fun s => readS s.tk d) hva halign hwatch hroom
    case ldGAcq => exact fun ⟨hva, halign⟩ hroom => loadAt_enters h (fun s => readS s.tk a) hva halign hroom
    case stGRel =>
      exact fun ⟨hva, halign⟩ hwatch hroom =>
        storeAt_enters h (fun s => readS s.tk a) (v := fun s => readS s.tk d) hva halign hwatch hroom
    case amoG =>
      exact amoAt_enters h (fun s => readS s.tk a) (v := fun s => readS s.tk b) (e := fun s => readS s.tk d) hva halign hwatch
    case ordered =>
      have ordered (acq rel : Option Scope) (hva : (readS s.tk a).toNat < 2 ^ 48) :=
        amoAt_enters h (fun s => readS s.tk a) (o := o) (acq := acq) (rel := rel) (d := d)
          (v := fun s => if o = .cas then readS s.tk (d + 1) else readS s.tk d) (e := fun s => readS s.tk d) hva
      exact ⟨fun ⟨hva, halign⟩ hwatch => ordered _ _ hva halign hwatch,
        fun ⟨hva, halign⟩ hwatch => ordered _ _ hva halign hwatch,
        fun ⟨hva, halign⟩ hwatch => ordered _ _ hva halign hwatch⟩
    case qmark => exact (runSlot_ready _ h).trans (slotOutcome_issueAccess fun hz => queueFull_both (hload hz) (hstore hz))
  case traps =>
    intro s d a b z o sc bytes traps
    refine ⟨fun h => ⟨?ldG, ?stG, ?ldGAcq, ?stGRel⟩, fun h => ?amoG, fun h => ?ordered⟩
    case ldG => exact loadAt_traps h fun s => scaledVa s z a b
    case stG => exact storeAt_traps h (fun s => scaledVa s z a b) (v := fun s => readS s.tk d)
    case ldGAcq => exact loadAt_traps h fun s => readS s.tk a
    case stGRel => exact storeAt_traps h (fun s => readS s.tk a) (v := fun s => readS s.tk d)
    case amoG => exact amoAt_traps h (fun s => readS s.tk a) (v := fun s => readS s.tk b) (e := fun s => readS s.tk d)
    case ordered =>
      have ordered (acq rel : Option Scope) := amoAt_traps h (fun s => readS s.tk a) (o := o) (acq := acq) (rel := rel) (d := d)
        (v := fun s => if o = .cas then readS s.tk (d + 1) else readS s.tk d) (e := fun s => readS s.tk d)
      exact ⟨ordered _ _, ordered _ _, ordered _ _⟩
end

section
/-! The handle instructions: O24. What the counts of a handle allow, each instruction on a valid and on an invalid handle, and
the set-up of a handle from its descriptor. -/

namespace Sys2Proof.Machine

/-! ### Writes of a slot that makes two (R175) -/

theorem slotDone_emitS_emit (s : State) (l m : Nat) (r : BitVec 6) (x : Word) (v : LandVal) :
    slotDone (emit m v (emitS l r x s)) = .next (s.after (landS l r x ++ [(m, v)])) := by
  rw [emitS_eq, State.after, ← emits_emits]
  rfl

theorem slotDone_two_emitS (s : State) (l m : Nat) (r q : BitVec 6) (x y : Word) :
    slotDone (emitS m q y (emitS l r x s)) = .next (s.after (landS l r x ++ landS m q y)) := by
  rw [emitS_eq, emitS_eq, emits_emits]
  rfl

/-! ### Valid and invalid handles (R288) -/

theorem ready_subset {s : State} {regs rs : List (BitVec 6)} (h : s.ready regs = true) (hsub : rs ⊆ regs) :
    s.ready rs = true := by
  have hclear := ready_regs h
  rw [List.any_eq_false] at hclear
  rw [State.ready, ready_guard h, List.any_eq_false.2 fun r hr => hclear r (hsub hr)]
  rfl

section
variable {s : State} {h : BitVec 4} {regs : List (BitVec 6)} {body : Handle → State → SlotRes} (hready : s.ready regs = true)
include hready

theorem runSlot_needHandle_valid (hvalid : (readH s.tk h).valid = true) :
    runSlot regs (needHandle h body) s = slotOutcome s (body (readH s.tk h) s) := by
  rw [runSlot_ready _ hready, needHandle, if_pos hvalid]

theorem runSlot_needHandle_invalid (hvalid : (readH s.tk h).valid = false) :
    runSlot regs (needHandle h body) s = slotTrap .handleInvalid (wordTval s 0) s := by
  rw [runSlot_ready _ hready, needHandle, if_neg (Bool.eq_false_iff.1 hvalid)]
  rfl

end

/-! ### Reservation, publication, advance (R264, R288) -/

section
variable {s : State} {h : BitVec 4} {d b : BitVec 6} (hvalid : (readH s.tk h).valid = true)
include hvalid

theorem exec_halloc_reserves (hready : s.ready [d, b] = true) (hproduced : handleProduced s h = false)
    (hpos : 0 < (readS s.tk b).toNat) (hslots : (readS s.tk b).toNat ≤ handleSlots (readH s.tk h))
    (hfree : (readS s.tk b).toNat ≤ freeSlotCount (readH s.tk h)) :
    exec (.halloc d h b) s = .next (s.after (landS 1 d ((readH s.tk h).res.setWidth 64) ++
      [(1, .hres h (BitVec.ofNat 32 (readS s.tk b).toNat))])) := by
  have hcount : ¬ ((readS s.tk b).toNat = 0 ∨ (readS s.tk b).toNat > handleSlots (readH s.tk h)) := by omega
  rw [exec_halloc, execHalloc, runSlot_needHandle_valid hready hvalid]
  dsimp only
  rw [if_neg (Bool.eq_false_iff.1 hproduced), if_neg hcount, if_neg (Nat.not_lt.2 hfree)]
  exact slotDone_emitS_emit ..

theorem exec_hpub_publishes (hready : s.ready [b] = true) (hproduced : handleProduced s h = false)
    (hword : (readS s.tk b).toNat < 2 ^ 38) (hpos : 0 < (field (readS s.tk b) 0 32).toNat)
    (hres : (field (readS s.tk b) 0 32).toNat ≤ reservedSlots (readH s.tk h))
    (htag : isReservedTag (field (readS s.tk b) 32 6) = false) :
    exec (.hpub h b) s = .next (s.after [(1, .hpub h (field (readS s.tk b) 0 32) (field (readS s.tk b) 32 6))]) := by
  have hhigh : field (readS s.tk b) 38 26 = 0 :=
    BitVec.eq_of_toNat_eq (by rw [toNat_field, Nat.div_eq_of_lt hword]; rfl)
  have hcount : ¬ (field (readS s.tk b) 38 26 ≠ 0 ∨ field (readS s.tk b) 0 32 = 0 ∨
      (field (readS s.tk b) 0 32).toNat > reservedSlots (readH s.tk h)) := by
    rintro (hne | hzero | hmany)
    · exact hne hhigh
    · exact absurd (congrArg BitVec.toNat hzero) (Nat.ne_of_gt hpos)
    · exact Nat.not_lt.2 hres hmany
  rw [exec_hpub, execHpub, runSlot_needHandle_valid hready hvalid]
  dsimp only
  rw [if_neg (Bool.eq_false_iff.1 hproduced), if_neg hcount, if_neg (Bool.eq_false_iff.1 htag)]
  exact slotDone_emit ..

theorem exec_hadv_advances (hready : s.ready [b] = true) (hpos : 0 < (readS s.tk b).toNat)
    (hfill : (readS s.tk b).toNat + (pendingAdvance s.cmds s.tk h).toNat ≤ filledSlots (readH s.tk h)) :
    exec (.hadv h b) s =
      if handleReadsOut s h = true ∨ pendingAdvance s.cmds s.tk h ≠ 0 then
        (s.modTask fun k => { k with
          headAdv := k.headAdv ++ [⟨h, BitVec.ofNat 32 (readS s.tk b).toNat, s.tk.icyc, s.cmdIds⟩] }).ends
      else .next (s.after [(1, .hadv h (BitVec.ofNat 32 (readS s.tk b).toNat))]) := by
  have hcount : ¬ ((readS s.tk b).toNat = 0 ∨
      (readS s.tk b).toNat + (pendingAdvance s.cmds s.tk h).toNat > filledSlots (readH s.tk h)) := by omega
  rw [exec_hadv, execHadv, runSlot_needHandle_valid hready hvalid]
  simp only [if_neg hcount, Bool.or_eq_true, decide_eq_true_eq]
  split
  next => rfl
  next => exact slotDone_emit ..

end

/-! ### The counts read (R288) -/

/-- The first word of `HRD`: FILL with HEAD above it. -/
theorem head_append_fill (x : Handle) : x.head ++ x.fill = BitVec.ofNat 64 (x.fill.toNat + 2 ^ 32 * x.head.toNat) := by
  have hfill := x.fill.isLt
  have hhead := x.head.isLt
  refine BitVec.eq_of_toNat_eq ?_
  rw [BitVec.toNat_append, Nat.shiftLeft_eq, Nat.mul_comm, ← Nat.two_pow_add_eq_or_of_lt hfill, BitVec.toNat_ofNat]
  omega

theorem exec_hrd_reads {s : State} {h : BitVec 4} {d : BitVec 6} (hready : s.ready [d, d + 1] = true) :
    let y := if (readH s.tk h).valid then readH s.tk h else Handle.reset
    exec (.hrd d h) s = .next (s.after (landS 1 d (BitVec.ofNat 64 (y.fill.toNat + 2 ^ 32 * y.head.toNat)) ++
      landS 1 (d + 1) (BitVec.ofNat 64 (y.res.toNat + 2 ^ 32 * y.tag.toNat + if y.valid then 2 ^ 38 else 0)))) := by
  intro y
  have hsecond : packNat [(y.res.toNat, 32), (y.tag.toNat, 6), (b2n y.valid, 1)] =
      y.res.toNat + 2 ^ 32 * y.tag.toNat + if y.valid then 2 ^ 38 else 0 := by
    have hres := y.res.isLt
    have htag := y.tag.isLt
    simp only [packNat]
    cases y.valid <;> simp [b2n] <;> omega
  rw [exec_hrd, execHrd, runSlot_ready _ hready, ← head_append_fill, ← hsecond]
  exact slotDone_two_emitS ..

/-! ### The set-up of a handle (R141, R287) -/

/-- A descriptor of 32 bytes that stands aligned in a region is one lane of an access (R236). -/
theorem accessLanes_descriptor {regions : Vector (BitVec 32) 16} {la : Word} {sga : Nat} (hla : la.toNat < 2 ^ 28)
    (halign : la.toNat % 32 = 0) (hcheck : laCheck regions la 32 true false = .ok sga) :
    accessLanes regions ⟨la, [laOff la], 32, false⟩ [(0, laOff la)] = .ok [sga] := by
  have hhigh : field la 28 36 = 0 := BitVec.eq_of_toNat_eq (by rw [toNat_field, Nat.div_eq_of_lt hla]; rfl)
  have hoff : ¬ laOff la % 32 ≠ 0 := by
    rw [laOff_eq]
    omega
  rw [laCheck, if_neg (not_not_intro hhigh)] at hcheck
  simp only [accessLanes, Bool.not_false, hcheck, hoff, if_false]

section
variable {s s' : State} {h : BitVec 4} {a : BitVec 5} {sga : Nat}

/-- The descriptor that HSET reads, as the acting task's view of the Sward has it (R287). -/
def State.descriptor (s : State) (sga : Nat) : BitVec 256 := BitVec.ofNat 256 (leNat (s.slotRead sga 32))

/-- What HSET makes of handle h by a descriptor that it has read (R287). -/
def setUpHandle (regions : Vector (BitVec 32) 16) (h : BitVec 4) (w : BitVec 256) (s : State) : SlotRes :=
  if !bit w 192 then .ok (emit 1 (.hset h Handle.reset) s)
  else match handleFails regions w with
    | some r => .trap .handleForm (wordTval s r)
    | none => .ok (emit 1 (.hset h (handleOf w)) s)

/-- The descriptor of handle h stands readable at A[a], and neither a command nor the matrix unit uses the handle (R287). -/
structure State.ReadsDescriptor (s s' : State) (h : BitVec 4) (a : BitVec 5) (sga : Nat) : Prop where
  unnamed : s.cmds.any (cmdNames s.tk.uid h) = false
  unread : matrixReads s.tk.mat h = false
  low : (readA s.tk a).toNat < 2 ^ 28
  aligned : (readA s.tk a).toNat % 32 = 0
  placed : laCheck s.tk.regions (readA s.tk a) 32 true false = .ok sga
  admitted : admitBanks (taskAccessor s.tk) (rangeBanks [(sga, 32)]) s = some s'
  clean : poisonedRange s.swardPoison sga 32 = false

variable (hready : s.ready [] = true) (hr : s.ReadsDescriptor s' h a sga)
include hready hr

/-- A handle is set up from a valid descriptor that passes R287, and made invalid by one that is not valid. -/
theorem exec_hset_reads :
    exec (.hset h a) s = slotOutcome s
      (setUpHandle s.tk.regions h (s.descriptor sga) (addFreeze (accessFreeze s.cur [sga] 32) s')) := by
  obtain ⟨htask, hsward, hpoison⟩ := admitBanks_view hr.admitted
  have htk : (addFreeze (accessFreeze s.cur [sga] 32) s').tk = s.tk := (addFreeze_tk ..).trans htask
  have hview : (addFreeze (accessFreeze s.cur [sga] 32) s').slotRead = s.slotRead := slotRead_congr htk hsward
  have hclean : poisonedRange (addFreeze (accessFreeze s.cur [sga] 32) s').swardPoison sga 32 = false :=
    (congrArg (poisonedRange · sga 32) hpoison).trans hr.clean
  have hidle : ¬ (s.cmds.any (cmdNames s.tk.uid h) || matrixReads s.tk.mat h) = true := by rw [hr.unnamed, hr.unread]; decide
  rw [exec_hset, execHset, runSlot_ready _ hready]
  dsimp only
  rw [if_neg hidle, withAccess_passes hr.low (accessLanes_descriptor hr.low hr.aligned hr.placed),
    withBanks_admits hr.admitted]
  simp only [List.headD_cons, hclean, Bool.false_eq_true, if_false, hview, htk]
  rfl

theorem exec_hset_invalid (hvalid : (s.descriptor sga).getLsbD 192 = false) :
    exec (.hset h a) s = .next ((addFreeze (accessFreeze s.cur [sga] 32) s').after [(1, .hset h Handle.reset)]) := by
  rw [exec_hset_reads hready hr, setUpHandle, bit, hvalid]
  exact slotDone_emit ..

theorem exec_hset_valid (hvalid : (s.descriptor sga).getLsbD 192 = true)
    (hform : handleFails s.tk.regions (s.descriptor sga) = none) :
    exec (.hset h a) s = .next ((addFreeze (accessFreeze s.cur [sga] 32) s').after
      [(1, .hset h (handleOf (s.descriptor sga)))]) := by
  rw [exec_hset_reads hready hr, setUpHandle, bit, hvalid, hform]
  exact slotDone_emit ..

end

end Sys2Proof.Machine

open Sys2Proof Sys2Proof.Machine

/-- Settles O24: each instruction by its lemma, on a valid handle and on an invalid one. -/
theorem handleResults : Obligations.HandleResults := by
  intro s h d b a x
  refine ⟨?reserve, ?publish, ?advance, ?invalid, fun hready => exec_hrd_reads hready, ?setup⟩
  case reserve =>
    intro hvalid hready hproduced n hpos hslots hfree
    exact exec_halloc_reserves hvalid hready hproduced hpos hslots (Nat.le_sub_of_add_le hfree)
  case publish =>
    intro hvalid hready hproduced w n tag hword hpos hres htag
    exact exec_hpub_publishes hvalid hready hproduced hword hpos hres htag
  case advance =>
    intro hvalid hready n hpos hfill
    exact exec_hadv_advances hvalid hready hpos hfill
  case invalid =>
    intro hvalid hready
    have hoperand : s.ready [b] = true := ready_subset hready (List.subset_cons_self ..)
    exact ⟨runSlot_needHandle_invalid hready hvalid, runSlot_needHandle_invalid hoperand hvalid,
      runSlot_needHandle_invalid hoperand hvalid⟩
  case setup =>
    intro s' sga hready hunnamed hunread la hlow haligned hplaced hadmitted hclean w s2
    have hr : s.ReadsDescriptor s' h a sga := ⟨hunnamed, hunread, hlow, haligned, hplaced, hadmitted, hclean⟩
    exact ⟨exec_hset_invalid hready hr, exec_hset_valid hready hr⟩
end

section
/-! The events of translation and paging: O45. Leases and the units that keep them, the outcomes of a walk for a scalar access,
then the replies of the paging service. -/

namespace Sys2Proof.Machine

/-! ### Leases (R20, R273, R276) -/

theorem leaseNs_eq (c : BitVec 3) :
    leaseNs c = [1000, 4000, 16000, 64000, 256000, 1000000, 4000000, 16000000].getD c.toNat 0 := by
  revert c
  decide

theorem leaseNs_pos (c : BitVec 3) : 0 < leaseNs c := by
  revert c
  decide

/-- The effective class of a leaf is the lower of its own and its context's cap. -/
theorem leaseClass_toNat (cap c : BitVec 3) : (leaseClass cap c).toNat = Nat.min c.toNat cap.toNat := by
  unfold leaseClass
  split
  next hlt => exact (Nat.min_eq_right (Nat.le_of_lt hlt)).symm
  next hle => exact (Nat.min_eq_left (Nat.not_lt.1 hle)).symm

/-- The entry of a leaf translates the address that was walked. -/
theorem leaseHits_leaseOf (s : State) (ctx : CtxId) (va : Nat) (e : Word) (lev : Nat) :
    leaseHits s ctx va (leaseOf s ctx va e lev) = true := by
  simp [leaseHits, leaseOf, leaseNs_pos]

/-! ### The cache of a tile's memory unit (R276) -/

section
variable {s u : State} {t : TileId}

theorem translate_tile_congr (htile : (u.tile t).tlb = (s.tile t).tlb) (hout : (u.tile t).outOfStep = (s.tile t).outOfStep)
    (htime : u.timeNs = s.timeNs) (ctx : CtxId) (va : Nat) : translate u (.tile t) ctx va = translate s (.tile t) ctx va := by
  have hhits : leaseHits u ctx va = leaseHits s ctx va := funext fun l => by rw [leaseHits, leaseHits, htime]
  rw [translate, translate, unitOut, unitOut, unitTlb, unitTlb, htile, hout, hhits]

/-- A unit in step that had no entry for an address translates it by the one that it takes. -/
theorem translate_addLease {ctx : CtxId} {va : Nat} {l : Lease} (hin : unitOut s (.tile t) = false)
    (hmiss : translate s (.tile t) ctx va = none) (hhit : leaseHits s ctx va l = true) :
    translate (addLease (.tile t) l s) (.tile t) ctx va = some l := by
  have hold : (dropExpired s (s.tile t).tlb).find? (leaseHits s ctx va) = none := by
    rw [translate, hin, if_neg Bool.false_ne_true, List.find?_eq_none] at hmiss
    exact List.find?_eq_none.2 fun x hx => hmiss x (List.mem_of_mem_filter hx)
  have htile : (addLease (.tile t) l s).tile t = { s.tile t with tlb := dropExpired s (s.tile t).tlb ++ [l] } :=
    State.modTile_tile_same ..
  have hstep : unitOut (addLease (.tile t) l s) (.tile t) = false := by rw [unitOut, htile]; exact hin
  have htlb : unitTlb (addLease (.tile t) l s) (.tile t) = dropExpired s (s.tile t).tlb ++ [l] := by rw [unitTlb, htile]
  rw [translate, hstep, if_neg Bool.false_ne_true, htlb, List.find?_append]
  exact (congrArg (Option.or · _) hold).trans (List.find?_singleton.trans (if_pos hhit))

end

theorem State.die_congr {s u : State} (d : BitVec 1) (h : u.dies = s.dies) : u.die d = s.die d := by
  rw [State.die, State.die, h]

@[simp] theorem State.sig_die (s : State) (d : BitVec 1) (g : Sig) : ({ s with sig := g } : State).die d = s.die d := rfl

/-! ### A walk for a scalar access (R275, R280, R281) -/

theorem replaceHead_tlb (p : ScalarPos) (e : QEntry) (x : Tile) :
    (replaceHead p e x).tlb = x.tlb ∧ (replaceHead p e x).outOfStep = x.outOfStep := by cases p <;> exact ⟨rfl, rfl⟩

section
variable {s : State} {t : TileId} {p : ScalarPos} {e : QEntry}

/-- What waits for a walk has no translation. -/
theorem tileNeeds_untranslated {ctx : CtxId} {va : Word} {k : AccessKind} (h : tileNeeds s t ctx va k = some (p, e)) :
    translate s (.tile t) e.ctx e.va.toNat = none := by
  obtain ⟨q, -, hq⟩ := List.exists_of_findSome?_eq_some h
  obtain ⟨e', hneeds, heq⟩ := Option.map_eq_some_iff.1 hq
  obtain ⟨rfl, rfl⟩ := Prod.mk.inj heq
  unfold scalarNeeds at hneeds
  split at hneeds
  next => cases hneeds
  next x hx =>
    split at hneeds
    next hwaits =>
      cases hneeds
      simp only [Bool.and_eq_true, beq_iff_eq, Option.isNone_iff_eq_none] at hwaits
      obtain ⟨⟨⟨⟨-, hctx⟩, -⟩, -⟩, hnone⟩ := hwaits
      rw [hctx, hnone]
    next => cases hneeds

theorem walkScalar_leaf {w : Word} {lev : Nat} (hin : unitOut s (.tile t) = false)
    (hmiss : translate s (.tile t) e.ctx e.va.toNat = none) (hwalk : walkChecked s e.ctx e.va.toNat = .leaf w lev) :
    translate (walkScalar t p e s) (.tile t) e.ctx e.va.toNat = some (leaseOf s e.ctx e.va.toNat w lev) := by
  have htile : (s.modTile t (replaceHead p { e with walked := true })).tile t = _ := State.modTile_tile_same ..
  obtain ⟨htlb, hstep⟩ := replaceHead_tlb p { e with walked := true } (s.tile t)
  rw [← htile] at htlb hstep
  rw [walkScalar, hwalk]
  exact translate_addLease (hstep.trans hin) ((translate_tile_congr htlb hstep rfl ..).trans hmiss) (leaseHits_leaseOf ..)

theorem walkScalar_absent_load {lev : Nat} {es : List QEntry} (hwalk : walkChecked s e.ctx e.va.toNat = .absent lev)
    (hq : (s.tile t).task.loadQ = e :: es) :
    ((walkScalar t .load e s).tile t).task.loadQ = { e with waits := true } :: es := by
  simp only [walkScalar, hwalk, absentScalar, State.modTile_tile_same]
  exact congrArg (fun q => _ :: List.drop 1 q) hq

theorem walkScalar_absent_store {lev : Nat} {es : List QEntry} (hwalk : walkChecked s e.ctx e.va.toNat = .absent lev)
    (hq : (s.tile t).storeQ = e :: es) (hroom : (s.tile t).sideLog.length < 64) :
    ((walkScalar t .store e s).tile t).storeQ = es ∧
      ((walkScalar t .store e s).tile t).sideLog = (s.tile t).sideLog ++ [{ e with waits := true }] := by
  simp only [walkScalar, hwalk, absentScalar, if_neg (Nat.not_le.2 hroom), State.modTile_tile_same]
  exact ⟨congrArg (List.drop 1) hq, rfl⟩

/-- The task that stands on a tile is changed there (R139). -/
theorem modUid_standing {n : Nat} (f : Task → Task) (hstands : (s.tile t).status ≠ .free) (huid : (s.tile t).task.uid = n) :
    (modUid n f s).tile t = { s.tile t with task := f (s.tile t).task } := by
  have hmap : (modUid n f s).tile t = if (s.tile t).status = .free then s.tile t
      else { s.tile t with task := if (s.tile t).task.uid = n then f (s.tile t).task else (s.tile t).task } :=
    Vector.getElem_map ..
  rw [hmap, if_neg hstands, if_pos huid]

/-- A tile without an access that has failed; of a load it keeps an entry of no bytes (R280). -/
def withoutFailed (p : ScalarPos) (e : QEntry) (x : Tile) : Tile :=
  match p with
  | .load => replaceHead .load { e with size := 0 } x
  | .store => popPos .store x
  | .log => { x with sideLog := [] }

theorem withoutFailed_task (x : Tile) : (withoutFailed p e x).status = x.status ∧
    (withoutFailed p e x).task.uid = x.task.uid ∧ (withoutFailed p e x).task.impFaults = x.task.impFaults := by
  cases p <;> exact ⟨rfl, rfl, rfl⟩

/-- A fault of an access whose task stands on the tile is an imprecise fault of that task (R280). -/
theorem failScalar_standing {c : Cause} {type : BitVec 2} {level : BitVec 3} (hstands : (s.tile t).status ≠ .free)
    (huid : (s.tile t).task.uid = e.uid) :
    ((failScalar t p e c type level s).tile t).task.impFaults = (s.tile t).task.impFaults ++
      [⟨0, causeCode c, e.va, type, level, 0, if p = .load then some e.d else none⟩] := by
  let f : ImpFault := ⟨0, causeCode c, e.va, type, level, 0, if p = .load then some e.d else none⟩
  have hfail : failScalar t p e c type level s =
      modUid e.uid (fun k => { k with impFaults := k.impFaults ++ [f] }) (s.modTile t (withoutFailed p e)) :=
    if_pos (.inl ⟨huid, hstands⟩)
  have htile : (s.modTile t (withoutFailed p e)).tile t = _ := State.modTile_tile_same ..
  obtain ⟨hstatus, hsame, hfaults⟩ := withoutFailed_task (p := p) (e := e) (s.tile t)
  rw [← htile] at hstatus hsame hfaults
  rw [hfail, modUid_standing _ (hstatus ▸ hstands) (hsame.trans huid)]
  exact congrArg (· ++ [f]) hfaults

theorem walkScalar_bad {lev : Nat} (hwalk : walkChecked s e.ctx e.va.toNat = .bad lev) (hstands : (s.tile t).status ≠ .free)
    (huid : (s.tile t).task.uid = e.uid) :
    ((walkScalar t p e s).tile t).task.impFaults = (s.tile t).task.impFaults ++
      [⟨0, 0x32, e.va, kindType (opKind e.op), BitVec.ofNat 3 lev, 0, if p = .load then some e.d else none⟩] := by
  rw [walkScalar, hwalk]
  exact failScalar_standing hstands huid

end

/-! ### Replies of the paging service (R351) -/

section
variable (s : State) (c : CtxId)

theorem State.ctxState_congr {s u : State} (h : u.ctxs = s.ctxs) : u.ctxState c = s.ctxState c := by
  rw [State.ctxState, State.ctxState, State.ctx, State.ctx, h]

/-- A change of a context that leaves its descriptor leaves every context in its state. -/
theorem State.modCtx_ctxState (x : CtxId) (f : Context → Context) (hf : (f (s.ctx x)).desc = (s.ctx x).desc) :
    (s.modCtx x f).ctxState c = s.ctxState c := by
  by_cases hx : c = x
  · rw [hx, State.ctxState, State.modCtx_ctx_same, hf]
    rfl
  · rw [State.ctxState, State.modCtx_ctx_other _ _ _ _ hx]
    rfl

theorem dropTask_ctxState (t : TileId) : (dropTask t s).ctxState c = s.ctxState c := by
  have hfree : (freeTile true t s).ctxState c = s.ctxState c := State.modCtx_ctxState _ c _ _ rfl
  refine (State.modCtx_ctxState _ c _ _ ?_).trans hfree
  split <;> rfl

theorem cellWrite_ctxState (a : Nat) (v : BitVec 256) : (cellWrite s a v).ctxState c = s.ctxState c := by
  simp only [cellWrite, State.ctxState, State.ctx]

/-- A context stands in the state in which it ends (R22). -/
theorem endContext_ctxState (st : BitVec 3) : (endContext c st s).ctxState c = st := by
  unfold endContext
  refine List.foldlRecOn (motive := fun u : State => u.ctxState c = st) _ _ ?banks fun u hu i _ => ?tile
  case banks =>
    refine List.foldlRecOn (motive := fun u : State => u.ctxState c = st) _ _ ?cells fun u hu a _ => hu
    refine List.foldlRecOn (motive := fun u : State => u.ctxState c = st) _ _ ?ended fun u hu a _ => ?cell
    case ended =>
      dsimp only [State.ctxState, State.ctx, stopHolding, State.modCtx]
      rw [Vector.getElem_set_self]
      exact field_putField _ 0 3 st (by decide)
    case cell =>
      split
      next => exact hu
      next => exact (cellWrite_ctxState ..).trans hu
  case tile =>
    dsimp only
    split
    next => exact (dropTask_ctxState u c _).trans hu
    next => exact hu

end

section
variable (die : BitVec 1) (ctx : CtxId) (page : BitVec 32) (s : State)

/-- The reply register after a MAPPED reply (R351). -/
theorem mapped_reply_fields :
    let v : Word := BitVec.ofNat 64 (packNat [(ctx.toNat, 6), (0, 10), (page.toNat, 32)])
    field v 0 6 = ctx ∧ field v 16 32 = page := by
  intro v
  have hctx := ctx.isLt
  have hpage := page.isLt
  have hv : v.toNat = ctx.toNat + 2 ^ 16 * page.toNat := by
    simp only [v, packNat, BitVec.toNat_ofNat]
    omega
  exact ⟨BitVec.eq_of_toNat_eq (by rw [toNat_field, hv]; omega), BitVec.eq_of_toNat_eq (by rw [toNat_field, hv]; omega)⟩

/-- A package without what waited for a page of a context (R351). -/
def State.abandoned (ctx : CtxId) (s : State) : State :=
  { s with tiles := s.tiles.map (abandonTile ctx), ports := s.ports.map (abandonPort ctx) }

theorem State.abandoned_tile (t : TileId) : (s.abandoned ctx).tile t = abandonTile ctx (s.tile t) := Vector.getElem_map ..

theorem State.abandoned_ctxState (c : CtxId) : (s.abandoned ctx).ctxState c = s.ctxState c := rfl

theorem replyMapped_tile (t : TileId) :
    (replyMapped die ctx page s).tile t = if tileDie t = die then wakeTile ctx page (s.tile t) else s.tile t := by
  have hindex : BitVec.ofNat 8 t.toNat = t := BitVec.eq_of_toNat_eq ((BitVec.toNat_ofNat ..).trans (Nat.mod_eq_of_lt t.isLt))
  refine (Vector.getElem_ofFn ..).trans ?_
  simp only [hindex]
  rfl

/-- What a MAPPED reply changes of its die: the register, and the held faults of the page (log 103). -/
def mappedDie (d : Die) : Die :=
  { d with fqHeld := d.fqHeld.filter fun e => !isPageFault ctx page e
           reply := BitVec.ofNat 64 (packNat [(ctx.toNat, 6), (0, 10), (page.toNat, 32)]) }

theorem replyMapped_frame : (replyMapped die ctx page s).dies = (s.modDie die (mappedDie ctx page)).dies ∧
    (replyMapped die ctx page s).sward = s.sward ∧ (replyMapped die ctx page s).hbm = s.hbm := by
  refine ⟨?dies, ?sward, ?hbm⟩
  case dies => simp only [replyMapped, mappedDie, State.modDie]
  case sward => simp only [replyMapped, State.modDie_sward]
  case hbm => simp only [replyMapped, State.modDie_hbm]

theorem replyMapped_die : (replyMapped die ctx page s).die die = mappedDie ctx page (s.die die) :=
  (State.die_congr die (replyMapped_frame die ctx page s).1).trans (State.modDie_die_same s die (mappedDie ctx page))

end

end Sys2Proof.Machine

open Sys2Proof Sys2Proof.Machine

/-- Settles O45: each event by the lemma of its case. -/
theorem translationEventResults : Obligations.TranslationEventResults := by
  intro s u id ctx va k die page
  refine ⟨?renewal, rfl, rfl, rfl, ?outOfStep, ?tile, ?lease, ?gather, ?fabric, ?mapped, ?fail⟩
  case renewal =>
    intro c hc hphase
    simp only [exec_leaseRenewal, execLeaseRenewal, hc, hphase, ne_eq, not_true_eq_false, if_false]
    rfl
  case outOfStep =>
    intro hout
    simp only [exec_pageWalk, execPageWalk, hout, if_true]
    rfl
  case tile =>
    intro t p e hin hneeds
    have hmiss := tileNeeds_untranslated hneeds
    refine ⟨?walks, fun v lev hwalk => walkScalar_leaf hin hmiss hwalk, ?load, ?store, ?bad⟩
    case walks =>
      simp only [exec_pageWalk, execPageWalk, hin, hneeds, Bool.false_eq_true, if_false]
      rfl
    case load =>
      rintro lev es hwalk rfl hq
      exact walkScalar_absent_load hwalk hq
    case store =>
      rintro lev es hwalk rfl hq hroom
      exact walkScalar_absent_store hwalk hq hroom
    case bad => exact fun lev hwalk hstands huid => walkScalar_bad hwalk hstands huid
  case lease =>
    intro c e lev l
    refine ⟨rfl, rfl, rfl, rfl, rfl, ?_⟩
    rw [← leaseClass_toNat, ← leaseNs_eq]
    rfl
  case gather =>
    intro g c a hin hneeds
    simp only [exec_pageWalk, execPageWalk, hin, hneeds, Bool.false_eq_true, if_false]
    rfl
  case fabric =>
    intro p f a hin hneeds
    simp only [exec_pageWalk, execPageWalk, hin, hneeds, Bool.false_eq_true, if_false]
    rfl
  case mapped =>
    obtain ⟨hctx, hpage⟩ := mapped_reply_fields ctx page
    obtain ⟨-, hsward, hhbm⟩ := replyMapped_frame die ctx page s
    refine ⟨_, rfl, ?_⟩
    rw [State.sig_die, replyMapped_die]
    refine ⟨hctx, hpage, rfl, fun t ht => ?here, fun t ht => ?elsewhere, hsward, hhbm⟩
    case here => exact (replyMapped_tile die ctx page s t).trans (if_pos ht)
    case elsewhere => exact (replyMapped_tile die ctx page s t).trans (if_neg ht)
  case fail =>
    intro v
    refine ⟨(endContext ctx 3 (s.modDie die fun d => { d with reply := v })).abandoned ctx, rfl, ?ended, fun t => ?tile⟩
    case ended => exact (State.abandoned_ctxState ..).trans (endContext_ctxState _ ctx 3)
    case tile => exact State.abandoned_tile ..
end

section
/-! The fabric: O49. Where a request's bytes lie and what serving it does there, then the checks before it, the answers that
come back to a command, and the drains. -/

namespace Sys2Proof.Machine

/-! ### The bytes of a window (R271, R273, R326) -/

/-- n bytes from an address of a context lie in a page of HBM4 that a fabric engine translates by one lease. -/
def State.FabricMaps (s : State) (p : BitVec 5) (ctx : CtxId) (va n : Nat) (l : Lease) : Prop :=
  ∀ i, i < n → translate s (.fabric p) ctx (va + i) = some l ∧ leasePa l (va + i) < 2 ^ 60

theorem translate_page {s : State} {u : XUnit} {ctx : CtxId} {va : Nat} {l : Lease} (h : translate s u ctx va = some l) :
    va / 2 ^ l.pageBits = l.page := by
  unfold translate at h
  split at h
  next => cases h
  next =>
    have hhits := List.find?_some h
    simp only [leaseHits, Bool.and_eq_true, beq_iff_eq] at hhits
    obtain ⟨⟨-, hpage⟩, -⟩ := hhits
    exact hpage

/-- Within a page physical addresses follow each other as virtual ones do. -/
theorem leasePa_add {l : Lease} {va i : Nat} (h0 : va / 2 ^ l.pageBits = l.page) (hi : (va + i) / 2 ^ l.pageBits = l.page) :
    leasePa l (va + i) = leasePa l va + i := by
  have hva := Nat.div_add_mod va (2 ^ l.pageBits)
  have hvai := Nat.div_add_mod (va + i) (2 ^ l.pageBits)
  rw [h0] at hva
  rw [hi] at hvai
  simp only [leasePa]
  omega

section
variable {s : State} {p : BitVec 5} {ctx : CtxId} {va n : Nat} {l : Lease} (hmaps : s.FabricMaps p ctx va n l)
include hmaps

theorem State.FabricMaps.leasePa_eq {i : Nat} (hi : i < n) : leasePa l (va + i) = leasePa l va + i :=
  leasePa_add (translate_page (hmaps 0 (Nat.zero_lt_of_lt hi)).1) (translate_page (hmaps i hi).1)

theorem State.FabricMaps.keys (hcls : l.cls = 0) :
    ((List.range n).map fun i => fabKey s p ctx (va + i)) = (List.range n).map fun i => leasePa l (va + i) := by
  refine List.map_congr_left fun i hi => ?_
  rw [fabKey, (hmaps i (List.mem_range.1 hi)).1]
  dsimp only
  rw [hcls]
  exact Nat.zero_add _

end

/-! A byte whose number names class 0 is a byte of HBM4. -/

section
variable (s : State) {k : Nat} (hk : k < 2 ^ 60)
include hk

theorem keyByte_hbm : keyByte s k = [memGet s.hbm k] := by
  rw [keyByte, Nat.div_eq_of_lt hk, Nat.mod_eq_of_lt hk]
  rfl

theorem keyPoisoned_hbm : keyPoisoned s k = poisonedRange s.hbmPoison k 1 := by
  rw [keyPoisoned, Nat.div_eq_of_lt hk, Nat.mod_eq_of_lt hk]
  rfl

theorem keyPoison_hbm : keyPoison s k = { s with hbmPoison := addPoison s.hbmPoison k 1 } := by
  rw [keyPoison, Nat.div_eq_of_lt hk, Nat.mod_eq_of_lt hk]
  rfl

theorem writeRun_hbm (bs : List Byte) : writeRun s (k, bs) =
    { s with hbm := memWrite s.hbm k bs, hbmPoison := clearPoison s.hbmPoison k bs.length } := by
  rw [writeRun, Nat.div_eq_of_lt hk, Nat.mod_eq_of_lt hk]
  rfl

end

section
variable {s : State} {p : BitVec 5} {ctx : CtxId} {va n : Nat} {l : Lease} (hmaps : s.FabricMaps p ctx va n l)
  (hcls : l.cls = 0)
include hmaps hcls

theorem State.FabricMaps.keys_poisoned : ((List.range n).map fun i => fabKey s p ctx (va + i)).any (keyPoisoned s) =
    (List.range n).any fun i => poisonedRange s.hbmPoison (leasePa l (va + i)) 1 := by
  rw [hmaps.keys hcls, List.any_map, Bool.eq_iff_iff, List.any_eq_true, List.any_eq_true]
  exact exists_congr fun i => and_congr_right fun hi => by
    rw [Function.comp_apply, keyPoisoned_hbm s (hmaps i (List.mem_range.1 hi)).2]

theorem State.FabricMaps.keys_read : ((List.range n).map fun i => fabKey s p ctx (va + i)).flatMap (keyByte s) =
    (List.range n).map fun i => memGet s.hbm (leasePa l (va + i)) := by
  rw [hmaps.keys hcls, List.flatMap_map, List.map_eq_flatMap]
  exact List.flatMap_congr fun i hi => keyByte_hbm s (hmaps i (List.mem_range.1 hi)).2

end

/-- Bytes at consecutive addresses are one run. -/
theorem groupRuns_consecutive (a : Nat) (b : Byte) (bs : List Byte) :
    groupRuns ((List.range' a (bs.length + 1)).zip (b :: bs)) = [(a, b :: bs)] := by
  induction bs generalizing a b with
  | nil => rfl
  | cons c bs ih =>
    rw [List.length_cons, List.range'_succ, List.zip_cons_cons, groupRuns, ih]
    exact if_pos rfl

/-- Consecutive bytes of HBM4 are written as one run. -/
theorem writeRuns_consecutive (s : State) (a : Nat) (bs : List Byte) (ha : ∀ i, i < bs.length → a + i < 2 ^ 60) :
    let w := (groupRuns (((List.range bs.length).map (a + ·)).zip bs)).foldl writeRun s
    w.hbm = memWrite s.hbm a bs ∧ w.sward = s.sward := by
  rw [← List.range'_eq_map_range]
  cases bs with
  | nil => exact ⟨rfl, rfl⟩
  | cons b bs =>
    have hfirst : a < 2 ^ 60 := ha 0 (Nat.succ_pos _)
    rw [List.length_cons, groupRuns_consecutive, List.foldl_cons, List.foldl_nil, writeRun_hbm s hfirst]
    exact ⟨rfl, rfl⟩

theorem keyPoisons_hbm (ks : List Nat) (s : State) (hks : ∀ k ∈ ks, k < 2 ^ 60) :
    (ks.foldl keyPoison s).hbm = s.hbm ∧ (ks.foldl keyPoison s).sward = s.sward := by
  induction ks generalizing s with
  | nil => exact ⟨rfl, rfl⟩
  | cons k ks ih =>
    obtain ⟨hk, hrest⟩ := List.forall_mem_cons.1 hks
    rw [List.foldl_cons, keyPoison_hbm s hk]
    exact ih _ hrest

/-- The report of a watchpoint that a request strikes changes no memory (R368). -/
theorem watchRemote_memory (p : BitVec 5) (f : FabReq) (ctx : CtxId) (va n : Nat) (type : BitVec 2) (s : State) :
    (watchRemote p f ctx va n type s).hbm = s.hbm ∧ (watchRemote p f ctx va n type s).sward = s.sward := by
  unfold watchRemote
  split
  next => exact ⟨rfl, rfl⟩
  next => exact ⟨rfl, rfl⟩

/-- s as a request has written n bytes at an address of its context, the watchpoints on them reported (R326, R368). -/
def requestWrites (p : BitVec 5) (f : FabReq) (ctx : CtxId) (va n : Nat) (type : BitVec 2) (bs : List Byte) (s : State) : State :=
  watchRemote p f ctx va n type
    ((groupRuns (((List.range n).map fun i => fabKey s p ctx (va + i)).zip bs)).foldl writeRun s)

/-- The bytes written stand where the engine's translations place them, and no other byte changes. -/
theorem requestWrites_memory {s : State} {p : BitVec 5} {ctx : CtxId} {va n : Nat} {l : Lease} {bs : List Byte}
    (hmaps : s.FabricMaps p ctx va n l) (hlen : bs.length = n) (hcls : l.cls = 0) (hw : Memory.wf s.hbm = true)
    (f : FabReq) (type : BitVec 2) :
    let w := requestWrites p f ctx va n type bs s
    (∀ i, i < n → memGet w.hbm (leasePa l (va + i)) = bs.getD i 0) ∧
      (∀ a, (∀ i, i < n → a ≠ leasePa l (va + i)) → memGet w.hbm a = memGet s.hbm a) ∧ w.sward = s.sward := by
  subst hlen
  intro w
  have hconsecutive : ((List.range bs.length).map fun i => fabKey s p ctx (va + i)) =
      (List.range bs.length).map (leasePa l va + ·) :=
    (hmaps.keys hcls).trans
      (List.map_congr_left fun i hi => hmaps.leasePa_eq (List.mem_range.1 hi))
  obtain ⟨hruns, hrunsSward⟩ :=
    writeRuns_consecutive s (leasePa l va) bs fun i hi => hmaps.leasePa_eq hi ▸ (hmaps i hi).2
  rw [← hconsecutive] at hruns hrunsSward
  obtain ⟨hwatch, hwatchSward⟩ := watchRemote_memory p f ctx va bs.length type
    ((groupRuns (((List.range bs.length).map fun i => fabKey s p ctx (va + i)).zip bs)).foldl writeRun s)
  have hhbm : w.hbm = memWrite s.hbm (leasePa l va) bs := hwatch.trans hruns
  rw [hhbm]
  refine ⟨fun i hi => ?same, fun a ha => memGet_memWrite_other _ _ _ _ hw ?outside, hwatchSward.trans hrunsSward⟩
  case same =>
    rw [hmaps.leasePa_eq hi, memGet_memWrite_same _ _ _ _ hw hi, List.getD_eq_getElem _ _ hi]
  case outside =>
    by_contra hin
    have hi : a - leasePa l va < bs.length := by omega
    have haddr := hmaps.leasePa_eq hi
    exact ha _ hi (by omega)

/-! ### Service (R326) -/

theorem reqLength_atomic {f : FabReq} (hatomic : ytOpc (reqHeader f) = 3) : reqLength f = 8 := by
  simp [reqLength, hatomic]

section
variable {s : State} {p : BitVec 5} {f : FabReq} {ctx : CtxId} {va : Nat} {l : Lease} (hcls : l.cls = 0)
include hcls

theorem serveRead_hbm (hmaps : s.FabricMaps p ctx va (reqLength f) l) : serveRead p f ctx va s =
    answer p f 0x20 ((List.range (reqLength f)).any fun i => poisonedRange s.hbmPoison (leasePa l (va + i)) 1)
      ((List.range (reqLength f)).map fun i => memGet s.hbm (leasePa l (va + i))) s := by
  rw [serveRead, hmaps.keys_poisoned hcls, hmaps.keys_read hcls]

/-- A write is performed on its bytes, and answered, or refused for its data (R326). -/
theorem serveWrite_hbm {ack : BitVec 9} (hmaps : s.FabricMaps p ctx va (reqPayload f).length l)
    (hw : Memory.wf s.hbm = true) : ∃ w : State,
      (∀ i, i < (reqPayload f).length → memGet w.hbm (leasePa l (va + i)) = (reqPayload f).getD i 0) ∧
      (∀ a, (∀ i, i < (reqPayload f).length → a ≠ leasePa l (va + i)) → memGet w.hbm a = memGet s.hbm a) ∧
      w.sward = s.sward ∧ serveWrite p f ack ctx va s =
        if ytPoison (reqHeader f) = true ∨ crc32c (reqPayload f) ≠ ytE2e (reqHeader f) then refuse p f 7 w
        else answer p f ack false [] w := by
  obtain ⟨hsame, hother, hsward⟩ := requestWrites_memory hmaps rfl hcls hw f 1
  by_cases hbad : ytPoison (reqHeader f) = true ∨ crc32c (reqPayload f) ≠ ytE2e (reqHeader f)
  · have hlow : ∀ k ∈ (List.range (reqPayload f).length).map (fun i => fabKey s p ctx (va + i)), k < 2 ^ 60 := by
      rw [hmaps.keys hcls]
      exact List.forall_mem_map.2 fun i hi => (hmaps i (List.mem_range.1 hi)).2
    obtain ⟨hmarked, hmarkedSward⟩ := keyPoisons_hbm _ (requestWrites p f ctx va _ 1 (reqPayload f) s) hlow
    rw [← hmarked] at hsame hother
    refine ⟨_, hsame, hother, hmarkedSward.trans hsward, ?_⟩
    rw [serveWrite, if_pos hbad]
    exact (if_pos hbad).symm
  · refine ⟨_, hsame, hother, hsward, ?_⟩
    rw [serveWrite, if_neg hbad]
    exact (if_neg hbad).symm

theorem serveAtomic_clean (hmaps : s.FabricMaps p ctx va 8 l)
    (hclean : ∀ i, i < 8 → poisonedRange s.hbmPoison (leasePa l (va + i)) 1 = false) {old : Word}
    (hold : old = BitVec.ofNat 64 (leNat ((List.range 8).map fun i => memGet s.hbm (leasePa l (va + i))))) :
    (amoNew (reqOp f) old (reqWord f 2) (reqWord f 1) = none →
      serveAtomic p f ctx va s = answer p f 0x22 false (leBytes 8 old.toNat) s) ∧
    ∀ new, amoNew (reqOp f) old (reqWord f 2) (reqWord f 1) = some new → serveAtomic p f ctx va s =
      answer p f 0x22 false (leBytes 8 old.toNat) (requestWrites p f ctx va 8 2 (leBytes 8 new.toNat) s) := by
  have hpoison : ¬ (((List.range 8).map fun i => fabKey s p ctx (va + i)).any (keyPoisoned s)) = true := by
    rw [hmaps.keys_poisoned hcls, List.any_eq_true]
    rintro ⟨i, hi, hbad⟩
    exact absurd hbad (Bool.eq_false_iff.1 (hclean i (List.mem_range.1 hi)))
  have hread : BitVec.ofNat 64 (leNat (((List.range 8).map fun i => fabKey s p ctx (va + i)).flatMap (keyByte s))) = old := by
    rw [hmaps.keys_read hcls, hold]
  refine ⟨fun hnew => ?_, fun new hnew => ?_⟩
  · rw [serveAtomic, if_neg hpoison, hread]
    dsimp only
    rw [hnew]
  · rw [serveAtomic, if_neg hpoison, hread]
    dsimp only
    rw [hnew]
    rfl

/-- What an atomic reads and leaves of its doubleword (R285, R326). -/
theorem serveAtomic_hbm (hmaps : s.FabricMaps p ctx va 8 l) (hw : Memory.wf s.hbm = true)
    (hclean : ∀ i, i < 8 → poisonedRange s.hbmPoison (leasePa l (va + i)) 1 = false) :
    let old : Word := BitVec.ofNat 64 (leNat ((List.range 8).map fun i => memGet s.hbm (leasePa l (va + i))))
    ∃ w, serveAtomic p f ctx va s = answer p f 0x22 false (leBytes 8 old.toNat) w ∧ w.sward = s.sward ∧
      (∀ a, (∀ i, i < 8 → a ≠ leasePa l (va + i)) → memGet w.hbm a = memGet s.hbm a) ∧
      BitVec.ofNat 64 (leNat ((List.range 8).map fun i => memGet w.hbm (leasePa l (va + i)))) =
        (amoNew (reqOp f) old (reqWord f 2) (reqWord f 1)).getD old := by
  intro old
  obtain ⟨hfails, hwrites⟩ := serveAtomic_clean hcls (f := f) hmaps hclean (old := old) rfl
  cases hnew : amoNew (reqOp f) old (reqWord f 2) (reqWord f 1) with
  | none => exact ⟨s, hfails hnew, rfl, fun _ _ => rfl, rfl⟩
  | some new =>
    obtain ⟨hsame, hother, hsward⟩ := requestWrites_memory hmaps (length_leBytes 8 new.toNat) hcls hw f 2
    refine ⟨_, hwrites new hnew, hsward, hother, ?_⟩
    have hbytes : ((List.range 8).map fun i =>
        memGet (requestWrites p f ctx va 8 2 (leBytes 8 new.toNat) s).hbm (leasePa l (va + i))) = leBytes 8 new.toNat := by
      refine List.map_congr_left fun i hi => ?_
      rw [hsame i (List.mem_range.1 hi)]
      simp [leBytes, List.mem_range.1 hi]
    have hword : new.toNat % 256 ^ 8 = new.toNat := Nat.mod_eq_of_lt new.isLt
    rw [hbytes, leNat_leBytes, hword, BitVec.ofNat_toNat, BitVec.setWidth_eq, Option.getD_some]

end

/-! ### The checks of a request (R325 to R327, R351) -/

section
variable {s : State} {p : BitVec 5} {f : FabReq} {ctx : CtxId} {va : Nat}

theorem serve_checked {opc : BitVec 9} (hfirst : fabFirst s p opc = some f) (hchecked : f.checked = some (ctx, va)) :
    serve p opc s = (tidyPorts (serveChecked p f ctx va s)).ends := by
  simp only [serve, hfirst, hchecked]
  rfl

theorem serve_refused {opc : BitVec 9} (hfirst : fabFirst s p opc = some f) (hchecked : f.checked = none)
    (hrefused : (checkRequest p f s).2 = none) : serve p opc s = (tidyPorts (checkRequest p f s).1).ends := by
  have hcheck : checkRequest p f s = ((checkRequest p f s).1, none) := Prod.ext rfl hrefused
  rw [serve, hfirst]
  dsimp only
  rw [hchecked]
  dsimp only
  rw [hcheck]
  rfl

theorem serveChecked_abandons (hlive : s.ctxLive ctx = false) : serveChecked p f ctx va s = fabRemove p f s := by
  simp [serveChecked, hlive]

variable (hlive : s.ctxLive ctx = true)
include hlive

theorem serveChecked_arrive (hopc : ytOpc (reqHeader f) = 5) : serveChecked p f ctx va s = serveArrive p f ctx s := by
  simp [serveChecked, hlive, hopc]

variable (hopc : ytOpc (reqHeader f) ≠ 5)
include hopc

theorem serveChecked_long (hlen : 4096 < reqLength f) : serveChecked p f ctx va s = refuse p f 3 s := by
  have hnum : (ytOpc (reqHeader f)).toNat ≠ 5 := fun h => hopc (BitVec.eq_of_toNat_eq h)
  simp [serveChecked, hlive, hnum, hlen]

variable (hlen : reqLength f ≤ 4096)
include hlen

theorem serveChecked_bad (hpages : fabPages s p ctx f (pageStarts va (reqLength f)) = .bad) :
    serveChecked p f ctx va s = refuse p f 4 s := by
  have hnum : (ytOpc (reqHeader f)).toNat ≠ 5 := fun h => hopc (BitVec.eq_of_toNat_eq h)
  simp [serveChecked, hlive, hnum, Nat.not_lt.2 hlen, hpages]

theorem serveChecked_hold (hpages : fabPages s p ctx f (pageStarts va (reqLength f)) = .hold) :
    serveChecked p f ctx va s = s := by
  have hnum : (ytOpc (reqHeader f)).toNat ≠ 5 := fun h => hopc (BitVec.eq_of_toNat_eq h)
  simp [serveChecked, hlive, hnum, Nat.not_lt.2 hlen, hpages]

omit hopc in
theorem serveChecked_ready (hpages : fabPages s p ctx f (pageStarts va (reqLength f)) = .ready) :
    (ytOpc (reqHeader f) = 1 → serveChecked p f ctx va s = serveRead p f ctx va s) ∧
    (ytOpc (reqHeader f) = 2 → serveChecked p f ctx va s = serveWrite p f 0x21 ctx va s) ∧
    (ytOpc (reqHeader f) = 3 → serveChecked p f ctx va s = serveAtomic p f ctx va s) := by
  refine ⟨fun hopc => ?_, fun hopc => ?_, fun hopc => ?_⟩
  all_goals simp [serveChecked, hlive, hopc, Nat.not_lt.2 hlen, hpages]

end

/-! ### Arrives (R300, R326) -/

section
variable {s : State} {p : BitVec 5} {f : FabReq} {ctx : CtxId} {i : BitVec 16} {op : CellOp}
  (hi : field (ytOffset (reqHeader f)) 0 16 = i) (hop : CellOp.remoteArrive (leNat ((reqPayload f).take 8)) = op)
include hi hop

theorem serveArrive_stalls (hstalls : cellStalls s ctx i op = true) : serveArrive p f ctx s = s := by
  subst hi hop
  exact if_pos hstalls

variable (hgoes : cellStalls s ctx i op = false)
include hgoes

theorem serveArrive_applied (hfault : (cellOp ctx i op s).fault = none) :
    serveArrive p f ctx s = answer p f 0x24 false [] (cellOp ctx i op s).st := by
  subst hi hop
  rw [serveArrive, if_neg (Bool.eq_false_iff.1 hgoes)]
  simp only [cellOpReport, hfault]

theorem serveArrive_refused {c : Cause} (hfault : (cellOp ctx i op s).fault = some c) : serveArrive p f ctx s =
    refuse p f (causeCode c) (cellFaultEntry ctx i c (portUnit p) 0 (cellOp ctx i op s).st) := by
  subst hi hop
  rw [serveArrive, if_neg (Bool.eq_false_iff.1 hgoes)]
  simp only [cellOpReport, hfault]

end

/-! ### Answers (R298, R302, R371) -/

/-- An answer's command finds room in its replay log, and its cell under no scrub (R262, R371). -/
def AnswerClear (s : State) (f : FabReq) (c : Cmd) : Prop :=
  logFull s c.ctx (answerRecords f) = false ∧ (parDlv c.par = true → cellScrubs s c.ctx (parCell c.par) = false)

theorem answerClear_iff {s : State} {f : FabReq} {c : Cmd} : AnswerClear s f c ↔
    ¬ (logFull s c.ctx (answerRecords f) = true ∨ (parDlv c.par = true ∧ cellScrubs s c.ctx (parCell c.par) = true)) := by
  rw [AnswerClear, not_or, not_and, Bool.not_eq_true, Bool.not_eq_true]

section
variable {s : State} {p : BitVec 5} {opc : BitVec 9} {take : FabReq → Cmd → RemoteReq → State → State} {f : FabReq}
  (hfirst : fabFirst s p opc = some f)
include hfirst

theorem takeAnswer_unasked (hanswered : answered s f = none) :
    takeAnswer p opc take s = (count f.frame.ref.port .latecpl (fabRemove p f s)).ends := by
  simp only [takeAnswer, hfirst, hanswered]
  rfl

variable {c : Cmd} {r : RemoteReq} (hanswered : answered s f = some (c, r))
include hanswered

theorem takeAnswer_waits (hclear : ¬ AnswerClear s f c) : takeAnswer p opc take s = s.ends := by
  rw [answerClear_iff, Classical.not_not] at hclear
  simp only [takeAnswer, hfirst, hanswered, if_pos hclear]
  rfl

variable (hclear : AnswerClear s f c)
include hclear

theorem takeAnswer_discards (hover : c.phase = .stopping ∨ r.late = true) :
    takeAnswer p opc take s = (settleReq p f c r s).ends := by
  simp only [takeAnswer, hfirst, hanswered, if_neg (answerClear_iff.1 hclear), if_pos hover]
  rfl

/-- An answer that its command takes leaves the state t. -/
theorem takeAnswer_takes {e : Instr} {t : State} (he : exec e s = takeAnswer p opc take s) (hphase : c.phase ≠ .stopping)
    (hlate : r.late = false) (ht : take f c r s = t) : exec e s = (tidyPorts t).ends := by
  have hlive : ¬ (c.phase = .stopping ∨ r.late = true) := fun hover => hover.elim hphase (Bool.eq_false_iff.1 hlate)
  rw [he, ← ht]
  simp only [takeAnswer, hfirst, hanswered, if_neg (answerClear_iff.1 hclear), if_neg hlive]
  rfl

end

/-! ### Drains (R277, R328) -/

theorem fabricDrain_begins {s : State} (hidle : s.draining = false) : ∃ u, exec .fabricDrain s = .next u ∧
    u.draining = !u.drained ∧
    u.drained = (s.ports.all fun x => x.fab.all fun f => !isRequest (ytOpc (reqHeader f))) := by
  refine ⟨_, rfl, rfl, ?_⟩
  simp only [hidle, Bool.false_eq_true, if_false, drainOver, beginDrain, Vector.all_map, List.all_map, Function.comp_def]

end Sys2Proof.Machine

open Sys2Proof Sys2Proof.Machine

/-- Settles O49: requests by their checks and pages, answers by the five outcomes that all of them have, then the drains. -/
theorem fabricEventResults : Obligations.FabricEventResults := by
  intro s p id served refusedOr clear late takes
  refine ⟨?served, ?refused, ?checked, ?late, ?readData, ?writeAck, ?badResult, ?result, ?member, ?arrived, ?refusal, ?timeout,
    ?draining, fabricDrain_begins, ?host⟩
  case served =>
    have served (opc : BitVec 9) : ∀ f ctx va, fabFirst s p opc = some f → f.checked = some (ctx, va) →
        serve p opc s = (tidyPorts (serveChecked p f ctx va s)).ends := fun f ctx va => serve_checked
    exact ⟨served 1, served 2, served 3, served 4, served 5⟩
  case refused =>
    have refused (opc : BitVec 9) : ∀ f, fabFirst s p opc = some f → f.checked = none → (checkRequest p f s).2 = none →
        serve p opc s = (tidyPorts (checkRequest p f s).1).ends := fun f => serve_refused
    exact ⟨refused 1, refused 2, refused 3, refused 4, refused 5⟩
  case checked =>
    intro f ctx va o u pages
    refine ⟨serveChecked_abandons, fun hlive ho => ?arrive, fun hlive ho => ?memory⟩
    case arrive =>
      intro i op
      have hu : u = serveArrive p f ctx s := serveChecked_arrive hlive ho
      rw [hu]
      exact ⟨serveArrive_stalls rfl rfl, serveArrive_applied rfl rfl, fun c hgoes => serveArrive_refused rfl rfl hgoes⟩
    case memory =>
      refine ⟨serveChecked_long hlive ho, serveChecked_bad hlive ho, serveChecked_hold hlive ho, ?ready⟩
      intro l hlen hpages hcls hw hmaps at_
      obtain ⟨hread, hwrite, hatomic⟩ := serveChecked_ready hlive hlen hpages
      have hwhole (hno : o ≠ 2) : s.FabricMaps p ctx va (reqLength f) l := fun i hi => hmaps i (by rwa [if_neg hno])
      refine ⟨fun h1 => ?read, fun h2 => ?write, fun h3 hclean => ?atomic⟩
      case read => exact (hread h1).trans (serveRead_hbm hcls (hwhole (by rw [h1]; decide)))
      case write =>
        obtain ⟨w, hsame, hother, hsward, hu⟩ :=
          serveWrite_hbm (f := f) (ack := 0x21) hcls (fun i hi => hmaps i (by rwa [if_pos h2])) hw
        exact ⟨w, hsame, hother, hsward, (hwrite h2).trans hu⟩
      case atomic =>
        have hmaps8 : s.FabricMaps p ctx va 8 l := reqLength_atomic h3 ▸ hwhole (by rw [h3]; decide)
        obtain ⟨w, hu, hrest⟩ := serveAtomic_hbm (f := f) hcls hmaps8 hw hclean
        exact ⟨w, (hatomic h3).trans hu, hrest⟩
  case late =>
    have answers {opc : BitVec 9} {e : Instr} {take : FabReq → Cmd → RemoteReq → State → State}
        (he : exec e s = takeAnswer p opc take s) : late opc e := by
      intro f hfirst
      rw [he]
      exact ⟨takeAnswer_unasked hfirst, fun c r => takeAnswer_discards hfirst, fun c r => takeAnswer_waits hfirst⟩
    exact ⟨answers (exec_readData s p), answers (exec_writeAcknowledgement s p), answers (exec_atomicResult s p),
      answers (exec_multicastMemberAcknowledgement s p), answers (exec_arriveAcknowledgement s p), answers (exec_refusal s p)⟩
  case readData =>
    intro f c r hfirst hanswered hclear hphase hlate
    refine takeAnswer_takes hfirst hanswered hclear (exec_readData s p) hphase hlate ?_
    simp only [Bool.not_eq_true']
  case writeAck =>
    exact fun f c r hfirst hanswered hclear hphase hlate =>
      takeAnswer_takes hfirst hanswered hclear (exec_writeAcknowledgement s p) hphase hlate rfl
  case badResult =>
    intro f c r hfirst hanswered hclear hphase hlate hgood
    refine takeAnswer_takes hfirst hanswered hclear (exec_atomicResult s p) hphase hlate ?_
    simp only [hgood, Bool.not_false, if_true]
  case result =>
    intro f c r s1 hfirst hanswered hclear hphase hlate hgood a hadmit l
    refine takeAnswer_takes hfirst hanswered hclear (exec_atomicResult s p) hphase hlate ?_
    simp only [hgood, Bool.not_true, Bool.false_eq_true, if_false]
    rw [hadmit]
  case member =>
    exact fun f c r hfirst hanswered hclear hphase hlate =>
      takeAnswer_takes hfirst hanswered hclear (exec_multicastMemberAcknowledgement s p) hphase hlate rfl
  case arrived =>
    exact fun f c r hfirst hanswered hclear hphase hlate =>
      takeAnswer_takes hfirst hanswered hclear (exec_arriveAcknowledgement s p) hphase hlate rfl
  case refusal =>
    exact fun f c r hfirst hanswered hclear hphase hlate =>
      takeAnswer_takes hfirst hanswered hclear (exec_refusal s p) hphase hlate rfl
  case timeout =>
    intro c hc
    simp only [exec_remoteTimeout, execRemoteTimeout, hc]
    rfl
  case host => rfl
  case draining =>
    intro isOver hdraining
    rw [exec_fabricDrain, execFabricDrain, if_pos hdraining]
    rfl
end

section
/-! Every step keeps every memory in the canonical form of log 6: O57. A write into a memory keeps its form (`memWrite_wf`,
`memWriteLE_wf`, `memZero_wf`), and nothing else changes one. So each function of the model that answers a state has one rule,
`<function>_canonical`: from a canonical state it answers a canonical one. A rule is assembled from the rules of the functions
it calls, along the branches of the definition, in the order of the model's files. -/

namespace Sys2Proof.Machine

/-! ### The invariant, part by part -/

/-- A tile whose instruction memory is in canonical form. -/
abbrev Tile.Canonical (x : Tile) : Prop := Memory.wf x.imem = true

/-- The memories of the package, all in canonical form (log 6). -/
structure CanonicalMemories (sward hbm hostMem cxlMem hostWin kenvalSram : Mem) (tiles : Vector Tile 256) : Prop where
  sward : Memory.wf sward = true
  hbm : Memory.wf hbm = true
  hostMem : Memory.wf hostMem = true
  cxlMem : Memory.wf cxlMem = true
  hostWin : Memory.wf hostWin = true
  kenvalSram : Memory.wf kenvalSram = true
  tiles : ∀ x ∈ tiles, x.Canonical

/-- `State.memoryWf` as a proposition with named parts. -/
def State.Canonical (s : State) : Prop :=
  CanonicalMemories s.sward s.hbm s.hostMem s.cxlMem s.hostWin s.kenvalSram s.tiles

theorem State.memoryWf_iff (s : State) : s.memoryWf = true ↔ s.Canonical := by
  simp only [State.memoryWf, Bool.and_eq_true, Vector.all_eq_true_iff_forall_mem]
  exact ⟨fun ⟨⟨⟨⟨⟨⟨a, b⟩, c⟩, d⟩, e⟩, f⟩, g⟩ => ⟨a, b, c, d, e, f, g⟩,
    fun ⟨a, b, c, d, e, f, g⟩ => ⟨⟨⟨⟨⟨⟨a, b⟩, c⟩, d⟩, e⟩, f⟩, g⟩⟩

/-- An outcome that goes on does so in a canonical state. -/
def Out.Canonical : Out → Prop
  | .next t => t.Canonical
  | _ => True

/-- A slot's answer leaves a canonical state, where it leaves one of its own. -/
def SlotRes.Canonical : SlotRes → Prop
  | .ok t => t.Canonical
  | .trapIn t _ _ => t.Canonical
  | _ => True

variable {s : State}

/-! ### Updates of the parts of the package -/

theorem State.Canonical.tile (h : s.Canonical) (t : TileId) : (s.tile t).Canonical := h.tiles _ (Vector.getElem_mem _)

theorem setTile_canonical {t : TileId} {x : Tile} (h : s.Canonical) (hx : x.Canonical) : (s.setTile t x).Canonical := by
  refine { h with tiles := fun y hy => ?_ }
  obtain hy | rfl := Vector.mem_or_eq_of_mem_set (hi := t.isLt) hy
  · exact h.tiles y hy
  · exact hx

theorem modTile_canonical {t : TileId} {f : Tile → Tile} (h : s.Canonical)
    (hf : ∀ x, x.Canonical → (f x).Canonical) : (s.modTile t f).Canonical :=
  setTile_canonical h (hf _ (h.tile t))

theorem modTaskAt_canonical {t : TileId} {f : Task → Task} (h : s.Canonical) : (s.modTaskAt t f).Canonical :=
  modTile_canonical h fun _ hx => hx

theorem modTask_canonical {f : Task → Task} (h : s.Canonical) : (s.modTask f).Canonical := modTaskAt_canonical h

theorem modCtx_canonical {c : CtxId} {f : Context → Context} (h : s.Canonical) : (s.modCtx c f).Canonical := h
theorem modQueue_canonical {q : BitVec 7} {f : HwQueue → HwQueue} (h : s.Canonical) : (s.modQueue q f).Canonical := h
theorem modDie_canonical {d : BitVec 1} {f : Die → Die} (h : s.Canonical) : (s.modDie d f).Canonical := h
theorem modCluster_canonical {c : BitVec 4} {f : Cluster → Cluster} (h : s.Canonical) : (s.modCluster c f).Canonical := h
theorem modPipe_canonical {p : BitVec 3} {f : Pipe → Pipe} (h : s.Canonical) : (s.modPipe p f).Canonical := h
theorem modPort_canonical {p : BitVec 5} {f : Port → Port} (h : s.Canonical) : (s.modPort p f).Canonical := h

theorem setSward_canonical {m : Mem} {p : List Nat} {b : List Nat} (h : s.Canonical) (hm : Memory.wf m = true) :
    ({ s with sward := m, swardPoison := p, scrubbing := b } : State).Canonical := { h with sward := hm }

theorem setHbm_canonical {m : Mem} {p : List Nat} {n : Nat} (h : s.Canonical) (hm : Memory.wf m = true) :
    ({ s with hbm := m, hbmPoison := p, freeCount := n } : State).Canonical := { h with hbm := hm }

theorem setHostMem_canonical {m : Mem} (h : s.Canonical) (hm : Memory.wf m = true) :
    ({ s with hostMem := m } : State).Canonical := { h with hostMem := hm }

theorem setCxlMem_canonical {m : Mem} (h : s.Canonical) (hm : Memory.wf m = true) :
    ({ s with cxlMem := m } : State).Canonical := { h with cxlMem := hm }

theorem setHostWin_canonical {m : Mem} {o : List (BitVec 7)} (h : s.Canonical) (hm : Memory.wf m = true) :
    ({ s with hostWin := m, hostOrder := o } : State).Canonical := { h with hostWin := hm }

theorem setKenvalSram_canonical {m : Mem} (h : s.Canonical) (hm : Memory.wf m = true) :
    ({ s with kenvalSram := m } : State).Canonical := { h with kenvalSram := hm }

theorem map_canonical {g : Tile → Tile} {v : Vector Tile 256} (h : ∀ x ∈ v, x.Canonical)
    (hg : ∀ x : Tile, x.Canonical → (g x).Canonical) : ∀ x ∈ v.map g, x.Canonical := by
  intro x hx
  obtain ⟨y, hy, rfl⟩ := Vector.mem_map.mp hx
  exact hg y (h y hy)

theorem setTiles_canonical {v : Vector Tile 256} {c : Vector Context 64} {q : Vector HwQueue 128} {d : Vector Die 2}
    {l : List Cmd} {p : Vector Port 32} (h : s.Canonical) (hv : ∀ x ∈ v, x.Canonical) :
    ({ s with tiles := v, ctxs := c, queues := q, dies := d, cmds := l, ports := p } : State).Canonical :=
  { h with tiles := hv }

theorem mapTiles_canonical {g : Tile → Tile} (h : s.Canonical)
    (hg : ∀ x : Tile, x.Canonical → (g x).Canonical) : ({ s with tiles := s.tiles.map g } : State).Canonical :=
  setTiles_canonical h (map_canonical h.tiles hg)

theorem ofFn_canonical {g : Fin 256 → Tile} (hg : ∀ i, (g i).Canonical) : ∀ x ∈ Vector.ofFn g, x.Canonical := by
  intro x hx
  obtain ⟨i, rfl⟩ := Vector.mem_ofFn.mp hx
  exact hg i

theorem ite_canonical {c : Prop} [Decidable c] {t u : State} (ht : t.Canonical) (hu : u.Canonical) :
    (if c then t else u).Canonical := by
  split
  · exact ht
  · exact hu

theorem iteFst_canonical {c : Prop} [Decidable c] {α : Type} {a b : State × α} (ha : a.1.Canonical) (hb : b.1.Canonical) :
    (if c then a else b).1.Canonical := by
  split
  · exact ha
  · exact hb

theorem iteSlot_canonical {c : Prop} [Decidable c] {q r : SlotRes} (hq : q.Canonical) (hr : r.Canonical) :
    (if c then q else r).Canonical := by
  split
  · exact hq
  · exact hr

theorem iteOut_canonical {c : Prop} [Decidable c] {o r : Out} (ho : Out.Canonical o) (hr : Out.Canonical r) :
    Out.Canonical (if c then o else r) := by
  split
  · exact ho
  · exact hr

theorem iteTile_canonical {c : Prop} [Decidable c] {x y : Tile} (hx : x.Canonical) (hy : y.Canonical) :
    (if c then x else y).Canonical := by
  split
  · exact hx
  · exact hy

theorem foldlFst_canonical {α β : Type} {f : State × α → β → State × α} {l : List β} {a : State × α}
    (hf : ∀ a b, a.1.Canonical → (f a b).1.Canonical) (h : a.1.Canonical) : (l.foldl f a).1.Canonical :=
  List.foldlRecOn (motive := fun a => a.1.Canonical) l f h fun a ha b _ => hf a b ha

theorem repeat_canonical {f : State → State} (hf : ∀ s, s.Canonical → (f s).Canonical) (n : Nat) (h : s.Canonical) :
    (n.repeat f s).Canonical := by
  induction n with
  | zero => exact h
  | succ n ih => exact hf _ ih

theorem foldl_canonical {β : Type} {f : State → β → State} {l : List β}
    (hf : ∀ s b, s.Canonical → (f s b).Canonical) (h : s.Canonical) : (l.foldl f s).Canonical :=
  List.foldlRecOn l f h fun s hs b _ => hf s b hs

theorem foldlTile_canonical {β : Type} {f : Tile → β → Tile} {l : List β} {x : Tile}
    (hf : ∀ x b, x.Canonical → (f x b).Canonical) (h : x.Canonical) : (l.foldl f x).Canonical :=
  List.foldlRecOn l f h fun x hx b _ => hf x b hx

theorem setHeldRecs_canonical {l : List (CtxId × BitVec 16 × Bool)} (h : s.Canonical) :
    ({ s with heldRecs := l } : State).Canonical := h

theorem setSig_canonical {g : Sig} (h : s.Canonical) : ({ s with sig := g } : State).Canonical := h

theorem setCur_canonical {t : TileId} (h : s.Canonical) : ({ s with cur := t } : State).Canonical := h

theorem setDies_canonical {d : Vector Die 2} (h : s.Canonical) : ({ s with dies := d } : State).Canonical := h

theorem canonical_of_eq_pair {α : Type} {p : State × α} {t : State} {a : α} (h : p.1.Canonical) (hp : p = (t, a)) :
    t.Canonical := by
  subst hp
  exact h

theorem canonical_of_eq_next {o : Out} {t : State} (h : Out.Canonical o) (ho : o = .next t) : t.Canonical := by
  subst ho
  exact h

theorem setCmds_canonical {l : List Cmd} (h : s.Canonical) : ({ s with cmds := l } : State).Canonical := h

/-! ### Ops -/

theorem setHalf_canonical {u : Bool} {h : Half} {x : Tile} (hs : x.Canonical) : (setHalf u h x).Canonical :=
  iteTile_canonical hs hs

theorem emit_canonical {lat : Nat} {v : LandVal} (h : s.Canonical) : (emit lat v s).Canonical := modTask_canonical h

theorem emitS_canonical {lat : Nat} {r : BitVec 6} {v : Word} (h : s.Canonical) : (emitS lat r v s).Canonical :=
  ite_canonical h (emit_canonical h)

theorem emitA_canonical {lat : Nat} {r : BitVec 5} {v : Word} (h : s.Canonical) : (emitA lat r v s).Canonical :=
  emit_canonical h

theorem emitP_canonical {lat : Nat} {r : BitVec 3} {v : Bool} (h : s.Canonical) : (emitP lat r v s).Canonical :=
  ite_canonical h (emit_canonical h)

theorem emitV_canonical {lat : Nat} {r : BitVec 6} {v : VReg} (h : s.Canonical) : (emitV lat r v s).Canonical :=
  emit_canonical h

theorem emitF_canonical {lat : Nat} {f : Word} (h : s.Canonical) : (emitF lat f s).Canonical :=
  ite_canonical h (emit_canonical h)

theorem tickTime_canonical {n : Nat} (h : s.Canonical) : (tickTime n s).Canonical := h

theorem noteSaves_canonical {n : Nat} (h : s.Canonical) : (noteSaves n s).Canonical := by
  unfold noteSaves
  split
  · exact setTiles_canonical h (map_canonical h.tiles fun x hx => iteTile_canonical hx hx)
  · exact h

theorem tickClock_canonical {n : Nat} (h : s.Canonical) : (tickClock n s).Canonical :=
  noteSaves_canonical (tickTime_canonical h)

theorem countSlots_canonical {n : Nat} (h : s.Canonical) : (countSlots n s).Canonical := modTask_canonical h

theorem endPeriod_canonical {period : Option Nat} {t : Tile} (h : t.Canonical) : (endPeriod period t).Canonical := by
  unfold endPeriod
  split
  · exact h
  · exact iteTile_canonical h h

theorem issueCycle_canonical (h : s.Canonical) : (issueCycle s).Canonical :=
  modTile_canonical h fun _ hx => endPeriod_canonical hx

theorem frozenCycle_canonical (h : s.Canonical) : (frozenCycle s).Canonical := modTile_canonical h (fun _ => id)

theorem traceRecord_canonical {d : BitVec 1} {kind : Nat} {unit : BitVec 16} {queue : BitVec 7} {ctx : CtxId}
    {seq : BitVec 48} {tmpl : BitVec 16} {body : Nat} (h : s.Canonical) :
    (traceRecord d kind unit queue ctx seq tmpl body s).Canonical :=
  ite_canonical h (ite_canonical (modDie_canonical h) (modDie_canonical (setHbm_canonical h (memWriteLE_wf _ _ _ _ h.hbm))))

theorem enterFault_canonical {d : BitVec 1} {e : BitVec 256} (h : s.Canonical) : (enterFault d e s).Canonical :=
  modDie_canonical h

theorem traceStop_canonical {t : TileId} {code : BitVec 8} (h : s.Canonical) : (traceStop t code s).Canonical :=
  traceRecord_canonical h

theorem traceWatch_canonical {d : BitVec 1} {unit : BitVec 16} {k : Task} {seq : BitVec 48} {e : BitVec 256}
    (h : s.Canonical) : (traceWatch d unit k seq e s).Canonical :=
  traceRecord_canonical h

theorem traceWatchTrap_canonical {t : TileId} {code : BitVec 8} {unit : BitVec 16} (h : s.Canonical) :
    (traceWatchTrap t code unit s).Canonical :=
  ite_canonical (traceWatch_canonical h) h

theorem gangStops_canonical {t : TileId} (h : s.Canonical) : (gangStops t s).Canonical := by
  refine setTiles_canonical h (ofFn_canonical fun i => ?_)
  have hi : s.tiles[i].Canonical := h.tiles _ (Vector.getElem_mem _)
  exact iteTile_canonical hi hi

theorem queueDump_canonical {d : BitVec 1} {c : CtxId} {first : Option TrapRec} (h : s.Canonical) :
    (queueDump d c first s).Canonical :=
  modDie_canonical (modCtx_canonical h)

theorem dumpFault_canonical {d : BitVec 1} {k : Task} (h : s.Canonical) : (dumpFault d k s).Canonical := by
  unfold dumpFault
  refine ite_canonical h ?_
  split
  · exact modCtx_canonical h
  · exact ite_canonical h (queueDump_canonical h)

theorem stopUnrouted_canonical {t : TileId} (h : s.Canonical) : (stopUnrouted t s).Canonical :=
  gangStops_canonical (traceStop_canonical (dumpFault_canonical (enterFault_canonical (modTile_canonical h (fun _ => id)))))

theorem takeTrap_canonical {t : TileId} {code : BitVec 8} {imp : Bool} {eng slot : BitVec 3} {addr : BitVec 18} {tval : Word}
    {status : BitVec 32} (h : s.Canonical) : (takeTrap t code imp eng slot addr tval status s).Canonical := by
  simp only [takeTrap]
  split
  · exact stopUnrouted_canonical (modTaskAt_canonical h)
  · exact ite_canonical (traceStop_canonical (modTile_canonical (traceWatchTrap_canonical (modTaskAt_canonical h))
      (fun _ => id))) (stopUnrouted_canonical (modTaskAt_canonical (traceWatchTrap_canonical (modTaskAt_canonical h))))

theorem slotDone_canonical (h : s.Canonical) : Out.Canonical (slotDone s) := h

theorem slotTrap_canonical {c : Cause} {tval : Word} (h : s.Canonical) : Out.Canonical (slotTrap c tval s) :=
  takeTrap_canonical (modTask_canonical h)

theorem slotFreeze_canonical {why : FreezeWhy} (h : s.Canonical) : Out.Canonical (slotFreeze why s) := frozenCycle_canonical h

theorem slotOutcome_canonical {r : SlotRes} (h : s.Canonical) (h1 : r.Canonical) : Out.Canonical (slotOutcome s r) := by
  unfold slotOutcome
  split
  · exact slotDone_canonical h1
  · exact slotTrap_canonical h
  · exact slotTrap_canonical h1
  · exact slotFreeze_canonical h

theorem runSlot_canonical {regs : List (BitVec 6)} {body : State → SlotRes} (hbody : ∀ u, u.Canonical → (body u).Canonical)
    (h : s.Canonical) : Out.Canonical (runSlot regs body s) :=
  iteOut_canonical (slotDone_canonical h) (iteOut_canonical (slotFreeze_canonical h) (slotOutcome_canonical h (hbody _ h)))

theorem saveClass_canonical {t : TileId} {k : Task} {c : ResClass} (h : s.Canonical) : (saveClass t k c s).Canonical := by
  have h1 : (if (s.tile t).badClasses.contains (k.uid, c) then
      s.modTile t fun x => { x with badClasses := x.badClasses.erase (k.uid, c) } else s).Canonical :=
    ite_canonical (modTile_canonical h fun _ hx => hx) h
  exact setHbm_canonical h1 (memWrite_wf _ _ _ h1.hbm)

theorem needClass_canonical {c : ResClass} {body : State → SlotRes} (hbody : ∀ u, u.Canonical → (body u).Canonical)
    (h : s.Canonical) : (needClass c body s).Canonical :=
  iteSlot_canonical (hbody _ h) (iteSlot_canonical trivial trivial)

theorem runClaiming_canonical {cs : List ResClass} {regs : List (BitVec 6)} {body : State → SlotRes}
    (hbody : ∀ s, s.Canonical → (body s).Canonical) (h : s.Canonical) : Out.Canonical (runClaiming cs regs body s) := by
  refine runSlot_canonical ?_ h
  induction cs with
  | nil => exact hbody
  | cons c cs ih => exact fun _ => needClass_canonical ih

/-! ### Access -/

theorem setBank_canonical {b : Nat} {w : BitVec 32} (h : s.Canonical) : (State.setBank s b w).Canonical := h

theorem admitBanks_canonical {a : Accessor} {bs : List Nat} {t : State} (h : s.Canonical) (ht : admitBanks a bs s = some t) :
    t.Canonical := by
  induction bs generalizing s with
  | nil => exact Option.some.inj ht ▸ h
  | cons b bs ih =>
    unfold admitBanks at ht
    split at ht
    · cases ht
    · exact ih (setBank_canonical h) ht

theorem swardWrite_canonical {a : Nat} {bs : List Byte} (h : s.Canonical) : (State.swardWrite s a bs).Canonical :=
  setSward_canonical h (memWrite_wf _ _ _ h.sward)

theorem slotWrite_canonical {a : Nat} {bs : List Byte} (h : s.Canonical) : (State.slotWrite s a bs).Canonical :=
  ite_canonical (modTask_canonical h) (swardWrite_canonical h)

theorem addFreeze_canonical {n : Nat} (h : s.Canonical) : (addFreeze n s).Canonical := modTile_canonical h (fun _ => id)

theorem addImpFault_canonical {t : TileId} {f : ImpFault} (h : s.Canonical) : (addImpFault t f s).Canonical :=
  modTaskAt_canonical h

/-! ### Replay -/

theorem logRecord_canonical {ctx : CtxId} {r : BitVec 512} (h : s.Canonical) : (logRecord ctx r s).Canonical :=
  ite_canonical h (modCtx_canonical (setHbm_canonical h (memWriteLE_wf _ _ _ _ h.hbm)))

theorem logUse_canonical {ctx : CtxId} {n : Nat} (h : s.Canonical) : (logUse ctx n s).Canonical := modCtx_canonical h

theorem diverge_canonical {ctx : CtxId} (h : s.Canonical) : (diverge ctx s).Canonical := ite_canonical h (modCtx_canonical h)

theorem logAnswer_canonical {compared : Bool} {ctx : CtxId} {r : BitVec 512} (h : s.Canonical) :
    (logAnswer compared ctx r s).1.Canonical := by
  simp only [logAnswer]
  refine iteFst_canonical (logRecord_canonical h) ?_
  refine iteFst_canonical ?_ h
  split
  · exact ite_canonical (diverge_canonical h) h
  · exact ite_canonical (diverge_canonical (logUse_canonical h)) (logUse_canonical h)

theorem recordValue_canonical {ctx : CtxId} {o : LogOwner} {v : Word} (h : s.Canonical) :
    (recordValue ctx o v s).1.Canonical :=
  logAnswer_canonical h

theorem recordBytes_canonical {ctx : CtxId} {n : Nat} {o : LogOwner} {bs : List Byte} (h : s.Canonical) :
    (recordBytes ctx o n bs s).1.Canonical := by
  induction n generalizing o bs s with
  | zero => exact h
  | succ n ih =>
    unfold recordBytes
    split
    · exact h
    · exact ih (logAnswer_canonical h)

theorem noteFire_canonical {ctx : CtxId} {i : BitVec 16} {fires : BitVec 32} (h : s.Canonical) :
    (noteFire ctx i fires s).Canonical := by
  unfold noteFire
  refine ite_canonical (logRecord_canonical h) ?_
  refine ite_canonical ?_ h
  split
  · exact logUse_canonical h
  · exact h

/-! ### Cells -/

theorem cellWrite_canonical {a : Nat} {c : BitVec 256} (h : s.Canonical) : (cellWrite s a c).Canonical :=
  setSward_canonical h (memWriteLE_wf _ _ _ _ h.sward)

theorem fireCell_canonical {ctx : CtxId} {i : BitVec 16} {a : Nat} {c : BitVec 256} (h : s.Canonical) :
    (fireCell ctx i a c s).Canonical := by
  have h0 : (noteFire ctx i (cellFires (cellFired c)) s).Canonical := noteFire_canonical h
  simp only [fireCell]
  split
  · exact cellWrite_canonical h0
  · split
    · exact modQueue_canonical (cellWrite_canonical h0)
    · exact setHeldRecs_canonical (cellWrite_canonical h0)

theorem cellOp_canonical {ctx : CtxId} {i : BitVec 16} {op : CellOp} (h : s.Canonical) :
    (cellOp ctx i op s).st.Canonical := by
  simp only [cellOp]
  split
  · exact h
  · split
    · exact h
    · split
      · exact h
      · split
        · exact h
        · split
          · exact h
          · split
            · exact cellWrite_canonical h
            · split
              · exact setHeldRecs_canonical (cellWrite_canonical h)
              · split
                · exact fireCell_canonical h
                · exact cellWrite_canonical h

theorem cellFaultEntry_canonical {ctx : CtxId} {i : BitVec 16} {c : Cause} {unit : BitVec 16} {seq : BitVec 48}
    (h : s.Canonical) : (cellFaultEntry ctx i c unit seq s).Canonical :=
  enterFault_canonical h

theorem cellOpReport_canonical {ctx : CtxId} {i : BitVec 16} {op : CellOp} {unit : BitVec 16} {seq : BitVec 48}
    (h : s.Canonical) : (cellOpReport ctx i op unit seq s).1.Canonical := by
  simp only [cellOpReport]
  split
  · exact cellOp_canonical h
  · exact cellFaultEntry_canonical (cellOp_canonical h)

/-! ### Packets -/

theorem count_canonical {p : BitVec 6} {c : Counter} (h : s.Canonical) : (count p c s).Canonical := by
  unfold count
  refine ite_canonical ?_ ?_
  · split
    · exact modPort_canonical h
    · exact h
  · refine ite_canonical ?_ h
    split <;> exact h

theorem bufTake_canonical {p : BitVec 6} {units : Nat} {tc : BitVec 3} (h : s.Canonical) :
    (bufTake p units tc s).1.Canonical :=
  h

theorem present_canonical {p : BitVec 6} {bytes : List Byte} {yt stomp : Bool} {tc : BitVec 3} (h : s.Canonical) :
    (present p bytes yt stomp tc s).Canonical :=
  modPipe_canonical (count_canonical (bufTake_canonical h))

theorem leave_canonical {p : BitVec 5} {f : OutFrame} (h : s.Canonical) : (leave p f s).Canonical := ite_canonical h h

theorem leaveAll_canonical {p : BitVec 5} {fs : List OutFrame} {blocked : List (BitVec 3)} (h : s.Canonical) :
    (leaveAll p fs blocked s).2.Canonical := by
  induction fs generalizing blocked s with
  | nil => exact h
  | cons f fs ih =>
    unfold leaveAll
    split
    · exact ih h
    · exact ih (leave_canonical h)

theorem flushPort_canonical {p : BitVec 5} (h : s.Canonical) : (flushPort p s).Canonical :=
  modPort_canonical (leaveAll_canonical h)

theorem toEgress_canonical {p : BitVec 5} {f : OutFrame} (h : s.Canonical) : (toEgress p f s).Canonical :=
  flushPort_canonical (modPort_canonical h)

theorem pfcStep_canonical {p : BitVec 5} {t : Fin 8} (h : s.Canonical) : (pfcStep p s t).Canonical :=
  ite_canonical h (ite_canonical h h)

theorem tidyPort_canonical {p : Fin 32} (h : s.Canonical) : (tidyPort s p).Canonical :=
  ite_canonical h (ite_canonical (foldl_canonical (fun _ _ => pfcStep_canonical) (ite_canonical h (flushPort_canonical h)))
    (ite_canonical h (flushPort_canonical h)))

theorem tidyPorts_canonical (h : s.Canonical) : (tidyPorts s).Canonical := foldl_canonical (fun _ _ => tidyPort_canonical) h

theorem sendRouted_canonical {pipe : BitVec 3} {ingress : BitVec 6} {ref : BufRef} {bytes : List Byte} {stomp transit : Bool}
    {t : State} (h : s.Canonical) (ht : sendRouted pipe ingress ref bytes stomp transit s = some t) : t.Canonical := by
  obtain ⟨_, _, rfl⟩ := Option.map_eq_some_iff.mp ht
  exact toEgress_canonical h

/-! ### Parser -/

theorem endParse_canonical {p : BitVec 3} {k : Parse} (h : s.Canonical) : (endParse p k s).Canonical := h

theorem failParse_canonical {p : BitVec 3} {k : Parse} (h : s.Canonical) : (failParse p k s).Canonical := endParse_canonical h

theorem nextWord_canonical {p : BitVec 3} {k : Parse} (h : s.Canonical) : (nextWord p k s).Canonical :=
  ite_canonical (failParse_canonical h) (modPipe_canonical h)

theorem enterState_canonical {p : BitVec 3} {st : BitVec 6} {k : Parse} (h : s.Canonical) : (enterState p st k s).Canonical :=
  ite_canonical (failParse_canonical h) (modPipe_canonical h)

theorem parseWord_canonical {f : BitVec 3 → Parse → State → State} (hf : ∀ a b u, u.Canonical → (f a b u).Canonical)
    (h : s.Canonical) : Out.Canonical (parseWord f s) := by
  unfold parseWord
  refine slotDone_canonical ?_
  split
  · split
    · exact hf _ _ _ h
    · exact h
  · exact h

theorem execPExt_canonical {d : BitVec 7} {off : BitVec 8} {nm1 : BitVec 4} {le : Bool} (h : s.Canonical) :
    Out.Canonical (execPExt d off nm1 le s) :=
  parseWord_canonical (fun _ _ _ h1 => ite_canonical (failParse_canonical h1) (nextWord_canonical h1)) h

theorem execPExtb_canonical {d : BitVec 7} {off : BitVec 8} {lsb wm1 : BitVec 4} (h : s.Canonical) :
    Out.Canonical (execPExtb d off lsb wm1 s) :=
  parseWord_canonical (fun _ _ _ h1 => ite_canonical (failParse_canonical h1) (nextWord_canonical h1)) h

theorem execPCase_canonical {st : BitVec 6} {value : BitVec 16} (h : s.Canonical) : Out.Canonical (execPCase st value s) :=
  parseWord_canonical (fun _ _ _ h1 => ite_canonical (enterState_canonical h1) (nextWord_canonical h1)) h

theorem execPEnd_canonical {err : Bool} (h : s.Canonical) : Out.Canonical (execPEnd err s) :=
  parseWord_canonical (fun _ _ _ h1 => ite_canonical (failParse_canonical h1) (endParse_canonical h1)) h

theorem inService_canonical {ps : List (BitVec 3)} (h : s.Canonical) : (inService ps s).Canonical :=
  foldl_canonical (fun _ _ => modPipe_canonical) (tickClock_canonical h)

theorem execPacketParse_canonical {p : BitVec 3} (h : s.Canonical) : Out.Canonical (execPacketParse p s) := by
  refine slotDone_canonical (ite_canonical h ?_)
  split
  · exact h
  · exact h

/-! ### Stage -/

theorem inPipeOrder_canonical {p : BitVec 3} (h : s.Canonical) : (inPipeOrder p s).Canonical :=
  modDie_canonical (ite_canonical (tickClock_canonical h) h)

theorem removePacket_canonical {p : BitVec 3} {k : Packet} (h : s.Canonical) : (removePacket p k s).Canonical :=
  modPipe_canonical h

theorem dropPacket_canonical {p : BitVec 3} {k : Packet} {c : Counter} (h : s.Canonical) : (dropPacket p k c s).Canonical :=
  count_canonical (removePacket_canonical h)

theorem replacePacket_canonical {p : BitVec 3} {old new : Packet} (h : s.Canonical) : (replacePacket p old new s).Canonical :=
  modPipe_canonical h

theorem nextStage_canonical {p : BitVec 3} {k : Packet} (h : s.Canonical) : (nextStage p k s).Canonical :=
  replacePacket_canonical h

theorem actionFault_canonical {p : BitVec 3} {k : Packet} {c : Cause} {cell : BitVec 16} (h : s.Canonical) :
    (actionFault p k c cell s).Canonical :=
  ite_canonical (cellFaultEntry_canonical (enterFault_canonical (dropPacket_canonical (replacePacket_canonical h))))
    (enterFault_canonical (dropPacket_canonical (replacePacket_canonical h)))

theorem admitOp_canonical {c : CommitAt} {t : BitVec 6} {i : BitVec 16} {len : Nat} {m : Commit} (h : m.st.Canonical) :
    (admitOp c t i len m).st.Canonical := by
  simp only [admitOp]
  split
  · exact enterFault_canonical h
  · split
    · exact h
    · split
      · exact h
      · exact setSward_canonical h (memWriteLE_wf _ _ _ _ h.sward)

theorem statefulOp_canonical {c : CommitAt} {rmw : BitVec 2} {t : BitVec 6} {i : BitVec 16} {w : BitVec 3} {v : BitVec 7}
    {val : BitVec 32} {m : Commit} (h : m.st.Canonical) : (statefulOp c rmw t i w v val m).st.Canonical := by
  simp only [statefulOp]
  split <;> exact ite_canonical h (setSward_canonical h (memWriteLE_wf _ _ _ _ h.sward))

theorem applyOp_canonical {c : CommitAt} {ops : List StageOp} {m m' : Commit} {o : StageOp} (h : m.st.Canonical)
    (hm : applyOp c ops m o = .ok m') : m'.st.Canonical := by
  have hcell : ∀ (m : Commit) (x : Option (BitVec 16 × CellOp)), m.st.Canonical →
      (match x with
        | none => .ok m
        | some (i, op) => match (cellOp c.pkt.ctx i op m.st).fault with
          | some f => .error (f, i, op)
          | none => .ok { m with st := (cellOp c.pkt.ctx i op m.st).st } :
        Except (Cause × BitVec 16 × CellOp) Commit) = .ok m' → m'.st.Canonical := by
    intro m x h hx
    split at hx
    · exact Except.ok.inj hx ▸ h
    · split at hx
      · cases hx
      · exact Except.ok.inj hx ▸ cellOp_canonical h
  unfold applyOp at hm
  dsimp only at hm
  split at hm
  · exact Except.ok.inj hm ▸ statefulOp_canonical h
  · exact Except.ok.inj hm ▸ h
  · exact Except.ok.inj hm ▸ admitOp_canonical h
  · refine hcell _ _ ?_ hm
    exact setSward_canonical h (memWriteLE_wf _ _ _ _ h.sward)
  · exact Except.ok.inj hm ▸ h
  · exact hcell _ _ h hm

theorem applyOps_canonical {c : CommitAt} {ops : List StageOp} {m m' : Commit} (h : m.st.Canonical)
    (hm : applyOps c ops m = .ok m') : m'.st.Canonical := by
  have fold : ∀ (l : List StageOp) (m : Commit), m.st.Canonical → l.foldlM (applyOp c ops) m = .ok m' → m'.st.Canonical := by
    intro l
    induction l with
    | nil => exact fun m h hm => Except.ok.inj hm ▸ h
    | cons o l ih =>
      intro m h hm
      rw [List.foldlM_cons] at hm
      cases ho : applyOp c ops m o with
      | error e => rw [ho] at hm; cases hm
      | ok m1 => rw [ho] at hm; exact ih m1 (applyOp_canonical h ho) hm
  exact fold ops m h hm

theorem faultCell_canonical {ctx : CtxId} {i : BitVec 16} {f : Cause} {op : CellOp} (h : s.Canonical) :
    (faultCell ctx i f op s).Canonical := by
  unfold faultCell
  split
  · exact cellWrite_canonical h
  · exact h

theorem commitRun_canonical {p : BitVec 3} {r : StageRun} {s0 : State} (h : s0.Canonical) :
    (commitRun p r s0).Canonical := by
  simp only [commitRun]
  split
  · exact actionFault_canonical h
  · split
    · exact actionFault_canonical h
    · split
      · exact actionFault_canonical h
      · split
        · exact actionFault_canonical h
        · split
          · exact actionFault_canonical (ite_canonical (faultCell_canonical h) h)
          next m hm =>
            have hst : m.st.Canonical := applyOps_canonical h hm
            refine replacePacket_canonical ?_
            split <;> exact hst

theorem afterWord_canonical {p : BitVec 3} {r : StageRun} (h : s.Canonical) : (afterWord p r s).Canonical :=
  ite_canonical (commitRun_canonical h) (modPipe_canonical h)

theorem actionWord_canonical {f : StageRun → StageRun} (h : s.Canonical) : Out.Canonical (actionWord f s) := by
  simp only [actionWord]
  refine slotDone_canonical ?_
  split
  · split
    · exact afterWord_canonical h
    · exact h
  · exact h

theorem fieldWord_canonical {d : BitVec 7} {f : Phv → BitVec 16} (h : s.Canonical) : Out.Canonical (fieldWord d f s) :=
  actionWord_canonical h

/-! ### Action -/

theorem statefulWord_canonical {rmw : BitVec 2} {x : BitVec 7} {t : BitVec 6} {v : BitVec 7} {w : BitVec 3}
    (h : s.Canonical) : Out.Canonical (statefulWord rmw x t v w s) :=
  actionWord_canonical h

theorem payWord_canonical {op : BitVec 2} {x : BitVec 7} {t : BitVec 6} {v : BitVec 7} {dlv arr : Bool} (h : s.Canonical) :
    Out.Canonical (payWord op x t v dlv arr s) :=
  actionWord_canonical h

/-! ### Operands -/

theorem checkTags_canonical {srcs : List Src} {body : State → SlotRes} (hbody : ∀ u, u.Canonical → (body u).Canonical)
    (h : s.Canonical) : (checkTags srcs body s).Canonical := by
  unfold checkTags
  split
  · exact trivial
  · exact hbody _ h

/-! ### AddrUnit -/

theorem execAnode_canonical {d a : BitVec 5} {b : BitVec 6} (h : s.Canonical) : Out.Canonical (execAnode d a b s) := by
  unfold execAnode
  refine runSlot_canonical ?_ h
  intro _ h1
  split
  · exact trivial
  · exact emitA_canonical h1

/-! ### CellEvents -/

theorem bankOp_canonical {ctx : CtxId} {i : BitVec 16} {op : CellOp} (h : s.Canonical) : Out.Canonical (bankOp ctx i op s) :=
  slotDone_canonical (ite_canonical h (cellOpReport_canonical h))

theorem execCellRewrite_canonical {ctx : CtxId} {i : BitVec 16} {v : BitVec 256} (h : s.Canonical) :
    Out.Canonical (execCellRewrite ctx i v s) := by
  unfold execCellRewrite
  refine slotDone_canonical ?_
  split
  · exact h
  · exact ite_canonical h (setHeldRecs_canonical (cellWrite_canonical h))

/-! ### Sequence -/

theorem endLoop_canonical {f : LoopFrame} (h : s.Canonical) : (endLoop f s).Canonical :=
  modTask_canonical (traceRecord_canonical h)

theorem backEdges_canonical {n : Nat} {a after : BitVec 18} (h : s.Canonical) : (backEdges n a after s).Canonical := by
  induction n generalizing s with
  | zero => exact h
  | succ n ih =>
    simp only [backEdges]
    split
    · exact h
    · split
      · exact h
      · split
        · exact modTask_canonical h
        · exact modTask_canonical h
        · exact ih (modTask_canonical (endLoop_canonical (modTask_canonical h)))

theorem firstPass_canonical {drain : Bool} (h : s.Canonical) : (firstPass drain s).Canonical := by
  unfold firstPass
  split
  · exact h
  · split
    · exact modTask_canonical h
    · exact modTask_canonical h
    · exact modTask_canonical (endLoop_canonical (modTask_canonical h))

theorem endMonitorLoops_canonical {n : Nat} (h : s.Canonical) : (endMonitorLoops n s).Canonical := by
  induction n generalizing s with
  | zero => exact h
  | succ n ih =>
    unfold endMonitorLoops
    split
    · exact ite_canonical (ih (endLoop_canonical h)) h
    · exact h

theorem leaveLoops_canonical {n : Nat} {taken : Bool} (h : s.Canonical) : (leaveLoops n taken s).Canonical := by
  induction n generalizing s with
  | zero => exact h
  | succ n ih =>
    unfold leaveLoops
    split
    · exact h
    · exact ite_canonical h (ite_canonical (ih (endLoop_canonical h)) h)

theorem releaseBank_canonical {a : Accessor} {b : BitVec 11} {free : Bool} {stage : BitVec 4} (h : s.Canonical) :
    (releaseBank a b free stage s).Canonical :=
  ite_canonical (setBank_canonical h) h

theorem releaseBanks_canonical {e : BitVec 32} {free : Bool} {stage : BitVec 4} (h : s.Canonical) :
    (releaseBanks e free stage s).Canonical :=
  modTask_canonical h

theorem applyReleases_canonical {t : TileId} {p : BitVec 11 → Bool} (h : s.Canonical) : (applyReleases t p s).Canonical :=
  foldl_canonical (fun _ _ => releaseBank_canonical) (modTaskAt_canonical h)

theorem enqueueRecords_canonical {q : BitVec 7} {recs : List (BitVec 256)} {spawn : Bool} (h : s.Canonical) :
    (enqueueRecords q recs spawn s).1.Canonical :=
  iteFst_canonical (modQueue_canonical h) h

theorem enterAccess_canonical {toLoad toStore : Bool} {e : QEntry} (h : s.Canonical) :
    (enterAccess toLoad toStore e s).Canonical :=
  modTile_canonical h (fun _ => id)

theorem claimHalf_canonical (h : s.Canonical) : (claimHalf s).Canonical := modTile_canonical h (fun _ => setHalf_canonical)

theorem releaseCmd_canonical {id : Nat} (h : s.Canonical) : (releaseCmd id s).Canonical :=
  ite_canonical (claimHalf_canonical h) h

theorem commitOne_canonical {e : Held} (h : s.Canonical) : (commitOne e s).Canonical := by
  unfold commitOne
  split
  · exact swardWrite_canonical h
  · exact enterAccess_canonical h
  · exact ite_canonical (enqueueRecords_canonical h) (modTask_canonical (enqueueRecords_canonical h))
  · exact releaseBanks_canonical h
  · exact releaseCmd_canonical h

theorem commitHeld_canonical (h : s.Canonical) : (commitHeld s).Canonical :=
  foldl_canonical (fun _ _ => commitOne_canonical) (modTask_canonical h)

theorem resolveShadow_canonical (h : s.Canonical) : (resolveShadow s).Canonical :=
  ite_canonical (commitHeld_canonical h) (ite_canonical (modTask_canonical h) h)

theorem emptyCycle_canonical (h : s.Canonical) : (emptyCycle s).Canonical :=
  resolveShadow_canonical (issueCycle_canonical (countSlots_canonical h))

theorem swapHalves_canonical (h : s.Canonical) : (swapHalves s).Canonical :=
  ite_canonical h (modTile_canonical h (fun _ hx => setHalf_canonical (setHalf_canonical hx)))

theorem loopEdges_canonical {a : BitVec 18} (h : s.Canonical) : (loopEdges a s).Canonical :=
  ite_canonical (ite_canonical (modTask_canonical (firstPass_canonical h)) (firstPass_canonical h))
    (ite_canonical h (backEdges_canonical h))

theorem completeBundle_canonical (h : s.Canonical) : (completeBundle s).Canonical :=
  modTask_canonical (leaveLoops_canonical (loopEdges_canonical (resolveShadow_canonical
    (issueCycle_canonical (swapHalves_canonical h)))))

theorem settle_canonical (h : s.Canonical) : (settle s).Canonical := foldl_canonical (fun _ _ => emptyCycle_canonical) h

theorem feedWatchdog_canonical (h : s.Canonical) : (feedWatchdog s).Canonical := modTile_canonical h (fun _ => id)

theorem refillLoop_canonical (h : s.Canonical) : (refillLoop s).Canonical := by
  simp only [refillLoop]
  refine ite_canonical h ?_
  split
  · split
    · split
      · exact modTask_canonical h
      · exact modTask_canonical (endLoop_canonical (modTask_canonical h))
      · exact modTask_canonical h
    · exact modTask_canonical h
  · exact modTask_canonical h

theorem onTile_canonical {t : TileId} {f : State → State} (hf : ∀ u, u.Canonical → (f u).Canonical) (h : s.Canonical) :
    (onTile t f s).Canonical :=
  hf _ h

theorem resumeOn_canonical {t : TileId} {skip : Bool} (h : s.Canonical) : (resumeOn t skip s).Canonical :=
  onTile_canonical (fun _ => refillLoop_canonical) (modTile_canonical
    (onTile_canonical (fun _ => endMonitorLoops_canonical) h) (fun _ => id))

/-! ### Launch -/

theorem tmplInvalidEntry_canonical {die : BitVec 1} {q : BitVec 7} {r : BitVec 256} {check : Nat} (h : s.Canonical) :
    (tmplInvalidEntry die q r check s).Canonical :=
  enterFault_canonical h

theorem modUid_canonical {u : Nat} {f : Task → Task} (h : s.Canonical) : (modUid u f s).Canonical := by
  simp only [modUid]
  exact setTiles_canonical h (map_canonical h.tiles fun x hx => iteTile_canonical hx hx)

theorem putHalfBytes_canonical {u : Bool} {m : Mem} {x : Tile} (h : x.Canonical) : (putHalfBytes u m x).Canonical :=
  List.foldlRecOn (motive := fun m => Memory.wf m = true) m _ (memZero_wf _ _ _ h) fun m hm _ _ => memSet_wf m _ _ hm

theorem beginLoad_canonical {u : Bool} {k : Task} {image : BitVec 32} {x : Tile} (h : x.Canonical) :
    (beginLoad u k image x).Canonical :=
  setHalf_canonical h

theorem activateHalf_canonical {u : Bool} {k : Task} {x : Tile} (h : x.Canonical) : (activateHalf u k x).Canonical :=
  setHalf_canonical h

theorem loadMap_canonical {d : Die} {m : BitVec 4} {x : Tile} (h : x.Canonical) : (loadMap d m x).Canonical := h

theorem noteLaunch_canonical {tiles : List TileId} {k : Task} (h : s.Canonical) : (noteLaunch tiles k s).Canonical := by
  simp only [noteLaunch]
  refine ite_canonical (traceRecord_canonical h) ?_
  refine ite_canonical (logRecord_canonical (traceRecord_canonical h)) ?_
  refine ite_canonical ?_ (traceRecord_canonical h)
  split
  · exact logUse_canonical (traceRecord_canonical h)
  · exact traceRecord_canonical h

theorem startTiles_canonical {tiles : List TileId} (h : s.Canonical) : (startTiles tiles s).Canonical :=
  ite_canonical h (foldl_canonical (fun _ _ hs => modTile_canonical hs (fun _ hx => iteTile_canonical hx hx)) h)

theorem evictHalf_canonical {t : TileId} {u : Bool} (h : s.Canonical) : (evictHalf t u s).Canonical :=
  ite_canonical h (modTile_canonical (ite_canonical (saveClass_canonical (modUid_canonical h)) h)
    (fun _ => setHalf_canonical))

theorem putTask_canonical {k : Task} {t : TileId} (h : s.Canonical) : (putTask k t s).Canonical :=
  modTile_canonical (ite_canonical (evictHalf_canonical h) h) fun _ hx =>
    loadMap_canonical (iteTile_canonical (beginLoad_canonical hx) (activateHalf_canonical hx))

theorem placeRecord_canonical {q : BitVec 7} {r : BitVec 256} {tiles : List TileId} (h : s.Canonical) :
    (placeRecord q r tiles s).Canonical :=
  startTiles_canonical (noteLaunch_canonical (modCtx_canonical (foldl_canonical (fun _ _ => putTask_canonical) h)))

theorem leaveOldTile_canonical {k : Task} {old new : TileId} (h : s.Canonical) : (leaveOldTile k old new s).1.Canonical :=
  iteFst_canonical (modTile_canonical h (fun _ => id)) (foldl_canonical (fun _ _ => saveClass_canonical)
    (modTile_canonical (modTile_canonical h (fun _ => id)) (fun _ => id)))

theorem restoreHalf_canonical {here : Bool} {k : Task} {v : SavedHalf} {x : Tile} (h : x.Canonical) :
    (restoreHalf here k v x).Canonical :=
  iteTile_canonical (setHalf_canonical h) (iteTile_canonical (setHalf_canonical (putHalfBytes_canonical h))
    (iteTile_canonical (activateHalf_canonical h) (beginLoad_canonical h)))

theorem placeSusp_canonical {v : Susp} {tiles : List TileId} (h : s.Canonical) : (placeSusp v tiles s).Canonical := by
  unfold placeSusp
  dsimp only
  split
  on_goal 1 => refine startTiles_canonical (foldl_canonical (fun _ _ => onTile_canonical fun _ => refillLoop_canonical)
    (noteLaunch_canonical ?_))
  all_goals
    refine foldl_canonical (fun s m hs => ?_) h
    exact modTile_canonical (foldl_canonical (fun _ _ hs2 => ite_canonical hs2 (evictHalf_canonical hs2))
      (leaveOldTile_canonical hs)) fun _ hx => loadMap_canonical (foldlTile_canonical (fun _ _ => restoreHalf_canonical) hx)

theorem takeHead_canonical {q : BitVec 7} {h : Head} (hs : s.Canonical) : (takeHead q h s).Canonical := modQueue_canonical hs

theorem launchHead_canonical {q : BitVec 7} {h : Head} {tiles : List TileId} (hs : s.Canonical) :
    (launchHead q h tiles s).1.Canonical := by
  simp only [launchHead]
  split
  · exact placeSusp_canonical (modDie_canonical (takeHead_canonical hs))
  · split
    · exact tmplInvalidEntry_canonical (modDie_canonical (takeHead_canonical hs))
    · exact placeRecord_canonical (modDie_canonical (takeHead_canonical hs))

theorem saveResident_canonical {t : TileId} {e : Nat × ResClass} (h : s.Canonical) : (saveResident t e s).Canonical :=
  modUid_canonical (saveClass_canonical (modTile_canonical (ite_canonical (modUid_canonical h) h) (fun _ => id)))

theorem saveStopped_canonical {t : TileId} (h : s.Canonical) : (saveStopped t s).Canonical :=
  foldl_canonical (fun _ _ => saveClass_canonical) (modTile_canonical h
    (fun _ => foldlTile_canonical (fun _ _ => setHalf_canonical)))

theorem saveTile_canonical {c : CtxId} {t : TileId} (h : s.Canonical) : (saveTile c t s).Canonical :=
  ite_canonical (saveStopped_canonical (ite_canonical (evictHalf_canonical (ite_canonical (evictHalf_canonical
    (foldl_canonical (fun _ _ => saveResident_canonical) h)) (foldl_canonical (fun _ _ => saveResident_canonical) h)))
    (ite_canonical (evictHalf_canonical (foldl_canonical (fun _ _ => saveResident_canonical) h))
    (foldl_canonical (fun _ _ => saveResident_canonical) h)))) (ite_canonical (evictHalf_canonical (ite_canonical
    (evictHalf_canonical (foldl_canonical (fun _ _ => saveResident_canonical) h))
    (foldl_canonical (fun _ _ => saveResident_canonical) h))) (ite_canonical (evictHalf_canonical
    (foldl_canonical (fun _ _ => saveResident_canonical) h)) (foldl_canonical (fun _ _ => saveResident_canonical) h)))

theorem flushSaves_canonical {c : CtxId} (h : s.Canonical) : (flushSaves c s).Canonical :=
  ite_canonical h (modCtx_canonical (foldl_canonical (fun _ _ => saveTile_canonical) h))

theorem suspendTiles_canonical {tiles : List TileId} {run : Nat} (h : s.Canonical) :
    (suspendTiles tiles run s).Canonical := by
  simp only [suspendTiles]
  have h1 := foldlFst_canonical (l := tiles) (a := (s, ([] : List (TileId × Task))))
    (f := fun sm t => (sm.1.setTile t (vacate s.cycle (sm.1.tile t)).1, sm.2 ++ [(t, (vacate s.cycle (sm.1.tile t)).2)]))
    (fun sm t hs => setTile_canonical hs (hs.tile t)) h
  split
  · exact flushSaves_canonical (modQueue_canonical h1)
  · exact h1

theorem freeTile_canonical {wipe : Bool} {t : TileId} (h : s.Canonical) : (freeTile wipe t s).Canonical :=
  modCtx_canonical (modTile_canonical h (fun _ => id))

theorem freeBanks_canonical {a : Accessor} (h : s.Canonical) : (freeBanks a s).Canonical := h

theorem abandonLog_canonical {c : CtxId} {x : Tile} (h : x.Canonical) : (abandonLog c x).Canonical := iteTile_canonical h h

theorem dropTask_canonical {t : TileId} (h : s.Canonical) : (dropTask t s).Canonical :=
  modCtx_canonical (modTile_canonical (freeBanks_canonical (freeTile_canonical h)) (fun _ => abandonLog_canonical))

theorem stopHolding_canonical {c : CtxId} (h : s.Canonical) : (stopHolding c s).Canonical := h

theorem endContext_canonical {c : CtxId} {st : BitVec 3} (h : s.Canonical) : (endContext c st s).Canonical := by
  simp only [endContext]
  refine foldl_canonical (fun _ _ hs => ite_canonical (dropTask_canonical hs) hs) ?_
  refine foldl_canonical (fun _ _ => freeBanks_canonical) ?_
  refine foldl_canonical ?_ (mapTiles_canonical (stopHolding_canonical (modCtx_canonical h)) (fun _ => id))
  intro _ _ hs
  split
  · exact hs
  · exact cellWrite_canonical hs

theorem passOver_canonical {q : BitVec 7} {e : Head} (h : s.Canonical) : (passOver q e s).Canonical :=
  ite_canonical (modDie_canonical (modQueue_canonical h)) (modQueue_canonical h)

theorem advancePointer_canonical {die : BitVec 1} {q : BitVec 7} (h : s.Canonical) : (advancePointer die q s).Canonical :=
  modDie_canonical h

theorem discardEnded_canonical {die : BitVec 1} (h : s.Canonical) : (discardEnded die s).Canonical := h

theorem selection_canonical {die : BitVec 1} (h : s.Canonical) : (selection die s).Canonical := by
  refine foldlFst_canonical (fun sd _ hs => ?_) (discardEnded_canonical h)
  dsimp only
  split
  · exact hs
  · split
    · exact hs
    · split
      · exact passOver_canonical hs
      · split
        · exact advancePointer_canonical (launchHead_canonical hs)
        · exact launchHead_canonical hs

theorem arbitrate_canonical {t : TileId} {n : Nat} (h : s.Canonical) : (arbitrate t n s).Canonical := by
  refine foldlFst_canonical (fun sd q hs => ?_) h
  have hsusp : ∀ e, (suspendTiles [t] n ((takeHead q e sd.1).modTaskAt t (stopAt (s.tile t).ic false))).Canonical :=
    fun e => suspendTiles_canonical (modTaskAt_canonical (takeHead_canonical hs))
  split
  · exact hs
  · split
    · exact hs
    · split
      · exact hs
      · split
        · exact hs
        · split
          · exact hs
          · split
            · split
              · exact tmplInvalidEntry_canonical (takeHead_canonical hs)
              · exact advancePointer_canonical (placeRecord_canonical (hsusp _))
            · exact advancePointer_canonical (placeSusp_canonical (hsusp _))

/-! ### Control -/

theorem takeBranch_canonical {t : BitVec 18} (h : s.Canonical) : (takeBranch t s).Canonical := modTask_canonical h

theorem owe_canonical {n : Nat} (h : s.Canonical) : (owe n s).Canonical := modTask_canonical h

theorem openShadow_canonical (h : s.Canonical) : (openShadow s).Canonical := emit_canonical h

theorem execBr_canonical {imm : BitVec 18} (h : s.Canonical) : Out.Canonical (execBr imm s) :=
  iteOut_canonical (slotDone_canonical (openShadow_canonical (takeBranch_canonical h))) (slotDone_canonical (owe_canonical h))

theorem execBrN_canonical {imm : BitVec 18} (h : s.Canonical) : Out.Canonical (execBrN imm s) :=
  iteOut_canonical (slotDone_canonical (owe_canonical (takeBranch_canonical h))) (slotDone_canonical (openShadow_canonical h))

theorem execCall_canonical {imm : BitVec 18} (h : s.Canonical) : Out.Canonical (execCall imm s) :=
  iteOut_canonical (slotDone_canonical (emitA_canonical (openShadow_canonical (takeBranch_canonical h))))
    (slotDone_canonical (owe_canonical h))

theorem execJr_canonical {a : BitVec 5} (h : s.Canonical) : Out.Canonical (execJr a s) :=
  runSlot_canonical (fun _ h1 => iteSlot_canonical trivial (owe_canonical (takeBranch_canonical h1))) h

theorem execBswap_canonical {imm : BitVec 18} (h : s.Canonical) : Out.Canonical (execBswap imm s) :=
  runSlot_canonical (fun _ h1 => iteSlot_canonical trivial (owe_canonical (takeBranch_canonical (modTask_canonical h1)))) h

theorem execIfence_canonical (h : s.Canonical) : Out.Canonical (execIfence s) :=
  iteOut_canonical (slotFreeze_canonical h) (slotDone_canonical (owe_canonical (modTile_canonical h (fun _ => id))))

theorem bundleDone_canonical (h : s.Canonical) : Out.Canonical (bundleDone s) := h

theorem execYield_canonical {imm : BitVec 18} (h : s.Canonical) : Out.Canonical (execYield imm s) :=
  bundleDone_canonical (ite_canonical (arbitrate_canonical (modTask_canonical (completeBundle_canonical h)))
    (modTask_canonical (completeBundle_canonical h)))

theorem execEnd_canonical (h : s.Canonical) : Out.Canonical (execEnd s) :=
  iteOut_canonical (slotDone_canonical h) (bundleDone_canonical (modTile_canonical
    (settle_canonical (resolveShadow_canonical (issueCycle_canonical h))) (fun _ => id)))

theorem execTrap_canonical {n : BitVec 4} (h : s.Canonical) : Out.Canonical (execTrap n s) :=
  iteOut_canonical (slotDone_canonical h) (bundleDone_canonical (takeTrap_canonical (completeBundle_canonical h)))

theorem eret_canonical {ret : State → State} (hret : ∀ u, u.Canonical → (ret u).Canonical) (h : s.Canonical) :
    Out.Canonical (eret ret s) := by
  unfold eret
  split
  · exact slotTrap_canonical h
  · exact bundleDone_canonical (hret _ (modTask_canonical (settle_canonical (issueCycle_canonical h))))

theorem execEretRaise_canonical (h : s.Canonical) : Out.Canonical (execEretRaise s) :=
  eret_canonical (fun _ h1 => stopUnrouted_canonical (modTask_canonical (endMonitorLoops_canonical h1))) h

theorem startLoop_canonical {n : BitVec 2} {swp : Option (Fin 4)} {imm : BitVec 12} (h : s.Canonical) :
    Out.Canonical (startLoop n swp imm s) := by
  simp only [startLoop]
  refine iteOut_canonical (slotTrap_canonical h) ?_
  split
  · exact slotTrap_canonical h
  · exact slotDone_canonical (modTask_canonical h)

theorem execSrd_canonical {d : BitVec 6} {y : BitVec 12} (h : s.Canonical) : Out.Canonical (execSrd d y s) :=
  runSlot_canonical (fun _ h1 => iteSlot_canonical trivial (iteSlot_canonical
    (needClass_canonical (fun _ => emitS_canonical) h1) (emitS_canonical h1))) h

theorem checkLaunch_canonical {lw : Word} {body : State → SlotRes} (hbody : ∀ u, u.Canonical → (body u).Canonical)
    (h : s.Canonical) : (checkLaunch lw body s).Canonical :=
  iteSlot_canonical trivial (iteSlot_canonical trivial (hbody _ h))

theorem sendRecords_canonical {q : BitVec 7} {recs : List (BitVec 256)} {spawn : Bool} {d : BitVec 6} (h : s.Canonical) :
    (sendRecords q recs spawn d s).Canonical :=
  ite_canonical (modTask_canonical h) (emitS_canonical (enqueueRecords_canonical h))

theorem execSpawnv_canonical {d a b : BitVec 6} (h : s.Canonical) : Out.Canonical (execSpawnv d a b s) :=
  runClaiming_canonical (fun _ => checkTags_canonical (fun _ => checkLaunch_canonical (fun _ => sendRecords_canonical))) h

/-! ### GlobalMem -/

theorem checkGlobal_canonical {va : Word} {z : Nat} {type : BitVec 2} {body : State → SlotRes}
    (hbody : ∀ u, u.Canonical → (body u).Canonical) (h : s.Canonical) : (checkGlobal va z type body s).Canonical :=
  iteSlot_canonical trivial (iteSlot_canonical trivial (hbody _ h))

theorem issueAccess_canonical {toLoad toStore : Bool} {op : ScalarOp} {va : Word} {z : Nat} {d : BitVec 6}
    {acq rel : Option Scope} (h : s.Canonical) : (issueAccess toLoad toStore op va z d acq rel s).Canonical :=
  iteSlot_canonical trivial (iteSlot_canonical (modTask_canonical (modTile_canonical h (fun _ => id)))
    (enterAccess_canonical (modTile_canonical h (fun _ => id))))

theorem checkWatch_canonical {c : Cause} {va : Word} {z : Nat} {body : State → SlotRes}
    (hbody : ∀ u, u.Canonical → (body u).Canonical) (h : s.Canonical) : (checkWatch c va z body s).Canonical := by
  unfold checkWatch
  split
  · exact trivial
  · exact hbody _ h

theorem loadAt_canonical {va : Word} {z : Nat} {d : BitVec 6} {acq : Option Scope} (h : s.Canonical) :
    (loadAt va z d acq s).Canonical :=
  checkGlobal_canonical (fun _ => issueAccess_canonical) h

theorem storeAt_canonical {va : Word} {z : Nat} {v : Word} {rel : Option Scope} (h : s.Canonical) :
    (storeAt va z v rel s).Canonical :=
  checkGlobal_canonical (fun _ => checkWatch_canonical (fun _ => issueAccess_canonical)) h

theorem amoAt_canonical {o : AmoOp} {va v e : Word} {d : BitVec 6} {acq rel : Option Scope} (h : s.Canonical) :
    (amoAt o va v e d acq rel s).Canonical :=
  checkGlobal_canonical (fun _ => checkWatch_canonical (fun _ => issueAccess_canonical)) h

theorem orderedAmo_canonical {o : AmoOp} {d a : BitVec 6} {acq rel : Option Scope} (h : s.Canonical) :
    Out.Canonical (orderedAmo o d a acq rel s) :=
  runSlot_canonical (fun _ => amoAt_canonical) h

theorem relbBody_canonical {reg stg : BitVec 4} {free : Bool} (h : s.Canonical) : (relbBody reg stg free s).Canonical :=
  iteSlot_canonical trivial (iteSlot_canonical (modTask_canonical h) (releaseBanks_canonical h))

/-! ### VecInt -/

theorem vec2_canonical {lat : Nat} {d a b : BitVec 6} {okA okB : BitVec 6 → Bool} {tag : BitVec 6 → BitVec 6}
    {f : BitVec 32 → BitVec 32 → BitVec 32 × Flags} (h : s.Canonical) : Out.Canonical (vec2 lat d a b okA okB tag f s) :=
  runClaiming_canonical (fun _ => checkTags_canonical (fun _ h2 => emitF_canonical (emitV_canonical h2))) h

theorem vecArith_canonical {t : ITy} {sat : Bool} {d a b : BitVec 6} {op : ℤ → ℤ → ℤ} (h : s.Canonical) :
    Out.Canonical (vecArith t sat d a b op s) :=
  vec2_canonical h

theorem vecCmp_canonical {t : ITy} {d a b : BitVec 6} {rel : ℤ → ℤ → Bool} (h : s.Canonical) :
    Out.Canonical (vecCmp t d a b rel s) :=
  vec2_canonical h

theorem vecReduce_canonical {d a : BitVec 6} {ok tag : BitVec 6} {f : VReg → BitVec 32 × Flags} (h : s.Canonical) :
    Out.Canonical (vecReduce d a ok tag f s) :=
  runClaiming_canonical (fun _ => checkTags_canonical (fun _ h2 => emitF_canonical (emitV_canonical h2))) h

theorem execVredsum_canonical {t : ITy} {sat : Bool} {d a : BitVec 6} (h : s.Canonical) :
    Out.Canonical (execVredsum t sat d a s) := by
  unfold execVredsum
  exact vecReduce_canonical h

/-! ### VecMem -/

theorem withAccess_canonical {x : VAccess} {body : List Nat → State → SlotRes}
    (hbody : ∀ a u, u.Canonical → (body a u).Canonical) (h : s.Canonical) : (withAccess x body s).Canonical := by
  unfold withAccess
  refine iteSlot_canonical trivial ?_
  split
  · exact trivial
  · exact hbody _ _ h

theorem withBanks_canonical {sgas : List Nat} {foot : Nat} {body : State → SlotRes}
    (hbody : ∀ u, u.Canonical → (body u).Canonical) (h : s.Canonical) : (withBanks sgas foot body s).Canonical := by
  unfold withBanks
  split
  · exact trivial
  next t ht =>
    exact hbody _ (addFreeze_canonical (admitBanks_canonical h ht))

theorem vecLoad_canonical {d tag : BitVec 6} {x : VAccess} (h : s.Canonical) : (vecLoad d tag x s).Canonical := by
  refine withAccess_canonical (fun _ _ h1 => withBanks_canonical (fun _ h2 => ?_) h1) h
  split
  · exact addImpFault_canonical h2
  · exact emitV_canonical h2

theorem vecStore_canonical {v : VReg} {x : VAccess} (h : s.Canonical) : (vecStore v x s).Canonical := by
  unfold vecStore
  refine withAccess_canonical ?_ h
  intro _ _ h1
  split
  · exact trivial
  · exact withBanks_canonical (fun _ => foldl_canonical (fun _ _ => slotWrite_canonical)) h1

theorem execVlds_canonical {d : BitVec 6} {a b : BitVec 5} (h : s.Canonical) : Out.Canonical (execVlds d a b s) :=
  runClaiming_canonical (fun _ h1 => iteSlot_canonical trivial (iteSlot_canonical trivial (vecLoad_canonical h1))) h

theorem execVsts_canonical {d : BitVec 6} {a b : BitVec 5} (h : s.Canonical) : Out.Canonical (execVsts d a b s) :=
  runClaiming_canonical (fun _ => checkTags_canonical (fun _ h2 => iteSlot_canonical trivial (vecStore_canonical h2))) h

/-! ### Handles -/

theorem execHset_canonical {j : BitVec 4} {a : BitVec 5} (h : s.Canonical) : Out.Canonical (execHset j a s) := by
  refine runSlot_canonical (fun _ h1 => ?_) h
  dsimp only
  split
  · trivial
  · refine withAccess_canonical (fun _ _ h2 => withBanks_canonical (fun _ h3 => ?_) h2) h1
    split
    · exact addImpFault_canonical h3
    · split
      · exact emit_canonical h3
      · split
        · trivial
        · exact emit_canonical h3

theorem needHandle_canonical {h : BitVec 4} {body : Handle → State → SlotRes}
    (hbody : ∀ a u, u.Canonical → (body a u).Canonical) (hs : s.Canonical) : (needHandle h body s).Canonical :=
  iteSlot_canonical (hbody _ _ hs) trivial

theorem execHalloc_canonical {d : BitVec 6} {h : BitVec 4} {b : BitVec 6} (hs : s.Canonical) :
    Out.Canonical (execHalloc d h b s) :=
  runSlot_canonical (fun _ h1 => needHandle_canonical (fun _ _ h2 => iteSlot_canonical trivial (iteSlot_canonical trivial
    (iteSlot_canonical trivial (emit_canonical (emitS_canonical h2))))) h1) hs

theorem execHpub_canonical {h : BitVec 4} {b : BitVec 6} (hs : s.Canonical) : Out.Canonical (execHpub h b s) :=
  runSlot_canonical (fun _ h1 => needHandle_canonical (fun _ _ h2 => iteSlot_canonical trivial (iteSlot_canonical trivial
    (iteSlot_canonical trivial (emit_canonical h2)))) h1) hs

theorem execHadv_canonical {h : BitVec 4} {b : BitVec 6} (hs : s.Canonical) : Out.Canonical (execHadv h b s) :=
  runSlot_canonical (fun _ h1 => needHandle_canonical (fun _ _ h2 => iteSlot_canonical trivial
    (iteSlot_canonical (modTask_canonical h2) (emit_canonical h2))) h1) hs

/-! ### Copy -/

theorem checkCommand_canonical {kind : Nat} {p : Par} {body : State → SlotRes}
    (hbody : ∀ u, u.Canonical → (body u).Canonical) (h : s.Canonical) : (checkCommand kind p body s).Canonical := by
  unfold checkCommand
  split
  · exact trivial
  · split
    · exact trivial
    · exact trivial
    · exact iteSlot_canonical trivial (iteSlot_canonical trivial (iteSlot_canonical trivial (hbody _ h)))

theorem issueCmd_canonical {ch : Fin 2} {kind : BitVec 4} {kp kx ky : Option (BitVec 5)} {p : Par} (h : s.Canonical) :
    (issueCmd ch kind kp kx ky p s).Canonical := by
  refine modTask_canonical ?_
  have h1 : (if kind = 1 ∧ parDir p = 2 ∧ s.tk.shadow = 0 then claimHalf s else s).Canonical :=
    ite_canonical (claimHalf_canonical h) h
  cases kp with
  | none => exact h1
  | some r => exact emit_canonical h1

theorem command_canonical {kind : BitVec 4} {kp kx ky : Option (BitVec 5)} (h : s.Canonical) :
    (command kind kp kx ky s).Canonical :=
  iteSlot_canonical trivial (iteSlot_canonical trivial (iteSlot_canonical (needClass_canonical (fun _ h1 =>
    checkCommand_canonical (fun _ h2 => iteSlot_canonical trivial (checkTags_canonical (fun _ => issueCmd_canonical) h2)) h1)
    h) (checkCommand_canonical (fun _ h1 => iteSlot_canonical trivial (checkTags_canonical (fun _ => issueCmd_canonical) h1))
    h)))

/-! ### Xlate -/

theorem setUnitTlb_canonical {u : XUnit} {f : List Lease → List Lease} (h : s.Canonical) : (setUnitTlb u f s).Canonical := by
  unfold setUnitTlb
  split
  · exact modTile_canonical h (fun _ => id)
  · exact modCluster_canonical h
  · exact modPort_canonical h
  · exact h

theorem setUnitOut_canonical {u : XUnit} {b : Bool} (h : s.Canonical) : (setUnitOut u b s).Canonical := by
  unfold setUnitOut
  split
  · exact modTile_canonical h (fun _ => id)
  · exact modCluster_canonical h
  · exact modPort_canonical h
  · exact h

theorem classWrite_canonical {cls : BitVec 3} {pa : Nat} {bs : List Byte} (h : s.Canonical) :
    (classWrite cls pa bs s).Canonical := by
  unfold classWrite
  split
  · exact setHbm_canonical h (memWrite_wf _ _ _ h.hbm)
  · exact setCxlMem_canonical h (memWrite_wf _ _ _ h.cxlMem)
  · exact setHostMem_canonical h (memWrite_wf _ _ _ h.hostMem)
  · exact swardWrite_canonical h

theorem classPoison_canonical {cls : BitVec 3} {pa n : Nat} (h : s.Canonical) : (classPoison cls pa n s).Canonical := by
  unfold classPoison
  split <;> exact h

/-! ### Commands -/

theorem modCmd_canonical {id : Nat} {f : Cmd → Cmd} (h : s.Canonical) : (modCmd id f s).Canonical := h

theorem freeChannel_canonical {c : Cmd} (h : s.Canonical) : (freeChannel c s).Canonical := modUid_canonical h

theorem stopCmd_canonical {c : Cmd} {status detail : BitVec 8} {va : Nat} {type : BitVec 2} (h : s.Canonical) :
    (stopCmd c status detail va type s).Canonical :=
  freeChannel_canonical (modCmd_canonical h)

theorem endStream_canonical {c : Cmd} (h : s.Canonical) : (endStream c s).Canonical :=
  freeChannel_canonical (modCmd_canonical h)

theorem writeRun_canonical {r : Nat × List Byte} (h : s.Canonical) : (writeRun s r).Canonical := classWrite_canonical h

theorem scratchWrite_canonical {c : Cmd} {a : Nat} {bs : List Byte} (h : s.Canonical) :
    (scratchWrite c a bs s).Canonical := by
  simp only [scratchWrite]
  split
  · exact ite_canonical (modUid_canonical h) (modTile_canonical h (fun _ hx => memWrite_wf _ _ _ hx))
  · split
    · exact modTile_canonical h (fun _ hx => memWrite_wf _ _ _ hx)
    · exact modUid_canonical h

theorem landBytes_canonical {c : Cmd} {bs : List Byte} (h : s.Canonical) : (landBytes c bs s).Canonical :=
  ite_canonical (scratchWrite_canonical h) (ite_canonical (foldl_canonical (fun _ _ => writeRun_canonical) h)
    (foldl_canonical (fun _ _ => swardWrite_canonical) h))

theorem poisonDest_canonical {c : Cmd} {n : Nat} (h : s.Canonical) : (poisonDest c n s).Canonical :=
  ite_canonical h (ite_canonical (classPoison_canonical h) h)

theorem watchOne_canonical {id : Nat} {space : Bool} {rs : List (Nat × Nat)} {i : Fin 4} (h : s.Canonical) :
    (watchOne id space rs s i).Canonical := by
  simp only [watchOne]
  split
  · exact h
  · split
    · exact h
    · exact ite_canonical h (traceWatch_canonical (enterFault_canonical (modCmd_canonical h)))

theorem watchCmd_canonical {c : Cmd} {space : Bool} {rs : List (Nat × Nat)} (h : s.Canonical) :
    (watchCmd c space rs s).Canonical :=
  foldl_canonical (fun _ _ => watchOne_canonical) h

theorem watchLanded_canonical {c : Cmd} {n : Nat} (h : s.Canonical) : (watchLanded c n s).Canonical :=
  ite_canonical h (ite_canonical (watchCmd_canonical h) (watchCmd_canonical h))

theorem modHandle_canonical {c : Cmd} {f : Handle → Handle} (h : s.Canonical) : (modHandle c f s).Canonical :=
  modUid_canonical h

theorem turnSlots_canonical {c : Cmd} {a b : Nat} (h : s.Canonical) : (turnSlots c a b s).Canonical :=
  ite_canonical h (ite_canonical (modHandle_canonical h) (ite_canonical (modHandle_canonical h) h))

theorem beatDelivery_canonical {c : Cmd} {n : Nat} (h : s.Canonical) : (beatDelivery c n s).Canonical := by
  have h1 := fun op => cellOpReport_canonical (ctx := c.ctx) (i := parCell c.par) (op := op) (unit := cmdUnit c) (seq := c.seq) h
  unfold beatDelivery
  split
  · exact h
  · split
    next heq => exact stopCmd_canonical (canonical_of_eq_pair (h1 _) heq)
    next heq => exact canonical_of_eq_pair (h1 _) heq

theorem progress_canonical {c : Cmd} {k : Nat} (h : s.Canonical) : (progress c k s).Canonical :=
  ite_canonical (beatDelivery_canonical (turnSlots_canonical (modCmd_canonical (watchLanded_canonical h))))
    (turnSlots_canonical (modCmd_canonical (watchLanded_canonical h)))

theorem landed_canonical {c : Cmd} {bs : List Byte} (h : s.Canonical) : (landed c bs s).Canonical :=
  ite_canonical h (progress_canonical (landBytes_canonical h))

theorem takeSlot_canonical {c : Cmd} {t : State} (h : s.Canonical) (ht : takeSlot c s = some t) : t.Canonical := by
  unfold takeSlot at ht
  split at ht
  · exact Option.some.inj ht ▸ h
  · split at ht
    · split at ht
      · exact Option.some.inj ht ▸ h
      · cases ht
    · split at ht
      · exact Option.some.inj ht ▸ h
      · split at ht
        · cases ht
        · exact Option.some.inj ht ▸ modCmd_canonical (modHandle_canonical h)

theorem admitSide_canonical {c : Cmd} {n : Nat} {t : State} (h : s.Canonical) (ht : admitSide c n s = some t) :
    t.Canonical := by
  unfold admitSide at ht
  split at ht
  · exact Option.some.inj ht ▸ h
  · split at ht
    · cases ht
    next s1 hs1 => exact admitBanks_canonical (takeSlot_canonical h hs1) ht

theorem tryEnd_canonical {id : Nat} (h : s.Canonical) : (tryEnd id s).Canonical := by
  unfold tryEnd
  split
  · exact h
  · exact ite_canonical (ite_canonical (stopCmd_canonical h) (endStream_canonical h)) h

theorem histogramBeat_canonical {c : Cmd} (h : s.Canonical) : (histogramBeat c s).Canonical := by
  simp only [histogramBeat]
  split
  · exact h
  next t ht =>
    exact tryEnd_canonical (watchCmd_canonical (modCmd_canonical (swardWrite_canonical (admitBanks_canonical h ht))))

theorem beatStop_canonical {id : Nat} {why : Option Got} (h : s.Canonical) : (beatStop id why s).Canonical := by
  unfold beatStop
  split
  · exact h
  · refine ite_canonical h ?_
    split
    · exact stopCmd_canonical h
    · exact stopCmd_canonical (poisonDest_canonical h)
    · exact h

theorem sendFrame_canonical {p : BitVec 5} {bytes : List Byte} (h : s.Canonical) : (sendFrame p bytes s).Canonical := by
  unfold sendFrame
  refine ite_canonical (modPort_canonical h) ?_
  split
  next t ht =>
    exact sendRouted_canonical h ht
  · exact count_canonical h

theorem sendReq_canonical {c : Cmd} {chip : BitVec 10} {tc : BitVec 3} {opc : BitVec 9} {grant : Word} {off : BitVec 48}
    {poison : Bool} {payload : List Byte} {part len : Nat} (h : s.Canonical) :
    (sendReq c chip tc opc grant off poison payload part len s).Canonical :=
  sendFrame_canonical (modCmd_canonical h)

theorem sourceBytes_canonical {c : Cmd} {p n : Nat} {t : State} {b : List Byte × Bool} (h : s.Canonical)
    (ht : sourceBytes s c p n = some (t, b)) : t.Canonical := by
  obtain ⟨_, hs1, heq⟩ := Option.map_eq_some_iff.mp ht
  exact canonical_of_eq_pair (admitBanks_canonical h hs1) heq

theorem readSlot_canonical {c : Cmd} {n : Nat} (h : s.Canonical) : (readSlot c n s).Canonical := by
  simp only [readSlot]
  refine ite_canonical h ?_
  split
  · exact h
  next t ht =>
    exact turnSlots_canonical (modCmd_canonical (sourceBytes_canonical h ht))

theorem requestBytes_canonical {c : Cmd} {p n : Nat} {t : State} {b : List Byte × Bool} (h : s.Canonical)
    (ht : requestBytes s c p n = some (t, b)) : t.Canonical := by
  unfold requestBytes at ht
  split at ht
  · exact canonical_of_eq_pair h (Option.some.inj ht)
  · exact sourceBytes_canonical h ht

theorem afterPoison_canonical {c : Cmd} {bad : Bool} (h : s.Canonical) : (afterPoison c bad s).Canonical :=
  ite_canonical (stopCmd_canonical h) h

theorem sendMember_canonical {c : Cmd} (h : s.Canonical) : (sendMember c s).Canonical := by
  unfold sendMember
  refine ite_canonical (stopCmd_canonical h) ?_
  dsimp only
  split
  · exact h
  next t _ _ ht =>
    refine afterPoison_canonical (sendReq_canonical (modCmd_canonical ?_))
    split at ht
    · exact requestBytes_canonical h ht
    · exact canonical_of_eq_pair h (Option.some.inj ht)

theorem sendAtomic_canonical {c : Cmd} (h : s.Canonical) : (sendAtomic c s).Canonical := by
  unfold sendAtomic
  split
  · exact h
  next t ht =>
    exact ite_canonical (stopCmd_canonical (sourceBytes_canonical h ht)) (sendReq_canonical (sourceBytes_canonical h ht))

theorem sendPart_canonical {c : Cmd} (h : s.Canonical) : (sendPart c s).Canonical := by
  simp only [sendPart]
  split
  · exact sendReq_canonical h
  · split
    · exact h
    next t ht =>
      exact afterPoison_canonical (sendReq_canonical (modCmd_canonical (requestBytes_canonical h ht)))
  · exact sendAtomic_canonical h
  · exact sendMember_canonical h
  · exact sendReq_canonical h

theorem tryEndRemote_canonical {id : Nat} (h : s.Canonical) : (tryEndRemote id s).Canonical := by
  unfold tryEndRemote
  split
  · exact h
  · exact ite_canonical (endStream_canonical h) h

theorem sendCopy_canonical {c : Cmd} {l : Lease} {va : Nat} (h : s.Canonical) : (sendCopy c l va s).Canonical := by
  have hfree : ∀ u : State, u.Canonical →
      ((if c.pos + remoteRun c l va = cmdTotal c then freeChannel c else id) u).Canonical := by
    intro u hu
    split
    · exact freeChannel_canonical hu
    · exact hu
  exact ite_canonical (afterPoison_canonical (hfree _ (sendReq_canonical h))) (hfree _ (sendReq_canonical h))

theorem addLease_canonical {u : XUnit} {l : Lease} (h : s.Canonical) : (addLease u l s).Canonical := setUnitTlb_canonical h

theorem useLease_canonical {id : Nat} {l : Lease} (h : s.Canonical) : (useLease id l s).Canonical := modCmd_canonical h

theorem renewOne_canonical {k : AccessKind} {id va : Nat} (h : s.Canonical) : (renewOne k id s va).Canonical := by
  simp only [renewOne]
  split
  · exact h
  · refine ite_canonical h ?_
    split
    · exact h
    · refine ite_canonical (useLease_canonical h) ?_
      split
      · exact ite_canonical (useLease_canonical (setUnitTlb_canonical h)) (stopCmd_canonical h)
      · exact stopCmd_canonical h
      · exact stopCmd_canonical h

theorem renewBeat_canonical {c : Cmd} (h : s.Canonical) : (renewBeat c s).Canonical :=
  foldl_canonical (fun _ _ => renewOne_canonical) h

theorem fetchLines_canonical {c : Cmd} (h : s.Canonical) : (fetchLines c s).Canonical := modCmd_canonical h

theorem localBeat_canonical {c : Cmd} (h : s.Canonical) : (localBeat c s).Canonical := by
  simp only [localBeat]
  split
  · exact h
  · exact h
  · split
    · exact h
    next s1 hs1 => exact ite_canonical (sendCopy_canonical (admitSide_canonical h hs1)) (landed_canonical (admitSide_canonical h hs1))
  · split
    · exact h
    next s1 hs1 =>
      refine tryEnd_canonical (beatStop_canonical (landed_canonical ?_))
      split at hs1
      · exact Option.some.inj hs1 ▸ h
      · exact admitSide_canonical h hs1

theorem readBeat_canonical {c : Cmd} (h : s.Canonical) : (readBeat c s).Canonical := by
  unfold readBeat
  dsimp only
  split
  next bad s1 _ hs1 =>
    have h2 := landed_canonical (c := c) (bs := (beatStream s c).1) (admitSide_canonical h hs1)
    have h3 : (if bad then (sideSgas s c c.pos (beatStream s c).1.length).foldl (fun (s : State) a =>
      { s with swardPoison := addPoison s.swardPoison a 1 }) (landed c (beatStream s c).1 s1)
      else landed c (beatStream s c).1 s1).Canonical := ite_canonical (foldl_canonical (fun _ _ hs => hs) h2) h2
    exact ite_canonical h3 (tryEndRemote_canonical (ite_canonical (stopCmd_canonical (modCmd_canonical h3)) (modCmd_canonical h3)))
  · exact h

theorem copyBeat_canonical {c : Cmd} (h : s.Canonical) : (copyBeat c s).Canonical := by
  simp only [copyBeat]
  refine ite_canonical h ?_
  refine ite_canonical (histogramBeat_canonical h) ?_
  refine ite_canonical ?_ (ite_canonical (readBeat_canonical h) (ite_canonical
    (ite_canonical (readSlot_canonical h) (sendPart_canonical h)) h))
  refine ite_canonical h ?_
  split
  · refine ite_canonical (renewBeat_canonical h) ?_
    refine ite_canonical ?_ (localBeat_canonical (renewBeat_canonical h))
    split
    · exact localBeat_canonical (fetchLines_canonical (renewBeat_canonical h))
    · exact renewBeat_canonical h
  · exact renewBeat_canonical h

theorem execCopyBeat_canonical {id : Nat} (h : s.Canonical) : Out.Canonical (execCopyBeat id s) := by
  unfold execCopyBeat
  refine slotDone_canonical ?_
  split
  · exact tidyPorts_canonical (copyBeat_canonical h)
  · exact h

theorem giveToken_canonical {c : Cmd} {status detail : BitVec 8} (h : s.Canonical) :
    (giveToken c status detail s).Canonical := by
  unfold giveToken
  split
  · exact h
  · dsimp only
    split
    · exact h
    · exact setCmds_canonical (modUid_canonical h)

theorem writeRecord_canonical {c : Cmd} {t : State} (h : s.Canonical) (ht : writeRecord c s = some t) : t.Canonical := by
  unfold writeRecord at ht
  split at ht
  · exact Option.some.inj ht ▸ h
  · obtain ⟨s1, hs1, rfl⟩ := Option.map_eq_some_iff.mp ht
    exact watchCmd_canonical (modCmd_canonical (swardWrite_canonical (admitBanks_canonical h hs1)))

theorem cmdArrive_canonical {c : Cmd} (h : s.Canonical) : (cmdArrive c s).1.Canonical := by
  have h1 := cellOpReport_canonical (ctx := c.ctx) (i := parCell c.par) (op := .arrive 1) (unit := cmdUnit c) (seq := c.seq) h
  refine iteFst_canonical h ?_
  split
  next heq => exact canonical_of_eq_pair h1 heq
  next heq => exact canonical_of_eq_pair h1 heq

theorem statusEntry_canonical {c : Cmd} {st : BitVec 8} (h : s.Canonical) : (statusEntry c st s).Canonical :=
  ite_canonical h (enterFault_canonical h)

theorem passStatus_canonical {c : Cmd} {st : BitVec 8} (h : s.Canonical) : (passStatus c st s).Canonical := by
  unfold passStatus
  split
  · exact ite_canonical h (modCmd_canonical h)
  · exact h

theorem completeCmd_canonical {id : Nat} (h : s.Canonical) : (completeCmd id s).Canonical := by
  unfold completeCmd
  split
  · exact h
  · refine ite_canonical h ?_
    split
    · exact h
    next t ht =>
      exact ite_canonical (writeRecord_canonical h ht) (giveToken_canonical (statusEntry_canonical (passStatus_canonical
        (cmdArrive_canonical (writeRecord_canonical h ht)))))

theorem acceptCmd_canonical {c : Cmd} (h : s.Canonical) : (acceptCmd c s).Canonical :=
  ite_canonical h (freeChannel_canonical (modCmd_canonical h))

theorem captureLists_canonical {c : Cmd} {t : State} (h : s.Canonical) (ht : captureLists c s = some t) : t.Canonical := by
  obtain ⟨s1, hs1, rfl⟩ := Option.map_eq_some_iff.mp ht
  have h1 := admitBanks_canonical h hs1
  exact ite_canonical (stopCmd_canonical h1) (ite_canonical (stopCmd_canonical (modCmd_canonical h1)) (modCmd_canonical h1))

theorem startCmd_canonical {c : Cmd} (h : s.Canonical) : (startCmd c s).Canonical := by
  simp only [startCmd]
  refine ite_canonical (completeCmd_canonical (stopCmd_canonical h)) ?_
  refine ite_canonical (completeCmd_canonical (endStream_canonical h)) ?_
  refine ite_canonical (stopCmd_canonical h) ?_
  split
  next t ht =>
    exact captureLists_canonical (modCmd_canonical h) ht
  · exact h

theorem execCommandStart_canonical {id : Nat} (h : s.Canonical) : Out.Canonical (execCommandStart id s) := by
  simp only [execCommandStart]
  refine slotDone_canonical ?_
  split
  · exact h
  · refine ite_canonical h ?_
    split
    · exact ite_canonical (startCmd_canonical (acceptCmd_canonical h)) (acceptCmd_canonical h)
    · exact acceptCmd_canonical h

theorem lastRequest_canonical {id : Nat} (h : s.Canonical) : (lastRequest id s).Canonical := by
  unfold lastRequest
  split
  · exact ite_canonical (freeChannel_canonical h) h
  · exact h

/-! ### Ports -/

theorem dropAt_canonical {p : BitVec 5} {f : OutFrame} (h : s.Canonical) : (dropAt p s f).Canonical := count_canonical h

theorem execPortModeChange_canonical {p : BitVec 5} (h : s.Canonical) : Out.Canonical (execPortModeChange p s) := by
  unfold execPortModeChange
  refine slotDone_canonical ?_
  split
  · exact h
  · exact ite_canonical (foldl_canonical (fun _ _ => dropAt_canonical) (modPort_canonical h)) h

theorem macControl_canonical {p : BitVec 5} {bs : List Byte} (h : s.Canonical) : (macControl p bs s).Canonical :=
  modPort_canonical h

theorem receiveEth_canonical {p : BitVec 5} {wire : List Byte} (h : s.Canonical) : (receiveEth p wire s).Canonical :=
  ite_canonical (count_canonical h) (ite_canonical (count_canonical h) (ite_canonical (count_canonical h) (ite_canonical
    (macControl_canonical h) (ite_canonical (count_canonical h) (present_canonical h)))))

theorem takeCredits_canonical {p : BitVec 5} {tr : BitVec 256} {tc : BitVec 3} {n : Nat} (h : s.Canonical) :
    (takeCredits p tr tc n s).Canonical :=
  modPort_canonical h

theorem receiveYt_canonical {p : BitVec 5} {wire : List Byte} (h : s.Canonical) : (receiveYt p wire s).Canonical :=
  ite_canonical (count_canonical h) (ite_canonical (ite_canonical (count_canonical (takeCredits_canonical h))
    (takeCredits_canonical h)) (ite_canonical (ite_canonical (count_canonical (takeCredits_canonical h))
    (present_canonical (takeCredits_canonical h))) (ite_canonical (count_canonical (takeCredits_canonical h)) (ite_canonical
    (count_canonical (takeCredits_canonical h)) (present_canonical (takeCredits_canonical h))))))

theorem receive_canonical {p : BitVec 5} {eth : Bool} {wire : List Byte} (h : s.Canonical) :
    (receive p eth wire s).Canonical :=
  ite_canonical h (ite_canonical (count_canonical h) (tidyPorts_canonical (ite_canonical (receiveEth_canonical h)
    (ite_canonical (count_canonical h) (receiveYt_canonical h)))))

theorem hostSlotWrite_canonical {slot : BitVec 7} {a : Nat} {bs : List Byte} (h : s.Canonical) :
    (hostSlotWrite slot a bs s).Canonical := by
  have h1 := setHostWin_canonical (o := s.hostOrder) h (memWrite_wf bs _ a h.hostWin)
  exact ite_canonical h (ite_canonical (count_canonical h) (ite_canonical (setHostWin_canonical h1 h1.hostWin) h1))

theorem presentHost_canonical {yt : Bool} {bs : List Byte} (h : s.Canonical) : (presentHost yt bs s).Canonical :=
  ite_canonical (present_canonical h) (ite_canonical (ite_canonical (count_canonical h) (present_canonical h))
    (ite_canonical (count_canonical h) (present_canonical h)))

theorem execHostFrameTake_canonical (h : s.Canonical) : Out.Canonical (execHostFrameTake s) := by
  simp only [execHostFrameTake]
  refine slotDone_canonical ?_
  split
  · exact h
  · exact ite_canonical (count_canonical (setHostWin_canonical h (memZero_wf _ _ _ h.hostWin))) (presentHost_canonical
      (setHostWin_canonical h (memZero_wf _ _ _ h.hostWin)))

theorem execCreditWaitDiscard_canonical {p : BitVec 5} (h : s.Canonical) : Out.Canonical (execCreditWaitDiscard p s) :=
  slotDone_canonical (tidyPorts_canonical (foldl_canonical (fun _ _ => count_canonical) (modPort_canonical h)))

theorem portFault_canonical {p : BitVec 5} {c : Cause} (h : s.Canonical) : (portFault p c s).Canonical :=
  enterFault_canonical h

theorem sendLink_canonical {p : BitVec 5} {opc : BitVec 9} (h : s.Canonical) : (sendLink p opc s).Canonical :=
  toEgress_canonical h

theorem execTimeUnsync_canonical (h : s.Canonical) : Out.Canonical (execTimeUnsync s) :=
  slotDone_canonical (ite_canonical (enterFault_canonical h) h)

theorem laneErrors_canonical {p : BitVec 5} {lane : Fin 4} {n : Nat} (h : s.Canonical) : (laneErrors p lane n s).Canonical :=
  modPort_canonical h

theorem laneWindow_canonical {p : BitVec 5} {margins : Vector Nat 4} (h : s.Canonical) : (laneWindow p margins s).Canonical :=
  ite_canonical h (modPort_canonical h)

theorem execLaneWeak_canonical {p : BitVec 5} {lane : BitVec 3} (h : s.Canonical) : Out.Canonical (execLaneWeak p lane s) :=
  slotDone_canonical (ite_canonical h (ite_canonical (portFault_canonical (sendLink_canonical h))
    (sendLink_canonical (modPort_canonical h))))

theorem execLaneswap_canonical {p : BitVec 5} {lane : BitVec 3} {accept : Bool} {ts : Word} (h : s.Canonical) :
    Out.Canonical (execLaneswap p lane accept ts s) := by
  simp only [execLaneswap]
  refine slotDone_canonical ?_
  split
  · exact ite_canonical (ite_canonical (modPort_canonical h) (portFault_canonical (sendLink_canonical h)))
      (ite_canonical (portFault_canonical (modPort_canonical h)) h)
  · exact ite_canonical (portFault_canonical (sendLink_canonical h)) h
  · exact ite_canonical (portFault_canonical h) (ite_canonical (portFault_canonical (sendLink_canonical h))
      (sendLink_canonical (modPort_canonical h)))

theorem execLaneSwapped_canonical {p : BitVec 5} (h : s.Canonical) : Out.Canonical (execLaneSwapped p s) := by
  unfold execLaneSwapped
  refine slotDone_canonical ?_
  split
  · exact ite_canonical (portFault_canonical (modPort_canonical h)) h
  · exact h

theorem resteer_canonical {at_ : BitVec 5} {f : OutFrame} (h : s.Canonical) : (resteer at_ s f).Canonical := by
  simp only [resteer]
  split
  · exact toEgress_canonical h
  · exact dropAt_canonical h

theorem execLinkDown_canonical {p : BitVec 5} (h : s.Canonical) : Out.Canonical (execLinkDown p s) :=
  slotDone_canonical (ite_canonical h (portFault_canonical
    (foldl_canonical (fun _ _ => resteer_canonical) (modPort_canonical h))))

/-! ### Fabric -/

theorem fabricOrder_canonical {p : BitVec 5} {i : Nat} (h : s.Canonical) : (fabricOrder p i s).Canonical :=
  modPort_canonical h

theorem fabRemove_canonical {p : BitVec 5} {f : FabReq} (h : s.Canonical) : (fabRemove p f s).Canonical := modPort_canonical h

theorem fabReplace_canonical {p : BitVec 5} {f g : FabReq} (h : s.Canonical) : (fabReplace p f g s).Canonical :=
  modPort_canonical h

theorem respond_canonical {p : BitVec 5} {f : FabReq} {opc : BitVec 9} {off : BitVec 48} {poison : Bool} {payload : List Byte}
    (h : s.Canonical) : (respond p f opc off poison payload s).Canonical := by
  simp only [respond]
  refine ite_canonical (modPort_canonical h) ?_
  split
  next t ht =>
    exact sendRouted_canonical h ht
  · exact count_canonical h

theorem refuse_canonical {p : BitVec 5} {f : FabReq} {detail : BitVec 8} (h : s.Canonical) :
    (refuse p f detail s).Canonical :=
  respond_canonical (fabRemove_canonical h)

theorem answer_canonical {p : BitVec 5} {f : FabReq} {opc : BitVec 9} {poison : Bool} {payload : List Byte}
    (h : s.Canonical) : (answer p f opc poison payload s).Canonical :=
  respond_canonical (fabRemove_canonical h)

theorem grantRefuse_canonical {p : BitVec 5} {f : FabReq} {detail : BitVec 8} {limited : Bool} (h : s.Canonical) :
    (grantRefuse p f detail limited s).Canonical := by
  simp only [grantRefuse]
  refine refuse_canonical ?_
  split
  · exact enterFault_canonical h
  · exact ite_canonical (ite_canonical (modPort_canonical h) h) (enterFault_canonical
      (modPort_canonical (ite_canonical (modPort_canonical h) h)))

theorem checkRequest_canonical {p : BitVec 5} {f : FabReq} (h : s.Canonical) : (checkRequest p f s).1.Canonical := by
  have h1 : (match limitPort f with
      | some q => s.modPort q fun x => { x with lastMac := s.timeNs }
      | none => s : State).Canonical := by
    split <;> exact h
  exact iteFst_canonical (grantRefuse_canonical h) (iteFst_canonical (grantRefuse_canonical h1) (fabReplace_canonical h1))

theorem keyPoison_canonical {k : Nat} (h : s.Canonical) : (keyPoison s k).Canonical := classPoison_canonical h

theorem watchRemote_canonical {p : BitVec 5} {f : FabReq} {ctx : CtxId} {va n : Nat} {type : BitVec 2} (h : s.Canonical) :
    (watchRemote p f ctx va n type s).Canonical := by
  simp only [watchRemote]
  split
  · exact h
  · exact enterFault_canonical h

theorem serveRead_canonical {p : BitVec 5} {f : FabReq} {ctx : CtxId} {va : Nat} (h : s.Canonical) :
    (serveRead p f ctx va s).Canonical :=
  answer_canonical h

theorem serveWrite_canonical {p : BitVec 5} {f : FabReq} {ack : BitVec 9} {ctx : CtxId} {va : Nat} (h : s.Canonical) :
    (serveWrite p f ack ctx va s).Canonical :=
  ite_canonical (refuse_canonical (foldl_canonical (fun _ _ => keyPoison_canonical) (watchRemote_canonical
    (foldl_canonical (fun _ _ => writeRun_canonical) h)))) (answer_canonical (watchRemote_canonical
    (foldl_canonical (fun _ _ => writeRun_canonical) h)))

theorem serveAtomic_canonical {p : BitVec 5} {f : FabReq} {ctx : CtxId} {va : Nat} (h : s.Canonical) :
    (serveAtomic p f ctx va s).Canonical := by
  simp only [serveAtomic]
  refine ite_canonical (refuse_canonical h) ?_
  refine answer_canonical ?_
  split
  · exact watchRemote_canonical (foldl_canonical (fun _ _ => writeRun_canonical) h)
  · exact h

theorem serveArrive_canonical {p : BitVec 5} {f : FabReq} {ctx : CtxId} (h : s.Canonical) :
    (serveArrive p f ctx s).Canonical := by
  have h1 := fun i op => cellOpReport_canonical (ctx := ctx) (i := i) (op := op) (unit := portUnit p) (seq := 0) h
  refine ite_canonical h ?_
  split
  next heq => exact refuse_canonical (canonical_of_eq_pair (h1 _ _) heq)
  next heq => exact answer_canonical (canonical_of_eq_pair (h1 _ _) heq)

theorem serveChecked_canonical {p : BitVec 5} {f : FabReq} {ctx : CtxId} {va : Nat} (h : s.Canonical) :
    (serveChecked p f ctx va s).Canonical := by
  simp only [serveChecked]
  refine ite_canonical (fabRemove_canonical h) ?_
  refine ite_canonical (serveArrive_canonical h) ?_
  refine ite_canonical (refuse_canonical h) ?_
  split
  · exact h
  · exact h
  · exact refuse_canonical h
  · split
    · exact serveRead_canonical h
    · exact serveWrite_canonical h
    · exact serveAtomic_canonical h
    · exact serveWrite_canonical h

theorem serve_canonical {p : BitVec 5} {opc : BitVec 9} (h : s.Canonical) : Out.Canonical (serve p opc s) := by
  unfold serve
  refine slotDone_canonical ?_
  split
  · exact h
  next f _ =>
    have h1 := checkRequest_canonical (p := p) (f := f) h
    refine tidyPorts_canonical ?_
    split
    · exact serveChecked_canonical h
    · split
      next heq =>
        have h2 := canonical_of_eq_pair h1 heq
        split
        · exact serveChecked_canonical h2
        · exact h2
      next heq => exact canonical_of_eq_pair h1 heq

theorem settleReq_canonical {p : BitVec 5} {f : FabReq} {c : Cmd} {r : RemoteReq} (h : s.Canonical) :
    (settleReq p f c r s).Canonical :=
  modCmd_canonical (fabRemove_canonical h)

theorem takeAnswer_canonical {p : BitVec 5} {opc : BitVec 9} {take : FabReq → Cmd → RemoteReq → State → State}
    (htake : ∀ a b c u, u.Canonical → (take a b c u).Canonical) (h : s.Canonical) :
    Out.Canonical (takeAnswer p opc take s) := by
  unfold takeAnswer
  refine slotDone_canonical ?_
  split
  · exact h
  · split
    · exact count_canonical (fabRemove_canonical h)
    · exact ite_canonical h (ite_canonical (settleReq_canonical h) (tidyPorts_canonical (htake _ _ _ _ h)))

theorem takeRead_canonical {f : FabReq} {c : Cmd} {r : RemoteReq} (h : s.Canonical) : (takeRead f c r s).Canonical := by
  simp only [takeRead]
  refine foldl_canonical ?_ (modCmd_canonical (recordBytes_canonical h))
  intro _ _ hs
  split
  · exact ite_canonical (readBeat_canonical hs) hs
  · exact hs

theorem takeCopied_canonical {f : FabReq} {c : Cmd} (h : s.Canonical) : (takeCopied f c s).Canonical :=
  ite_canonical (stopCmd_canonical h) (ite_canonical (stopCmd_canonical (foldl_canonical (fun _ _ => poisonDest_canonical)
    (landed_canonical h))) (tryEnd_canonical (landed_canonical h)))

theorem execReadData_canonical {p : BitVec 5} (h : s.Canonical) : Out.Canonical (execReadData p s) :=
  takeAnswer_canonical (fun _ _ _ _ h1 => ite_canonical (stopCmd_canonical (settleReq_canonical h1)) (ite_canonical
    (takeRead_canonical (settleReq_canonical h1)) (takeCopied_canonical (settleReq_canonical h1)))) h

theorem execWriteAcknowledgement_canonical {p : BitVec 5} (h : s.Canonical) : Out.Canonical (execWriteAcknowledgement p s) :=
  takeAnswer_canonical (fun _ _ _ _ h1 => ite_canonical (tryEnd_canonical (progress_canonical (settleReq_canonical h1)))
    (tryEndRemote_canonical (settleReq_canonical h1))) h

theorem execAtomicResult_canonical {p : BitVec 5} (h : s.Canonical) : Out.Canonical (execAtomicResult p s) := by
  simp only [execAtomicResult]
  refine takeAnswer_canonical ?_ h
  intro _ _ _ _ h1
  refine ite_canonical (stopCmd_canonical (settleReq_canonical h1)) ?_
  split
  · exact h1
  next t ht =>
    exact tryEndRemote_canonical (watchCmd_canonical (swardWrite_canonical (recordValue_canonical
      (settleReq_canonical (admitBanks_canonical h1 ht)))))

theorem execMulticastMemberAcknowledgement_canonical {p : BitVec 5} (h : s.Canonical) :
    Out.Canonical (execMulticastMemberAcknowledgement p s) :=
  takeAnswer_canonical (fun _ _ _ _ h1 => tryEndRemote_canonical (modCmd_canonical (settleReq_canonical h1))) h

theorem failMember_canonical {c : Cmd} {r : RemoteReq} (h : s.Canonical) : (failMember c r s).Canonical := modCmd_canonical h

theorem execRefusal_canonical {p : BitVec 5} (h : s.Canonical) : Out.Canonical (execRefusal p s) :=
  takeAnswer_canonical (fun _ _ _ _ h1 => ite_canonical (tryEndRemote_canonical
    (failMember_canonical (settleReq_canonical h1))) (stopCmd_canonical (settleReq_canonical h1))) h

theorem timeoutReq_canonical {c : Cmd} {r : RemoteReq} (h : s.Canonical) : (timeoutReq c s r).Canonical :=
  ite_canonical (modCmd_canonical h) (ite_canonical (failMember_canonical (modCmd_canonical h))
    (stopCmd_canonical (modCmd_canonical h)))

theorem execRemoteTimeout_canonical {id : Nat} (h : s.Canonical) : Out.Canonical (execRemoteTimeout id s) := by
  simp only [execRemoteTimeout]
  refine slotDone_canonical ?_
  split
  · exact h
  · exact tryEndRemote_canonical (foldl_canonical (fun _ _ => timeoutReq_canonical) h)

theorem beginDrain_canonical (h : s.Canonical) : (beginDrain s).Canonical := h

theorem drainOver_canonical (h : s.Canonical) : (drainOver s).Canonical := h

/-! ### Scalars -/

theorem popPos_canonical {p : ScalarPos} {x : Tile} (h : x.Canonical) : (popPos p x).Canonical := by
  simp only [popPos]
  split <;> exact h

theorem replaceHead_canonical {p : ScalarPos} {e : QEntry} {x : Tile} (h : x.Canonical) : (replaceHead p e x).Canonical := by
  simp only [replaceHead]
  split <;> exact h

theorem failScalar_canonical {t : TileId} {p : ScalarPos} {e : QEntry} {c : Cause} {type : BitVec 2} {level : BitVec 3}
    (h : s.Canonical) : (failScalar t p e c type level s).Canonical := by
  simp only [failScalar]
  refine ite_canonical ?_ ?_
  · refine modUid_canonical ?_
    refine modTile_canonical h ?_
    intro _ hx
    split
    · exact replaceHead_canonical hx
    · exact popPos_canonical hx
    · exact hx
  · refine enterFault_canonical ?_
    refine modTile_canonical h ?_
    intro _ hx
    split
    · exact replaceHead_canonical hx
    · exact popPos_canonical hx
    · exact hx

theorem absentScalar_canonical {t : TileId} {p : ScalarPos} {e : QEntry} (h : s.Canonical) :
    (absentScalar t p e s).Canonical := by
  simp only [absentScalar]
  split
  · exact ite_canonical (modTile_canonical (enterFault_canonical h) (fun _ => replaceHead_canonical)) (modTile_canonical
      (enterFault_canonical h) (fun _ => popPos_canonical))
  · exact modTile_canonical (enterFault_canonical h) (fun _ => replaceHead_canonical)

theorem performAt_canonical {cls : BitVec 3} {pa : Nat} {e : QEntry} (h : s.Canonical) :
    (performAt cls pa e s).1.Canonical := by
  simp only [performAt]
  split
  · exact h
  · exact classWrite_canonical h
  · refine iteFst_canonical ?_ ?_
    · split
      · exact classWrite_canonical h
      · exact h
    · refine recordValue_canonical ?_
      split
      · exact classWrite_canonical h
      · exact h
  · exact h

theorem performEntry_canonical {t : TileId} {load : Bool} {l : Lease} {e : QEntry} {pop : Tile → Tile}
    (hpop : ∀ x, x.Canonical → (pop x).Canonical) (h : s.Canonical) : (performEntry t load l e pop s).Canonical := by
  have h1 := modTile_canonical (t := t) (performAt_canonical (cls := l.cls) (pa := leasePa l e.va.toNat) (e := e) h) hpop
  exact ite_canonical h (ite_canonical (modTile_canonical h hpop) (ite_canonical (modTaskAt_canonical h1) h1))

theorem performHead_canonical {t : TileId} {p : ScalarPos} (h : s.Canonical) : (performHead t p s).Canonical := by
  simp only [performHead]
  split
  · exact h
  · refine ite_canonical h ?_
    split
    · exact h
    · exact ite_canonical (failScalar_canonical h) (ite_canonical (failScalar_canonical h) (ite_canonical
        (failScalar_canonical h) (performEntry_canonical (fun _ => popPos_canonical) h)))

theorem popAt_canonical {load : Bool} {i : Nat} {x : Tile} (h : x.Canonical) : (popAt load i x).Canonical :=
  iteTile_canonical h h

theorem performEarly_canonical {t : TileId} {load : Bool} {i : Nat} (h : s.Canonical) :
    (performEarly t load i s).Canonical := by
  simp only [performEarly]
  split
  · exact h
  · refine ite_canonical h ?_
    split
    · exact h
    · exact ite_canonical (performEntry_canonical (fun _ => popAt_canonical) h) h

theorem hostComplete_canonical {t : TileId} {i : Nat} (h : s.Canonical) : (hostComplete t i s).Canonical := by
  unfold hostComplete
  split
  · exact h
  · exact ite_canonical h (modTile_canonical (performAt_canonical h) (fun _ => id))

theorem execScalarAccessPerform_canonical {t : TileId} {q : QueueSel} (h : s.Canonical) :
    Out.Canonical (execScalarAccessPerform t q s) := by
  simp only [execScalarAccessPerform]
  refine slotDone_canonical ?_
  split
  · split
    · exact ite_canonical (ite_canonical (modTile_canonical h (fun _ => popPos_canonical)) h) (performHead_canonical h)
    · exact h
  · split
    · exact ite_canonical (modTile_canonical h (fun _ => popPos_canonical)) (ite_canonical
        (ite_canonical (modTile_canonical h (fun _ => popPos_canonical)) h) (performHead_canonical h))
    · exact h
  · exact hostComplete_canonical h
  · exact performEarly_canonical h
  · exact performEarly_canonical h
  · exact hostComplete_canonical h

theorem takeImprecise_canonical {t : TileId} (h : s.Canonical) : (takeImprecise t s).Canonical := by
  simp only [takeImprecise]
  split
  · exact h
  · exact ite_canonical h (takeTrap_canonical (modTile_canonical h (fun _ => id)))

theorem modMatrixTask_canonical {t : TileId} {f : Task → Task} (h : s.Canonical) : (modMatrixTask t f s).Canonical := by
  unfold modMatrixTask
  split
  · exact modUid_canonical h
  · exact modTaskAt_canonical h

theorem execHeadAdvance_canonical {t : TileId} {h : BitVec 4} (hs : s.Canonical) : Out.Canonical (execHeadAdvance t h s) := by
  simp only [execHeadAdvance]
  refine slotDone_canonical ?_
  split
  · exact hs
  · exact ite_canonical hs (modTaskAt_canonical hs)

/-! ### Stops -/

theorem orderPreempt_canonical {x : Tile} (h : x.Canonical) : (orderPreempt x).Canonical := h

theorem preemptGang_canonical {t : TileId} (h : s.Canonical) : (preemptGang t s).Canonical :=
  foldl_canonical (fun _ _ hs => modTile_canonical hs (fun _ => orderPreempt_canonical)) h

theorem preemptStop_canonical {t : TileId} (h : s.Canonical) : (preemptStop t s).Canonical :=
  ite_canonical (suspendTiles_canonical (traceStop_canonical (modTile_canonical h (fun _ => id))))
    (traceStop_canonical (modTile_canonical h (fun _ => id)))

theorem gangStopNow_canonical {t : TileId} (h : s.Canonical) : (gangStopNow t s).Canonical :=
  traceStop_canonical (modTile_canonical h (fun _ => id))

theorem heldGangStop_canonical {x : Tile} (h : x.Canonical) : (heldGangStop x).Canonical := h

theorem boundaryTrap_canonical {t : TileId} {c : Cause} (h : s.Canonical) : (boundaryTrap t c s).Canonical :=
  takeTrap_canonical h

theorem stopDue_canonical {t : TileId} {u : State} (h : s.Canonical) (hu : stopDue s t = some u) : u.Canonical := by
  simp only [stopDue] at hu
  split at hu
  · exact Option.some.inj hu ▸ boundaryTrap_canonical (modTile_canonical h fun _ hx => hx)
  · split at hu
    · exact Option.some.inj hu ▸ takeImprecise_canonical h
    · split at hu
      · exact Option.some.inj hu ▸ boundaryTrap_canonical (modTaskAt_canonical h)
      · split at hu
        · exact Option.some.inj hu ▸ boundaryTrap_canonical (modTaskAt_canonical h)
        · split at hu
          · exact Option.some.inj hu ▸ gangStopNow_canonical h
          · split at hu
            · exact Option.some.inj hu ▸ preemptStop_canonical h
            · cases hu

theorem takeIf_canonical {t : TileId} {due : Bool} {f : State → State} (hf : ∀ u, u.Canonical → (f u).Canonical)
    (h : s.Canonical) : (takeIf t due f s).Canonical :=
  ite_canonical (hf _ (applyReleases_canonical h)) h

theorem resumeStopped_canonical {t : TileId} {skip : Bool} (h : s.Canonical) : (resumeStopped t skip s).Canonical :=
  modTile_canonical (resumeOn_canonical h) (fun _ => foldlTile_canonical (fun _ _ => restoreHalf_canonical))

theorem changeStopped_canonical {t : TileId} {k : Task} (h : s.Canonical) : (changeStopped t k s).Canonical :=
  ite_canonical (modTaskAt_canonical h) h

theorem discardTask_canonical {t : TileId} (h : s.Canonical) : (discardTask t s).Canonical :=
  freeBanks_canonical (modCtx_canonical (freeTile_canonical h))

theorem watchdogEntry_canonical {t : TileId} (h : s.Canonical) : (watchdogEntry t s).Canonical := enterFault_canonical h

theorem endAfterSaves_canonical {c : CtxId} (h : s.Canonical) : (endAfterSaves c s).Canonical :=
  ite_canonical (modCtx_canonical h) (endContext_canonical h)

theorem execWatchdog_canonical {t : TileId} (h : s.Canonical) : Out.Canonical (execWatchdog t s) :=
  slotDone_canonical (ite_canonical (endAfterSaves_canonical (ite_canonical (modTile_canonical
    (dropTask_canonical (watchdogEntry_canonical h)) (fun _ => id)) (watchdogEntry_canonical h))) h)

theorem beginScrub_canonical {b : Nat} (h : s.Canonical) : (beginScrub b s).Canonical := h

theorem execCtxLost_canonical {c : CtxId} (h : s.Canonical) : Out.Canonical (execCtxLost c s) :=
  slotDone_canonical (ite_canonical (enterFault_canonical (foldl_canonical (fun _ _ => beginScrub_canonical)
    (endContext_canonical h))) h)

/-! ### LaunchEvents -/

theorem execRecordLanding_canonical {q : BitVec 7} (h : s.Canonical) : Out.Canonical (execRecordLanding q s) := by
  simp only [execRecordLanding]
  refine slotDone_canonical ?_
  split
  · exact h
  · exact ite_canonical (modQueue_canonical (setSward_canonical h (memWriteLE_wf _ _ _ _ h.sward))) h

theorem execHeldRecordMove_canonical {ctx : CtxId} {i : BitVec 16} (h : s.Canonical) :
    Out.Canonical (execHeldRecordMove ctx i s) := by
  simp only [execHeldRecordMove]
  refine slotDone_canonical ?_
  split
  · exact h
  · split
    · exact h
    · exact ite_canonical h (ite_canonical (fireCell_canonical (modQueue_canonical h))
        (cellWrite_canonical (modQueue_canonical h)))

theorem rank15_canonical {die : BitVec 1} (h : s.Canonical) : (rank15 die s).Canonical := by
  unfold rank15
  refine ite_canonical h ?_
  split
  · exact preemptGang_canonical h
  · exact h

theorem completeHalf_canonical {u : Bool} {x : Tile} (h : x.Canonical) : (completeHalf s u x).Canonical :=
  iteTile_canonical h (setHalf_canonical (putHalfBytes_canonical h))

theorem execImageLoadComplete_canonical {t : TileId} (h : s.Canonical) : Out.Canonical (execImageLoadComplete t s) :=
  slotDone_canonical (ite_canonical (startTiles_canonical (modTile_canonical h
    (fun _ hx => completeHalf_canonical (completeHalf_canonical hx)))) (modTile_canonical h
    (fun _ hx => completeHalf_canonical (completeHalf_canonical hx))))

theorem execSliceExpiry_canonical {t : TileId} (h : s.Canonical) : Out.Canonical (execSliceExpiry t s) :=
  slotDone_canonical (ite_canonical h (ite_canonical (preemptGang_canonical h)
    (ite_canonical (modTile_canonical h (fun _ => id)) h)))

theorem claimServed_canonical {t : TileId} (h : s.Canonical) : (claimServed t s).Canonical :=
  modTile_canonical h (fun _ => id)

theorem saveForClaim_canonical {t : TileId} {e : Nat × ResClass} (h : s.Canonical) : (saveForClaim t e s).Canonical :=
  ite_canonical h (claimServed_canonical (saveResident_canonical h))

theorem restoreForClaim_canonical {t : TileId} {c : ResClass} (h : s.Canonical) : (restoreForClaim t c s).Canonical :=
  ite_canonical h (claimServed_canonical (modTaskAt_canonical h))

theorem endDying_canonical (h : s.Canonical) : (endDying s).Canonical :=
  foldl_canonical (fun _ _ hs => ite_canonical (endContext_canonical hs) hs) h

theorem execClassSaveComplete_canonical {t : TileId} {c : ResClass} (h : s.Canonical) :
    Out.Canonical (execClassSaveComplete t c s) := by
  refine slotDone_canonical (endDying_canonical (ite_canonical (claimServed_canonical (modTile_canonical h fun _ hx => hx))
    (ite_canonical (ite_canonical (claimServed_canonical (evictHalf_canonical h)) h) ?_)))
  split
  · split
    · exact flushSaves_canonical (saveForClaim_canonical h)
    · exact saveForClaim_canonical h
  · exact ite_canonical (restoreForClaim_canonical h) h

theorem modTimed_canonical {die : BitVec 1} {i : BitVec 4} {f : Timed → Timed} (h : s.Canonical) :
    (State.modTimed s die i f).Canonical :=
  modDie_canonical h

theorem releaseTimed_canonical {die : BitVec 1} {i : BitVec 4} (h : s.Canonical) : (releaseTimed die i s).Canonical :=
  modTimed_canonical (foldl_canonical (fun _ _ hs => modTile_canonical hs (fun _ hx => iteTile_canonical hx hx)) h)

theorem execTimedLaunchLead_canonical {die : BitVec 1} {i : BitVec 4} (h : s.Canonical) :
    Out.Canonical (execTimedLaunchLead die i s) := by
  simp only [execTimedLaunchLead]
  refine slotDone_canonical ?_
  refine ite_canonical h ?_
  split
  · exact h
  · split
    · exact h
    · exact modTimed_canonical (foldl_canonical (fun _ _ hs => modTile_canonical (ite_canonical hs (preemptGang_canonical hs))
        (fun _ => id)) h)

theorem timedDone_canonical {die : BitVec 1} {i : BitVec 4} {late : Bool} {g : Nat} (h : s.Canonical) :
    (timedDone die i late g s).Canonical :=
  ite_canonical (enterFault_canonical (modDie_canonical (modTimed_canonical (releaseTimed_canonical h))))
    (modDie_canonical (modTimed_canonical (releaseTimed_canonical h)))

theorem execTimedLaunchStart_canonical {die : BitVec 1} {i : BitVec 4} (h : s.Canonical) :
    Out.Canonical (execTimedLaunchStart die i s) := by
  simp only [execTimedLaunchStart]
  refine slotDone_canonical ?_
  refine ite_canonical h ?_
  split
  · exact h
  · split
    · exact h
    · exact ite_canonical (timedDone_canonical (launchHead_canonical h)) (launchHead_canonical h)

theorem refuseWrite_canonical (h : s.Canonical) : (refuseWrite s).Canonical := h

theorem execContextDescriptorWrite_canonical {c : CtxId} {v : BitVec 512} (h : s.Canonical) :
    Out.Canonical (execContextDescriptorWrite c v s) :=
  slotDone_canonical (ite_canonical (refuseWrite_canonical h) (modCtx_canonical (ite_canonical
    (ite_canonical h (endContext_canonical h)) (stopHolding_canonical (ite_canonical h (endContext_canonical h))))))

theorem forgetTask_canonical {u : Nat} {x : Tile} (h : x.Canonical) : (forgetTask u x).Canonical := h

theorem discardQueue_canonical {q : BitVec 7} (h : s.Canonical) : (discardQueue q s).Canonical :=
  modQueue_canonical (foldl_canonical (fun _ _ hs => freeBanks_canonical (modCtx_canonical
    (mapTiles_canonical hs (fun _ => forgetTask_canonical)))) h)

theorem execQueueDescriptorWrite_canonical {q : BitVec 7} {v : BitVec 128} (h : s.Canonical) :
    Out.Canonical (execQueueDescriptorWrite q v s) :=
  slotDone_canonical (ite_canonical (refuseWrite_canonical h)
    (setDies_canonical (modQueue_canonical (ite_canonical (discardQueue_canonical h) h))))

theorem execBankOwnerWrite_canonical {b : BitVec 11} {v : BitVec 32} (h : s.Canonical) :
    Out.Canonical (execBankOwnerWrite b v s) :=
  slotDone_canonical (ite_canonical (setBank_canonical h) (beginScrub_canonical (setBank_canonical h)))

theorem execContextSave_canonical {c : CtxId} (h : s.Canonical) : Out.Canonical (execContextSave c s) :=
  slotDone_canonical (flushSaves_canonical (mapTiles_canonical h
    (fun _ hx => iteTile_canonical (orderPreempt_canonical hx) hx)))

/-! ### Walks -/

theorem walkScalar_canonical {t : TileId} {p : ScalarPos} {e : QEntry} (h : s.Canonical) :
    (walkScalar t p e s).Canonical := by
  unfold walkScalar
  split
  · exact addLease_canonical (modTile_canonical h (fun _ => replaceHead_canonical))
  · exact absentScalar_canonical h
  · exact failScalar_canonical h
  · exact failScalar_canonical h

theorem walkCmd_canonical {c : Cmd} {va : Nat} {k : AccessKind} (h : s.Canonical) : (walkCmd c va k s).Canonical := by
  simp only [walkCmd]
  split
  · exact ite_canonical (stopCmd_canonical h) (addLease_canonical h)
  · exact stopCmd_canonical h
  · exact stopCmd_canonical h
  · exact enterFault_canonical (modCmd_canonical h)
  · exact stopCmd_canonical h

theorem walkReq_canonical {p : BitVec 5} {f : FabReq} {ctx : CtxId} {va : Nat} (h : s.Canonical) :
    (walkReq p f ctx va s).Canonical := by
  unfold walkReq
  split
  · exact addLease_canonical h
  · exact enterFault_canonical (fabReplace_canonical h)
  · exact refuse_canonical h
  · exact refuse_canonical h

theorem execPageWalk_canonical {u : XUnit} {ctx : CtxId} {va : Word} {k : AccessKind} (h : s.Canonical) :
    Out.Canonical (execPageWalk u ctx va k s) := by
  simp only [execPageWalk]
  refine slotDone_canonical ?_
  refine ite_canonical h ?_
  split
  · split
    · exact walkScalar_canonical h
    · split
      · exact walkCmd_canonical h
      · exact h
  · split
    · exact walkCmd_canonical h
    · exact h
  · split
    · exact walkReq_canonical h
    · exact h
  · exact h

theorem execLeaseRenewal_canonical {id : Nat} (h : s.Canonical) : Out.Canonical (execLeaseRenewal id s) := by
  unfold execLeaseRenewal
  refine slotDone_canonical ?_
  split
  · exact h
  · exact ite_canonical h (renewBeat_canonical h)

theorem wakeTile_canonical {ctx : CtxId} {page : BitVec 32} {x : Tile} (h : x.Canonical) : (wakeTile ctx page x).Canonical :=
  h

theorem replyMapped_canonical {die : BitVec 1} {ctx : CtxId} {page : BitVec 32} (h : s.Canonical) :
    (replyMapped die ctx page s).Canonical := by
  refine setTiles_canonical h (ofFn_canonical fun i => ?_)
  have hi : s.tiles[i].Canonical := h.tiles _ (Vector.getElem_mem _)
  exact iteTile_canonical (wakeTile_canonical hi) hi

theorem abandonTile_canonical {ctx : CtxId} {x : Tile} (h : x.Canonical) : (abandonTile ctx x).Canonical :=
  abandonLog_canonical h

theorem replyFail_canonical {die : BitVec 1} {ctx : CtxId} {page : BitVec 32} (h : s.Canonical) :
    (replyFail die ctx page s).Canonical := by
  have h1 := fun f => endContext_canonical (c := ctx) (st := 3) (modDie_canonical (d := die) (f := f) h)
  exact enterFault_canonical (setTiles_canonical (h1 _) (map_canonical (h1 _).tiles fun _ => abandonTile_canonical))

theorem writeReply_canonical {die : BitVec 1} {v : Word} (h : s.Canonical) : (writeReply die v s).Canonical :=
  ite_canonical (replyFail_canonical h) (replyMapped_canonical h)

/-! ### Windows -/

theorem extend_canonical {i : Fin 16} {ty : Byte} {ctx : CtxId} {content : List Byte} (h : s.Canonical) :
    (extend i ty ctx content s).Canonical :=
  h

theorem execParserProgramLoad_canonical {p : BitVec 3} {words : List (BitVec 32)} (h : s.Canonical) :
    Out.Canonical (execParserProgramLoad p words s) :=
  slotDone_canonical (ite_canonical (refuseWrite_canonical h) (extend_canonical (modPipe_canonical h)))

theorem execActionCodeLoad_canonical {p : BitVec 3} {stage : BitVec 4} {base : BitVec 12} {words : List (BitVec 32)}
    (h : s.Canonical) : Out.Canonical (execActionCodeLoad p stage base words s) :=
  slotDone_canonical (ite_canonical (refuseWrite_canonical h) (extend_canonical (modPipe_canonical h)))

theorem execTableEntryWrite_canonical {die : BitVec 1} {i : BitVec 6} {slot : Option (BitVec 24)} {v : BitVec 512}
    (h : s.Canonical) : Out.Canonical (execTableEntryWrite die i slot v s) := by
  refine slotDone_canonical (ite_canonical (refuseWrite_canonical h) (ite_canonical h ?_))
  have h1 := fun a bs => swardWrite_canonical (a := a) (bs := bs) (inService_canonical (ps := diePipes die) h)
  cases slot with
  | none => exact h1 _ _
  | some k => exact modDie_canonical (h1 _ _)

theorem execStageEntryWrite_canonical {p : BitVec 3} {stage : BitVec 4} {ctx : CtxId} {v : BitVec 320} (h : s.Canonical) :
    Out.Canonical (execStageEntryWrite p stage ctx v s) :=
  slotDone_canonical (ite_canonical (refuseWrite_canonical h) (extend_canonical (modPipe_canonical h)))

theorem execRoutingEntryWrite_canonical {p : BitVec 3} {dst : BitVec 10} {v : BitVec 32} (h : s.Canonical) :
    Out.Canonical (execRoutingEntryWrite p dst v s) :=
  slotDone_canonical (ite_canonical (refuseWrite_canonical h) (modPipe_canonical (inService_canonical h)))

/-! ### Manage -/

theorem writeHeader_canonical {die : BitVec 1} {v : Word} (h : s.Canonical) : (writeHeader die v s).Canonical :=
  modDie_canonical h

theorem setSnap_canonical {b : Bool} {ls : List LeafAt} (h : s.Canonical) : (setSnap b ls s).Canonical :=
  foldl_canonical (fun _ _ hs => setHbm_canonical hs (memWriteLE_wf _ _ _ _ hs.hbm)) h

theorem dumpLeaves_canonical {dest : DumpDest} {d : DumpData} (h : s.Canonical) : (dumpLeaves dest d s).Canonical := by
  simp only [dumpLeaves]
  split
  · exact setHostMem_canonical h (memWrite_wf _ _ _ h.hostMem)
  · exact h

theorem dumpPage_canonical {ctx : CtxId} {r : DumpRun} {d : DumpData} (h : s.Canonical) :
    (dumpPage ctx r d s).Canonical := by
  unfold dumpPage
  split
  · exact modCtx_canonical (setSnap_canonical h)
  · exact modDie_canonical (modCtx_canonical (endContext_canonical (dumpLeaves_canonical h)))

theorem dumpStep_canonical {ctx : CtxId} {r : DumpRun} (h : s.Canonical) : (dumpStep ctx r s).Canonical := by
  simp only [dumpStep]
  split
  · exact ite_canonical (flushSaves_canonical h) (modCtx_canonical (setSnap_canonical (flushSaves_canonical h)))
  · exact ite_canonical h (modCtx_canonical h)
  · exact dumpPage_canonical h

theorem execCoreDump_canonical {ctx : CtxId} (h : s.Canonical) : Out.Canonical (execCoreDump ctx s) := by
  unfold execCoreDump
  refine slotDone_canonical ?_
  split
  · exact ite_canonical (dumpStep_canonical h) h
  · refine ite_canonical h ?_
    split <;> exact queueDump_canonical h

theorem execColdReset_canonical (h : s.Canonical) : Out.Canonical (execColdReset s) := by
  have hr : State.reset.Canonical := (State.memoryWf_iff _).mp reset_memoryWf
  exact slotDone_canonical (extend_canonical { hr with hostMem := h.hostMem, cxlMem := h.cxlMem })

theorem singleBitError_canonical {line : Nat} (h : s.Canonical) : (singleBitError line s).Canonical := modCluster_canonical h

theorem doubleBitError_canonical {line : Nat} (h : s.Canonical) : (doubleBitError line s).Canonical := ite_canonical h h

theorem hbmError_canonical {line : Nat} (h : s.Canonical) : (hbmError line s).Canonical :=
  ite_canonical (enterFault_canonical h) h

theorem acceptIf_canonical {ok : Bool} {f : State → State} (hf : ∀ u, u.Canonical → (f u).Canonical) (h : s.Canonical) :
    (acceptIf ok f s).Canonical :=
  ite_canonical (hf _ h) (refuseWrite_canonical h)

theorem writeMonitor_canonical {t : TileId} {off : BitVec 13} {bytes : List Byte} (h : s.Canonical) :
    (writeMonitor t off bytes s).Canonical :=
  acceptIf_canonical (fun _ h1 => extend_canonical (modTile_canonical h1 (fun _ hx => memWrite_wf _ _ _ hx))) h

theorem registerImage_canonical {ctx : CtxId} {id : BitVec 32} {bytes : List Byte} (h : s.Canonical) :
    (registerImage ctx id bytes s).Canonical :=
  extend_canonical h

theorem writeTimed_canonical {die : BitVec 1} {i : BitVec 4} {v : BitVec 256} (h : s.Canonical) :
    (writeTimed die i v s).Canonical :=
  modTimed_canonical (ite_canonical (releaseTimed_canonical h) h)

theorem zeroCounter_canonical {p : BitVec 6} {i : BitVec 4} (h : s.Canonical) : (zeroCounter p i s).Canonical :=
  ite_canonical (modPort_canonical h) (ite_canonical h h)

theorem kenvalStore_canonical {a : Nat} {bs : List Byte} (h : s.Canonical) : (kenvalStore a bs s).Canonical := by
  simp only [kenvalStore]
  split
  · exact setHbm_canonical h (memWrite_wf _ _ _ h.hbm)
  · exact ite_canonical h (ite_canonical (writeHeader_canonical h) (ite_canonical (writeReply_canonical h) h))
  · exact h

theorem kenvalLoad_canonical {c : BitVec 2} {rd : BitVec 5} {a n : Nat} (h : s.Canonical) :
    (kenvalLoad c rd a n s).Canonical :=
  ite_canonical h h

theorem kenvalWrite_canonical {r : KReg} (h : s.Canonical) : (kenvalWrite r s).Canonical := by
  simp only [kenvalWrite]
  split
  · exact acceptIf_canonical (fun _ => swardWrite_canonical) h
  · exact setHbm_canonical h (memWrite_wf _ _ _ h.hbm)
  · exact h
  · exact h
  · exact setHbm_canonical h (memWriteLE_wf _ _ _ _ h.hbm)
  · exact modCtx_canonical h
  · exact h
  · exact h
  · exact modDie_canonical h
  · exact writeMonitor_canonical h
  · exact registerImage_canonical h
  · exact acceptIf_canonical (fun _ => modDie_canonical) h
  · exact modDie_canonical h
  · exact modDie_canonical h
  · exact modDie_canonical h
  · exact modCtx_canonical h
  · exact acceptIf_canonical (fun _ => modCtx_canonical) h
  · exact modCtx_canonical h
  · exact modDie_canonical h
  · exact modCtx_canonical h
  · exact modTile_canonical h (fun _ => id)
  · exact modTile_canonical h (fun _ => id)
  · exact acceptIf_canonical (fun _ h1 => modTile_canonical h1 (fun _ => id)) h
  · exact acceptIf_canonical (fun _ h1 => modTile_canonical h1 (fun _ => id)) h
  · exact acceptIf_canonical (fun _ => id) h
  · exact writeTimed_canonical h
  · exact modCtx_canonical h
  · exact modQueue_canonical h
  · exact zeroCounter_canonical h
  · exact modPort_canonical h
  · exact acceptIf_canonical (fun _ => id) h
  · exact modDie_canonical (inService_canonical h)
  · exact modPort_canonical h
  · exact acceptIf_canonical (fun _ h1 => setKenvalSram_canonical h1 (memWrite_wf _ _ _ h1.kenvalSram)) h
  · exact h
  · exact kenvalStore_canonical h
  · exact kenvalLoad_canonical h
  · exact acceptIf_canonical (fun _ => id) h

theorem execKenvalRegisterWrite_canonical {r : KReg} (h : s.Canonical) : Out.Canonical (execKenvalRegisterWrite r s) := by
  unfold execKenvalRegisterWrite
  split
  · exact trivial
  · exact slotDone_canonical (ite_canonical h (kenvalWrite_canonical h))

/-! ### Matrix -/

theorem runMatrix_canonical {regs : List (BitVec 6)} {body : State → SlotRes}
    (hbody : ∀ u, u.Canonical → (body u).Canonical) (h : s.Canonical) : Out.Canonical (runMatrix regs body s) :=
  runClaiming_canonical (fun _ h2 => hbody _ h2) h

theorem withHead_canonical {h : BitVec 4} {accept : BitVec 6 → Bool} {body : Handle → State → SlotRes}
    (hbody : ∀ a u, u.Canonical → (body a u).Canonical) (hs : s.Canonical) : (withHead h accept body s).Canonical :=
  needHandle_canonical (fun _ _ h2 => iteSlot_canonical trivial (checkTags_canonical (fun _ h3 => hbody _ _ h3) h2)) hs

theorem readHead_canonical {x : Handle} {n : Nat} {body : List Byte → State → SlotRes}
    (hbody : ∀ a u, u.Canonical → (body a u).Canonical) (h : s.Canonical) : (readHead x n body s).Canonical := by
  simp only [readHead]
  split
  · exact trivial
  · split
    · exact trivial
    next t ht =>
      exact iteSlot_canonical (addImpFault_canonical (admitBanks_canonical h ht)) (hbody _ _ (admitBanks_canonical h ht))

theorem execMloadb_canonical {h : BitVec 4} {a : BitVec 6} (hs : s.Canonical) : Out.Canonical (execMloadb h a s) :=
  runMatrix_canonical (fun _ h1 => iteSlot_canonical trivial (iteSlot_canonical trivial (withHead_canonical (fun _ _ h2 =>
    iteSlot_canonical trivial (iteSlot_canonical trivial (iteSlot_canonical trivial
    (readHead_canonical (fun _ _ => modTask_canonical) h2)))) h1))) hs

theorem execMloadbs_canonical {h : BitVec 4} {a : BitVec 6} (hs : s.Canonical) : Out.Canonical (execMloadbs h a s) := by
  simp only [execMloadbs]
  refine runMatrix_canonical ?_ hs
  intro _ h1
  refine iteSlot_canonical trivial ?_
  refine iteSlot_canonical trivial ?_
  refine iteSlot_canonical trivial ?_
  refine withHead_canonical ?_ h1
  intro _ _ h2
  refine iteSlot_canonical trivial ?_
  refine iteSlot_canonical trivial ?_
  refine readHead_canonical ?_ h2
  intro _ _ h3
  split
  · exact trivial
  · exact modTask_canonical h3

theorem execMfeed_canonical {h : BitVec 4} {mm1 : BitVec 6} {adv : Bool} (hs : s.Canonical) :
    Out.Canonical (execMfeed h mm1 adv s) :=
  runMatrix_canonical (fun _ h1 => withHead_canonical (fun _ _ h2 => iteSlot_canonical trivial (iteSlot_canonical trivial
    (readHead_canonical (fun _ _ => modTask_canonical) h2))) h1) hs

theorem execMpush_canonical {a : BitVec 6} (h : s.Canonical) : Out.Canonical (execMpush a s) :=
  runMatrix_canonical (fun _ => checkTags_canonical (fun _ h2 => iteSlot_canonical trivial (modTask_canonical h2))) h

theorem multiply_canonical {d mm1 : BitVec 6} {mac alwaysMid : Bool} (h : s.Canonical) :
    Out.Canonical (multiply d mm1 mac alwaysMid s) :=
  runMatrix_canonical (fun _ h1 => iteSlot_canonical trivial (checkTags_canonical (fun _ h2 => iteSlot_canonical trivial
    (iteSlot_canonical trivial (iteSlot_canonical trivial (iteSlot_canonical trivial
    (modTask_canonical (foldl_canonical (fun _ _ => emit_canonical) h2)))))) h1)) h

theorem mclr_canonical {w rb cfg : Bool} (h : s.Canonical) : Out.Canonical (mclr w rb cfg s) :=
  runMatrix_canonical (fun _ h1 => iteSlot_canonical trivial (iteSlot_canonical trivial (emit_canonical h1))) h

/-! ### Pipeline -/

theorem beginBlock_canonical {p : BitVec 3} {k : Packet} {f : Phv} {l0 : Option Lookup} (h : s.Canonical) :
    (beginBlock p k f l0 s).Canonical := by
  simp only [beginBlock]
  refine ite_canonical (dropPacket_canonical h) ?_
  refine ite_canonical (nextStage_canonical h) ?_
  split
  · exact actionFault_canonical h
  · exact ite_canonical (actionFault_canonical h) h

theorem stagePacket_canonical {p : BitVec 3} {k : Packet} (h : s.Canonical) : (stagePacket p k s).Canonical := by
  simp only [stagePacket]
  refine ite_canonical (nextStage_canonical h) ?_
  refine ite_canonical h ?_
  refine ite_canonical (ite_canonical h (beginBlock_canonical h)) ?_
  split
  · exact dropPacket_canonical h
  · exact ite_canonical (dropPacket_canonical h) (ite_canonical h (beginBlock_canonical
      (logAnswer_canonical (replacePacket_canonical h))))

theorem execStageExecute_canonical {p : BitVec 3} {stage : BitVec 4} (h : s.Canonical) :
    Out.Canonical (execStageExecute p stage s) := by
  unfold execStageExecute
  refine slotDone_canonical ?_
  split
  · exact h
  · exact ite_canonical h (stagePacket_canonical (inPipeOrder_canonical h))

theorem countDrops_canonical {p : BitVec 6} {n : Nat} (h : s.Canonical) : (countDrops p n s).Canonical :=
  foldl_canonical (fun _ _ => count_canonical) h

theorem dispose_canonical {p : BitVec 3} {k : Packet} (h : s.Canonical) : (dispose p k s).Canonical :=
  ite_canonical (ite_canonical h (count_canonical h)) (ite_canonical (count_canonical h) (ite_canonical
    (countDrops_canonical h) (ite_canonical (count_canonical h) (foldl_canonical (fun _ _ => toEgress_canonical)
    (countDrops_canonical h)))))

theorem disposeTransit_canonical {p : BitVec 3} {k : Packet} (h : s.Canonical) : (disposeTransit p k s).Canonical := by
  simp only [disposeTransit]
  split
  next t ht =>
    exact sendRouted_canonical h ht
  · exact count_canonical h

theorem execPacketDisposition_canonical {p : BitVec 3} (h : s.Canonical) : Out.Canonical (execPacketDisposition p s) := by
  simp only [execPacketDisposition]
  refine slotDone_canonical ?_
  split
  · exact h
  · exact tidyPorts_canonical (ite_canonical (disposeTransit_canonical (removePacket_canonical h)) (ite_canonical
      (modPort_canonical (removePacket_canonical h)) (dispose_canonical (removePacket_canonical h))))

theorem payAddWord_canonical {o : PayOp} {i : Nat} (h : s.Canonical) : (payAddWord o s i).Canonical :=
  ite_canonical h (setSward_canonical h (memWriteLE_wf _ _ _ _ h.sward))

theorem payLand_canonical {o : PayOp} (h : s.Canonical) : (payLand o s).Canonical :=
  ite_canonical (swardWrite_canonical h) (foldl_canonical (fun _ _ => payAddWord_canonical) h)

theorem payArrives_canonical {o : PayOp} (h : s.Canonical) : (payArrives o s).Canonical :=
  foldl_canonical (fun _ _ => cellOpReport_canonical) h

theorem settleArrives_canonical (h : s.Canonical) : (settleArrives s).Canonical :=
  foldl_canonical (fun _ _ hs => ite_canonical hs (payArrives_canonical hs)) h

theorem payCells_canonical {o : PayOp} (h : s.Canonical) : (payCells o s).Canonical := by
  simp only [payCells]
  refine ite_canonical ?_ ?_
  · split
    · exact cellOpReport_canonical h
    · exact h
  · refine payArrives_canonical ?_
    split
    · exact cellOpReport_canonical h
    · exact h

theorem countE2e_canonical {r : BufRef} (h : s.Canonical) : (countE2e r s).Canonical := ite_canonical h (count_canonical h)

theorem payFail_canonical {eng : BitVec 4} {o : PayOp} {poisoned : Bool} (h : s.Canonical) :
    (payFail eng o poisoned s).Canonical :=
  enterFault_canonical (countE2e_canonical h)

theorem payPerform_canonical {eng : BitVec 4} {op : BitVec 2} (h : s.Canonical) : Out.Canonical (payPerform eng op s) := by
  simp only [payPerform]
  refine slotDone_canonical ?_
  split
  · exact tidyPorts_canonical (settleArrives_canonical h)
  · exact ite_canonical h (tidyPorts_canonical (settleArrives_canonical (ite_canonical
      (payFail_canonical (payLand_canonical (modCluster_canonical h)))
      (payCells_canonical (payLand_canonical (modCluster_canonical h))))))

/-! ### Retire -/

theorem retireCount_canonical {t : TileId} {k : Task} {icyc fcyc : Word} (h : s.Canonical) :
    (retireCount t k icyc fcyc s).Canonical :=
  traceRecord_canonical (logAnswer_canonical (modCtx_canonical (modQueue_canonical h)))

theorem doneArrive_canonical {t : TileId} (h : s.Canonical) : (doneArrive t s).1.Canonical :=
  iteFst_canonical (cellOpReport_canonical h) h

theorem retireNow_canonical {tiles : List TileId} (h : s.Canonical) : (retireNow tiles s).Canonical := by
  unfold retireNow
  split
  · exact h
  next t _ =>
    have h1 := doneArrive_canonical (t := t) (freeBanks_canonical (a := taskAccessor (s.tile t).task) h)
    dsimp only
    split
    next heq =>
      exact takeTrap_canonical (foldl_canonical (fun _ _ hs => modTile_canonical hs fun _ hx => hx) (canonical_of_eq_pair h1 heq))
    next heq =>
      exact foldl_canonical (fun _ _ hs => freeTile_canonical hs) (retireCount_canonical (canonical_of_eq_pair h1 heq))

theorem retire_canonical {t : TileId} (h : s.Canonical) : (retire t s).Canonical :=
  ite_canonical h (ite_canonical (ite_canonical (retireNow_canonical h) h) (ite_canonical
    (retireNow_canonical (modTile_canonical h (fun _ => id))) (modTile_canonical h (fun _ => id))))

/-! ### ScalarFp -/

theorem emitFp_canonical {d : BitVec 6} {r : BitVec 32 × Flags} (h : s.Canonical) : (emitFp d r s).Canonical :=
  emitF_canonical (emitS_canonical h)

theorem scalarFp2_canonical {d a b : BitVec 6} {f : FVal → FVal → Nat × Flags} (h : s.Canonical) :
    Out.Canonical (scalarFp2 d a b f s) :=
  runSlot_canonical (fun _ => emitFp_canonical) h

theorem scalarFpSel_canonical {d a b : BitVec 6} {wantMax : Bool} (h : s.Canonical) :
    Out.Canonical (scalarFpSel d a b wantMax s) :=
  runSlot_canonical (fun _ => emitFp_canonical) h

theorem scalarFpCmp_canonical {d : BitVec 3} {a b : BitVec 6} {r : FRel} (h : s.Canonical) :
    Out.Canonical (scalarFpCmp d a b r s) :=
  runSlot_canonical (fun _ h1 => emitF_canonical (emitP_canonical h1)) h

/-! ### ScalarInt -/

theorem scalarRR_canonical {lat : Nat} {d a b : BitVec 6} {f : Word → Word → Word} (h : s.Canonical) :
    Out.Canonical (scalarRR lat d a b f s) :=
  runSlot_canonical (fun _ => emitS_canonical) h

theorem scalarRI_canonical {d a : BitVec 6} {f : Word → Word} (h : s.Canonical) : Out.Canonical (scalarRI d a f s) :=
  runSlot_canonical (fun _ => emitS_canonical) h

theorem compareRR_canonical {d : BitVec 3} {a b : BitVec 6} {f : Word → Word → Bool} (h : s.Canonical) :
    Out.Canonical (compareRR d a b f s) :=
  runSlot_canonical (fun _ => emitP_canonical) h

theorem compareRI_canonical {d : BitVec 3} {a imm : BitVec 6} {f : Word → Word → Bool} (h : s.Canonical) :
    Out.Canonical (compareRI d a imm f s) :=
  runSlot_canonical (fun _ => emitP_canonical) h

theorem predLogic_canonical {d a b : BitVec 3} {f : Bool → Bool → Bool} (h : s.Canonical) :
    Out.Canonical (predLogic d a b f s) :=
  runSlot_canonical (fun _ => emitP_canonical) h

/-! ### Sync -/

theorem tileCellOp_canonical {i : BitVec 16} {op : CellOp} {d : BitVec 6} (h : s.Canonical) :
    (tileCellOp i op d s).Canonical := by
  simp only [tileCellOp]
  refine iteSlot_canonical trivial ?_
  split
  · exact cellFaultEntry_canonical (cellOp_canonical h)
  · exact emitS_canonical (cellOp_canonical h)

theorem arriveBody_canonical {d : BitVec 6} {w : Word} {rel : Option Scope} (h : s.Canonical) :
    (arriveBody d w rel s).Canonical := by
  simp only [arriveBody]
  refine iteSlot_canonical trivial ?_
  refine iteSlot_canonical trivial ?_
  split
  · exact iteSlot_canonical (tileCellOp_canonical h) trivial
  · exact tileCellOp_canonical h

theorem waitTrap_canonical {i : BitVec 16} {c : Cause} (h : s.Canonical) : (waitTrap i c s).Canonical :=
  cellFaultEntry_canonical h

theorem execWaitc_canonical {d a : BitVec 6} {x2 : Scope} (h : s.Canonical) : Out.Canonical (execWaitc d a x2 s) := by
  simp only [execWaitc]
  refine runSlot_canonical ?_ h
  intro _ h1
  refine iteSlot_canonical trivial ?_
  refine iteSlot_canonical trivial ?_
  split
  · exact waitTrap_canonical h1
  · split
    · exact trivial
    · exact iteSlot_canonical (emitS_canonical h1) (iteSlot_canonical trivial trivial)

/-! ### Transpose -/

theorem execXpush_canonical {a : BitVec 6} (h : s.Canonical) : Out.Canonical (execXpush a s) :=
  runClaiming_canonical (fun _ h1 => checkTags_canonical (fun _ h2 => iteSlot_canonical trivial
    (modTask_canonical (emit_canonical h2))) h1) h

theorem execXpop_canonical {d : BitVec 6} (h : s.Canonical) : Out.Canonical (execXpop d s) :=
  runClaiming_canonical (fun _ h1 => iteSlot_canonical trivial
    (iteSlot_canonical trivial (modTask_canonical (emitV_canonical h1)))) h

theorem execMdesc_canonical {d a b : BitVec 6} (h : s.Canonical) : Out.Canonical (execMdesc d a b s) := by
  refine runMatrix_canonical (fun _ h1 => ?_) h
  dsimp only
  split
  · trivial
  · split
    · trivial
    · exact checkTags_canonical (fun _ h2 => iteSlot_canonical trivial (emitV_canonical (emit_canonical h2))) h1

theorem execMregroup_canonical {d a b : BitVec 6} (h : s.Canonical) : Out.Canonical (execMregroup d a b s) :=
  runMatrix_canonical (fun _ h1 => checkTags_canonical (fun _ h2 => iteSlot_canonical trivial
    (emitV_canonical (emitV_canonical (emitV_canonical h2)))) h1) h

/-! ### VecConv -/

theorem vecConvert_canonical {d a : BitVec 6} {part : BitVec 3} {ok : BitVec 6 → Bool} {dtag : BitVec 6}
    {conv : VReg → Nat → Nat × Flags} (h : s.Canonical) : Out.Canonical (vecConvert d a part ok dtag conv s) :=
  runClaiming_canonical (fun _ h1 => checkTags_canonical (fun _ h2 => iteSlot_canonical trivial
    (emitF_canonical (emitV_canonical h2))) h1) h

theorem vecFromF32_canonical {r : RMode} {d a : BitVec 6} {part : BitVec 3} {f : FloatFmt} {dtag : BitVec 6}
    (h : s.Canonical) : Out.Canonical (vecFromF32 r d a part f dtag s) :=
  vecConvert_canonical h

theorem vecToInt_canonical {m : RMode} {t : ITy} {d a : BitVec 6} {part : BitVec 3} (h : s.Canonical) :
    Out.Canonical (vecToInt m t d a part s) :=
  vecConvert_canonical h

theorem vecDrain_canonical {sat : Bool} {d a : BitVec 6} (h : s.Canonical) : Out.Canonical (vecDrain sat d a s) :=
  runClaiming_canonical (fun _ => checkTags_canonical (fun _ h2 => emitF_canonical (emitV_canonical h2))) h

theorem execVscale_canonical {r : RMode} {d a b : BitVec 6} (h : s.Canonical) : Out.Canonical (execVscale r d a b s) :=
  runClaiming_canonical (fun _ => checkTags_canonical (fun _ h2 => emitF_canonical (emitV_canonical h2))) h

/-! ### VecFloat -/

theorem vecF2_canonical {f : FTy} {d a : BitVec 6} {b tag : BitVec 6} {op : BitVec 32 → BitVec 32 → BitVec 32 × Flags}
    (h : s.Canonical) : Out.Canonical (vecF2 f d a b tag op s) :=
  vec2_canonical h

theorem execVfmaF_canonical {f : FTy} {r : RMode} {d a b : BitVec 6} (h : s.Canonical) :
    Out.Canonical (execVfmaF f r d a b s) :=
  runClaiming_canonical (fun _ => checkTags_canonical (fun _ h2 => emitF_canonical (emitV_canonical h2))) h

theorem emulateTrap_canonical {srcs : List Src} : (emulateTrap srcs s).Canonical := by
  unfold emulateTrap
  split
  · exact trivial
  · split
    · exact trivial
    · split <;> exact trivial

theorem vecEmulate_canonical {a b : BitVec 6} (h : s.Canonical) : Out.Canonical (vecEmulate a b s) :=
  runClaiming_canonical (fun _ _ => emulateTrap_canonical) h

theorem vecSpecial_canonical {d a : BitVec 6} {f : FVal → Nat × Flags} (h : s.Canonical) :
    Out.Canonical (vecSpecial d a f s) :=
  runClaiming_canonical (fun _ => checkTags_canonical (fun _ h2 => emitF_canonical (emitV_canonical h2))) h

/-! ### VecMove -/

theorem vecLogic_canonical {d a b : BitVec 6} {f : Lane → Lane → Lane} (h : s.Canonical) :
    Out.Canonical (vecLogic d a b f s) :=
  runClaiming_canonical (fun _ => checkTags_canonical (fun _ => emitV_canonical)) h

theorem execVretag_canonical {d fmt : BitVec 6} (h : s.Canonical) : Out.Canonical (execVretag d fmt s) :=
  runClaiming_canonical (fun _ h1 => iteSlot_canonical trivial (iteSlot_canonical trivial (emitV_canonical h1))) h

theorem execVplane_canonical {d a : BitVec 6} {pl : BitVec 4} {part : BitVec 2} (h : s.Canonical) :
    Out.Canonical (execVplane d a pl part s) :=
  runClaiming_canonical (fun _ h1 => checkTags_canonical (fun _ h2 => iteSlot_canonical trivial
    (emitF_canonical (emitV_canonical h2))) h1) h

theorem execVptmask_canonical {d a b : BitVec 6} (h : s.Canonical) : Out.Canonical (execVptmask d a b s) :=
  runClaiming_canonical (fun _ h1 => iteSlot_canonical trivial (iteSlot_canonical trivial (emitV_canonical h1))) h

/-! ### Dispatch -/

/-- An instruction keeps the form, by the rule of the operation that its arm runs. -/
theorem exec_canonical {i : Instr} (h : s.Canonical) : Out.Canonical (exec i s) := by
  unfold exec
  cases i with dsimp only
  | pNop | pSet | pAdv | pAdvf | pKey | pPayld => exact parseWord_canonical (fun _ _ _ => nextWord_canonical) h
  | pExt => exact execPExt_canonical h
  | pExtb => exact execPExtb_canonical h
  | pCase => exact execPCase_canonical h
  | pGoto => exact parseWord_canonical (fun _ _ _ => enterState_canonical) h
  | pEnd => exact execPEnd_canonical h
  | acNop | acSkipz | acSkipnz | acDone | acLdd | acHit | acFwd | acMcast | acDrop | acRoute | acArrive | acExpect | acAdmit
    | acClose => exact actionWord_canonical h
  | acMov | acAdd | acSub | acAnd | acOr | acXor | acShl | acShr | acMin | acMax | acSlt | acMovi | acAddi | acAndi | acOri
    | acMovh | acSeqi => exact fieldWord_canonical h
  | acSrd | acSwr | acSadd => exact statefulWord_canonical h
  | acPayWrite | acPayAddw | acPayAdds | acPayAddf => exact payWord_canonical h
  | add | sub | and | or | xor | sll | srl | sra | min | max | minu | maxu | mul | mulh | mulhu | div | divu | rem | remu =>
    exact scalarRR_canonical h
  | addi | andi | ori | xori | slli | srli | srai => exact scalarRI_canonical h
  | movi | movk | smova | lcrd | cstat => exact runSlot_canonical (fun _ => emitS_canonical) h
  | cmpeq | cmpne | cmplt | cmpltu | cmple | cmpleu => exact compareRR_canonical h
  | cmpeqi | cmplti | cmplei => exact compareRI_canonical h
  | pand | por | pxor => exact predLogic_canonical h
  | pnot => exact runSlot_canonical (fun _ => emitP_canonical) h
  | fadd | fsub | fmul | fdiv => exact scalarFp2_canonical h
  | fma | fsqrt | cvtF32 => exact runSlot_canonical (fun _ => emitFp_canonical) h
  | fmin | fmax => exact scalarFpSel_canonical h
  | fcmpeq | fcmplt | fcmple => exact scalarFpCmp_canonical h
  | fcvtI64 => exact runSlot_canonical (fun _ h1 => emitF_canonical (emitS_canonical h1)) h
  | br => exact execBr_canonical h
  | brN => exact execBrN_canonical h
  | call => exact execCall_canonical h
  | jr => exact execJr_canonical h
  | bswap => exact execBswap_canonical h
  | ifence => exact execIfence_canonical h
  | nopn => exact runSlot_canonical (fun _ => owe_canonical) h
  | yield => exact execYield_canonical h
  | endTask => exact execEnd_canonical h
  | endRetirement => exact slotDone_canonical (retire_canonical h)
  | trap => exact execTrap_canonical h
  | eret | eretSkip => exact eret_canonical (fun _ => resumeOn_canonical) h
  | eretRaise => exact execEretRaise_canonical h
  | srd => exact execSrd_canonical h
  | swr => exact runSlot_canonical (fun _ h1 => iteSlot_canonical trivial (emit_canonical h1)) h
  | enq => exact runSlot_canonical (fun _ => checkLaunch_canonical (fun _ => sendRecords_canonical)) h
  | spawnv => exact execSpawnv_canonical h
  | nop | anop | vnop | cnop => exact runSlot_canonical (fun _ => id) h
  | ldG | ldGAcq => exact runSlot_canonical (fun _ => loadAt_canonical) h
  | stG | stGRel => exact runSlot_canonical (fun _ => storeAt_canonical) h
  | qmark => exact runSlot_canonical (fun _ => issueAccess_canonical) h
  | fence => exact runSlot_canonical (fun _ h1 => iteSlot_canonical h1 trivial) h
  | amoG => exact runSlot_canonical (fun _ => amoAt_canonical) h
  | amoGAcq | amoGRel | amoGAr => exact orderedAmo_canonical h
  | relb | relbFree => exact runSlot_canonical (fun _ => relbBody_canonical) h
  | relbBankChange => exact slotDone_canonical (applyReleases_canonical h)
  | arrive | arriveRel => exact runSlot_canonical (fun _ => arriveBody_canonical) h
  | waitc => exact execWaitc_canonical h
  | expect => exact runSlot_canonical (fun _ h1 => iteSlot_canonical trivial (tileCellOp_canonical h1)) h
  | aadd | asub | aaddi | amovi | amovs | ashli | areg => exact runSlot_canonical (fun _ => emitA_canonical) h
  | anode => exact execAnode_canonical h
  | lcset | cset | cclr => exact runSlot_canonical (fun _ => emit_canonical) h
  | loop | loopSwp => exact startLoop_canonical h
  | spld | xcnt => exact runClaiming_canonical (fun _ => emitS_canonical) h
  | spst | spstA | xcfg | xclr => exact runClaiming_canonical (fun _ => emit_canonical) h
  | spldA => exact runClaiming_canonical (fun _ => emitA_canonical) h
  | hset => exact execHset_canonical h
  | halloc => exact execHalloc_canonical h
  | hpub => exact execHpub_canonical h
  | hadv => exact execHadv_canonical h
  | headAdvance => exact execHeadAdvance_canonical h
  | hrd => exact runSlot_canonical (fun _ h1 => emitS_canonical (emitS_canonical h1)) h
  | vaddInt | vsubInt | vmulInt | vmin | vmax => exact vecArith_canonical h
  | vshl | vshr | vcmpeq => exact vec2_canonical h
  | vld => exact runClaiming_canonical (fun _ h1 => iteSlot_canonical trivial (vecLoad_canonical h1)) h
  | vst | vstx => exact runClaiming_canonical (fun _ => checkTags_canonical (fun _ => vecStore_canonical)) h
  | vlds => exact execVlds_canonical h
  | vsts => exact execVsts_canonical h
  | vldx => exact runClaiming_canonical (fun _ => checkTags_canonical (fun _ => vecLoad_canonical)) h
  | vcmplt | vcmple => exact vecCmp_canonical h
  | vredsum => exact execVredsum_canonical h
  | vand | vor | vxor => exact vecLogic_canonical h
  | vnot | vsel | vmov | vperm | vrot =>
    exact runClaiming_canonical (fun _ => checkTags_canonical (fun _ => emitV_canonical)) h
  | vaddF | vsubF | vmulF | vminF | vmaxF | vcmpeqF | vcmpltF | vcmpleF => exact vecF2_canonical h
  | vfmaF => exact execVfmaF_canonical h
  | vaddE | vsubE | vmulE => exact vecEmulate_canonical h
  | vfmaE => exact runClaiming_canonical (fun _ _ => emulateTrap_canonical) h
  | vredsumF32 | vredmaxF32 | vargmaxF32 | vredmaxI32 | vargmaxI32 => exact vecReduce_canonical h
  | vexp2 | vlog2 | vrcp | vrsq | vtanh | vsin => exact vecSpecial_canonical h
  | vbcastF32 | vbcastI32 | viota => exact runClaiming_canonical (fun _ => emitV_canonical) h
  | vretag => exact execVretag_canonical h
  | vplane => exact execVplane_canonical h
  | vptmask => exact execVptmask_canonical h
  | vcvtI32Sat | vcvtI32Wrap => exact vecDrain_canonical h
  | vscale => exact execVscale_canonical h
  | vcvtF32 => exact vecConvert_canonical h
  | vcvtBf16x2 | vcvtFp16 | vcvtE4m3 | vcvtE5m2 => exact vecFromF32_canonical h
  | vcvtInt | vcvtIntRz => exact vecToInt_canonical h
  | mcfg => exact runMatrix_canonical (fun _ h1 => iteSlot_canonical (emit_canonical h1) trivial) h
  | mloadb => exact execMloadb_canonical h
  | mloadbs => exact execMloadbs_canonical h
  | matrixLoadComplete | mfeedLanding => exact slotDone_canonical (modMatrixTask_canonical h)
  | mfeed => exact execMfeed_canonical h
  | mpush => exact execMpush_canonical h
  | mmul | mmac | mmulMid | mmacMid => exact multiply_canonical h
  | mdesc => exact execMdesc_canonical h
  | mregroup => exact execMregroup_canonical h
  | mclrW | mclrRb | mclrCfg => exact mclr_canonical h
  | xpush => exact execXpush_canonical h
  | xpop => exact execXpop_canonical h
  | cgo | cpy | cpyAs | gath | pool | rld | rst | ramo | mcst | rarrive =>
    exact runSlot_canonical (fun _ => command_canonical) h
  | cwait => exact runSlot_canonical (fun _ h1 => iteSlot_canonical trivial h1) h
  | commandStart => exact execCommandStart_canonical h
  | copyBeat => exact execCopyBeat_canonical h
  | commandCompletion => exact slotDone_canonical (completeCmd_canonical h)
  | leaseRenewal => exact execLeaseRenewal_canonical h
  | leaseExpiry => exact slotDone_canonical (setUnitTlb_canonical h)
  | pageWalk => exact execPageWalk_canonical h
  | scalarAccessPerform => exact execScalarAccessPerform_canonical h
  | sideLogReplay => exact slotDone_canonical (performHead_canonical h)
  | impreciseTrap => exact slotDone_canonical (takeImprecise_canonical h)
  | clockSkew => exact slotDone_canonical (enterFault_canonical (setUnitOut_canonical (setUnitTlb_canonical h)))
  | cellExpect | cellDelivery | cellArrive | cellRemoteArrive | cellPhaseRead => exact bankOp_canonical h
  | cellRewrite => exact execCellRewrite_canonical h
  | heldRecordMove => exact execHeldRecordMove_canonical h
  | recordLanding => exact execRecordLanding_canonical h
  | launcherSelection => exact slotDone_canonical (rank15_canonical (ite_canonical (selection_canonical h) h))
  | imageLoadComplete => exact execImageLoadComplete_canonical h
  | sliceExpiry => exact execSliceExpiry_canonical h
  | yieldOverrun => exact slotDone_canonical (ite_canonical (enterFault_canonical (modTaskAt_canonical h)) h)
  | preemptionStop => exact slotDone_canonical (takeIf_canonical (fun _ => preemptStop_canonical) h)
  | gangStop => exact slotDone_canonical (takeIf_canonical (fun _ => gangStopNow_canonical) h)
  | classSaveComplete => exact execClassSaveComplete_canonical h
  | timedLaunchLead => exact execTimedLaunchLead_canonical h
  | timedLaunchStart => exact execTimedLaunchStart_canonical h
  | timedLaunchDisarm => exact slotDone_canonical (modTimed_canonical (releaseTimed_canonical h))
  | contextDescriptorWrite => exact execContextDescriptorWrite_canonical h
  | queueDescriptorWrite => exact execQueueDescriptorWrite_canonical h
  | bankOwnerWrite => exact execBankOwnerWrite_canonical h
  | bankScrubComplete => exact slotDone_canonical (ite_canonical (setSward_canonical h (memZero_wf _ _ _ h.sward)) h)
  | contextSave => exact execContextSave_canonical h
  | portConfigWrite => exact slotDone_canonical (ite_canonical h (modPort_canonical h))
  | portModeChange => exact execPortModeChange_canonical h
  | ethernetFrameReceive | fabricFrameReceive => exact slotDone_canonical (receive_canonical h)
  | timesync => exact slotDone_canonical (ite_canonical h h)
  | timesyncSend => exact slotDone_canonical (ite_canonical (sendLink_canonical (modPort_canonical h)) h)
  | timeUnsync => exact execTimeUnsync_canonical h
  | laneswap => exact execLaneswap_canonical h
  | laneWeak => exact execLaneWeak_canonical h
  | laneSwapped => exact execLaneSwapped_canonical h
  | linkDown => exact execLinkDown_canonical h
  | hostIngressWrite =>
    exact slotDone_canonical (foldl_canonical (fun _ _ hs => ite_canonical (hostSlotWrite_canonical hs) hs) h)
  | hostFrameTake => exact execHostFrameTake_canonical h
  | serviceSlot => exact slotDone_canonical (tickClock_canonical h)
  | packetParse => exact execPacketParse_canonical h
  | stageExecute => exact execStageExecute_canonical h
  | packetDisposition => exact execPacketDisposition_canonical h
  | payloadWrite | payloadAddw | payloadAdds | payloadAddf => exact payPerform_canonical h
  | creditWaitDiscard => exact execCreditWaitDiscard_canonical h
  | readRequest | writeRequest | atomicRequest | multicastWrite | remoteArrive => exact serve_canonical h
  | readData => exact execReadData_canonical h
  | writeAcknowledgement => exact execWriteAcknowledgement_canonical h
  | atomicResult => exact execAtomicResult_canonical h
  | multicastMemberAcknowledgement => exact execMulticastMemberAcknowledgement_canonical h
  | arriveAcknowledgement => exact takeAnswer_canonical (fun _ _ _ _ h1 => tryEndRemote_canonical (settleReq_canonical h1)) h
  | refusal => exact execRefusal_canonical h
  | remoteTimeout => exact execRemoteTimeout_canonical h
  | fabricDrain => exact slotDone_canonical (drainOver_canonical (ite_canonical h (beginDrain_canonical h)))
  | hostLinkDrain | attestationReport | thermal | thermalPowerOff => exact slotDone_canonical h
  | classificationDescriptorWrite => exact slotDone_canonical (ite_canonical (refuseWrite_canonical h) (modPipe_canonical h))
  | tableDescriptorWrite => exact slotDone_canonical (ite_canonical (refuseWrite_canonical h) (modDie_canonical h))
  | tableEntryWrite => exact execTableEntryWrite_canonical h
  | stageEntryWrite => exact execStageEntryWrite_canonical h
  | parserProgramLoad => exact execParserProgramLoad_canonical h
  | actionCodeLoad => exact execActionCodeLoad_canonical h
  | decodeMapWrite => exact slotDone_canonical (ite_canonical (refuseWrite_canonical h) (extend_canonical h))
  | routingEntryWrite => exact execRoutingEntryWrite_canonical h
  | faultQueueHeaderWrite => exact slotDone_canonical (writeHeader_canonical h)
  | heldFaultEntry | thermalThrottle | powerCap => exact slotDone_canonical (modDie_canonical h)
  | pagingReplyMapped => exact slotDone_canonical (replyMapped_canonical h)
  | pagingReplyFail => exact slotDone_canonical (replyFail_canonical h)
  | kenvalResume => exact slotDone_canonical (ite_canonical (resumeStopped_canonical h) h)
  | kenvalDiscard => exact slotDone_canonical (ite_canonical h (foldl_canonical (fun _ _ => discardTask_canonical) h))
  | kenvalTerminate => exact slotDone_canonical (ite_canonical (endContext_canonical h) h)
  | kenvalPreemptRequest => exact slotDone_canonical (ite_canonical h (preemptGang_canonical h))
  | debugStop => exact slotDone_canonical (ite_canonical h (modTaskAt_canonical h))
  | watchCopyRelease => exact slotDone_canonical (tryEnd_canonical (modCmd_canonical h))
  | coreDump => exact execCoreDump_canonical h
  | watchdog => exact execWatchdog_canonical h
  | ctxLost => exact execCtxLost_canonical h
  | traceSample => exact slotDone_canonical (modTile_canonical h fun _ hx => endPeriod_canonical hx)
  | measurementExtend => exact slotDone_canonical (ite_canonical (extend_canonical h) h)
  | coldReset => exact execColdReset_canonical h
  | kenvalRegisterWrite => exact execKenvalRegisterWrite_canonical h
  | backInStep => exact slotDone_canonical (setUnitOut_canonical h)
  | d2dLink => exact slotDone_canonical (enterFault_canonical h)
  | stateParity => exact slotDone_canonical (modTile_canonical h (fun _ => id))

/-! ### Emulate -/

theorem mismatchRecord_canonical {i : SlotIns} (h : s.Canonical) : (mismatchRecord i s).Canonical := modTask_canonical h

theorem emulate_canonical {t : TileId} (h : s.Canonical) : (emulate t s).Canonical := by
  unfold emulate
  split
  · exact h
  · split
    · exact h
    · dsimp only
      split
      · exact resumeOn_canonical (modTaskAt_canonical h)
      · exact setCur_canonical (stopUnrouted_canonical (mismatchRecord_canonical (setCur_canonical h)))

/-! ### Turn -/

theorem atSlot_canonical {x : SlotIns} (h : s.Canonical) : (atSlot x s).Canonical := h

theorem trapBundle_canonical {c : Cause} {slot eng : BitVec 3} {tval : Word} (h : s.Canonical) :
    (trapBundle c slot eng tval s).Canonical :=
  repeat_canonical (fun _ => issueCycle_canonical) _ (takeTrap_canonical (modTask_canonical
    (ite_canonical (commitHeld_canonical (repeat_canonical (fun _ => countSlots_canonical) _ h)) h)))

theorem runSlots_canonical {xs : List SlotIns} (h : s.Canonical) : Out.Canonical (runSlots xs s) := by
  induction xs generalizing s with
  | nil => exact h
  | cons x xs ih =>
    have h1 : Out.Canonical (exec x.ins (atSlot x s)) := exec_canonical (atSlot_canonical h)
    unfold runSlots
    split
    next heq =>
      rw [heq] at h1
      split
      · exact ih h1
      · exact h1
    · exact h1

theorem noteTouched_canonical {l : List SlotIns} {before : Task} (h : s.Canonical) : (noteTouched l before s).Canonical :=
  modUid_canonical h

theorem noteClaim_canonical {c : ResClass} (h : s.Canonical) : (noteClaim c s).Canonical := modTile_canonical h (fun _ => id)

theorem waitCycle_canonical {why : FreezeWhy} (h : s.Canonical) : (waitCycle why s).Canonical := by
  unfold waitCycle
  split
  · exact emptyCycle_canonical h
  · exact noteClaim_canonical (frozenCycle_canonical h)
  · exact frozenCycle_canonical h

theorem lateLimit_canonical (h : s.Canonical) : (lateLimit s).Canonical := ite_canonical (addFreeze_canonical h) h

theorem afterIssue_canonical {t : TileId} {before : Task} (h : s.Canonical) : (afterIssue t before s).Canonical :=
  ite_canonical (modUid_canonical h) h

theorem recordTact_canonical {g : Nat} (h : s.Canonical) : (recordTact g s).Canonical :=
  foldl_canonical (fun _ _ => modTimed_canonical) (modDie_canonical h)

theorem uncount_canonical {before after : State} (h : after.Canonical) : (uncount before after).Canonical :=
  modTile_canonical h (fun _ => id)

theorem issueSlots_canonical {l : List SlotIns} {n : Nat} (h : s.Canonical) : Out.Canonical (issueSlots l n s) := by
  have h1 := fun f => runSlots_canonical (xs := slotOrder l)
    (countSlots_canonical (n := filledCount l) (feedWatchdog_canonical (modTask_canonical (f := f) h)))
  unfold issueSlots
  dsimp only
  split
  next s' heq =>
    have h2 : (recordTact s.tk.gang (noteTouched l s.tk s')).Canonical :=
      recordTact_canonical (noteTouched_canonical (canonical_of_eq_next (h1 _) heq))
    split
    · exact afterIssue_canonical (setSig_canonical (completeBundle_canonical (lateLimit_canonical h2)))
    · exact afterIssue_canonical h2
    · split
      · exact uncount_canonical (canonical_of_eq_next (h1 _) heq)
      · exact trapBundle_canonical h
    · exact waitCycle_canonical h
  · exact h1 _

theorem issueBundle_canonical (h : s.Canonical) : Out.Canonical (issueBundle s) := by
  simp only [issueBundle]
  refine iteOut_canonical (trapBundle_canonical h) ?_
  split
  · exact trapBundle_canonical h
  · exact iteOut_canonical (emptyCycle_canonical h) (iteOut_canonical (frozenCycle_canonical h) (iteOut_canonical
      (emptyCycle_canonical h) (iteOut_canonical (emptyCycle_canonical h) (issueSlots_canonical h))))

theorem sampleRecord_canonical {t : TileId} {x : Tile} {frozen : Bool} (h : s.Canonical) :
    (sampleRecord t x frozen s).Canonical :=
  traceRecord_canonical (modTile_canonical h (fun _ => id))

theorem sampled_canonical {x : Tile} (h : s.Canonical) : (sampled x s).Canonical := ite_canonical (sampleRecord_canonical h) h

theorem boundary_canonical (h : s.Canonical) : Out.Canonical (boundary s) := by
  unfold boundary
  split
  next heq => exact sampled_canonical (canonical_of_eq_next (issueBundle_canonical h) heq)
  · exact issueBundle_canonical h

theorem frozenTurn_canonical {why : FreezeWhy} (h : s.Canonical) : Out.Canonical (frozenTurn why s) :=
  sampled_canonical (waitCycle_canonical h)

theorem coreClaim_canonical (h : s.Canonical) : Out.Canonical (coreClaim s) :=
  iteOut_canonical (boundaryTrap_canonical (modTask_canonical h)) (frozenTurn_canonical h)

theorem halfPoisoned_canonical (h : s.Canonical) : Out.Canonical (halfPoisoned s) :=
  sampled_canonical (boundaryTrap_canonical (modTask_canonical h))

theorem drainedTurn_canonical (h : s.Canonical) : Out.Canonical (drainedTurn s) :=
  iteOut_canonical (emptyCycle_canonical h) (iteOut_canonical (frozenTurn_canonical h)
    (boundary_canonical (refillLoop_canonical h)))

theorem runningTurn_canonical (h : s.Canonical) : Out.Canonical (runningTurn s) := by
  simp only [runningTurn]
  split
  · exact frozenTurn_canonical (modTile_canonical h fun _ hx => hx)
  · split
    · exact coreClaim_canonical h
    · split
      · exact halfPoisoned_canonical h
      · split
        · exact frozenTurn_canonical h
        · split
          · exact frozenTurn_canonical h
          · split
            · exact emptyCycle_canonical (modTask_canonical h)
            · split
              next hu =>
                split at hu
                · have h1 := stopDue_canonical h hu
                  exact sampled_canonical h1
                · cases hu
              · split
                · exact drainedTurn_canonical h
                · exact boundary_canonical h

theorem endingTurn_canonical (h : s.Canonical) : Out.Canonical (endingTurn s) := by
  unfold endingTurn
  split
  · exact frozenTurn_canonical (modTile_canonical h fun _ hx => hx)
  · split
    next hu =>
      have h1 := stopDue_canonical h hu
      exact sampled_canonical h1
    · split
      · exact retire_canonical h
      · exact frozenTurn_canonical h

theorem haltCheck_canonical {t : TileId} (h : s.Canonical) : (haltCheck t s).Canonical :=
  ite_canonical (preemptGang_canonical h) h

theorem liveTurn_canonical (h : s.Canonical) : Out.Canonical (liveTurn s) :=
  iteOut_canonical (iteOut_canonical (frozenTurn_canonical h)
    (iteOut_canonical (runningTurn_canonical h) (endingTurn_canonical h)))
    (iteOut_canonical (runningTurn_canonical h) (endingTurn_canonical h))

theorem tileTurn_canonical {t : TileId} (h : s.Canonical) : Out.Canonical (tileTurn t s) := by
  simp only [tileTurn]
  refine iteOut_canonical (flushSaves_canonical (modTile_canonical (applyReleases_canonical h) (fun _ => id))) ?_
  refine iteOut_canonical (applyReleases_canonical h) ?_
  refine iteOut_canonical (dropTask_canonical (applyReleases_canonical h)) ?_
  split
  · exact liveTurn_canonical (haltCheck_canonical (applyReleases_canonical h))
  · exact liveTurn_canonical (haltCheck_canonical (applyReleases_canonical h))
  · exact iteOut_canonical (ite_canonical (modTile_canonical (haltCheck_canonical (applyReleases_canonical h))
      (fun _ => heldGangStop_canonical)) (haltCheck_canonical (applyReleases_canonical h))) (waitCycle_canonical
      (haltCheck_canonical (applyReleases_canonical h)))
  · exact haltCheck_canonical (applyReleases_canonical h)

theorem afterTurn_canonical {n : Nat} {o : Out} (h : Out.Canonical o) : Out.Canonical (afterTurn n o) := by
  unfold afterTurn
  split
  · exact tidyPorts_canonical (tickClock_canonical h)
  · exact h

theorem inPhase_canonical {p : Nat} (h : s.Canonical) : (inPhase p s).Canonical :=
  ite_canonical h (ite_canonical (tickClock_canonical h) h)

theorem freedPhase_canonical {t : TileId} {before : State} {o : Out} (h : Out.Canonical o) :
    Out.Canonical (freedPhase t before o) := by
  unfold freedPhase
  split
  · exact ite_canonical (inPhase_canonical h) h
  · exact h

theorem runTurn_canonical {t : Turn} (h : s.Canonical) : Out.Canonical (runTurn t s) := by
  unfold runTurn
  split
  · split
    · exact exec_canonical (inPhase_canonical h)
    · exact h
  · split
    · exact h
    · exact freedPhase_canonical (tileTurn_canonical h)
  · split
    · exact h
    · exact afterTurn_canonical h
  · exact ite_canonical h (changeStopped_canonical h)
  · exact ite_canonical h (emulate_canonical h)
  · exact ite_canonical h (singleBitError_canonical h)
  · exact ite_canonical h (doubleBitError_canonical h)
  · exact ite_canonical h (hbmError_canonical h)
  · exact ite_canonical h (laneErrors_canonical h)
  · exact ite_canonical h (laneWindow_canonical h)
  · exact ite_canonical h (lastRequest_canonical h)
  · exact ite_canonical h (fabricOrder_canonical h)

theorem idleTurn_canonical (h : s.Canonical) : Out.Canonical (idleTurn s) :=
  iteOut_canonical h (afterTurn_canonical (tileTurn_canonical h))

theorem runWord_canonical {w : BitVec 32} {i : Option Instr} (h : s.Canonical) : Out.Canonical (runWord w i s) := by
  unfold runWord
  split
  · exact exec_canonical h
  · exact trivial

/-! ### Step -/

/-- The step keeps the form: its word and its turn do. -/
theorem step_canonical (h : s.Canonical) : Out.Canonical (step s) := by
  unfold step
  split
  · exact runWord_canonical h
  · exact runWord_canonical h
  · split
    · exact runTurn_canonical h
    · exact idleTurn_canonical h

end Sys2Proof.Machine

open Sys2Proof Sys2Proof.Machine

/-- Settles O57: the step's rule, read through `State.memoryWf`. -/
theorem memoryStaysCanonical : Obligations.MemoryStaysCanonical := by
  intro s t hs ht
  have hstep := step_canonical ((State.memoryWf_iff s).mp hs)
  exact (State.memoryWf_iff t).mpr (canonical_of_eq_next hstep ht)
end

section
/-! The fault queues: O46. What each of the three ways of an entry into its die's queue leaves there, and what a write of the
header does. -/

namespace Sys2Proof.Machine

variable {d : Die} {e : BitVec 256} {i : Nat}

theorem fqMergeIndex_lt (h : fqMergeIndex d e = some i) : i < 512 := by
  unfold fqMergeIndex at h
  split at h
  · cases h
  · obtain ⟨j, -, hj⟩ := List.exists_of_findSome?_eq_some h
    obtain ⟨-, hi⟩ := Option.ite_none_right_eq_some.mp hj
    exact Option.some.inj hi ▸ Nat.mod_lt _ (by decide)

theorem fqEntries_set_same (v : Vector (BitVec 256) 512) (hi : i < 512) : (v.setIfInBounds i e).toList.getD i 0 = e := by
  simp [List.getD_eq_getElem?_getD, Vector.toList_setIfInBounds, hi]

theorem fqEntries_set_other (v : Vector (BitVec 256) 512) {j : Nat} (hj : j ≠ i) :
    (v.setIfInBounds i e).toList.getD j 0 = v.toList.getD j 0 := by
  simp [List.getD_eq_getElem?_getD, Vector.toList_setIfInBounds, hj.symm]

theorem fqBump_merge (x : BitVec 256) : (field (fqBump x) 112 16).toNat = Nat.min 65535 ((field x 112 16).toNat + 1) := by
  rw [fqBump, field_putField _ _ _ _ (by decide)]
  generalize field x 112 16 = m
  split
  next hmax => rw [hmax]; rfl
  next hless =>
    have hne : m.toNat ≠ 65535 := fun h => hless (BitVec.eq_of_toNat_eq h)
    have hlt : m.toNat + 1 < 65536 := by have := m.isLt; omega
    have hadd : (m + 1).toNat = m.toNat + 1 := by rw [BitVec.toNat_add]; exact Nat.mod_eq_of_lt hlt
    rw [hadd]
    exact (Nat.min_eq_right (by omega)).symm

theorem fqPending_eq_zero : (fqPending d == 0) = decide (d.fqTail = d.fqHead) := by
  have h : fqPending d = 0 ↔ d.fqTail = d.fqHead := by
    rw [fqPending, ← BitVec.toNat_zero (w := 10), BitVec.toNat_inj, BitVec.sub_eq_iff_eq_add, BitVec.zero_add]
  simp [beq_eq_decide, h]

theorem dieEnter_merges (h : fqMergeIndex d e = some i) :
    dieEnter e d = { d with fqEntries := d.fqEntries.setIfInBounds i (fqBump (d.fqEntries.toList.getD i 0)) } := by
  rw [dieEnter, h]

theorem dieEnter_writes (h : fqMergeIndex d e = none) (hroom : fqPending d < 512) :
    dieEnter e d = { d with
      fqEntries := d.fqEntries.setIfInBounds (d.fqTail.toNat % 512) e, fqTail := d.fqTail + 1,
      fqIrq := d.fqIrq || (d.fqIe && decide (d.fqTail = d.fqHead)) } := by
  rw [dieEnter, h]
  simp only [if_neg (Nat.not_le.mpr hroom), fqPending_eq_zero]

theorem dieEnter_holds (h : fqMergeIndex d e = none) (hfull : 512 ≤ fqPending d) :
    dieEnter e d = { d with fqHeld := d.fqHeld ++ [e], fqOvf := true, fqIrq := d.fqIrq || (d.fqIe && !d.fqOvf) } := by
  rw [dieEnter, h]
  exact if_pos hfull

theorem enterFault_die (s : State) (k : BitVec 1) : (enterFault k e s).die k = dieEnter e (s.die k) :=
  State.modDie_die_same s k (dieEnter e)

end Sys2Proof.Machine

open Sys2Proof Sys2Proof.Machine

/-- Settles O46: each way of an entry by the lemma of its case; a write of the header by its definition. -/
theorem faultQueueResults : Obligations.FaultQueueResults := by
  intro s die e v d t
  have ht : t = dieEnter e d := enterFault_die s die
  refine ⟨fun i hi => ?merged, fun hnone hroom => ?written, fun hnone hfull => ?held, ?header, ?heldEntry, ?link⟩
  case merged =>
    rw [ht, dieEnter_merges hi]
    refine ⟨rfl, rfl, rfl, ?_⟩
    rw [fqEntries_set_same _ (fqMergeIndex_lt hi), fqBump_merge]
  case written =>
    rw [ht, dieEnter_writes hnone hroom]
    exact ⟨rfl, rfl, rfl, rfl, fqEntries_set_same _ (Nat.mod_lt _ (by decide)), fun j => fqEntries_set_other _, rfl⟩
  case held =>
    rw [ht, dieEnter_holds hnone hfull]
    exact ⟨rfl, rfl, rfl, rfl⟩
  case header =>
    refine ⟨_, rfl, ?_⟩
    rw [State.sig_die, writeHeader, State.modDie_die_same]
    exact ⟨rfl, rfl, rfl, rfl, rfl⟩
  case heldEntry => exact slotDone_eq_ends _
  case link => exact slotDone_eq_ends _
end

section
/-! A stop at a tile: O31. A stop writes into its die's records and asks the other members of the gang to stop; its own tile it
changes at the recorded fields alone. -/

namespace Sys2Proof.Machine

variable {s : State} {t : TileId}

/-! ### What a stop leaves of its tile -/

theorem State.tile_of_tiles_eq {u : State} (h : u.tiles = s.tiles) : u.tile t = s.tile t := by simp only [State.tile, h]

theorem traceRecord_writes (d : BitVec 1) (kind : Nat) (unit : BitVec 16) (queue : BitVec 7) (ctx : CtxId) (seq : BitVec 48)
    (tmpl : BitVec 16) (body : Nat) :
    ∃ ds m, traceRecord d kind unit queue ctx seq tmpl body s = { s with dies := ds, hbm := m } := by
  simp only [traceRecord]
  split
  · exact ⟨_, _, rfl⟩
  · split <;> exact ⟨_, _, rfl⟩

theorem traceRecord_keeps (d : BitVec 1) (kind : Nat) (unit : BitVec 16) (queue : BitVec 7) (ctx : CtxId) (seq : BitVec 48)
    (tmpl : BitVec 16) (body : Nat) :
    (traceRecord d kind unit queue ctx seq tmpl body s).tiles = s.tiles ∧
    (traceRecord d kind unit queue ctx seq tmpl body s).cur = s.cur := by
  obtain ⟨ds, m, h⟩ := traceRecord_writes (s := s) d kind unit queue ctx seq tmpl body
  rw [h]
  exact ⟨rfl, rfl⟩

theorem dumpFault_keeps (d : BitVec 1) (k : Task) : (dumpFault d k s).tiles = s.tiles ∧ (dumpFault d k s).cur = s.cur := by
  unfold dumpFault
  split
  · exact ⟨rfl, rfl⟩
  · split
    · exact ⟨rfl, rfl⟩
    · split <;> exact ⟨rfl, rfl⟩

/-- The records of a stop. -/
theorem stopRecords_keep (code : BitVec 8) (k : Task) (e : BitVec 256) :
    (traceStop t code (dumpFault (tileDie t) k (enterFault (tileDie t) e s))).tiles = s.tiles ∧
    (traceStop t code (dumpFault (tileDie t) k (enterFault (tileDie t) e s))).cur = s.cur :=
  ⟨(traceRecord_keeps ..).1.trans (dumpFault_keeps ..).1, (traceRecord_keeps ..).2.trans (dumpFault_keeps ..).2⟩

theorem gangStops_tile_same : (gangStops t s).tile t = s.tile t := by
  simp [gangStops, State.tile]

theorem gangStops_cur : (gangStops t s).cur = s.cur := by rw [gangStops]

theorem stopUnrouted_tile : (stopUnrouted t s).tile t = { s.tile t with
    status := .stopped, gangStop := false, preempt := false, task := { (s.tile t).task with stopTime := s.timeNs } } := by
  rw [stopUnrouted, gangStops_tile_same, State.tile_of_tiles_eq (stopRecords_keep ..).1, State.modTile_tile_same]

theorem stopUnrouted_cur : (stopUnrouted t s).cur = s.cur := by
  rw [stopUnrouted, gangStops_cur, (stopRecords_keep ..).2, State.modTile_cur]

/-! ### YCAUSE of a MONITOR_FAULT -/

theorem mkYcause_toNat (code : BitVec 8) (imp shd : Bool) (unit : BitVec 16) (status : BitVec 32) :
    (mkYcause code imp shd unit status).toNat =
      code.toNat + 2 ^ 8 * imp.toNat + 2 ^ 9 * shd.toNat + 2 ^ 16 * unit.toNat + 2 ^ 32 * status.toNat := by
  have hcode := code.isLt
  have hunit := unit.isLt
  have hstatus := status.isLt
  have himp := imp.toNat_lt
  have hshd := shd.toNat_lt
  have hb (b : Bool) : b2n b = b.toNat := by cases b <;> rfl
  simp only [mkYcause, packNat, BitVec.toNat_ofNat, hb]
  omega

theorem monitorStatus_toNat (code : BitVec 8) (addr : BitVec 18) :
    (BitVec.ofNat 32 (packNat [(code.toNat, 8), (0, 6), (addr.toNat, 18)])).toNat = code.toNat + 2 ^ 14 * addr.toNat := by
  have hcode := code.isLt
  have haddr := addr.isLt
  simp only [packNat, BitVec.toNat_ofNat]
  omega

theorem takeTrap_monitor (code : BitVec 8) (imp : Bool) (eng slot : BitVec 3) (addr : BitVec 18) (tval : Word)
    (status : BitVec 32) (hmode : (s.tile t).task.mode = .monitor) :
    takeTrap t code imp eng slot addr tval status s = stopUnrouted t (s.modTaskAt t fun k =>
      { stopTask (s.tile t).ic k with
        mode := .task
        ycause := mkYcause 0xC4 imp (decide (k.shadow > 0)) (tileUnit t eng)
          (BitVec.ofNat 32 (packNat [(code.toNat, 8), (0, 6), (addr.toNat, 18)]))
        ytval := 0 }) := by
  rw [takeTrap, hmode]

end Sys2Proof.Machine

open Sys2Proof Sys2Proof.Machine

/-- Settles O31: in monitor mode a trap is the stop of `takeTrap_monitor`, which leaves the task as `stopUnrouted_tile` says. -/
theorem monitorFault : Obligations.MonitorFault := by
  intro s t code imp eng slot addr tval status hmode k'
  simp only [k', takeTrap_monitor code imp eng slot addr tval status hmode, stopUnrouted_tile, State.modTaskAt_task]
  refine ⟨trivial, trivial, ?_, rfl, trivial, rfl, rfl⟩
  rw [mkYcause_toNat, monitorStatus_toNat]
  simp only [Bool.toNat, Bool.cond_decide]
  rfl
end

section
/-! Return from the monitor: O29. The loops that end and the loop that is refilled change fields of the task that a return
does not speak of, and a trace record writes into its die and HBM alone. -/

namespace Sys2Proof.Machine

variable {s : State} {k : Task}

/-! ### The monitor's loops end -/

theorem endLoop_writes (f : LoopFrame) : ∃ ds m, endLoop f s =
    ({ s with dies := ds, hbm := m } : State).modTask fun k => { k with loops := k.loops.drop 1 } := by
  obtain ⟨ds, m, h⟩ := traceRecord_writes (s := s) (tileDie s.cur) 1 (tileUnit s.cur 1) s.tk.queue s.tk.ctx s.tk.cmdseq
    s.tk.tmpl (packNat [(f.own.toNat, 18), (s.tk.loops.length - 1, 2), (b2n f.swp.isSome, 1), (0, 11), (f.filled, 48),
      (f.nops, 48), (f.frozen, 48), (f.passes, 32)])
  exact ⟨ds, m, by rw [endLoop, h]⟩

/-- What the end of loops keeps: the acting tile, but for its task's list of loops, and the Sward. -/
structure OnlyLoopsEnd (s u : State) : Prop where
  cur : u.cur = s.cur
  sward : u.sward = s.sward
  me : ∃ l, u.me = { s.me with task := { s.tk with loops := l } }

theorem endLoop_onlyLoopsEnd (f : LoopFrame) : OnlyLoopsEnd s (endLoop f s) := by
  obtain ⟨ds, m, h⟩ := endLoop_writes (s := s) f
  rw [h]
  exact ⟨rfl, rfl, s.tk.loops.drop 1, by rw [State.modTask_me]; rfl⟩

theorem OnlyLoopsEnd.trans {t u : State} (h : OnlyLoopsEnd s t) (g : OnlyLoopsEnd t u) : OnlyLoopsEnd s u := by
  obtain ⟨l, hme⟩ := h.me
  obtain ⟨l', hme'⟩ := g.me
  refine ⟨g.cur.trans h.cur, g.sward.trans h.sward, l', ?_⟩
  rw [hme', State.tk, hme]

theorem endMonitorLoops_onlyLoopsEnd (n : Nat) : OnlyLoopsEnd s (endMonitorLoops n s) := by
  induction n generalizing s with
  | zero => exact ⟨rfl, rfl, _, rfl⟩
  | succ n ih =>
    unfold endMonitorLoops
    split
    · split
      · exact (endLoop_onlyLoopsEnd _).trans ih
      · exact ⟨rfl, rfl, _, rfl⟩
    · exact ⟨rfl, rfl, _, rfl⟩

theorem OnlyLoopsEnd.tk {u : State} (h : OnlyLoopsEnd s u) : ∃ l, u.tk = { s.tk with loops := l } := by
  obtain ⟨l, hme⟩ := h.me
  exact ⟨l, by rw [State.tk, hme]⟩

/-! ### A drained loop is refilled -/

/-- The fields of a task that a refill of its loop keeps. -/
def Task.work (k : Task) :=
  (k.mode, k.ycause, k.skip, k.noBreak, k.lwb, k.s, k.a, k.v)

/-- The task that a pass start leaves, whatever it decides. -/
def PassStart.task : PassStart → Task
  | .run k | .ends k | .drained k => k

theorem passStart_work (drain : Bool) (f : LoopFrame) (rest : List LoopFrame) :
    (passStart drain f rest k).task.work = k.work := by
  simp only [passStart]
  split
  · split <;> rfl
  · repeat' split
    all_goals rfl

/-- What a refill keeps: the acting tile's status and the rest of its task, and the Sward. -/
structure KeepsWork (s u : State) : Prop where
  cur : u.cur = s.cur
  sward : u.sward = s.sward
  status : u.me.status = s.me.status
  task : u.tk.work = s.tk.work

theorem modTask_keepsWork {f : Task → Task} (h : (f s.tk).work = s.tk.work) : KeepsWork s (s.modTask f) :=
  ⟨rfl, rfl, by rw [State.modTask_me], by rw [State.modTask_tk, h]⟩

theorem KeepsWork.trans {t u : State} (h : KeepsWork s t) (g : KeepsWork t u) : KeepsWork s u :=
  ⟨g.cur.trans h.cur, g.sward.trans h.sward, g.status.trans h.status, g.task.trans h.task⟩

theorem endLoop_keepsWork (f : LoopFrame) : KeepsWork s (endLoop f s) := by
  have h := endLoop_onlyLoopsEnd (s := s) f
  obtain ⟨l, hme⟩ := h.me
  obtain ⟨l', htk⟩ := h.tk
  exact ⟨h.cur, h.sward, by rw [hme], by rw [htk]; rfl⟩

theorem refillLoop_keepsWork : KeepsWork s (refillLoop s) := by
  simp only [refillLoop]
  split
  · exact ⟨rfl, rfl, rfl, rfl⟩
  · split
    next f rest _ =>
      split
      next sm1 _ =>
        have hk : (passStart false { f with drain := false } rest (setStages
            { s.tk with refill := false, rot := s.tk.rot - BitVec.ofNat 5 sm1.val,
                        yepc := putField s.tk.yepc 21 1 (0 : BitVec 1) } fun _ => false)).task.work = s.tk.work :=
          passStart_work ..
        split
        next k h =>
          rw [h] at hk
          exact modTask_keepsWork hk
        next k h =>
          rw [h] at hk
          exact ((modTask_keepsWork hk).trans (endLoop_keepsWork f)).trans (modTask_keepsWork rfl)
        next k h =>
          rw [h] at hk
          exact modTask_keepsWork hk
      · exact modTask_keepsWork rfl
    · exact modTask_keepsWork rfl

theorem refillLoop_of_not (h : s.tk.refill = false) : refillLoop s = s := by
  simp [refillLoop, h]

/-! ### The return -/

theorem onTile_cur {f : State → State} (h : (f s).cur = s.cur) : onTile s.cur f s = f s := by
  show { f s with cur := s.cur } = f s
  rw [← h]

/-- The acting tile's task stands at the bundle to go on with, its monitor's loops ended (R344). -/
def State.returned (s : State) (how : Return) : State :=
  let e := endMonitorLoops 4 s
  e.modTile e.cur fun x => { x with status := .running, task := returnToTask how x.ic x.task }

theorem resumeOn_cur (skip : Bool) :
    resumeOn s.cur skip s = refillLoop (s.returned (if skip then .skip else .again)) := by
  have hcur : (endMonitorLoops 4 s).cur = s.cur := (endMonitorLoops_onlyLoopsEnd 4).cur
  rw [resumeOn, onTile_cur hcur, ← hcur]
  exact onTile_cur refillLoop_keepsWork.cur

theorem returned_me (how : Return) : ∃ z l, (s.returned how).me = { (endMonitorLoops 4 s).me with
    status := .running, task := returnToTask how z { s.tk with loops := l } } := by
  obtain ⟨l, htk⟩ := (endMonitorLoops_onlyLoopsEnd (s := s) 4).tk
  refine ⟨(endMonitorLoops 4 s).me.ic, l, ?_⟩
  rw [State.returned, State.modTile_me, ← htk]
  rfl

theorem returned_tk (how : Return) : ∃ z l, (s.returned how).tk = returnToTask how z { s.tk with loops := l } := by
  obtain ⟨z, l, h⟩ := returned_me (s := s) how
  exact ⟨z, l, by rw [State.tk, h]⟩

theorem returned_status (how : Return) : (s.returned how).me.status = .running := by
  obtain ⟨z, l, h⟩ := returned_me (s := s) how
  rw [h]

theorem putField_code (y : Word) : putField y 0 8 (0 : BitVec 8) = y &&& ~~~0xFF := by
  simp [putField]

/-- The slots that the bundle's first issue after a return leaves out (R344, log 138). -/
def returnSkip (how : Return) (k : Task) : List (BitVec 18 × BitVec 3) :=
  if how = .skip then (k.yepc.extractLsb' 0 18, k.yepc.extractLsb' 18 3) :: k.skip else k.skip

/-- The bundle that does not report a breakpoint or watchpoint again (R364). -/
def returnNoBreak (how : Return) (k : Task) : Option (BitVec 18) :=
  if how = .again && k.brokeAt == some (k.yepc.extractLsb' 0 18) then some (k.yepc.extractLsb' 0 18) else k.noBreak

theorem returnToTask_work (how : Return) (z : Nat) : (returnToTask how z k).work =
    (.task, k.ycause &&& ~~~0xFF, returnSkip how k, returnNoBreak how k, [], k.s, k.a, k.v) := by
  rw [← putField_code]
  rfl

/-- `resumeOn` on the acting tile: the task goes on, and where it has no loop to refill, at YEPC with nothing else done. -/
theorem resumeOn_goesOn (skip : Bool) (how : Return) (hhow : (if skip then .skip else .again) = how) :
    let t := resumeOn s.cur skip s
    t.me.status = .running ∧ t.sward = s.sward ∧
    t.tk.work = (.task, s.tk.ycause &&& ~~~0xFF, returnSkip how s.tk, returnNoBreak how s.tk, [], s.tk.s, s.tk.a, s.tk.v) ∧
    (s.tk.yepc.getLsbD 21 = false →
      t.tk.pc = s.tk.yepc.extractLsb' 0 18 ∧ t.tk.npc = t.tk.pc ∧ t.hbm = (endMonitorLoops 4 s).hbm) := by
  intro t
  have ht : t = refillLoop (s.returned how) := by rw [← hhow]; exact resumeOn_cur skip
  obtain ⟨z, l, htk⟩ := returned_tk (s := s) how
  have hkeeps : KeepsWork (s.returned how) t := ht ▸ refillLoop_keepsWork
  refine ⟨hkeeps.status.trans (returned_status how), hkeeps.sward.trans (endMonitorLoops_onlyLoopsEnd 4).sward, ?_,
    fun hlr => ?_⟩
  · rw [hkeeps.task, htk]
    exact returnToTask_work how z
  · have hrefill : (s.returned how).tk.refill = false := by rw [htk]; exact hlr
    rw [ht, refillLoop_of_not hrefill, htk]
    exact ⟨rfl, rfl, rfl⟩

theorem stopUnrouted_me : (stopUnrouted s.cur s).me = { s.me with
    status := .stopped, gangStop := false, preempt := false, task := { s.tk with stopTime := s.timeNs } } := by
  rw [State.me, stopUnrouted_cur]
  exact stopUnrouted_tile

/-- The state that `ERET.RAISE` stops in: the monitor's loops ended, the task back in its mode at YEPC (R344). -/
def State.raised (s : State) : State :=
  (endMonitorLoops 4 s).modTask fun k => { k with mode := .task, pc := field k.yepc 0 18 }

theorem raised_cur : s.raised.cur = s.cur := (endMonitorLoops_onlyLoopsEnd 4).cur

theorem raised_tk : ∃ l, s.raised.tk =
    { s.tk with loops := l, mode := .task, pc := s.tk.yepc.extractLsb' 0 18 } := by
  obtain ⟨l, htk⟩ := (endMonitorLoops_onlyLoopsEnd (s := s) 4).tk
  exact ⟨l, by rw [State.raised, State.modTask_tk, htk]; rfl⟩

end Sys2Proof.Machine

open Sys2Proof Sys2Proof.Machine

/-- Settles O29: `ERET` and `ERET.SKIP` by `resumeOn_goesOn`, `ERET.RAISE` by what a stop leaves of its tile. -/
theorem returnFromMonitor : Obligations.ReturnFromMonitor := by
  intro s hmode u a goesOn
  have heret (ret : State → State) : eret ret s = bundleDone (ret u) := by rw [eret, hmode]
  have hgoes (o : Out) (skip : Bool) (how : Return) (hhow : (if skip then .skip else .again) = how)
      (ho : o = bundleDone (resumeOn u.cur skip u)) :
      goesOn o (returnSkip how u.tk) (returnNoBreak how u.tk) := by
    obtain ⟨hstatus, hsward, hwork, hat⟩ := resumeOn_goesOn (s := u) skip how hhow
    generalize resumeOn u.cur skip u = t at ho hstatus hsward hwork hat
    simp only [Task.work, Prod.mk.injEq] at hwork
    obtain ⟨hm, hcause, hskip, hbreak, hlwb, hs, ha, hv⟩ := hwork
    exact ⟨{ t with sig := .closed }, ho, rfl, hstatus, hm, hat, hcause, hskip, hbreak, hlwb, hs, ha, hv, hsward⟩
  refine ⟨?again, ?skip, ?raise⟩
  case again =>
    have hbreak : returnNoBreak .again u.tk = if u.tk.brokeAt = some a then some a else u.tk.noBreak := by
      simp [returnNoBreak, a]
    rw [← hbreak]
    exact hgoes _ false .again rfl (by rw [exec_eret, execEret, heret])
  case skip => exact hgoes _ true .skip rfl (by rw [exec_eretSkip, execEretSkip, heret])
  case raise =>
    obtain ⟨l, htk⟩ := raised_tk (s := u)
    have hme := stopUnrouted_me (s := u.raised)
    have hraise : exec .eretRaise s = bundleDone (stopUnrouted u.raised.cur u.raised) := by
      rw [exec_eretRaise, execEretRaise, heret, raised_cur]
      rfl
    generalize stopUnrouted u.raised.cur u.raised = t at hme hraise
    refine ⟨{ t with sig := .closed }, hraise, rfl, congrArg Tile.status hme, ?_⟩
    rw [State.sig_tk, State.tk, hme, htk]
    exact ⟨rfl, rfl, rfl, rfl, rfl⟩
end

section
/-! Trigger cells from a tile: O35. Each instruction with its operand word in order is its cell operation, which answers the
phase. -/

namespace Sys2Proof.Machine

variable {s : State} {d : BitVec 6} {i : BitVec 16} {op : CellOp} {w : Word}

theorem field_above_zero {n lo : Nat} {x : BitVec n} (h : x.toNat < 2 ^ lo) (len : Nat) : field x lo len = 0 := by
  refine BitVec.eq_of_toNat_eq ?_
  rw [toNat_field, Nat.div_eq_of_lt h]
  simp

theorem field_low (x : Word) : field x 0 16 = x.setWidth 16 := (BitVec.setWidth_eq_extractLsb' (by decide)).symm

/-- A cell operation that the cell takes, and for whose fire the replay log has room, answers the phase (R310, R371). -/
theorem tileCellOp_taken (hstall : cellStalls s s.tk.ctx i op = false) (hfault : (cellOp s.tk.ctx i op s).fault = none) :
    tileCellOp i op d s = .ok (emitS 1 d (if (cellOp s.tk.ctx i op s).phase then 1 else 0) (cellOp s.tk.ctx i op s).st) := by
  have hphase (b : Bool) : BitVec.ofNat 64 (b2n b) = if b then 1 else 0 := by cases b <;> rfl
  simp only [tileCellOp, hstall, Bool.false_eq_true, if_false, hfault, hphase]

theorem arriveBody_inOrder (rel : Option Scope) (hw : w.toNat < 2 ^ 33) (hpos : 1 ≤ w.toNat / 2 ^ 16 % 2 ^ 17)
    (hmax : w.toNat / 2 ^ 16 % 2 ^ 17 ≤ 65536) (hrel : ∀ sc, rel = some sc → performedBefore s.me s.me.accOrd sc = true) :
    arriveBody d w rel s = tileCellOp (w.setWidth 16) (.arrive (w.toNat / 2 ^ 16 % 2 ^ 17)) d s := by
  have hcount : ¬ (w.toNat / 2 ^ 16 % 2 ^ 17 = 0 ∨ w.toNat / 2 ^ 16 % 2 ^ 17 > 65536) := by omega
  simp only [arriveBody, field_above_zero hw, toNat_field, field_low, ne_eq, not_true_eq_false, if_false, if_neg hcount]
  cases rel with
  | none => rfl
  | some sc => exact if_pos (hrel sc rfl)

theorem runSlot_cellOp {regs : List (BitVec 6)} {body : State → SlotRes} (hready : s.ready regs = true)
    (hbody : body s = tileCellOp i op d s) (hfault : (cellOp s.tk.ctx i op s).fault = none)
    (hstall : cellStalls s s.tk.ctx i op = false) :
    runSlot regs body s = .next ((cellOp s.tk.ctx i op s).st.after
      (landS 1 d (if (cellOp s.tk.ctx i op s).phase then 1 else 0))) := by
  rw [runSlot_ready _ hready, hbody, tileCellOp_taken hstall hfault]
  exact slotDone_emitS ..

theorem expect_taken {a b : BitVec 6} (hready : s.ready [d, a, b] = true) (hw : (readS s.tk a).toNat < 2 ^ 16)
    (hn : (readS s.tk b).toNat < 2 ^ 32) (hop : op = .expect (readS s.tk b).toNat) (hi : i = (readS s.tk a).setWidth 16)
    (hfault : (cellOp s.tk.ctx i op s).fault = none) (hstall : cellStalls s s.tk.ctx i op = false) :
    exec (.expect d a b) s = .next ((cellOp s.tk.ctx i op s).st.after
      (landS 1 d (if (cellOp s.tk.ctx i op s).phase then 1 else 0))) := by
  rw [exec_expect, execExpect]
  refine runSlot_cellOp hready ?_ hfault hstall
  simp only [field_above_zero hw, field_above_zero hn, ne_eq, not_true_eq_false, or_self, if_false, field_low, hop, hi]

theorem waitc_moved {a : BitVec 6} {sc : Scope} {ad : Nat} (hready : s.ready [d, a] = true) (hw : (readS s.tk a).toNat < 2 ^ 17)
    (hfault : (cellOp s.tk.ctx ((readS s.tk a).setWidth 16) .phase s).fault = none)
    (hscrub : cellScrubs s s.tk.ctx ((readS s.tk a).setWidth 16) = false)
    (haddr : cellAddr s s.tk.ctx ((readS s.tk a).setWidth 16).toNat = some ad)
    (hmoved : (cellOp s.tk.ctx ((readS s.tk a).setWidth 16) .phase s).phase ≠ (readS s.tk a).getLsbD 16) :
    exec (.waitc d a sc) s = .next (s.after (landS 1 d ((cellFires (cellRead s ad)).setWidth 64))) := by
  rw [exec_waitc, execWaitc, runSlot_ready _ hready]
  simp only [field_above_zero hw, field_low, ne_eq, not_true_eq_false, if_false, hscrub, Bool.false_eq_true, hfault, haddr]
  rw [if_pos (show ¬ _ = bit (readS s.tk a) 16 from hmoved)]
  exact slotDone_emitS ..

end Sys2Proof.Machine

open Sys2Proof Sys2Proof.Machine

/-- Settles O35: each instruction by the lemma of its body. -/
theorem synchronisationResults : Obligations.SynchronisationResults := by
  intro s d a b sc w i count replied
  refine ⟨?arrives, ?expect, ?waitc⟩
  case arrives =>
    intro hready hw hpos hmax r hfault hstall
    refine ⟨?plain, fun hperformed => ?release⟩
    case plain =>
      rw [exec_arrive, execArrive]
      exact runSlot_cellOp hready (arriveBody_inOrder none hw hpos hmax fun _ h => nomatch h) hfault hstall
    case release =>
      have hrel : ∀ x, some sc = some x → performedBefore s.me s.me.accOrd x = true :=
        fun x h => Option.some.inj h ▸ hperformed
      rw [exec_arriveRel, execArriveRel]
      exact runSlot_cellOp hready (arriveBody_inOrder (some sc) hw hpos hmax hrel) hfault hstall
  case expect =>
    intro hready hw hn r hfault hstall
    exact expect_taken hready hw hn rfl rfl hfault hstall
  case waitc =>
    intro hready hw r ad hfault hscrub haddr hmoved
    exact waitc_moved hready hw hfault hscrub haddr hmoved
end

section
/-! Copy channels and tokens: O36. A command whose checks pass issues, which leaves the task's registers and the memories as they
are. -/

namespace Sys2Proof.Machine

variable {s : State} {kind : BitVec 4} {p : Par} {kp kx ky : Option (BitVec 5)} {ch : Fin 2}

/-! ### The checks of a command (R292) -/

theorem checkCommand_passes {n : Nat} {body : State → SlotRes} (hform : formFails n p = none) (hsward : swardFails s n p = none)
    (himem : n = 1 → parDir p = 2 → imemTargetOk s.me p = true)
    (hslots : parHs p = true → cmdBytes n p % slotBytes (readH s.tk (parHidx p)) = 0)
    (hspan : globalSpan n p ≠ 0 → (parGaddr p).toNat + globalSpan n p ≤ 2 ^ 48) : checkCommand n p body s = body s := by
  rw [checkCommand, hform]
  simp only [hsward]
  rw [if_neg, if_neg, if_neg]
  · exact fun ⟨hne, hhigh⟩ => Nat.not_lt.mpr (hspan hne) hhigh
  · exact fun ⟨hs, hne⟩ => hne (hslots hs)
  · rintro ⟨h1, h2, hbad⟩
    simp [himem h1 h2] at hbad

theorem asSources_pass (h : ∀ v ∈ asRows s.tk p, isReservedTag v.tag = false) : tagFault (asSources s.tk p) = none := by
  refine tagFault_of_passes fun x hx => ?_
  obtain ⟨v, hv, rfl⟩ := List.mem_map.mp hx
  exact ⟨h v hv, rfl, rfl⟩

theorem tokenPending_of_free (h : ∀ r, kp = some r → (readK s.tk r).pend = false) : tokenPending s.tk kp = false := by
  cases kp with
  | none => rfl
  | some r => exact h r rfl

/-- What a command instruction does once its channel, token and class are free (R292, R139). -/
def issueChecked (ch : Fin 2) (kind : BitVec 4) (kp kx ky : Option (BitVec 5)) (p : Par) : State → SlotRes :=
  checkCommand kind.toNat p fun s =>
    if kind = 1 ∧ parDir p = 2 ∧ halfToSave s.me then .freeze (.classClaim .half)
    else checkTags (if kind = 2 then asSources s.tk p else []) (fun s => .ok (issueCmd ch kind kp kx ky p s)) s

theorem command_free (hfree : s.tk.ch[channelOf s].busy = none) (htoken : tokenPending s.tk kp = false)
    (hclaim : kind = 2 → claimBlocked s .vector = false) :
    command kind kp kx ky s = issueChecked (channelOf s) kind kp kx ky s.tk.ch[channelOf s].shadow s := by
  simp only [command, hfree, htoken, Option.isSome_none, Bool.false_eq_true, if_false]
  by_cases h : kind = 2
  · rw [if_pos h]
    exact needClasses_own [.vector] (issueChecked (channelOf s) kind kp kx ky s.tk.ch[channelOf s].shadow) (by simp [hclaim h])
  · rw [if_neg h]
    rfl

theorem issueChecked_passes (hpass : ∀ body, checkCommand kind.toNat p body s = body s)
    (hsave : kind = 1 → parDir p = 2 → halfToSave s.me = false)
    (hrows : kind = 2 → ∀ v ∈ asRows s.tk p, isReservedTag v.tag = false) :
    issueChecked ch kind kp kx ky p s = .ok (issueCmd ch kind kp kx ky p s) := by
  have htags : tagFault (if kind = 2 then asSources s.tk p else []) = none := by
    split
    next h => exact asSources_pass (hrows h)
    next => rfl
  have hkeep : ¬ (kind = 1 ∧ parDir p = 2 ∧ halfToSave s.me = true) := fun ⟨h1, h2, hbad⟩ => by simp [hsave h1 h2] at hbad
  rw [issueChecked, hpass, if_neg hkeep, checkTags_ok _ htags]

/-! ### The issue (R292) -/

/-- The writes in flight once a command has issued: its token's is among them. -/
def State.tokenPend (s : State) : Option (BitVec 5) → List Landing
  | some r => insertLanding ⟨s.me.ic + 1, s.ordNow, .token r ⟨true, 0, 0, s.tk.cmdseq⟩⟩ s.tk.pend
  | none => s.tk.pend

/-- The half is claimed that a copy into the scratchpad takes outside a shadow (R148, R181). -/
def State.halfClaimed (s : State) (kind : BitVec 4) (p : Par) : State :=
  if kind = 1 ∧ parDir p = 2 ∧ s.tk.shadow = 0 then claimHalf s else s

/-- The write in flight that makes the produced token PENDING. -/
def State.tokenSet (s : State) (n : BitVec 48) : Option (BitVec 5) → State
  | some r => emit 1 (.token r ⟨true, 0, 0, n⟩) s
  | none => s

theorem issueCmd_eq : issueCmd ch kind kp kx ky p s =
    let u := (s.halfClaimed kind p).tokenSet s.tk.cmdseq kp
    State.modTask { u with cmds := u.cmds ++ [newCmd s ch kind kp kx ky p], cmdIds := u.cmdIds + 1 } fun k : Task =>
      { k with
        cmdseq := k.cmdseq + 1
        ch := k.ch.set ch { k.ch[ch] with active := activeSet kind p, busy := some s.cmdIds }
        held := if k.shadow > 0 then k.held ++ [.cmd s.cmdIds] else k.held } := by
  cases kp <;> rfl

theorem claimHalf_me : ∃ h0 h1, (claimHalf s).me = { s.me with half0 := h0, half1 := h1 } := by
  rw [claimHalf, State.modTile_me, setHalf]
  split
  · exact ⟨_, _, rfl⟩
  · exact ⟨_, _, rfl⟩

theorem halfClaimed_me : ∃ h0 h1, (s.halfClaimed kind p).me = { s.me with half0 := h0, half1 := h1 } := by
  rw [State.halfClaimed]
  split
  · exact claimHalf_me
  · exact ⟨_, _, rfl⟩

theorem halfClaimed_tk : (s.halfClaimed kind p).tk = s.tk := by
  obtain ⟨h0, h1, h⟩ := halfClaimed_me (s := s) (kind := kind) (p := p)
  rw [State.tk, h]
  rfl

theorem halfClaimed_tokenPend : (s.halfClaimed kind p).tokenPend kp = s.tokenPend kp := by
  obtain ⟨h0, h1, h⟩ := halfClaimed_me (s := s) (kind := kind) (p := p)
  have hslot : (s.halfClaimed kind p).slot = s.slot := by rw [State.halfClaimed]; split <;> rfl
  cases kp with
  | none => exact congrArg Task.pend halfClaimed_tk
  | some r => simp only [State.tokenPend, State.ordNow, halfClaimed_tk, hslot, h]

theorem tokenSet_tk : (s.tokenSet s.tk.cmdseq kp).tk = { s.tk with pend := s.tokenPend kp } := by
  cases kp with
  | none => rfl
  | some r => exact emit_tk 1 _ s

/-- What an issue writes outside its tile, and the memories that it leaves. -/
def State.outside (s : State) := (s.cmds, s.cmdIds, s.sward, s.hbm)

theorem halfClaimed_outside : (s.halfClaimed kind p).outside = s.outside := by
  rw [State.halfClaimed]
  split <;> rfl

theorem tokenSet_outside {n : BitVec 48} : (s.tokenSet n kp).outside = s.outside := by
  cases kp <;> rfl

theorem State.cmds_tk (l : List Cmd) (n : Nat) : ({ s with cmds := l, cmdIds := n } : State).tk = s.tk := rfl

theorem issueCmd_tk : (issueCmd ch kind kp kx ky p s).tk = { s.tk with
    pend := s.tokenPend kp
    cmdseq := s.tk.cmdseq + 1
    ch := s.tk.ch.set ch { s.tk.ch[ch] with active := activeSet kind p, busy := some s.cmdIds }
    held := if s.tk.shadow > 0 then s.tk.held ++ [.cmd s.cmdIds] else s.tk.held } := by
  have hset := tokenSet_tk (s := s.halfClaimed kind p) (kp := kp)
  rw [halfClaimed_tokenPend, halfClaimed_tk] at hset
  rw [issueCmd_eq, State.modTask_tk]
  generalize (s.halfClaimed kind p).tokenSet s.tk.cmdseq kp = u at hset
  rw [State.cmds_tk, hset]

theorem issueCmd_frame : (issueCmd ch kind kp kx ky p s).cmds = s.cmds ++ [newCmd s ch kind kp kx ky p] ∧
    (issueCmd ch kind kp kx ky p s).cmdIds = s.cmdIds + 1 ∧ (issueCmd ch kind kp kx ky p s).sward = s.sward ∧
    (issueCmd ch kind kp kx ky p s).hbm = s.hbm := by
  have houtside : ((s.halfClaimed kind p).tokenSet s.tk.cmdseq kp).outside = s.outside :=
    tokenSet_outside.trans halfClaimed_outside
  rw [issueCmd_eq]
  generalize (s.halfClaimed kind p).tokenSet s.tk.cmdseq kp = u at houtside
  simp only [State.outside, Prod.mk.injEq] at houtside
  obtain ⟨hcmds, hids, hsward, hhbm⟩ := houtside
  exact ⟨congrArg (· ++ _) hcmds, congrArg (· + 1) hids, hsward, hhbm⟩

theorem token_mem_tokenPend {r : BitVec 5} :
    ⟨s.me.ic + 1, s.ordNow, .token r ⟨true, 0, 0, s.tk.cmdseq⟩⟩ ∈ s.tokenPend (some r) := by
  obtain ⟨before, after, -, hins, -⟩ := insertLanding_split ⟨s.me.ic + 1, s.ordNow, .token r ⟨true, 0, 0, s.tk.cmdseq⟩⟩ s.tk.pend
  rw [State.tokenPend, hins]
  exact List.mem_append_right _ (List.mem_cons_self ..)

/-! ### The token forms (R294) -/

theorem cstatValue_eq (x : Token) :
    BitVec.ofNat 64 (packNat [(b2n x.pend, 1), (0, 7), (x.status.toNat, 8), (x.detail.toNat, 8), (x.seq.toNat, 40)]) =
      BitVec.ofNat 64 (x.pend.toNat + 2 ^ 8 * x.status.toNat + 2 ^ 16 * x.detail.toNat + 2 ^ 24 * (x.seq.toNat % 2 ^ 40)) := by
  have hstatus := x.status.isLt
  have hdetail := x.detail.isLt
  have hpend : b2n x.pend % 2 = x.pend.toNat := by cases x.pend <;> rfl
  congr 1
  simp only [packNat, Nat.pow_one, hpend]
  omega

end Sys2Proof.Machine

open Sys2Proof Sys2Proof.Machine

/-- Settles O36: each command through its checks to its issue, the other forms by their bodies. -/
theorem copyChannelResults : Obligations.CopyChannelResults := by
  intro s kp kx ky j a b d k ch p issues
  have hissues (kind : BitVec 4) (o : Out) (body : State → SlotRes) (ho : o = runSlot [] body s)
      (hbody : body s = command kind kp kx ky s) : issues kind.toNat o := by
    intro hready hfree htoken hclaim hform hsward himem hrows hslots hspan
    have hpass (f : State → SlotRes) : checkCommand kind.toNat p f s = f s :=
      checkCommand_passes hform hsward (fun h1 h2 => (himem h1 h2).1) hslots hspan
    have hok : body s = .ok (issueCmd ch kind kp kx ky p s) := by
      rw [hbody, command_free hfree (tokenPending_of_free htoken) fun h => hclaim (congrArg BitVec.toNat h)]
      exact issueChecked_passes hpass (fun h1 h2 => (himem (congrArg BitVec.toNat h1) h2).2)
        fun h => hrows (congrArg BitVec.toNat h)
    have htk := issueCmd_tk (s := s) (ch := ch) (kind := kind) (kp := kp) (kx := kx) (ky := ky) (p := p)
    obtain ⟨hcmds, hids, hsw, hhbm⟩ := issueCmd_frame (s := s) (ch := ch) (kind := kind) (kp := kp) (kx := kx) (ky := ky) (p := p)
    rw [ho, runSlot_ready _ hready, hok]
    generalize issueCmd ch kind kp kx ky p s = t at htk hcmds hids hsw hhbm
    refine ⟨{ t with sig := .done }, newCmd s ch kind kp kx ky p, rfl, rfl, hcmds, rfl, hids, rfl, rfl, rfl, rfl, rfl, rfl, rfl,
      rfl, fun r => List.mem_filter, ?_⟩
    rw [State.sig_tk, htk]
    refine ⟨rfl, ?_, ?_, ?_, ?_, ?_, fun r => rfl, rfl, rfl, rfl, hsw, hhbm⟩
    · simp [newCmd]
    · simp [p]
    · simp
    · rintro r rfl
      exact token_mem_tokenPend
    · rintro rfl
      rfl
  refine ⟨hissues (parKind p) _ _ (exec_cgo ..) rfl, hissues 1 _ _ (exec_cpy ..) rfl,
    hissues 2 _ _ (exec_cpyAs ..) rfl, hissues 3 _ _ (exec_gath ..) rfl,
    hissues 4 _ _ (exec_pool ..) rfl, hissues 5 _ _ (exec_rld ..) rfl,
    hissues 6 _ _ (exec_rst ..) rfl, hissues 7 _ _ (exec_ramo ..) rfl,
    hissues 8 _ _ (exec_mcst ..) rfl, hissues 9 _ _ (exec_rarrive ..) rfl,
    fun hready => ⟨fun hp hx hy => ?cwait, ?cnop, ?cclr⟩,
    fun hready => ?cset, fun hready => ?cstat⟩
  case cwait =>
    rw [exec_cwait, execCwait, runSlot_ready _ hready]
    simp only [hp, hx, hy, Bool.or_self, Bool.false_eq_true, if_false]
    rfl
  case cnop =>
    rw [exec_cnop, execCnop]
    exact runSlot_ready _ hready
  case cclr =>
    rw [exec_cclr, execCclr]
    exact runSlot_emit hready 1 fun s => .cclr (channelOf s)
  case cset =>
    rw [exec_cset, execCset]
    exact runSlot_emit hready 1 fun s => .cset (channelOf s) j (readS s.tk a) (readS s.tk b)
  case cstat =>
    intro x
    rw [← cstatValue_eq, exec_cstat, execCstat]
    exact runSlot_emitS hready 1 d fun s => _
end

section
/-! What reset leaves: O56. Every tile, context, port and pipeline stands as its own reset has it. -/

namespace Sys2Proof.Machine

theorem reset_tile (t : TileId) : State.reset.tile t = Tile.reset := Vector.getElem_replicate t.isLt
theorem reset_ctx (c : CtxId) : State.reset.ctx c = Context.reset := Vector.getElem_replicate c.isLt
theorem reset_port (p : BitVec 5) : State.reset.port p = Port.reset := Vector.getElem_replicate p.isLt
theorem reset_pipe (p : BitVec 3) : State.reset.pipe p = Pipe.reset := Vector.getElem_replicate p.isLt

theorem reset_ctxState (c : CtxId) : State.reset.ctxState c = 0 := by
  rw [State.ctxState, reset_ctx]
  exact BitVec.extractLsb'_zero

theorem reset_ctxLive (c : CtxId) : State.reset.ctxLive c = false := by
  rw [State.ctxLive, reset_ctxState]
  decide

end Sys2Proof.Machine

open Sys2Proof Sys2Proof.Machine

/-- Settles O56: the parts of the package are those of their own resets. -/
theorem resetState : Obligations.ResetState := by
  unfold Obligations.ResetState
  intro r
  refine ⟨reset_memoryWf, by decide, rfl, rfl, rfl, rfl, rfl, rfl, rfl, rfl, reset_ctxLive, fun t => ?tile, fun p => ?port,
    fun p => ?pipe, fun t => ?task⟩
  case tile =>
    rw [reset_tile]
    exact ⟨rfl, rfl⟩
  case port =>
    rw [reset_port]
    decide
  case pipe =>
    rw [reset_pipe]
    exact ⟨rfl, rfl, rfl, rfl⟩
  case task =>
    rw [reset_tile]
    exact ⟨by decide, by decide⟩
end
